-- ==== Sys2Proof/Word.lean ====
section
/-! DEFINITION. The word types of the Gojor G4 (spec/00_scope.md R2 to R5, spec/02_program_state.md R49). -/

namespace Sys2Proof

/-- A byte of memory. -/
abbrev Byte := BitVec 8
/-- A scalar register, an address or a mask: 64 bits. -/
abbrev Word := BitVec 64
/-- The 64-bit set of lanes of a warp; bit l is lane l. -/
abbrev Mask := BitVec 64
/-- A vector register: 256 bytes, byte b at bits 8b+7 to 8b (R56, R190). -/
abbrev VReg := BitVec 2048
/-- A hypervector register: bit i of the vector is bit i (R287). -/
abbrev HReg := BitVec 8192
/-- A counter bank: counter i is the signed byte i (R288, R453). -/
abbrev Bank := BitVec 65536
/-- The 48 bits of one slot of a control word (R109). -/
abbrev Field := BitVec 48
/-- A core of the package, by its physical number 80 x die + 8 x cluster + core (R61). -/
abbrev CoreId := Fin 320
/-- A warp slot of a core. -/
abbrev WarpId := Fin 8
/-- A cluster of the package, by its physical number 10 x die + cluster (R61). -/
abbrev ClusterId := Fin 40
/-- A compute die. -/
abbrev DieId := Fin 4
/-- A partition. -/
abbrev PartId := Fin 16

end Sys2Proof
end

