-- ==== Sys2Proof/Config.lean ====
section
/-! DEFINITION. What this part fixes (sizes, capacities) and the values the manual leaves free. A free value has no
body here: nothing can compute it or prove a value of it. -/

namespace Sys2Proof.Config

/-- Bytes of HBM behind one compute die: three stacks of 64 GB (R5, R9). DEDUCED (log 12): a frame lies beyond its home
die's memory (R409) when its page passes this. -/
def dieBytes : Nat := 192000000000
/-- Bytes of WB and of AB of a core, and of CB (R9, R68). -/
def wbBytes : Nat := 1048576
def abBytes : Nat := 1048576
def cbBytes : Nat := 262144
/-- Lines of 128 bytes in an L2 slice of 8 MiB (R9). -/
def l2Lines : Nat := 65536
/-- Ticks in one nanosecond, in one microsecond: a tick is half a period of the 9 GHz reference clock (R9, R466), so that half a
core clock is a whole number of ticks (R476). -/
def ticksPerNs : Nat := 18
def ticksPerUs : Nat := 18000
/-- The gust lease draws 35 W; the package ceiling is 3,800 W and its sustained power 2,400 W (R473, R475). -/
def leaseWatts : Nat := 35
def ceilingWatts : Nat := 3800
def sustainedWatts : Nat := 2400

/-- The result of special-function program `prog` on `x` (R104 gives only a bound). DESIGN CHOICE (log 7). -/
opaque freeSfu (prog : Nat) (x : BitVec 32) : BitVec 32
/-- Output `i` of a row function (12 SMAX, 13 and 14 RNORM) on a row (R104 gives only a bound). DESIGN CHOICE (log 7). -/
opaque freeRow (prog : Nat) (row : List (BitVec 32)) (i : Nat) : BitVec 32
/-- The public key fused into the device (R497), the certificate chain of slot 0, the private device identity key, and the number
that its n-th signature draws (R498). DESIGN CHOICE (log 7). -/
opaque fusedKey : Nat × Nat
opaque certChain : List (BitVec 8)
opaque identityKey : Nat
opaque signatureNonce (n : Nat) : Nat
/-- The fused minimum security version number (R497). DESIGN CHOICE (log 7). -/
opaque fusedSvn : BitVec 32

/-- How many elements of the copy with an identifier stand read and not landed when a freeze suspends it: R449 and R450 leave it
open. DESIGN CHOICE (log 5). -/
opaque readsInFlight (id : Nat) : Nat

end Sys2Proof.Config
end

