-- ==== Sys2Proof/Syntax.lean ====
section
/-! DEFINITION. The operations and events of the Gojor G4: one constructor per row of spec/opcode_table.json. A slot
operation carries the fields of its class as spec/04_control_words.md R112 lays them out; an event carries what it acts
on, and what the outside world supplies. -/

namespace Sys2Proof

/-- The vector slot that holds a vector operation (R147). -/
inductive VSlot where
  | va | vb
  deriving DecidableEq, Repr

/-- The nine slots of a control word, in the order K to H (R109, R119). -/
inductive Slot where
  | k | s | va | vb | f | m | l | x | h
  deriving DecidableEq, Repr

/-- Class KB (R112). -/
structure KB where
  variant : BitVec 4
  cond : BitVec 4
  target : BitVec 32
  deriving DecidableEq, Repr

/-- Class KW as WAIT uses it (R112). -/
structure KWait where
  variant : BitVec 4
  load : BitVec 6
  store : BitVec 6
  copy : BitVec 6
  tile : BitVec 6
  rsv : BitVec 12
  deriving DecidableEq, Repr

/-- Class KW as WAITT uses it (R112). -/
structure KWaitt where
  variant : BitVec 4
  enable : BitVec 4
  rsv : BitVec 8
  t3 : BitVec 6
  t2 : BitVec 6
  t1 : BitVec 6
  t0 : BitVec 6
  deriving DecidableEq, Repr

/-- Class KW as BARW uses it (R112). -/
structure KBarw where
  variant : BitVec 4
  phase : BitVec 6
  addr : BitVec 6
  rsv : BitVec 4
  off : BitVec 20
  deriving DecidableEq, Repr

/-- Class KR (R112). -/
structure KR where
  variant : BitVec 4
  d : BitVec 6
  a : BitVec 6
  b : BitVec 6
  rsv : BitVec 2
  imm : BitVec 16
  deriving DecidableEq, Repr

/-- Classes SR and VR, which share one layout (R112). -/
structure R3 where
  variant : BitVec 4
  pred : BitVec 5
  d : BitVec 8
  a : BitVec 8
  b : BitVec 8
  c : BitVec 7
  deriving DecidableEq, Repr

/-- Class SI (R112). -/
structure SI where
  variant : BitVec 2
  d : BitVec 6
  imm : BitVec 32
  deriving DecidableEq, Repr

/-- Class VI (R112). -/
structure VI where
  variant : BitVec 4
  pred : BitVec 5
  d : BitVec 7
  a : BitVec 8
  imm : BitVec 16
  deriving DecidableEq, Repr

/-- Class VC (R112). -/
structure VC where
  sat : BitVec 1
  fin : BitVec 1
  blk : BitVec 2
  pred : BitVec 5
  d : BitVec 7
  a : BitVec 7
  sc : BitVec 7
  tgt : BitVec 5
  src : BitVec 5
  deriving DecidableEq, Repr

/-- Class FR (R112). -/
structure FR where
  variant : BitVec 4
  pred : BitVec 5
  d : BitVec 7
  a : BitVec 7
  b : BitVec 7
  rsv : BitVec 4
  n : BitVec 6
  deriving DecidableEq, Repr

/-- Class MR (R112). -/
structure MR where
  variant : BitVec 4
  ra : BitVec 3
  rb : BitVec 3
  sa : BitVec 6
  sb : BitVec 6
  imm : BitVec 18
  deriving DecidableEq, Repr

/-- Class ML (R112). -/
structure ML where
  variant : BitVec 4
  ra : BitVec 3
  sa : BitVec 6
  sb : BitVec 6
  rsv : BitVec 1
  imm : BitVec 20
  deriving DecidableEq, Repr

/-- Class LA (R112); for atomics imm holds scope [10:8], order [7:6] and reserved [5:0]. -/
structure LA where
  variant : BitVec 4
  pred : BitVec 5
  d : BitVec 7
  a : BitVec 7
  base : BitVec 6
  imm : BitVec 11
  deriving DecidableEq, Repr

/-- Class LT (R112). -/
structure LT where
  variant : BitVec 4
  pred : BitVec 5
  d : BitVec 7
  base : BitVec 6
  buf : BitVec 2
  imm : BitVec 16
  deriving DecidableEq, Repr

/-- Class XD (R112). -/
structure XD where
  variant : BitVec 4
  pred : BitVec 5
  tok : BitVec 6
  sa : BitVec 6
  sb : BitVec 6
  sc : BitVec 6
  ra : BitVec 3
  rsv : BitVec 4
  deriving DecidableEq, Repr

/-- Class HR (R112). -/
structure HR where
  variant : BitVec 4
  pred : BitVec 5
  s : BitVec 6
  hd : BitVec 4
  ha : BitVec 4
  hb : BitVec 4
  imm : BitVec 13
  deriving DecidableEq, Repr

/-- Class HQ (R112). -/
structure HQ where
  variant : BitVec 4
  pred : BitVec 5
  tok : BitVec 6
  sd : BitVec 6
  h : BitVec 4
  ra : BitVec 3
  imm : BitVec 12
  deriving DecidableEq, Repr

/-- Who asked for a translation request: the host, or a supervisor warp that its core withholds (R362, R417). -/
inductive Requester where
  | host
  | warp (c : CoreId) (w : WarpId)
  deriving DecidableEq, Repr

/-- What a detected error struck (R443, R444, R273). Physical addresses carry the home in bits above 50. -/
inductive ErrorSite where
  /-- an HBM sector at this physical address -/
  | sector (pa : Nat)
  /-- an L2 line of a cluster -/
  | l2Line (cl : ClusterId) (pa : Nat)
  /-- WB, AB or CB bytes under a matrix operation of the core: the outstanding operation struck -/
  | matrixOp (c : CoreId) (op : Nat)
  /-- the activation row of the MADV in flight that lands next on the core -/
  | madvRow (c : CoreId)
  /-- the core's own logic -/
  | core (c : CoreId)
  /-- a dictionary entry the quill engine reads for a warp's stroke -/
  | quillEntry (c : CoreId) (w : WarpId) (slot : Fin 10) (index : Nat)
  /-- a microprogram being loaded into the core's F store -/
  | microprogram (c : CoreId) (n : Nat)
  /-- a retention flop or table read of the core, with no data of its own -/
  | table (c : CoreId)
  deriving DecidableEq, Repr

/-- What an atomic of another package does to the memory value (R231, R240): the atomics of the L slot, and COPYR's updates. -/
inductive RemoteOp where
  | add | fadd
  | min (signed : Bool)
  | max (signed : Bool)
  | and | or | xor | xchg | cas | addBf16 | maxF32
  deriving DecidableEq, Repr

/-- An access that arrives from another package or through the host bridge (R329, R493). -/
inductive OutsideAccess where
  /-- a write of these bytes at a virtual address of the partition -/
  | write (va : Word) (data : List Byte)
  | read (va : Word) (n : Nat)
  /-- an atomic add of a 64-bit signal -/
  | signalAdd (va : Word) (v : Word)
  | signalSet (va : Word) (v : Word)
  /-- a host access by physical address (home in bits above 50) -/
  | writePhys (pa : Nat) (data : List Byte)
  | readPhys (pa : Nat) (n : Nat)
  /-- an atomic of another package, or an element of its COPYR, of n bytes at a home of this one (R233, R329, R406) -/
  | atomicPhys (pa : Nat) (n : Nat) (op : RemoteOp) (v : BitVec 256)
  deriving DecidableEq, Repr

/-- What a firmware image in host memory says beside its header (R494): the state-table format version it writes, and
those it lists as readable. -/
structure FirmwareImage where
  formatWritten : BitVec 16
  formatsRead : List (BitVec 16)
  deriving DecidableEq, Repr

/-- A firmware image as it is stored (R497): its header of 0x70 bytes, its body, and the state-table format that it writes. -/
structure StoredImage where
  header : List Byte
  body : List Byte
  format : BitVec 16
  deriving DecidableEq, Repr

/-- What boot finds (R499, R507): the outcome of step 1 and the digest of the boot ROM, the images of both firmware complexes, the
digest of the firmware's configuration, the stacks and links that fail, and the link routing table with its digest: this
package's identifier, and the links by which other packages are reached. -/
structure BootInputs where
  rootOk : Bool
  romDigest : BitVec 256
  active : StoredImage
  standby : StoredImage
  configDigest : BitVec 256
  failedStacks : List (Fin 12)
  failedLinks : List (Fin 32)
  packageId : BitVec 11
  routes : List (BitVec 11 × Fin 32)
  routesDigest : BitVec 256
  deriving DecidableEq, Repr

/-- One operation or event of the part. -/
inductive Instr where
  /-- BRA, slot K (R157). -/
  | bra (f : KB)
  /-- BRC, slot K (R157). -/
  | brc (f : KB)
  /-- BRC_N, slot K (R157). -/
  | brcN (f : KB)
  /-- BRD_ANY, slot K (R157). -/
  | brdAny (f : KB)
  /-- BRD_ALL, slot K (R157). -/
  | brdAll (f : KB)
  /-- BRD_NONE, slot K (R157). -/
  | brdNone (f : KB)
  /-- CALL, slot K (R157). -/
  | call (f : KB)
  /-- RET, slot K (R157). -/
  | ret (f : KR)
  /-- LOOP, slot K (R158). -/
  | loop (f : KB)
  /-- MARK, slot K (R31). -/
  | mark (f : KR)
  /-- JOIN, slot K (R31). -/
  | join (f : KB)
  /-- EXIT, slot K (R33). -/
  | exit (f : KB)
  /-- TRAP, slot K (R162). -/
  | trap (f : KR)
  /-- WAIT, slot K (R166). -/
  | wait (f : KWait)
  /-- WAITT, slot K (R166). -/
  | waitt (f : KWaitt)
  /-- BARW, slot K (R166). -/
  | barw (f : KBarw)
  /-- BARA, slot K (R168). -/
  | bara (f : KR)
  /-- CSYNC, slot K (R169). -/
  | csync (f : KR)
  /-- FENCE, slot K (R170). -/
  | fence (f : KR)
  /-- GROW, slot K (R172). -/
  | grow (f : KR)
  /-- SHRINK, slot K (R172). -/
  | shrink (f : KR)
  /-- CLKDIV, slot K (R175). -/
  | clkdiv (f : KR)
  /-- GUST, slot K (R176). -/
  | gust (f : KR)
  /-- GUSTREL, slot K (R178). -/
  | gustrel (f : KR)
  /-- RDCNT, slot K (R180). -/
  | rdcnt (f : KR)
  /-- SYSRD, slot K (R362). -/
  | sysrd (f : KR)
  /-- SYSWR, slot K (R362). -/
  | syswr (f : KR)
  /-- INTREQ, slot K (R362). -/
  | intreq (f : KR)
  /-- DTINV, slot K (R363). -/
  | dtinv (f : KR)
  /-- ERET, slot K (R365). -/
  | eret (f : KB)
  /-- FREEZE_STOP, slot K (R366). -/
  | freezeStop (f : KR)
  /-- FREEZE_RESUME, slot K (R366). -/
  | freezeResume (f : KR)
  /-- FREEZE_SAVE, slot K (R366). -/
  | freezeSave (f : KR)
  /-- S_ADD, slot S (R184). -/
  | sAdd (f : R3)
  /-- S_SUB, slot S (R184). -/
  | sSub (f : R3)
  /-- S_MUL, slot S (R184). -/
  | sMul (f : R3)
  /-- MULH, slot S (R184). -/
  | mulh (f : R3)
  /-- S_AND, slot S (R184). -/
  | sAnd (f : R3)
  /-- S_OR, slot S (R184). -/
  | sOr (f : R3)
  /-- S_XOR, slot S (R184). -/
  | sXor (f : R3)
  /-- ANDN, slot S (R184). -/
  | andn (f : R3)
  /-- S_SHL, slot S (R184). -/
  | sShl (f : R3)
  /-- S_SHR, slot S (R184). -/
  | sShr (f : R3)
  /-- S_SAR, slot S (R184). -/
  | sSar (f : R3)
  /-- ROTL, slot S (R184). -/
  | rotl (f : R3)
  /-- S_MIN, slot S (R184). -/
  | sMin (f : R3)
  /-- S_MAX, slot S (R184). -/
  | sMax (f : R3)
  /-- CMP, slot S (R185). -/
  | cmp (f : R3)
  /-- PLOG, slot S (R186). -/
  | plog (f : R3)
  /-- S_SEL, slot S (R187). -/
  | sSel (f : R3)
  /-- LEA, slot S (R187). -/
  | lea (f : R3)
  /-- BFX, slot S (R187). -/
  | bfx (f : R3)
  /-- BFI, slot S (R187). -/
  | bfi (f : R3)
  /-- CLZ, slot S (R187). -/
  | clz (f : R3)
  /-- POPC, slot S (R187). -/
  | popc (f : R3)
  /-- MOVV, slot S (R187). -/
  | movv (f : R3)
  /-- MOVQ, slot S (R187). -/
  | movq (f : R3)
  /-- SRD, slot S (R188). -/
  | srd (f : R3)
  /-- SWR, slot S (R188). -/
  | swr (f : R3)
  /-- LI, slot S (R189). -/
  | li (f : SI)
  /-- LI_S, slot S (R189). -/
  | liS (f : SI)
  /-- LI_HI, slot S (R189). -/
  | liHi (f : SI)
  /-- IADD, slot VA or VB (R198). -/
  | iadd (sl : VSlot) (f : R3)
  /-- ISUB, slot VA or VB (R198). -/
  | isub (sl : VSlot) (f : R3)
  /-- IMUL, slot VA or VB (R198). -/
  | imul (sl : VSlot) (f : R3)
  /-- IMAD, slot VA or VB (R198). -/
  | imad (sl : VSlot) (f : R3)
  /-- IMIN, slot VA or VB (R198). -/
  | imin (sl : VSlot) (f : R3)
  /-- IMAX, slot VA or VB (R198). -/
  | imax (sl : VSlot) (f : R3)
  /-- IABS, slot VA or VB (R198). -/
  | iabs (sl : VSlot) (f : R3)
  /-- V_AND, slot VA or VB (R198). -/
  | vAnd (sl : VSlot) (f : R3)
  /-- V_OR, slot VA or VB (R198). -/
  | vOr (sl : VSlot) (f : R3)
  /-- V_XOR, slot VA or VB (R198). -/
  | vXor (sl : VSlot) (f : R3)
  /-- V_SHL, slot VA or VB (R198). -/
  | vShl (sl : VSlot) (f : R3)
  /-- V_SHR, slot VA or VB (R198). -/
  | vShr (sl : VSlot) (f : R3)
  /-- V_SAR, slot VA or VB (R198). -/
  | vSar (sl : VSlot) (f : R3)
  /-- ICMP, slot VA or VB (R199). -/
  | icmp (sl : VSlot) (f : R3)
  /-- IADD_IMM, slot VA or VB (R198). -/
  | iaddImm (sl : VSlot) (f : VI)
  /-- ISUB_IMM, slot VA or VB (R198). -/
  | isubImm (sl : VSlot) (f : VI)
  /-- IMUL_IMM, slot VA or VB (R198). -/
  | imulImm (sl : VSlot) (f : VI)
  /-- V_AND_IMM, slot VA or VB (R198). -/
  | vAndImm (sl : VSlot) (f : VI)
  /-- V_OR_IMM, slot VA or VB (R198). -/
  | vOrImm (sl : VSlot) (f : VI)
  /-- V_XOR_IMM, slot VA or VB (R198). -/
  | vXorImm (sl : VSlot) (f : VI)
  /-- V_SHL_IMM, slot VA or VB (R198). -/
  | vShlImm (sl : VSlot) (f : VI)
  /-- V_SHR_IMM, slot VA or VB (R198). -/
  | vShrImm (sl : VSlot) (f : VI)
  /-- V_SAR_IMM, slot VA or VB (R198). -/
  | vSarImm (sl : VSlot) (f : VI)
  /-- FADD, slot VA or VB (R201). -/
  | fadd (sl : VSlot) (f : R3)
  /-- FSUB, slot VA or VB (R201). -/
  | fsub (sl : VSlot) (f : R3)
  /-- FMUL, slot VA or VB (R201). -/
  | fmul (sl : VSlot) (f : R3)
  /-- FFMA, slot VA or VB (R201). -/
  | ffma (sl : VSlot) (f : R3)
  /-- FMIN, slot VA or VB (R201). -/
  | fmin (sl : VSlot) (f : R3)
  /-- FMAX, slot VA or VB (R201). -/
  | fmax (sl : VSlot) (f : R3)
  /-- FCMP, slot VA or VB (R199). -/
  | fcmp (sl : VSlot) (f : R3)
  /-- FCLASS, slot VA or VB (R203). -/
  | fclass (sl : VSlot) (f : R3)
  /-- V_SEL, slot VA or VB (R200). -/
  | vSel (sl : VSlot) (f : R3)
  /-- MOV, slot VA or VB (R200). -/
  | mov (sl : VSlot) (f : R3)
  /-- MOV_IMM, slot VA or VB (R200). -/
  | movImm (sl : VSlot) (f : VI)
  /-- BCAST, slot VA or VB (R200). -/
  | bcast (sl : VSlot) (f : R3)
  /-- QPOP, slot VA or VB (R200). -/
  | qpop (sl : VSlot) (f : R3)
  /-- PERM, slot VA or VB (R204). -/
  | perm (sl : VSlot) (f : R3)
  /-- ROWSH_UP, slot VA or VB (R204). -/
  | rowshUp (sl : VSlot) (f : R3)
  /-- ROWSH_DOWN, slot VA or VB (R204). -/
  | rowshDown (sl : VSlot) (f : R3)
  /-- TRANS, slot VA or VB (R204). -/
  | trans (sl : VSlot) (f : R3)
  /-- SHAPE, slot VA (R205). -/
  | shape (f : VI)
  /-- CVT, slot VA or VB (R207). -/
  | cvt (sl : VSlot) (f : VC)
  /-- PCVT2, slot VA or VB (R208). -/
  | pcvt2 (sl : VSlot) (f : VC)
  /-- PCVT4, slot VA or VB (R208). -/
  | pcvt4 (sl : VSlot) (f : VC)
  /-- PCVT8, slot VA or VB (R208). -/
  | pcvt8 (sl : VSlot) (f : VC)
  /-- VRED_ADD, slot VA or VB (R210). -/
  | vredAdd (sl : VSlot) (f : R3)
  /-- VRED_MAX, slot VA or VB (R210). -/
  | vredMax (sl : VSlot) (f : R3)
  /-- RNGU, slot VA or VB (R211). -/
  | rngu (sl : VSlot) (f : R3)
  /-- RNGB, slot VA or VB (R211). -/
  | rngb (sl : VSlot) (f : R3)
  /-- KCLR, slot VA or VB (R213). -/
  | kclr (sl : VSlot) (f : R3)
  /-- KACC, slot VA or VB (R213). -/
  | kacc (sl : VSlot) (f : R3)
  /-- KMAC, slot VA or VB (R213). -/
  | kmac (sl : VSlot) (f : R3)
  /-- KRD, slot VA or VB (R215). -/
  | krd (sl : VSlot) (f : R3)
  /-- KSCAN, slot VA or VB (R213). -/
  | kscan (sl : VSlot) (f : R3)
  /-- EXP2, slot F (R276). -/
  | exp2 (f : FR)
  /-- EXP, slot F (R276). -/
  | exp (f : FR)
  /-- LOG2, slot F (R276). -/
  | log2 (f : FR)
  /-- RCP, slot F (R276). -/
  | rcp (f : FR)
  /-- RSQRT, slot F (R276). -/
  | rsqrt (f : FR)
  /-- SQRT, slot F (R276). -/
  | sqrt (f : FR)
  /-- SIN, slot F (R276). -/
  | sin (f : FR)
  /-- COS, slot F (R276). -/
  | cos (f : FR)
  /-- TANH, slot F (R276). -/
  | tanh (f : FR)
  /-- SIGM, slot F (R276). -/
  | sigm (f : FR)
  /-- GELU, slot F (R276). -/
  | gelu (f : FR)
  /-- MPRG, slot F (R282). -/
  | mprg (f : FR)
  /-- RSTAT, slot F (R278). -/
  | rstat (f : FR)
  /-- SMAX, slot F (R279). -/
  | smax (f : FR)
  /-- SMAX_M, slot F (R279). -/
  | smaxM (f : FR)
  /-- RNORM_RMS, slot F (R280). -/
  | rnormRms (f : FR)
  /-- RNORM_LAYER, slot F (R280). -/
  | rnormLayer (f : FR)
  /-- TSWAP, slot F (R285). -/
  | tswap (f : FR)
  /-- LDST, slot M (R258). -/
  | ldst (f : ML)
  /-- MSWAP, slot M (R259). -/
  | mswap (f : MR)
  /-- MCFG_ACC, slot M (R261). -/
  | mcfgAcc (f : MR)
  /-- MCFG_FWD, slot M (R261). -/
  | mcfgFwd (f : MR)
  /-- MLOOP, slot M (R265). -/
  | mloop (f : ML)
  /-- MADV, slot M (R268). -/
  | madv (f : MR)
  /-- MZERO, slot M (R264). -/
  | mzero (f : MR)
  /-- MCVT, slot M (R266). -/
  | mcvt (f : MR)
  /-- LD, slot L (R225). -/
  | ld (f : LA)
  /-- ST, slot L (R225). -/
  | st (f : LA)
  /-- LDU, slot L (R225). -/
  | ldu (f : LA)
  /-- STU, slot L (R225). -/
  | stu (f : LA)
  /-- PF, slot L (R226). -/
  | pf (f : LA)
  /-- LDB, slot L (R227). -/
  | ldb (f : LT)
  /-- STB, slot L (R227). -/
  | stb (f : LT)
  /-- AADD, slot L (R231). -/
  | aadd (f : LA)
  /-- AFADD, slot L (R232). -/
  | afadd (f : LA)
  /-- AMIN, slot L (R231). -/
  | amin (f : LA)
  /-- AMAX, slot L (R231). -/
  | amax (f : LA)
  /-- AAND, slot L (R231). -/
  | aand (f : LA)
  /-- AOR, slot L (R231). -/
  | aor (f : LA)
  /-- AXOR, slot L (R231). -/
  | axor (f : LA)
  /-- AXCHG, slot L (R231). -/
  | axchg (f : LA)
  /-- ACAS, slot L (R231). -/
  | acas (f : LA)
  /-- COPY, slot X (R239). -/
  | copy (f : XD)
  /-- COPYR, slot X (R240). -/
  | copyr (f : XD)
  /-- GATH, slot X (R241). -/
  | gath (f : XD)
  /-- RESV, slot X (R245). -/
  | resv (f : XD)
  /-- RELS, slot X (R245). -/
  | rels (f : XD)
  /-- TBLD, slot X (R246). -/
  | tbld (f : XD)
  /-- PUT, slot X (R248). -/
  | put (f : XD)
  /-- GET, slot X (R248). -/
  | get (f : XD)
  /-- SIGNAL_SET, slot X (R249). -/
  | signalSet (f : XD)
  /-- SIGNAL_ADD, slot X (R249). -/
  | signalAdd (f : XD)
  /-- LAUNCH, slot X (R250). -/
  | launch (f : XD)
  /-- HLD, slot H (R294). -/
  | hld (f : HR)
  /-- HST, slot H (R294). -/
  | hst (f : HR)
  /-- HMOV, slot H (R296). -/
  | hmov (f : HR)
  /-- HBIND, slot H (R296). -/
  | hbind (f : HR)
  /-- HPERM, slot H (R296). -/
  | hperm (f : HR)
  /-- HBUN, slot H (R297). -/
  | hbun (f : HR)
  /-- HTHR, slot H (R299). -/
  | hthr (f : HR)
  /-- HCLRC, slot H (R298). -/
  | hclrc (f : HR)
  /-- HRAND, slot H (R301). -/
  | hrand (f : HR)
  /-- HDIST, slot H (R302). -/
  | hdist (f : HR)
  /-- HTIE, slot H (R300). -/
  | htie (f : HR)
  /-- HNEAR, slot H (R304). -/
  | hnear (f : HQ)
  /-- CSYNC_RELEASE (R41). -/
  | csyncRelease (cl : ClusterId) (p : PartId) (node : Word) (group : Nat)
  /-- SHRINK_RELEASE (R66). -/
  | shrinkRelease (c : CoreId) (w : WarpId)
  /-- TLB_INVALIDATE_PAGE (R416). -/
  | tlbInvalidatePage (p : PartId) (addr : Word) (who : Requester)
  /-- TLB_INVALIDATE_PARTITION (R416). -/
  | tlbInvalidatePartition (p : PartId) (who : Requester)
  /-- MIGRATE_PAGE (R427). -/
  | migratePage (p : PartId) (addr : Word) (who : Requester)
  /-- SET_DIRTY_LOG (R433). -/
  | setDirtyLog (p : PartId) (addr : Word) (who : Requester)
  /-- LDST_COMPLETE (R258). -/
  | ldstComplete (c : CoreId) (op : Nat)
  /-- TILE_OP_START (R263). -/
  | tileOpStart (c : CoreId)
  /-- TILE_OP_COMPLETE (R263). -/
  | tileOpComplete (c : CoreId) (rows : Nat)
  /-- LOAD_COMPLETE (R223). -/
  | loadComplete (c : CoreId) (op : Nat) (lanes : Mask)
  /-- STORE_COMPLETE (R316). -/
  | storeComplete (c : CoreId) (op : Nat) (lanes : Mask)
  /-- COPY_BEGIN (R72). -/
  | copyBegin (c : CoreId) (op : Nat)
  /-- COPY_BYTES_LAND (R242). -/
  | copyBytesLand (c : CoreId) (op : Nat) (n : Nat)
  /-- COPY_COMPLETE (R244). -/
  | copyComplete (c : CoreId) (op : Nat)
  /-- H_ASYNC_COMPLETE (R293). -/
  | hAsyncComplete (c : CoreId) (op : Nat)
  /-- EXPOSED_WRITE_LAND (R25). -/
  | exposedWriteLand (c : CoreId)
  /-- STROKE_FETCH (R122). -/
  | strokeFetch (c : CoreId) (w : WarpId)
  /-- QUILL_REFILL (R122). -/
  | quillRefill (c : CoreId) (w : WarpId) (slot : Fin 10) (index : Nat)
  /-- STROKE_GRANT (R395). -/
  | strokeGrant (c : CoreId)
  /-- USER_TRAP_DELIVERY (R163). -/
  | userTrapDelivery (c : CoreId) (w : WarpId)
  /-- WARP_RETIRE (R43). -/
  | warpRetire (c : CoreId) (w : WarpId)
  /-- BLOCK_RETIRE (R43). -/
  | blockRetire (c : CoreId) (bid : Nat)
  /-- LAUNCH_COMPLETE (R43). -/
  | launchComplete (l : Nat)
  /-- BLOCK_CLAIM (R20). -/
  | blockClaim (l : Nat) (d : DieId) (n : Nat)
  /-- BLOCK_PLACE (R392). -/
  | blockPlace (l : Nat) (d : DieId) (cores : List CoreId)
  /-- AGEING_INTERVAL (R394). -/
  | ageingInterval (l : Nat)
  /-- WARP_AGEING (R396). -/
  | warpAgeing (c : CoreId) (w : WarpId)
  /-- VICTIM_RESUME (R400). -/
  | victimResume (p : PartId) (entry : Nat)
  /-- PAGE_WALK (R409). -/
  | pageWalk (c : CoreId) (w : WarpId) (va : Word)
  /-- REPLAY (R422). -/
  | replay (c : CoreId) (w : WarpId)
  /-- BLOCK_RESTORE (R451). -/
  | blockRestore (p : PartId) (entry : Nat) (c : CoreId)
  /-- THERMAL_MIGRATION (R464). -/
  | thermalMigration (c : CoreId) (bid : Nat) (target : CoreId)
  /-- ERROR_RETRY (R443). -/
  | errorRetry (site : ErrorSite) (lasting : Bool)
  /-- CORE_LOSS (R445). -/
  | coreLoss (c : CoreId)
  /-- LEASE_EXPIRY (R472). -/
  | leaseExpiry (cl : ClusterId) (melt : BitVec 11)
  /-- DIVISOR_SWITCH (R467). -/
  | divisorSwitch (cl : ClusterId)
  /-- PARTITION_ENABLE (R370). -/
  | partitionEnable (p : PartId) (control : BitVec 32)
  /-- PARTITION_RESET (R377). -/
  | partitionReset (p : PartId)
  /-- QOS_CHANGE (R375). -/
  | qosChange (p : PartId) (record : BitVec 128)
  /-- CTXCTL_SUSPEND (R462). -/
  | ctxctlSuspend (p : PartId)
  /-- CTXCTL_RESUME (R462). -/
  | ctxctlResume (p : PartId)
  /-- HOST_REGISTER_WRITE (R6). -/
  | hostRegisterWrite (offset : Nat) (size : Nat) (value : BitVec 64)
  /-- SQ_TAIL (R381). -/
  | sqTail (p : PartId) (supervisor : Bool) (size : Nat) (value : BitVec 32)
  /-- NOP (R385). -/
  | nop (p : PartId)
  /-- LOAD (R385). -/
  | load (p : PartId)
  /-- KICK (R385). -/
  | kick (p : PartId)
  /-- UNLOAD (R385). -/
  | unload (p : PartId)
  /-- RING_ENTRY_INVALID (R382). -/
  | ringEntryInvalid (p : PartId)
  /-- MSIX_UNMASK (R369). -/
  | msixUnmask (p : PartId) (vector : Fin 32)
  /-- REMOTE_ACCESS_ARRIVAL (R329). -/
  | remoteAccessArrival (p : PartId) (a : OutsideAccess)
  /-- HOST_BRIDGE_ACCESS (R493). -/
  | hostBridgeAccess (p : PartId) (a : OutsideAccess)
  /-- REMOTE_REQUEST_TIMEOUT (R489). -/
  | remoteRequestTimeout (c : CoreId) (op : Nat)
  /-- TRACE_SAMPLE (R485). -/
  | traceSample (c : CoreId)
  /-- BREAKPOINT_HIT (R486). -/
  | breakpointHit (c : CoreId) (n : Fin 8)
  /-- MIGRATION_LINE_COPY (R427). -/
  | migrationLineCopy (m : Nat)
  /-- FREEZE_DONE (R367). -/
  | freezeDone (p : PartId)
  /-- PARTITION_RESET_DONE (R377). -/
  | partitionResetDone (p : PartId)
  /-- CTXCTL_DONE (R462). -/
  | ctxctlDone (p : PartId)
  /-- RETENTION_ENTRY (R446). -/
  | retentionEntry (cl : ClusterId)
  /-- RETENTION_EXIT (R446). -/
  | retentionExit (cl : ClusterId) (parityOk : Bool)
  /-- LULL_ENTRY (R471). -/
  | lullEntry (cell : Fin 20) (melt : BitVec 11)
  /-- LULL_EXIT (R471). -/
  | lullExit (cell : Fin 20) (melt : BitVec 11)
  /-- THERMAL_THROTTLE (R474). -/
  | thermalThrottle (c : CoreId) (sensor : BitVec 16)
  /-- CLUSTER_TRIP (R474). -/
  | clusterTrip (c : CoreId) (sensor : BitVec 16)
  /-- TRIP_END (R474). -/
  | tripEnd (cl : ClusterId) (sensors : List (BitVec 16))
  /-- CURRENT_LEVEL_UPDATE (R475). -/
  | currentLevelUpdate (watts : Nat) (cores : List CoreId)
  /-- DROOP_STRETCH (R476). -/
  | droopStretch (cl : ClusterId)
  /-- BALLAST_START (R478). -/
  | ballastStart (drop : Nat)
  /-- L2_EVICTION (R325). -/
  | l2Eviction (cl : ClusterId) (sector : Nat)
  /-- LINK_CRC_RETRY (R491). -/
  | linkCrcRetry (link : Fin 32) (lane : Fin 8) (lasting : Bool)
  /-- FIRMWARE_UPDATE (R494). -/
  | firmwareUpdate (image : FirmwareImage)
  /-- PACKAGE_BOOT (R499). -/
  | packageBoot (inputs : BootInputs)
  /-- NEGOTIATE_ALGORITHMS (R498). -/
  | negotiateAlgorithms (ecdsaP256 sha256 : Bool)
  /-- GET_CERTIFICATE (R498). -/
  | getCertificate (slot : BitVec 8) (offset length : BitVec 16)
  /-- CHALLENGE (R498). -/
  | challenge (slot : BitVec 8) (nonce : BitVec 256)
  /-- GET_MEASUREMENTS (R498). -/
  | getMeasurements (index : BitVec 8)
  /-- TRACE_FILL_WRITE (R484). -/
  | traceFillWrite (p : PartId) (fill : BitVec 32)
  /-- BREAKPOINT_RESUME (R487). -/
  | breakpointResume (p : PartId) (n : Fin 8)
  /-- THROTTLE_RELEASE (R474). -/
  | throttleRelease (c : CoreId) (sensor : BitVec 16)
  /-- HOST_COMPLETION_TIMEOUT (R424). -/
  | hostCompletionTimeout (n : Nat)
  /-- BALLAST_RAMP_END (R478). -/
  | ballastRampEnd
  /-- FIRMWARE_TAKEOVER (R494). -/
  | firmwareTakeover
  /-- FIRMWARE_FAILOVER (R496). -/
  | firmwareFailover
  /-- GET_VERSION (R498). -/
  | getVersion
  /-- GET_CAPABILITIES (R498). -/
  | getCapabilities
  /-- GET_DIGESTS (R498). -/
  | getDigests
  deriving DecidableEq, Repr

end Sys2Proof
end

