-- ==== Sys2Proof/Machine/State.lean ====
section
/-! DEFINITION. The state of the package, as plain data: warps, blocks, cores, clusters, dies, partitions, memory and
what the system level holds (INVENTORY.md lists each piece with its rule), its reset, and the reasons a step can stop. -/

namespace Sys2Proof.Machine

/-- Bytes by address: addresses strictly rising, no entry equal to 0, which an unlisted address reads as
(DESIGN CHOICE, logs 1 and 2). -/
abbrev Memory := List Host.Cell

/-- The canonical form of a memory from address `lo` on. -/
def Memory.wfFrom : Nat → Memory → Bool
  | _, [] => true
  | lo, (a, b) :: m => decide (lo ≤ a) && (b != 0) && Memory.wfFrom (a + 1) m

/-- The canonical form of a memory. -/
abbrev Memory.wf (m : Memory) : Bool := Memory.wfFrom 0 m

/-- A Kulisch accumulator, or an addend of one: 640-bit two's complement value and kind (R97). -/
structure Kulisch where
  val : BitVec 640
  kind : BitVec 2
  deriving DecidableEq, Repr

/-- One plane of the matrix engine (R251, R252). -/
structure Plane where
  data : BitVec 65536
  scales : BitVec 8192
  tag : BitVec 16
  deriving DecidableEq, Repr

/-- The register and value of a pending exposed write (R26, R455). Vector registers are named by their bound slot
(R52): 96 + r for region slot r. A stage predicate or a special register pends only where an image holds it so. A row for `fl` carries its MADV's glyph address (R273). `flLate`: the row of an MADV that a
FENCE of its own stroke holds back, still to be read at window address x with what the MADV latched, and the copies issued before it
in its stroke (R72, R171, log 57); `id` names it, once its bundle has ended, for what a FENCE or a barrier orders after it (R170). -/
inductive WriteVal where
  | scalar (n : Fin 64) (v : Word)
  | pred (n : Fin 16) (v : Bool)
  | laneMask (n : Fin 8) (v : Word) (lanes : Mask)
  | vec (n : Fin 128) (v : VReg) (lanes : Mask)
  | hyper (n : Fin 16) (v : HReg)
  | hbun (bank : Fin 4) (img : HReg) (weight : Nat)
  | kadd (n : Fin 4) (addend : Kulisch) (lanes : Mask)
  | kclr (n : Fin 4) (lanes : Mask)
  | stage (n : Fin 8) (v : Bool)
  | special (i : Nat) (v : Word)
  | flRow (v : BitVec 4096) (glyph : BitVec 32)
  | flLate (x : Nat) (config : BitVec 160) (plane : Plane) (ftz : Bool) (past : List Nat) (glyph : BitVec 32)
      (id : Nat)
  deriving DecidableEq, Repr

/-- A pending exposed write: bundles left, whether its lane-less condition held (R113), the flags it merges into fpc
when it lands (R59), and its value. -/
structure Pending where
  left : Nat
  live : Bool
  flags : BitVec 64
  val : WriteVal
  deriving DecidableEq, Repr

/-- An entry of the divergence stack (R31). -/
structure DivEntry where
  rejoin : BitVec 32
  saved : Mask
  otherPc : BitVec 32
  otherMask : Mask
  pending : Bool
  deriving DecidableEq, Repr

/-- A decoded control word in a stroke buffer: its glyph's offset, the nine slot fields K to H, and g (R109, R122). -/
structure Cword where
  glyph : BitVec 32
  slots : Vector Field 9
  g : BitVec 16
  deriving DecidableEq, Repr

/-- Where a warp stands (R454). -/
inductive WarpState where
  | boundary | midStroke | exited | halted | parked | retired
  deriving DecidableEq, Repr

/-- An L access to global memory (R217 to R233), with what it captured at issue. -/
inductive AtomicOp where
  | add | fadd | min | max | and | or | xor | xchg | cas
  deriving DecidableEq, Repr

/-- What an L access does. -/
inductive MemKind where
  | load | store | atomic (op : AtomicOp) (signed : Bool) (scope : Nat) (acquire release : Bool)
  deriving DecidableEq, Repr

/-- A per-lane global access: width in bytes, lanes not yet performed, addresses, operands (up to 32 bytes a lane),
destination registers bound at issue. `uniform` for LDU and STU. -/
structure MemAccess where
  kind : MemKind
  width : Nat
  uniform : Bool
  left : Mask
  addrs : Vector Word 64
  data : Vector (BitVec 256) 64
  dests : List (Fin 128)
  deriving DecidableEq, Repr

/-- A replay or held record (R419, R456): sub-cause 0 for a held access. -/
structure ReplayRecord where
  glyph : BitVec 32
  subCause : Nat
  field : Field
  firstVa : Word
  access : MemAccess
  opId : Nat
  resolved : Bool
  deriving DecidableEq, Repr

/-- A fence in force: accesses on the paths `after` wait for the operations `ids`; at die scope and wider the L2
actions of R326 and R327 are due between them. -/
structure Fence where
  after : BitVec 5
  ids : List Nat
  writeBack : Bool
  invalidate : Bool
  deriving DecidableEq, Repr

/-- A trap that waits for its boundary: kind 0 TRAP, 1 lease, 2 supervisor (R163, R165). -/
structure Trap where
  kind : Nat
  code : Nat
  deriving DecidableEq, Repr

/-- A GROW or SHRINK applied at the boundary (R172). -/
structure AllotChange where
  grow : Bool
  pred : Fin 16
  v : Nat
  h : Nat
  c : Nat
  k : Nat
  deriving DecidableEq, Repr

/-- One warp. `trapTaken`: a trap has been delivered at the boundary where it stands (R165). `strokes` counts its grants, and `taken`
holds the number of the stroke of each access that has taken a replay record (R224); `barred`: F or M withheld it when the arbiter last
looked (R395). -/
structure Warp where
  bid : Nat
  wid : Nat
  s : Vector Word 64
  p : BitVec 16
  q : Vector Word 8
  v : Vector VReg 128
  sp : BitVec 8
  h : Vector HReg 16
  c : Vector Bank 4
  ka : Vector Kulisch 4
  lc : BitVec 32
  vrb : BitVec 5
  shape : Word
  fpc : Word
  tie : Word
  rngk : BitVec 128
  rngc : Word
  resv : Vector (BitVec 128) 8
  dmask : Mask
  dstack : List DivEntry
  loads : Nat
  stores : Nat
  copies : Nat
  tiles : Nat
  curV : Nat
  curH : Nat
  curC : Nat
  curK : Nat
  tokens : BitVec 64
  pending : List Pending
  pc : BitVec 32
  next : BitVec 32
  stroke : List Cword
  pos : Nat
  decoded : Bool
  state : WarpState
  traps : List Trap
  trapTaken : Bool
  handler : Bool
  epc : Word
  ecause : Word
  einfo : Word
  gstHolder : Bool
  gstCause : BitVec 4
  records : List ReplayRecord
  held : List ReplayRecord
  shrink : Option AllotChange
  fences : List Fence
  baraPhase : BitVec 32
  baraAddr : Option Nat
  level : Nat
  eligibleSince : Option Nat
  waited : Nat
  withheld : Nat
  csync : Option (Fin 64)
  fetchFault : Option (Word × Nat)
  poisonSeen : List Nat
  strokes : Nat
  taken : List Nat
  barred : Bool
  deriving DecidableEq, Repr

/-- The warp right after placement, but for what placement sets: every register zero (R49, R50). -/
def Warp.blank : Warp :=
  { bid := 0, wid := 0, s := Vector.replicate 64 0, p := 0, q := Vector.replicate 8 0, v := Vector.replicate 128 0,
    sp := 0, h := Vector.replicate 16 0, c := Vector.replicate 4 0, ka := Vector.replicate 4 ⟨0, 0⟩, lc := 0, vrb := 0,
    shape := 0, fpc := 0, tie := 0, rngk := 0, rngc := 0, resv := Vector.replicate 8 0, dmask := 0, dstack := [],
    loads := 0, stores := 0, copies := 0, tiles := 0, curV := 0, curH := 0, curC := 0, curK := 0, tokens := 0,
    pending := [], pc := 0, next := 0, stroke := [], pos := 0, decoded := false, state := .boundary, traps := [], trapTaken := false, handler := false,
    epc := 0, ecause := 0, einfo := 0, gstHolder := false, gstCause := 0, records := [], held := [], shrink := none,
    fences := [], baraPhase := 0xFFFFFFFF, baraAddr := none, level := 0, eligibleSince := none, waited := 0,
    withheld := 0, csync := none, fetchFault := none, poisonSeen := [], strokes := 0, taken := [], barred := false }

/-- A window of a typed buffer: physical base and size in bytes (R68). -/
structure Window where
  base : Nat
  size : Nat
  deriving DecidableEq, Repr

/-- One placed block: its launch, its latched descriptor (R12), node (R13) and dictionary header (R116), its windows.
`restoring` holds from its restore to the core bundle b' of R451; `level7`: it was placed at level 7, which it keeps (R375);
`moveTo`: the core that a thermal move not yet honoured takes it to (R464). -/
structure Block where
  bid : Nat
  part : PartId
  launch : Nat
  nodeAddr : Word
  node : BitVec 512
  kdesc : BitVec 512
  header : BitVec 2048
  headerOk : Bool
  index : Nat
  bx : BitVec 32
  by_ : BitVec 16
  bz : BitVec 16
  warps : List WarpId
  wb : Window
  ab : Window
  cb : Window
  halted : Bool
  group : Option Nat
  broken : Bool
  microWait : Option (Word × Nat)
  restoring : Bool
  level7 : Bool
  moveTo : Option CoreId
  deriving DecidableEq, Repr

/-- Which typed buffer (R70). -/
inductive Buf where
  | wb | ab | cb
  deriving DecidableEq, Repr

/-- Which copy-class transfer (R239, R248). -/
inductive CopyKind where
  | copy | copyr (op : Nat) | gath | put | get
  deriving DecidableEq, Repr

/-- A tensor transfer with its captured record and operands (R235 to R248). `cursor` counts the elements landed;
`quarantine` holds bytes read and not landed, with their targets (R450, R458); the signal
of a PUT waits for the operations `after` (R320). -/
structure CopyOp where
  kind : CopyKind
  shape : BitVec 512
  fromBase : Word
  toBase : Word
  barrier : Option Nat
  list : Nat
  signal : Option Word
  cursor : Nat
  quarantine : List (Word × List Byte)
  begun : Bool
  rbanks : List Nat
  locks : List Nat
  stopped : Bool
  status : Nat
  detail : Nat
  after : List Nat
  deriving DecidableEq, Repr

/-- An arrival at a barrier that operations still outstanding come before (R39, R321): the block, the barrier's window address, the
phase arrived at, and the operations: those of the arriving warp, and those that its own fences order before it. -/
structure Arrival where
  bid : Nat
  addr : Nat
  phase : BitVec 32
  ids : List Nat
  deriving DecidableEq, Repr

/-- Which sequencer operation (R263). -/
inductive TileKind where
  | mzero | mloop | mcvt
  deriving DecidableEq, Repr

/-- A queued tile operation with what it latched (R262, R459). -/
structure TileOp where
  kind : TileKind
  config : BitVec 160
  record : BitVec 128
  start : Nat
  start2 : Nat
  rows : Nat
  done : Nat
  rm : BitVec 3
  ftz : Bool
  rngk : BitVec 128
  rngc : Word
  begun : Bool
  flags : BitVec 64
  poisoned : List Nat
  deriving DecidableEq, Repr

/-- An outstanding asynchronous operation's own data. -/
inductive OpKind where
  | mem (a : MemAccess)
  | ldb (buf : Buf) (addr : Nat) (lanes : Mask) (dest : Fin 128) (poisonLanes : Mask)
  | stb (buf : Buf) (addr : Nat) (lanes : Mask) (data : VReg)
  | copy (t : CopyOp)
  | tbld (bank : Fin 2) (sel : BitVec 9) (addr : Word)
  | signal (add : Bool) (addr : Word) (value : Word)
  | launch (node : Word)
  | ldst (record : BitVec 128) (w : Nat) (plane : Fin 2) (poisoned : Bool)
  | tile (t : TileOp)
  | hld (addr : Nat) (dest : Fin 16)
  | hst (addr : Nat) (data : HReg)
  | hclrc (bank : Fin 4)
  | hrand (dest : Fin 16) (img : HReg)
  | htie (dest : Fin 64) (count : Nat)
  | hnear (tok dist : Fin 64) (query : HReg) (record : BitVec 128)
  deriving DecidableEq, Repr

/-- The class an operation counts in (R28). -/
inductive OpClass where
  | load | store | copy | tile
  deriving DecidableEq, Repr

/-- An access path (R170): bit 0 L, 1 X, 2 M, 3 H. -/
inductive Path where
  | l | x | m | h
  deriving DecidableEq, Repr

/-- An outstanding asynchronous operation: the operations it must wait for (R171, R233), when its request went out (R489),
the translation fault that an X operation waits on (R243), the bytes of each poisoned sector that it has written (R444), the
events that count at its completion (R181, R481), and the number of its warp's stroke that issued it (R224). `sent` is the time of its
issue, or the last core bundle in which something held its request back. -/
structure AsyncOp where
  id : Nat
  warp : WarpId
  bid : Nat
  cls : OpClass
  path : Path
  glyph : BitVec 32
  field : Field
  waits : List Nat
  sent : Nat
  fault : Option (Word × Nat)
  wiped : List (Nat × Mask)
  counts : List (Fin 23 × Nat)
  stroke : Nat
  kind : OpKind
  deriving DecidableEq, Repr

/-- A loadable bank of the F store: programs 24 to 63 and eight tables (R281). -/
structure FBank where
  programs : Vector (BitVec 1024) 40
  tables : Vector (BitVec 8192) 8
  deriving DecidableEq, Repr

/-- A decode-table entry (R121): slot 0 to 8 of K to H, 9 for G. -/
structure DecodeEntry where
  part : PartId
  dictId : BitVec 32
  slot : Nat
  index : Nat
  entry : BitVec 64
  deriving DecidableEq, Repr

/-- A TLB entry (R412, R413): page number of 512 KiB, leaf, whether d is set and the page logged through it, and the
block that owns its set. -/
structure TlbEntry where
  part : PartId
  vpage : Nat
  leaf : Word
  leafAt : Nat
  dirty : Bool
  owner : Nat
  deriving DecidableEq, Repr

/-- Why a core is stopped (R366, R486). -/
inductive StopCause where
  | freeze | breakpoint (p : PartId) (n : Fin 8)
  deriving DecidableEq, Repr

/-- What a bundle does at its end, gathered while its slots issue (R155, R130, R245). -/
inductive EndEffect where
  | swr (index : Nat) (v : Word)
  | setShape (v : BitVec 6)
  | setPc (target : BitVec 32)
  | loop (target : BitVec 32)
  | mark (n : Fin 8) (elsePc rejoin : BitVec 32)
  | join
  | exit
  | trap (code : Nat)
  | bara (addr : Nat) (bytes : Nat)
  | csync (d : Fin 64)
  | fence (a b : BitVec 5) (scope : Nat)
  | allot (change : AllotChange)
  | clkdiv (n : Nat)
  | gustGrant (us : Nat)
  | gustRefuse (cause : Nat)
  | gustrel
  | syswr (index : Nat) (v : Word)
  | acquire
  | eret
  | freeze (op : Nat)
  | mswap
  | mcfg (config : BitVec 160)
  | resv (n : Fin 8) (r : BitVec 128)
  | rels (n : Fin 8)
  | tswap
  | token (n : Fin 64)
  | tokenDone (n : Fin 64) (v : Word)
  | prefetch (addr : Word)
  | matrixError
  | tileNone
  deriving DecidableEq, Repr

/-- An asynchronous operation that a slot of the bundle in issue starts. -/
structure NewOp where
  cls : OpClass
  path : Path
  field : Field
  kind : OpKind
  deriving DecidableEq, Repr

/-- The bundle in issue: its warp and control word, the next slot number to look at, and what its slots have given so
far: draws (R197), exposed writes, asynchronous operations and end-of-bundle effects. All of it takes effect at the end
of the bundle, so every slot reads the bundle's start (R25), and a fault discards it (R129). -/
structure Issue where
  core : CoreId
  warp : WarpId
  word : Cword
  slot : Nat
  draws : Nat
  writes : List Pending
  ops : List NewOp
  ends : List EndEffect
  deriving DecidableEq, Repr

/-- A reservation of a core for a passed-over launch (R393). -/
structure CoreReservation where
  level : Nat
  launch : Nat
  deriving DecidableEq, Repr

/-- One core. `acted` names the barriers, by physical address, on which an arrival or a subtraction has acted since their last
test, each with the bytes to subtract at the end of the core bundle (R36, R78); `written` the bytes of AB, from a physical address on,
that stores and copies have written in this core bundle (R78). -/
structure Core where
  lastPart : Option PartId
  retired : Bool
  stopped : Option StopCause
  blocks : List Block
  warps : Vector (Option Warp) 8
  holder : Option WarpId
  first : Option WarpId
  wb : Memory
  ab : Memory
  cb : Memory
  poison : List Nat
  planes : Vector Plane 2
  active : Fin 2
  config : BitVec 160
  fl : BitVec 4096
  banks : Vector FBank 2
  bank : Fin 2
  decode : List DecodeEntry
  tlb : List TlbEntry
  ops : List AsyncOp
  acted : List (Nat × Nat)
  written : List (Nat × Nat)
  arrived : List Arrival
  fBusy : Nat
  sticky : List (WarpId × Bool × Bool)
  sensor : BitVec 16
  thermal : Nat
  current : Nat
  counters : Vector (BitVec 64) 23
  laneCycles : List (Nat × BitVec 64)
  ranges : Vector (BitVec 128) 16
  reserved : List CoreReservation
  breakSkip : Bool
  sampleIn : Nat
  tick : Nat
  deriving DecidableEq, Repr

/-- One core at package reset. -/
def Core.reset : Core :=
  { lastPart := none, retired := false, stopped := none, blocks := [], warps := Vector.replicate 8 none, holder := none,
    first := none, wb := [], ab := [], cb := [], poison := [], planes := Vector.replicate 2 ⟨0, 0, 0⟩, active := 0,
    config := 0, fl := 0, banks := Vector.replicate 2 ⟨Vector.replicate 40 0, Vector.replicate 8 0⟩, bank := 0,
    decode := [], tlb := [], ops := [], acted := [], written := [], arrived := [], fBusy := 0, sticky := [], sensor := 0, thermal := 0, current := 0,
    counters := Vector.replicate 23 0, laneCycles := [], ranges := Vector.replicate 16 0, reserved := [],
    breakSkip := false, sampleIn := 0, tick := 0 }

/-- A cached sector (R309): physical sector number, partition tag, bytes, which are present, which are marked. -/
structure Sector where
  num : Nat
  part : PartId
  data : BitVec 512
  valid : Mask
  marked : Mask
  deriving DecidableEq, Repr

/-- A gust lease of a cluster (R176, R177): partition, holder, and the tick at which it ends. -/
structure Lease where
  part : PartId
  core : CoreId
  warp : WarpId
  bid : Nat
  ends : Nat
  deriving DecidableEq, Repr

/-- One cluster (R309, R413, R466 to R468, R474, R446). `freed`: the clock at which the last lease that its holder
gave back, or that expired, ended, and the holder's core (R477). -/
structure Cluster where
  l2 : List Sector
  tlb : List TlbEntry
  div : Nat
  clkdiv : Option Nat
  pendingDiv : Bool
  lease : Option Lease
  tripped : Bool
  retention : Bool
  stretched : Option Nat
  freed : Option (Nat × CoreId)
  deriving DecidableEq, Repr

/-- One cluster at package reset: divisor 4 (R468). -/
def Cluster.reset : Cluster :=
  { l2 := [], tlb := [], div := 4, clkdiv := none, pendingDiv := false, lease := none, tripped := false,
    retention := false, stretched := none, freed := none }

/-- One graph of a partition (R383 to R389). -/
structure Graph where
  header : Word
  state : Nat
  supervisor : Bool
  statusAddr : Word
  nodes : Nat
  tag : Word
  done : Nat
  failed : Nat
  rejected : BitVec 32
  field : BitVec 16
  prio7 : Bool
  deriving DecidableEq, Repr

/-- A launch in progress: its node as latched, what it has claimed, placed and finished (R20, R43, R391 to R394); its home die
(R20), and whether this package validated and latched its dictionary header (R117). -/
structure Launch where
  lid : Nat
  part : PartId
  graph : Word
  nodeAddr : Word
  node : BitVec 512
  kdesc : BitVec 512
  header : BitVec 2048
  latched : Bool
  home : DieId
  supervisor : Bool
  level : Nat
  queued : Bool
  since : Nat
  order : Nat
  next : Nat
  claims : Vector (List Nat) 4
  resident : Nat
  saved : Nat
  retired : Nat
  lost : Nat
  placedOn : BitVec 4
  deriving DecidableEq, Repr

/-- A dirty log (R432): by virtual address when the supervisor set it, by physical address when the host did. -/
structure DirtyLog where
  bitmap : Word
  first : Word
  count : Nat
  byHost : Bool
  deriving DecidableEq, Repr

/-- What a saved block's image has no field for (R452 to R459): its launch, group and core, and, of its warps and its
asynchronous operations as they stood, the parts that the image leaves out (log 30). -/
structure SavedExtra where
  entry : Nat
  launch : Nat
  core : CoreId
  group : Option Nat
  broken : Bool
  bid : Nat
  microWait : Option (Word × Nat)
  warps : List Warp
  ops : List AsyncOp
  arrived : List Arrival
  deriving DecidableEq, Repr

/-- A FREEZE in progress (R366, R367): its operation, its target, and whether that core stood stopped before. -/
structure FreezeReq where
  op : Nat
  target : CoreId
  was : Bool
  deriving DecidableEq, Repr

/-- One partition (R361, R370, R373, R380, R462, R484, R486). `vectors`: message address and data of its MSI-X table (R369, R493). -/
structure Partition where
  control : BitVec 32
  enabled : Bool
  resetting : Bool
  refusal : BitVec 8
  ptRoot : Word
  sqBase : Word
  sqSize : Nat
  fqBase : Word
  fqSize : Nat
  saveBase : Word
  saveSize : Nat
  qos : BitVec 128
  fqProd : BitVec 32
  fqCons : BitVec 32
  fqStat : Word
  intPend : BitVec 32
  intMask : BitVec 32
  vectors : Vector (BitVec 96) 32
  ftgt : Word
  fstat : BitVec 4
  fsave : Word
  freeze : Option FreezeReq
  sqTail : BitVec 32
  sqHead : BitVec 32
  sqErr : BitVec 32
  sqPriv : List Bool
  graphs : List Graph
  dirty : Option DirtyLog
  ctxStatus : BitVec 8
  ctxCount : BitVec 32
  ctxOp : Nat
  suspended : Bool
  trace : BitVec 256
  breaks : Vector (BitVec 256) 8
  saved : List SavedExtra
  messages : List (Nat × CoreId × List Nat)
  deriving DecidableEq, Repr

/-- One partition at package reset. -/
def Partition.reset : Partition :=
  { control := 0, enabled := false, resetting := false, refusal := 0, ptRoot := 0, sqBase := 0, sqSize := 0, fqBase := 0,
    fqSize := 0, saveBase := 0, saveSize := 0, qos := 0, fqProd := 0, fqCons := 0, fqStat := 0, intPend := 0,
    intMask := 0xFFFFFFFF, vectors := Vector.replicate 32 0, ftgt := 0, fstat := 0, fsave := 0, freeze := none, sqTail := 0, sqHead := 0, sqErr := 0, sqPriv := [],
    graphs := [], dirty := none, ctxStatus := 0, ctxCount := 0, ctxOp := 0, suspended := false, trace := 0,
    breaks := Vector.replicate 8 0, saved := [], messages := [] }

/-- A page migration in progress (R427): the page, its old and new leaf, where its leaf lies, the next line. -/
structure Migration where
  mid : Nat
  part : PartId
  page : Word
  leafAt : Nat
  oldFrame : Nat
  newLeaf : Word
  notice : Word
  statusAddr : Nat
  host : Bool
  who : Requester
  nextLine : Nat
  poisonedLines : Nat
  deriving DecidableEq, Repr

/-- A message or answer that leaves the package (R369, R385, R486, R498). -/
inductive OutMsg where
  /-- MSI-X message of a partition's function -/
  | msix (p : PartId) (vector : Nat)
  /-- data of a read that came from outside -/
  | readData (data : List Byte)
  /-- a host access completed as Unsupported Request (R424) -/
  | unsupportedRequest
  /-- an access refused by a migrating page (R428) -/
  | moved
  | spdmVersion (versions : List Nat)
  | spdmCapabilities (cert chal meas : Bool)
  | spdmAlgorithms (ecdsaP256Sha256 : Bool)
  | spdmDigest (digest : BitVec 256)
  | spdmCertificate (part : List Byte) (remainder : Nat)
  | spdmChallenge (digest : BitVec 256) (signature : List Byte)
  | spdmMeasurementCount (n : Nat)
  | spdmMeasurements (slots : List (Nat × BitVec 256)) (signature : List Byte)
  | spdmError
  deriving DecidableEq, Repr

/-- The firmware complexes, with what each one's image names, and their mailbox (R494 to R496). -/
structure Firmware where
  mbStat : BitVec 32
  mbAddr : Word
  mbLen : BitVec 32
  svn : BitVec 32
  format : BitVec 16
  standbySvn : BitVec 32
  standbyFormat : BitVec 16
  standbyOk : Bool
  pendingSvn : Option (BitVec 32 × BitVec 16 × BitVec 256)
  deriving DecidableEq, Repr

/-- A host access held at the bridge: for an unplaced managed page (R424), or one that a migrating page's old home has refused
(R428, R429): the sub-cause, 0 where a notice is to come, and whether what it waits for has come, so that it is sent again. -/
structure HeldHost where
  n : Nat
  part : PartId
  access : OutsideAccess
  sub : Nat
  ready : Bool
  deriving DecidableEq, Repr

/-- A write of the device's own that an old home of a migrating page refuses, in its own page, in a table that translates it or in the
dirty log that it must set first, and that is sent again through a fresh translation after the notice of `frame` (R410, R428, R429, R435):
what walkers it goes through and the address, physical where the host named it so; `adds`: its 8 bytes are added to a word. -/
structure HeldWrite where
  frame : Nat
  part : PartId
  who : Nat
  phys : Bool
  va : Word
  bytes : List Byte
  xd : Bool
  adds : Bool
  deriving DecidableEq, Repr

/-- A trace record that waits for its release at sys scope, and takes its place in the buffer with its write (R326, R484). -/
structure HeldTrace where
  part : PartId
  cluster : ClusterId
  bytes : List Byte
  deriving DecidableEq, Repr

/-- A translation request not yet carried out (R415 to R417): its event, and the earlier writes of the warp that it must
follow. -/
structure TlbRequest where
  op : Instr
  after : List Nat
  deriving DecidableEq, Repr

/-- The package. -/
structure State where
  mem : Memory
  cores : Vector Core 320
  clusters : Vector Cluster 40
  parts : Vector Partition 16
  poisonSectors : List Nat
  walkCache : List (PartId × Nat × Word)
  retiredFrames : List Nat
  launches : List Launch
  migrations : List Migration
  movedFrames : List Nat
  heldDev : List HeldWrite
  devWaits : Bool
  heldTrace : List HeldTrace
  cells : Vector (BitVec 64) 20
  therm : Word
  power : Nat
  powerLog : List Nat
  ballast : List (Nat × Nat)
  time : Nat
  packageId : BitVec 11
  lanes : Vector (BitVec 8) 32
  routes : List (BitVec 11 × Fin 32)
  firmware : Firmware
  measurements : Vector (BitVec 256) 5
  failedStacks : List (Fin 12)
  bootStage : Nat
  keptReset : Bool
  spdmReady : Bool
  negotiated : Bool
  heldHost : List HeldHost
  sent : List OutMsg
  agenda : List Instr
  requests : List TlbRequest
  issue : Option Issue
  nextId : Nat
  deriving DecidableEq, Repr

/-- CELL at reset: melt_lo 256, melt_hi 896 (R469); MELT 0 is a DESIGN CHOICE (log 3). -/
def cellReset : BitVec 64 := 0x0000010003800000
/-- THERM at reset (R470). -/
def thermReset : Word := 0x000006E0066005F0

/-- The package right after package reset. -/
def State.reset : State :=
  { mem := [], cores := Vector.replicate 320 Core.reset, clusters := Vector.replicate 40 Cluster.reset,
    parts := Vector.replicate 16 Partition.reset, poisonSectors := [], walkCache := [], retiredFrames := [],
    launches := [], migrations := [], movedFrames := [], heldDev := [], devWaits := false, heldTrace := [], cells := Vector.replicate 20 cellReset, therm := thermReset,
    power := 0, powerLog := [], ballast := [], time := 0, packageId := 0, lanes := Vector.replicate 32 0xFF, routes := [],
    firmware := { mbStat := 0, mbAddr := 0, mbLen := 0, svn := 0, format := 0, standbySvn := 0, standbyFormat := 0, standbyOk := true, pendingSvn := none },
    measurements := Vector.replicate 5 0, failedStacks := [], bootStage := 0, keptReset := false, spdmReady := false, negotiated := false, heldHost := [], sent := [], agenda := [], requests := [],
    issue := none, nextId := 1 }

/-- Reasons the model stops. All are safe: the package the manual describes never reaches them. -/
inductive Fault where
  /-- a slot operation was executed while no bundle of a resident warp is in issue: raised by every slot meaning; no run
  of `step` reaches it. Safe. -/
  | noBundle
  /-- the bundle in issue holds a field that is no instruction (decode would have rejected it, R124 to R126): raised by
  `step`; no run reaches it from a fetched stroke. Safe. -/
  | illFormedField
  /-- an outside access names a physical address that no home of the package has (R409): raised by
  REMOTE_ACCESS_ARRIVAL and HOST_BRIDGE_ACCESS. Safe. -/
  | noSuchAddress
  deriving DecidableEq, Repr

/-- Reasons the model refuses. -/
inductive Refusal where
  /-- an instruction with no meaning yet, by its mnemonic in spec/opcode_table.json: raised by `exec`. Safe. -/
  | notModelled (mnemonic : String)
  deriving DecidableEq, Repr

end Sys2Proof.Machine
end

