-- ==== Sys2Proof/Machine/Bytes.lean ====
section
/-! DEFINITION. Bits, elements, bytes and byte order (spec/00_scope.md R4), and the memory operations. -/

namespace Sys2Proof.Machine

/-- The number whose w-bit digits are f 0 to f (n - 1), digit 0 lowest. -/
def packNat (w : Nat) : Nat → (Nat → Nat) → Nat
  | 0, _ => 0
  | n + 1, f => packNat w n f + (f n % 2 ^ w) * 2 ^ (w * n)

/-- The m-bit value whose w-bit elements are f 0 to f (n - 1) (R56). -/
def packEl (w n m : Nat) (f : Nat → BitVec w) : BitVec m := BitVec.ofNat m (packNat w n (fun i => (f i).toNat))

/-- Element i, w bits wide, of a register image (R56). -/
def elem {m : Nat} (w : Nat) (x : BitVec m) (i : Nat) : BitVec w := x.extractLsb' (w * i) w

/-- The image with element i, w bits wide, replaced. -/
def setElem {m : Nat} (w : Nat) (x : BitVec m) (i : Nat) (v : BitVec w) : BitVec m :=
  let hole := ((BitVec.allOnes w).setWidth m) <<< (w * i)
  (x &&& ~~~hole) ||| ((v.setWidth m) <<< (w * i))

/-- The mask whose bit l is f l. -/
def maskOf (f : Nat → Bool) : Mask := packEl 1 64 64 (fun l => BitVec.ofBool (f l))

/-- bits(x, hi, lo) as a number (R3). -/
def bitsN {m : Nat} (x : BitVec m) (hi lo : Nat) : Nat := x.toNat / 2 ^ lo % 2 ^ (hi + 1 - lo)

/-- The little-endian bytes of a value (R4). -/
def bytesOf {m : Nat} (n : Nat) (x : BitVec m) : List Byte := (List.range n).map fun i => elem 8 x i

/-- The number that little-endian bytes hold (R4). -/
def natOfBytes : List Byte → Nat
  | [] => 0
  | b :: bs => b.toNat + 256 * natOfBytes bs

/-- The value that little-endian bytes hold. -/
def ofBytes (m : Nat) (bs : List Byte) : BitVec m := BitVec.ofNat m (natOfBytes bs)

/-- How many bits of a mask are 1. -/
def popCount (m : Mask) : Nat := ((List.range 64).filter fun l => m.getLsbD l).length

/-- The lanes of a mask, ascending. -/
def lanesOf (m : Mask) : List Nat := (List.range 64).filter fun l => m.getLsbD l

/-- The byte a memory holds at an address; 0 where none is listed (logs 1 and 2). -/
def Memory.get : Memory → Nat → Byte
  | [], _ => 0
  | (a, b) :: m, x => if x < a then 0 else if x = a then b else Memory.get m x

/-- The memory with one byte written, in the canonical form. -/
def Memory.set : Memory → Nat → Byte → Memory
  | [], x, v => if v = 0 then [] else [(x, v)]
  | (a, b) :: m, x, v =>
    if x < a then (if v = 0 then (a, b) :: m else (x, v) :: (a, b) :: m)
    else if x = a then (if v = 0 then m else (a, v) :: m)
    else (a, b) :: Memory.set m x v

/-- n bytes from an address. -/
def Memory.read (m : Memory) (x n : Nat) : List Byte := (List.range n).map fun i => m.get (x + i)

/-- The memory with these bytes written from an address. -/
def Memory.write : Memory → Nat → List Byte → Memory
  | m, _, [] => m
  | m, x, b :: bs => Memory.write (m.set x b) (x + 1) bs

/-- n zero bytes written from an address (R69). -/
def Memory.clear (m : Memory) (x n : Nat) : Memory := m.filter fun (a, _) => a < x || x + n ≤ a

/-- The n-byte little-endian number at an address. -/
def Memory.num (m : Memory) (x n : Nat) : Nat := natOfBytes (m.read x n)

/-- Element i of a vector replaced by f of it. -/
def upd {α : Type} {n : Nat} (v : Vector α n) (i : Fin n) (f : α → α) : Vector α n := v.set i.val (f v[i]) i.isLt

/-- The number n as a Fin of a non-empty range, modulo it. -/
def fin (k n : Nat) [NeZero k] : Fin k := Fin.ofNat k n

/-- Ceiling of a division. -/
def ceilDiv (a b : Nat) : Nat := (a + b - 1) / b

end Sys2Proof.Machine
end

