-- ==== Sys2Proof/Machine/Crypto.lean ====
section
/-! DEFINITION. SHA-256 and ECDSA on P-256, signing and verifying, which R10 and R497 name (FIPS 180-4 and FIPS 186-5; their
constants are PRESUMED, log 27). -/

namespace Sys2Proof.Machine

/-- The round constants of SHA-256. -/
def shaK : List (BitVec 32) :=
  [0x428A2F98, 0x71374491, 0xB5C0FBCF, 0xE9B5DBA5, 0x3956C25B, 0x59F111F1, 0x923F82A4, 0xAB1C5ED5] ++
  [0xD807AA98, 0x12835B01, 0x243185BE, 0x550C7DC3, 0x72BE5D74, 0x80DEB1FE, 0x9BDC06A7, 0xC19BF174] ++
  [0xE49B69C1, 0xEFBE4786, 0x0FC19DC6, 0x240CA1CC, 0x2DE92C6F, 0x4A7484AA, 0x5CB0A9DC, 0x76F988DA] ++
  [0x983E5152, 0xA831C66D, 0xB00327C8, 0xBF597FC7, 0xC6E00BF3, 0xD5A79147, 0x06CA6351, 0x14292967] ++
  [0x27B70A85, 0x2E1B2138, 0x4D2C6DFC, 0x53380D13, 0x650A7354, 0x766A0ABB, 0x81C2C92E, 0x92722C85] ++
  [0xA2BFE8A1, 0xA81A664B, 0xC24B8B70, 0xC76C51A3, 0xD192E819, 0xD6990624, 0xF40E3585, 0x106AA070] ++
  [0x19A4C116, 0x1E376C08, 0x2748774C, 0x34B0BCB5, 0x391C0CB3, 0x4ED8AA4A, 0x5B9CCA4F, 0x682E6FF3] ++
  [0x748F82EE, 0x78A5636F, 0x84C87814, 0x8CC70208, 0x90BEFFFA, 0xA4506CEB, 0xBEF9A3F7, 0xC67178F2]

/-- Its initial hash value. -/
def shaInit : List (BitVec 32) :=
  [0x6A09E667, 0xBB67AE85, 0x3C6EF372, 0xA54FF53A, 0x510E527F, 0x9B05688C, 0x1F83D9AB, 0x5BE0CD19]

/-- A message padded to whole blocks. -/
def shaPad (m : List Byte) : List Byte :=
  let zeros := (64 - (m.length + 9) % 64) % 64
  m ++ [0x80] ++ List.replicate zeros 0 ++ (bytesOf 8 (BitVec.ofNat 64 (8 * m.length))).reverse

/-- A block's sixteen big-endian words. -/
def shaWords (b : List Byte) : List (BitVec 32) := (List.range 16).map fun i => ofBytes 32 ((b.drop (4 * i)).take 4).reverse

/-- The message schedule, n words longer. `w` holds it backwards. -/
def shaSchedule : Nat → List (BitVec 32) → List (BitVec 32)
  | 0, w => w
  | n + 1, w =>
    let at_ (i : Nat) : BitVec 32 := w.getD i 0
    let s0 := (at_ 14).rotateRight 7 ^^^ (at_ 14).rotateRight 18 ^^^ (at_ 14) >>> 3
    let s1 := (at_ 1).rotateRight 17 ^^^ (at_ 1).rotateRight 19 ^^^ (at_ 1) >>> 10
    shaSchedule n ((at_ 15 + s0 + at_ 6 + s1) :: w)

/-- The eight working variables. -/
structure ShaVars where
  a : BitVec 32
  b : BitVec 32
  c : BitVec 32
  d : BitVec 32
  e : BitVec 32
  f : BitVec 32
  g : BitVec 32
  h : BitVec 32
  deriving DecidableEq, Repr

/-- One round. -/
def ShaVars.round (v : ShaVars) (k w : BitVec 32) : ShaVars :=
  let s1 := v.e.rotateRight 6 ^^^ v.e.rotateRight 11 ^^^ v.e.rotateRight 25
  let t1 := v.h + s1 + ((v.e &&& v.f) ^^^ (~~~v.e &&& v.g)) + k + w
  let s0 := v.a.rotateRight 2 ^^^ v.a.rotateRight 13 ^^^ v.a.rotateRight 22
  let t2 := s0 + ((v.a &&& v.b) ^^^ (v.a &&& v.c) ^^^ (v.b &&& v.c))
  { a := t1 + t2, b := v.a, c := v.b, d := v.c, e := v.d + t1, f := v.e, g := v.f, h := v.g }

/-- The hash value after one block. -/
def shaBlock (hs : List (BitVec 32)) (b : List Byte) : List (BitVec 32) :=
  let w := (shaSchedule 48 (shaWords b).reverse).reverse
  let x (i : Nat) : BitVec 32 := hs.getD i 0
  let v := (shaK.zip w).foldl (fun v (k, w) => v.round k w)
    ({ a := x 0, b := x 1, c := x 2, d := x 3, e := x 4, f := x 5, g := x 6, h := x 7 } : ShaVars)
  (hs.zip [v.a, v.b, v.c, v.d, v.e, v.f, v.g, v.h]).map fun (p, q) => p + q

/-- The blocks of a padded message. -/
def shaBlocks : Nat → List Byte → List (BitVec 32) → List (BitVec 32)
  | 0, _, hs => hs
  | n + 1, m, hs => shaBlocks n (m.drop 64) (shaBlock hs (m.take 64))

/-- SHA-256: the 32 bytes of the digest. -/
def sha256 (m : List Byte) : List Byte :=
  let p := shaPad m
  (shaBlocks (p.length / 64) p shaInit).flatMap fun x => (bytesOf 4 x).reverse

/-- The number that big-endian bytes hold. -/
def natOfBig (bs : List Byte) : Nat := natOfBytes bs.reverse

/-- P-256: the field, the order of the group, and its generator. -/
def ecP : Nat := 0xFFFFFFFF00000001000000000000000000000000FFFFFFFFFFFFFFFFFFFFFFFF
def ecN : Nat := 0xFFFFFFFF00000000FFFFFFFFFFFFFFFFBCE6FAADA7179E84F3B9CAC2FC632551
def ecG : Nat × Nat :=
  (0x6B17D1F2E12C4247F8BCE6E563A440F277037D812DEB33A0F4A13945D898C296,
   0x4FE342E2FE1A7F9B8EE7EB4A7C0F9E162BCE33576B315ECECBB6406837BF51F5)

/-- x to the power e modulo m, over the low n bits of e. -/
def powMod (m : Nat) : Nat → Nat → Nat → Nat
  | 0, _, _ => 1 % m
  | n + 1, x, e => (if e % 2 = 1 then x else 1) * powMod m n (x * x % m) (e / 2) % m
/-- The inverse modulo a prime. -/
def invMod (m x : Nat) : Nat := powMod m 256 (x % m) (m - 2)

/-- Addition of points; none is the point at infinity. -/
def ecAdd : Option (Nat × Nat) → Option (Nat × Nat) → Option (Nat × Nat)
  | none, q => q
  | p, none => p
  | some (x1, y1), some (x2, y2) =>
    let sub (a b : Nat) : Nat := (a + ecP - b) % ecP
    if x1 = x2 ∧ (y1 + y2) % ecP = 0 then none
    else
      let l := if x1 = x2 then (3 * x1 * x1 + ecP - 3) * invMod ecP (2 * y1) % ecP
        else sub y2 y1 * invMod ecP (sub x2 x1) % ecP
      let x3 := sub (sub (l * l % ecP) x1) x2
      some (x3, sub (l * sub x1 x3 % ecP) y1)
/-- A multiple of a point, over the low n bits. -/
def ecMul : Nat → Nat → Option (Nat × Nat) → Option (Nat × Nat)
  | 0, _, _ => none
  | n + 1, k, p => let r := ecMul n (k / 2) (ecAdd p p); if k % 2 = 1 then ecAdd p r else r

/-- The ECDSA signature of a message under a private key d, with the number k of this signature: r and s (FIPS 186-5). -/
def ecdsaSign (d k : Nat) (message : List Byte) : Nat × Nat :=
  let z := natOfBig (sha256 message) % ecN
  let r := match ecMul 256 k (some ecG) with | some (x, _) => x % ecN | none => 0
  (r, invMod ecN k * (z + r * d) % ecN)
/-- A signature of the device identity key over a message, the n-th that it makes (R498): r and s, big-endian. -/
def identitySignature (n : Nat) (message : List Byte) : List Byte :=
  let d := 1 + Config.identityKey % (ecN - 1)
  let (r, s) := ecdsaSign d (1 + Config.signatureNonce n % (ecN - 1)) message
  (bytesOf 32 (BitVec.ofNat 256 r)).reverse ++ (bytesOf 32 (BitVec.ofNat 256 s)).reverse

/-- ECDSA verification of a message under a public key. -/
def ecdsaOk (key : Nat × Nat) (message : List Byte) (r s : Nat) : Bool :=
  let z := natOfBig (sha256 message) % ecN
  let w := invMod ecN s
  decide (1 ≤ r ∧ r < ecN ∧ 1 ≤ s ∧ s < ecN) &&
    match ecAdd (ecMul 256 (z * w % ecN) (some ecG)) (ecMul 256 (r * w % ecN) (some key)) with
    | none => false
    | some (x, _) => x % ecN == r

end Sys2Proof.Machine
end

