-- ==== Sys2Proof/Decode.lean ====
section
/-! DEFINITION. The class layouts, the opcode map and its checks (spec/04_control_words.md R112 to R115, R124,
spec/05_opcode_map.md), the decoder of a slot field and the encoder. -/

namespace Sys2Proof

/-- The slot of a vector operation. -/
def VSlot.slot : VSlot → Slot
  | .va => .va
  | .vb => .vb

/-- Slot numbers of R438: K 0, S 1, VA 2, VB 3, F 4, M 5, L 6, X 7, H 8. -/
def Slot.num : Slot → Nat
  | .k => 0 | .s => 1 | .va => 2 | .vb => 3 | .f => 4 | .m => 5 | .l => 6 | .x => 7 | .h => 8

/-- The slot of a number of R438. -/
def Slot.ofNum : Nat → Option Slot
  | 0 => some .k | 1 => some .s | 2 => some .va | 3 => some .vb | 4 => some .f | 5 => some .m | 6 => some .l
  | 7 => some .x | 8 => some .h | _ => none

/-- Bits [47:40] of a slot field (R112). -/
def opcodeOf (w : Field) : BitVec 8 := w.extractLsb' 40 8

/-- Class KB: the 48 bits of a field with opcode `op` (R112). -/
def KB.pack (op : BitVec 8) (f : KB) : Field :=
  op ++ f.variant ++ f.cond ++ f.target

/-- Class KB: the fields of bits [39:0] (R112). -/
def KB.unpack (w : Field) : KB where
  variant := w.extractLsb' 36 4
  cond := w.extractLsb' 32 4
  target := w.extractLsb' 0 32

/-- Class KWait: the 48 bits of a field with opcode `op` (R112). -/
def KWait.pack (op : BitVec 8) (f : KWait) : Field :=
  op ++ f.variant ++ f.load ++ f.store ++ f.copy ++ f.tile ++ f.rsv

/-- Class KWait: the fields of bits [39:0] (R112). -/
def KWait.unpack (w : Field) : KWait where
  variant := w.extractLsb' 36 4
  load := w.extractLsb' 30 6
  store := w.extractLsb' 24 6
  copy := w.extractLsb' 18 6
  tile := w.extractLsb' 12 6
  rsv := w.extractLsb' 0 12

/-- Class KWaitt: the 48 bits of a field with opcode `op` (R112). -/
def KWaitt.pack (op : BitVec 8) (f : KWaitt) : Field :=
  op ++ f.variant ++ f.enable ++ f.rsv ++ f.t3 ++ f.t2 ++ f.t1 ++ f.t0

/-- Class KWaitt: the fields of bits [39:0] (R112). -/
def KWaitt.unpack (w : Field) : KWaitt where
  variant := w.extractLsb' 36 4
  enable := w.extractLsb' 32 4
  rsv := w.extractLsb' 24 8
  t3 := w.extractLsb' 18 6
  t2 := w.extractLsb' 12 6
  t1 := w.extractLsb' 6 6
  t0 := w.extractLsb' 0 6

/-- Class KBarw: the 48 bits of a field with opcode `op` (R112). -/
def KBarw.pack (op : BitVec 8) (f : KBarw) : Field :=
  op ++ f.variant ++ f.phase ++ f.addr ++ f.rsv ++ f.off

/-- Class KBarw: the fields of bits [39:0] (R112). -/
def KBarw.unpack (w : Field) : KBarw where
  variant := w.extractLsb' 36 4
  phase := w.extractLsb' 30 6
  addr := w.extractLsb' 24 6
  rsv := w.extractLsb' 20 4
  off := w.extractLsb' 0 20

/-- Class KR: the 48 bits of a field with opcode `op` (R112). -/
def KR.pack (op : BitVec 8) (f : KR) : Field :=
  op ++ f.variant ++ f.d ++ f.a ++ f.b ++ f.rsv ++ f.imm

/-- Class KR: the fields of bits [39:0] (R112). -/
def KR.unpack (w : Field) : KR where
  variant := w.extractLsb' 36 4
  d := w.extractLsb' 30 6
  a := w.extractLsb' 24 6
  b := w.extractLsb' 18 6
  rsv := w.extractLsb' 16 2
  imm := w.extractLsb' 0 16

/-- Class R3: the 48 bits of a field with opcode `op` (R112). -/
def R3.pack (op : BitVec 8) (f : R3) : Field :=
  op ++ f.variant ++ f.pred ++ f.d ++ f.a ++ f.b ++ f.c

/-- Class R3: the fields of bits [39:0] (R112). -/
def R3.unpack (w : Field) : R3 where
  variant := w.extractLsb' 36 4
  pred := w.extractLsb' 31 5
  d := w.extractLsb' 23 8
  a := w.extractLsb' 15 8
  b := w.extractLsb' 7 8
  c := w.extractLsb' 0 7

/-- Class SI: the 48 bits of a field with opcode `op` (R112). -/
def SI.pack (op : BitVec 8) (f : SI) : Field :=
  op ++ f.variant ++ f.d ++ f.imm

/-- Class SI: the fields of bits [39:0] (R112). -/
def SI.unpack (w : Field) : SI where
  variant := w.extractLsb' 38 2
  d := w.extractLsb' 32 6
  imm := w.extractLsb' 0 32

/-- Class VI: the 48 bits of a field with opcode `op` (R112). -/
def VI.pack (op : BitVec 8) (f : VI) : Field :=
  op ++ f.variant ++ f.pred ++ f.d ++ f.a ++ f.imm

/-- Class VI: the fields of bits [39:0] (R112). -/
def VI.unpack (w : Field) : VI where
  variant := w.extractLsb' 36 4
  pred := w.extractLsb' 31 5
  d := w.extractLsb' 24 7
  a := w.extractLsb' 16 8
  imm := w.extractLsb' 0 16

/-- Class VC: the 48 bits of a field with opcode `op` (R112). -/
def VC.pack (op : BitVec 8) (f : VC) : Field :=
  op ++ f.sat ++ f.fin ++ f.blk ++ f.pred ++ f.d ++ f.a ++ f.sc ++ f.tgt ++ f.src

/-- Class VC: the fields of bits [39:0] (R112). -/
def VC.unpack (w : Field) : VC where
  sat := w.extractLsb' 39 1
  fin := w.extractLsb' 38 1
  blk := w.extractLsb' 36 2
  pred := w.extractLsb' 31 5
  d := w.extractLsb' 24 7
  a := w.extractLsb' 17 7
  sc := w.extractLsb' 10 7
  tgt := w.extractLsb' 5 5
  src := w.extractLsb' 0 5

/-- Class FR: the 48 bits of a field with opcode `op` (R112). -/
def FR.pack (op : BitVec 8) (f : FR) : Field :=
  op ++ f.variant ++ f.pred ++ f.d ++ f.a ++ f.b ++ f.rsv ++ f.n

/-- Class FR: the fields of bits [39:0] (R112). -/
def FR.unpack (w : Field) : FR where
  variant := w.extractLsb' 36 4
  pred := w.extractLsb' 31 5
  d := w.extractLsb' 24 7
  a := w.extractLsb' 17 7
  b := w.extractLsb' 10 7
  rsv := w.extractLsb' 6 4
  n := w.extractLsb' 0 6

/-- Class MR: the 48 bits of a field with opcode `op` (R112). -/
def MR.pack (op : BitVec 8) (f : MR) : Field :=
  op ++ f.variant ++ f.ra ++ f.rb ++ f.sa ++ f.sb ++ f.imm

/-- Class MR: the fields of bits [39:0] (R112). -/
def MR.unpack (w : Field) : MR where
  variant := w.extractLsb' 36 4
  ra := w.extractLsb' 33 3
  rb := w.extractLsb' 30 3
  sa := w.extractLsb' 24 6
  sb := w.extractLsb' 18 6
  imm := w.extractLsb' 0 18

/-- Class ML: the 48 bits of a field with opcode `op` (R112). -/
def ML.pack (op : BitVec 8) (f : ML) : Field :=
  op ++ f.variant ++ f.ra ++ f.sa ++ f.sb ++ f.rsv ++ f.imm

/-- Class ML: the fields of bits [39:0] (R112). -/
def ML.unpack (w : Field) : ML where
  variant := w.extractLsb' 36 4
  ra := w.extractLsb' 33 3
  sa := w.extractLsb' 27 6
  sb := w.extractLsb' 21 6
  rsv := w.extractLsb' 20 1
  imm := w.extractLsb' 0 20

/-- Class LA: the 48 bits of a field with opcode `op` (R112). -/
def LA.pack (op : BitVec 8) (f : LA) : Field :=
  op ++ f.variant ++ f.pred ++ f.d ++ f.a ++ f.base ++ f.imm

/-- Class LA: the fields of bits [39:0] (R112). -/
def LA.unpack (w : Field) : LA where
  variant := w.extractLsb' 36 4
  pred := w.extractLsb' 31 5
  d := w.extractLsb' 24 7
  a := w.extractLsb' 17 7
  base := w.extractLsb' 11 6
  imm := w.extractLsb' 0 11

/-- Class LT: the 48 bits of a field with opcode `op` (R112). -/
def LT.pack (op : BitVec 8) (f : LT) : Field :=
  op ++ f.variant ++ f.pred ++ f.d ++ f.base ++ f.buf ++ f.imm

/-- Class LT: the fields of bits [39:0] (R112). -/
def LT.unpack (w : Field) : LT where
  variant := w.extractLsb' 36 4
  pred := w.extractLsb' 31 5
  d := w.extractLsb' 24 7
  base := w.extractLsb' 18 6
  buf := w.extractLsb' 16 2
  imm := w.extractLsb' 0 16

/-- Class XD: the 48 bits of a field with opcode `op` (R112). -/
def XD.pack (op : BitVec 8) (f : XD) : Field :=
  op ++ f.variant ++ f.pred ++ f.tok ++ f.sa ++ f.sb ++ f.sc ++ f.ra ++ f.rsv

/-- Class XD: the fields of bits [39:0] (R112). -/
def XD.unpack (w : Field) : XD where
  variant := w.extractLsb' 36 4
  pred := w.extractLsb' 31 5
  tok := w.extractLsb' 25 6
  sa := w.extractLsb' 19 6
  sb := w.extractLsb' 13 6
  sc := w.extractLsb' 7 6
  ra := w.extractLsb' 4 3
  rsv := w.extractLsb' 0 4

/-- Class HR: the 48 bits of a field with opcode `op` (R112). -/
def HR.pack (op : BitVec 8) (f : HR) : Field :=
  op ++ f.variant ++ f.pred ++ f.s ++ f.hd ++ f.ha ++ f.hb ++ f.imm

/-- Class HR: the fields of bits [39:0] (R112). -/
def HR.unpack (w : Field) : HR where
  variant := w.extractLsb' 36 4
  pred := w.extractLsb' 31 5
  s := w.extractLsb' 25 6
  hd := w.extractLsb' 21 4
  ha := w.extractLsb' 17 4
  hb := w.extractLsb' 13 4
  imm := w.extractLsb' 0 13

/-- Class HQ: the 48 bits of a field with opcode `op` (R112). -/
def HQ.pack (op : BitVec 8) (f : HQ) : Field :=
  op ++ f.variant ++ f.pred ++ f.tok ++ f.sd ++ f.h ++ f.ra ++ f.imm

/-- Class HQ: the fields of bits [39:0] (R112). -/
def HQ.unpack (w : Field) : HQ where
  variant := w.extractLsb' 36 4
  pred := w.extractLsb' 31 5
  tok := w.extractLsb' 25 6
  sd := w.extractLsb' 19 6
  h := w.extractLsb' 15 4
  ra := w.extractLsb' 12 3
  imm := w.extractLsb' 0 12

/-- One check of the entry filter on a field (R124 rules 2 and 7): the bit ranges (lowest bit, width) of the named fields it
looks at, the rule that a failure breaks, whether it holds, and, for reserved bits, which of them are set. -/
structure Chk where
  on : List (Nat × Nat)
  rule : Nat
  ok : Bool
  ones : List Nat
  deriving DecidableEq, Repr

/-- The bits of a field at bit lo that are set. -/
def onesAt {n : Nat} (lo : Nat) (x : BitVec n) : List Nat := ((List.range n).filter fun i => x.getLsbD i).map (lo + ·)
/-- Bits that are reserved where the ranges `on` say so: a field of its class that the opcode does not name, or a range that the
class reserves (R112, R142). -/
def Chk.rsv {n : Nat} (on : List (Nat × Nat)) (used : Bool) (lo : Nat) (x : BitVec n) : Chk :=
  ⟨on, 2, used || x == 0, if used then [] else onesAt lo x⟩
/-- Reserved bits, and the bits of a field that is reserved unless the opcode uses it. -/
def Chk.zero {n : Nat} (lo : Nat) (x : BitVec n) : Chk := .rsv [] false lo x
def Chk.need {n : Nat} (used : Bool) (lo : Nat) (x : BitVec n) : Chk := .rsv [] used lo x
/-- Named fields whose values must meet a limit (rule 2). -/
def Chk.rel (on : List (Nat × Nat)) (ok : Bool) : Chk := ⟨on, 2, ok, []⟩
def Chk.lim (lo w : Nat) (ok : Bool) : Chk := .rel [(lo, w)] ok
/-- A format selector, scope or pairing (rule 7). -/
def Chk.sel (on : List (Nat × Nat)) (ok : Bool) : Chk := ⟨on, 7, ok, []⟩
/-- A field that the opcode names, with its limit, or does not name. -/
def Chk.use {n : Nat} (lo : Nat) (x : BitVec n) (limit : Option (BitVec n → Bool)) : Chk :=
  match limit with
  | some ok => .lim lo n (ok x)
  | none => .zero lo x
/-- The same with a limit on the number. -/
def Chk.num {n : Nat} (lo : Nat) (x : BitVec n) (limit : Option (Nat → Bool)) : Chk :=
  match limit with
  | some ok => .lim lo n (ok x.toNat)
  | none => .zero lo x

/-- The predicate select 0b1_0000 is reserved (R113). -/
def chkPred (p : BitVec 5) : Chk := .lim 31 5 (p != 0x10)
/-- The variant must be one of these values (R142). -/
def chkVar (v : BitVec 4) (allowed : List Nat) : Chk := .lim 36 4 (allowed.contains v.toNat)

/-- A vector source operand code (R114): codes above 0xC3 are reserved. -/
def isVecSrc (c : BitVec 8) : Bool := c.toNat ≤ 0xC3
/-- A scalar, predicate or lane-mask operand code (R114). -/
def isS (c : BitVec 8) : Bool := c.toNat < 0x40
def isP (c : BitVec 8) : Bool := 0x40 ≤ c.toNat && c.toNat < 0x50
def isQ (c : BitVec 8) : Bool := 0x50 ≤ c.toNat && c.toNat < 0x58

/-- Checks of the two-source scalar operations and CMP (R145, R183): `u` whether bit [37] is permitted, `cond` whether
[39:38] is a condition, `dOk` the destination codes. -/
def chkS2 (u cond : Bool) (dOk : BitVec 8 → Bool) (f : R3) : List Chk :=
  [chkPred f.pred,
   .need cond 38 (f.variant.extractLsb' 2 2),
   .need u 37 (f.variant.extractLsb' 1 1),
   .lim 23 8 (dOk f.d), .lim 15 8 (isS f.a),
   if f.variant.getLsbD 0 then .rsv [(36, 1)] false 7 f.b else .rel [(36, 1), (7, 8)] (isS f.b),
   .rsv [(36, 1)] (f.variant.getLsbD 0) 0 f.c]

/-- Checks of the other SR operations: the legal variants and what d, a, b and c may hold. -/
def chkSR (vars : List Nat) (d a b : Option (BitVec 8 → Bool)) (c : Option (Nat → Bool)) (f : R3) : List Chk :=
  [chkPred f.pred, chkVar f.variant vars, .use 23 f.d d, .use 15 f.a a, .use 7 f.b b, .num 0 f.c c]

/-- Any value of a field. -/
def anyOf {α : Type} : α → Bool := fun _ => true
/-- d of a vector operation names a register (R193); d of a compare names q1 to q7 (R147). -/
def isVd (c : BitVec 8) : Bool := c.toNat < 0x80
def isQd (c : BitVec 8) : Bool := 1 ≤ c.toNat && c.toNat ≤ 7

/-- Checks of a KR operation: which of d, a, b are used, and the limits of imm16 as separate fields. -/
def chkKR (d a b : Bool) (imm : List Chk) (f : KR) : List Chk :=
  [chkVar f.variant [0], .need d 30 f.d, .need a 24 f.a, .need b 18 f.b, .zero 16 f.rsv] ++ imm

/-- Checks of a KB operation. -/
def chkKB (v : Nat) (cond target : Bool) (f : KB) : List Chk :=
  [chkVar f.variant [v], .need cond 32 f.cond, .need target 0 f.target]

/-- Amounts of GROW and SHRINK (R144). -/
def chkAmounts (f : KR) : List Chk :=
  [chkVar f.variant [0], .lim 30 6 (f.d.toNat < 16), .zero 24 f.a, .zero 18 f.b, .zero 16 f.rsv,
   .lim 0 5 ((f.imm.extractLsb' 0 5).toNat ≤ 16), .lim 5 5 ((f.imm.extractLsb' 5 5).toNat ≤ 16),
   .lim 10 3 ((f.imm.extractLsb' 10 3).toNat ≤ 4), .lim 13 3 ((f.imm.extractLsb' 13 3).toNat ≤ 4)]

/-- The formats of the selectors of R115. -/
def selWide (x : BitVec 5) : Bool := x.toNat < 3
def selInt (x : BitVec 5) : Bool := x.toNat == 3 || x.toNat == 4
def selP8 (x : BitVec 5) : Bool :=
  (0x09 ≤ x.toNat && x.toNat ≤ 0x0F) || (0x11 ≤ x.toNat && x.toNat ≤ 0x17)
/-- A selector of the table of R115. -/
def selValid (x : BitVec 5) : Bool := selWide x || selInt x || selP8 x

/-- Checks of CVT (R147, R206). -/
def chkCvt (f : VC) : List Chk :=
  [chkPred f.pred, .zero 36 f.blk, .zero 10 f.sc,
   .sel [(0, 5)] (selValid f.src), .sel [(5, 5)] (selValid f.tgt),
   .sel [(0, 5), (5, 5)] (f.src != f.tgt && !(selP8 f.src && selP8 f.tgt)),
   .rel [(39, 1), (5, 5)] (f.sat == 0 || selP8 f.tgt),
   .rel [(38, 1), (5, 5), (0, 5)] (f.fin == 0 || selP8 f.tgt || selP8 f.src)]

/-- Registers of the wide group (n) and of the narrow group (m = n x e_w / 256) of PCVTn (R208). -/
def pcvtNarrow (n : Nat) (f : VC) : Nat :=
  let wide := if selP8 f.tgt then f.src else f.tgt
  n * (if wide.toNat == 0 then 64 else 128) / 256

/-- Checks of PCVTn (R208). Of a pairing that R208 does not list, the group of its registers is counted as that of a listed one, so that a
misaligned register there is reported by rule 2, before rule 7 (DESIGN CHOICE, log 41). -/
def chkPcvt (n : Nat) (f : VC) : List Chk :=
  let m := pcvtNarrow n f
  let (sg, dg) := if selP8 f.tgt then (n, m) else (m, n)
  let sels := [(0, 5), (5, 5)]
  [chkPred f.pred, .sel [(0, 5)] (selValid f.src), .sel [(5, 5)] (selValid f.tgt),
   .sel sels ((selP8 f.tgt && selWide f.src) || (selP8 f.src && selWide f.tgt)),
   .sel sels (m ≠ 0),
   .rel ((17, 7) :: sels) (sg = 0 || f.a.toNat % sg = 0), .rel ((24, 7) :: sels) (dg = 0 || f.d.toNat % dg = 0)]

/-- Checks of an F operation. -/
def chkFR (vars : List Nat) (b : Bool) (n : Option (Nat → Bool)) (more : List Chk) (f : FR) : List Chk :=
  [chkPred f.pred, chkVar f.variant vars, .need b 10 f.b, .zero 6 f.rsv, .num 0 f.n n] ++ more

/-- Checks of an MR operation. -/
def chkMR (vars : List Nat) (ra rb sa sb : Bool) (imm : Option (Nat → Bool)) (f : MR) : List Chk :=
  [chkVar f.variant vars, .need ra 33 f.ra, .need rb 30 f.rb, .need sa 24 f.sa, .need sb 18 f.sb, .num 0 f.imm imm]

/-- Checks of a plain LA operation: legal variants, and whether d and a are used. -/
def chkLA (vars : List Nat) (d a : Bool) (f : LA) : List Chk :=
  [chkPred f.pred, chkVar f.variant vars, .need d 24 f.d, .need a 17 f.a]

/-- Checks of an atomic (R151, R234). -/
def chkAtomic (vars : List Nat) (f : LA) : List Chk :=
  [chkPred f.pred, chkVar f.variant vars, .zero 0 (f.imm.extractLsb' 0 6),
   .sel [(8, 3)] (f.imm.extractLsb' 8 3 != 7)]

/-- Checks of an LT operation. -/
def chkLT (vars : List Nat) (f : LT) : List Chk :=
  [chkPred f.pred, chkVar f.variant vars, .lim 16 2 (f.buf != 3)]

/-- Checks of an XD operation: which fields it uses. -/
def chkXD (vars : List Nat) (tok sa sb sc ra : Bool) (f : XD) : List Chk :=
  [chkPred f.pred, chkVar f.variant vars, .need tok 25 f.tok, .need sa 19 f.sa, .need sb 13 f.sb, .need sc 7 f.sc,
   .need ra 4 f.ra, .zero 0 f.rsv]

/-- Checks of an HR operation: which fields it uses, and the limits of imm13. -/
def chkHR (s hd ha hb : Bool) (imm : List Chk) (f : HR) : List Chk :=
  [chkPred f.pred, chkVar f.variant [0], .need s 25 f.s, .need hd 21 f.hd, .need ha 17 f.ha, .need hb 13 f.hb] ++ imm

/-- The checks of each row on its fields (R142 to R153, R206, R208, R291). An event has none. PF's field a must be zero, as R225
says; R150's row names it (DEDUCED, log 58). -/
def Instr.checks : Instr → List Chk
  | .bra f => chkKB 0 false true f
  | .brc f => chkKB 0 true true f
  | .brcN f => chkKB 1 true true f
  | .brdAny f => .lim 32 4 (f.cond.toNat < 8) :: chkKB 0 true true f
  | .brdAll f => .lim 32 4 (f.cond.toNat < 8) :: chkKB 1 true true f
  | .brdNone f => .lim 32 4 (f.cond.toNat < 8) :: chkKB 2 true true f
  | .call f => chkKB 0 false true f
  | .ret f => chkKR false true false [.zero 0 f.imm] f
  | .loop f => chkKB 0 false true f
  | .mark f => chkKR false true true [.lim 0 3 (f.imm.extractLsb' 0 3 != 0), .zero 3 (f.imm.extractLsb' 3 13)] f
  | .join f => chkKB 0 false false f
  | .exit f => chkKB 0 false false f
  | .trap f => chkKR false false false [] f
  | .wait f => [chkVar f.variant [0], .zero 0 f.rsv]
  | .waitt f =>
    [chkVar f.variant [0], .zero 24 f.rsv,
     .rsv [(35, 1)] (f.enable.getLsbD 3) 18 f.t3, .rsv [(34, 1)] (f.enable.getLsbD 2) 12 f.t2,
     .rsv [(33, 1)] (f.enable.getLsbD 1) 6 f.t1, .rsv [(32, 1)] (f.enable.getLsbD 0) 0 f.t0]
  | .barw f => [chkVar f.variant [0], .zero 20 f.rsv]
  | .bara f => chkKR true true true [] f
  | .csync f => chkKR true false false [.zero 0 f.imm] f
  | .fence f =>
    chkKR false false false
      [.lim 0 5 (f.imm.extractLsb' 0 5 != 0), .lim 5 5 (f.imm.extractLsb' 5 5 != 0),
       .zero 13 (f.imm.extractLsb' 13 3), .sel [(10, 3)] (f.imm.extractLsb' 10 3 != 7)] f
  | .grow f => chkAmounts f
  | .shrink f => chkAmounts f
  | .clkdiv f =>
    chkKR false false false
      [.lim 0 4 ([4, 5, 6, 8].contains (f.imm.extractLsb' 0 4).toNat), .zero 4 (f.imm.extractLsb' 4 12)] f
  | .gust f => chkKR true true false [.zero 0 f.imm] f
  | .gustrel f => chkKR false false false [.zero 0 f.imm] f
  | .rdcnt f => chkKR true false false [] f
  | .sysrd f => chkKR true false false [] f
  | .syswr f => .lim 0 16 (f.imm != 0x20 && f.imm != 0x40) :: chkKR false true false [] f
  | .intreq f => .lim 0 16 (f.imm == 0x20) :: chkKR false true false [] f
  | .dtinv f => .lim 0 16 (f.imm == 0x40) :: chkKR false true false [] f
  | .eret f => chkKB 0 false false f
  | .freezeStop f => chkKR false false false [.lim 0 16 (f.imm == 1)] f
  | .freezeResume f => chkKR false false false [.lim 0 16 (f.imm == 2)] f
  | .freezeSave f => chkKR false false false [.lim 0 16 (f.imm == 3)] f
  | .sAdd f | .sSub f | .sMul f | .sAnd f | .sOr f | .sXor f | .andn f | .sShl f | .sShr f | .sSar f | .rotl f =>
    chkS2 false false isS f
  | .mulh f | .sMin f | .sMax f => chkS2 true false isS f
  | .cmp f => chkS2 true true isP f
  | .plog f => chkSR (List.range 16) (some isP) (some isP) (some isP) none f
  | .sSel f => chkSR [0] (some isS) (some isS) (some isS) (some (· < 16)) f
  | .lea f => chkSR [0] (some isS) (some isS) (some isS) (some (· ≤ 6)) f
  | .bfx f => chkSR [0, 2] (some isS) (some isS) (some isS) (some (fun c => 1 ≤ c && c ≤ 64)) f
  | .bfi f => chkSR [0] (some isS) (some isS) (some isS) (some (fun c => 1 ≤ c && c ≤ 64)) f
  | .clz f | .popc f => chkSR [0] (some isS) (some isS) none none f
  | .movv f => chkSR [0] (some isS) (some (fun a => a.toNat < 0x80 || a == 0xC0 || a == 0xC3)) none (some (· < 64)) f
  | .movq f =>
    .rel [(23, 8), (15, 8)] ((isQ f.d && isS f.a) || (isS f.d && isQ f.a)) ::
      chkSR [0] (some (fun d => (isS d || isQ d) && d != 0x50)) (some (fun a => isS a || isQ a)) none none f
  | .srd f => chkSR [0] (some isS) none (some anyOf) none f
  | .swr f => chkSR [0] none (some isS) (some anyOf) none f
  | .li f => [.lim 38 2 (f.variant == 0)]
  | .liS f => [.lim 38 2 (f.variant == 1)]
  | .liHi f => [.lim 38 2 (f.variant == 2)]
  | .iadd _ f | .isub _ f => chkSR [0, 1] (some isVd) (some isVecSrc) (some isVecSrc) none f
  | .imul _ f => chkSR [0, 1, 2, 3] (some isVd) (some isVecSrc) (some isVecSrc) none f
  | .imad _ f => chkSR [0, 1, 2, 3] (some isVd) (some isVecSrc) (some isVecSrc) (some anyOf) f
  | .imin _ f | .imax _ f => chkSR [0, 2] (some isVd) (some isVecSrc) (some isVecSrc) none f
  | .iabs _ f => chkSR [0, 1] (some isVd) (some isVecSrc) none none f
  | .vAnd _ f | .vOr _ f | .vXor _ f | .vShl _ f | .vShr _ f | .vSar _ f =>
    chkSR [0] (some isVd) (some isVecSrc) (some isVecSrc) none f
  | .icmp _ f => chkSR [0, 2] (some isQd) (some isVecSrc) (some isVecSrc) (some (· ≤ 5)) f
  | .iaddImm _ f | .isubImm _ f => [chkPred f.pred, chkVar f.variant [0, 1], .lim 16 8 (isVecSrc f.a)]
  | .imulImm _ f => [chkPred f.pred, chkVar f.variant [0, 1, 2, 3], .lim 16 8 (isVecSrc f.a)]
  | .vAndImm _ f | .vOrImm _ f | .vXorImm _ f | .vShlImm _ f | .vShrImm _ f | .vSarImm _ f =>
    [chkPred f.pred, chkVar f.variant [0], .lim 16 8 (isVecSrc f.a)]
  | .fadd _ f | .fsub _ f | .fmul _ f | .fmin _ f | .fmax _ f =>
    chkSR [0, 1, 2] (some isVd) (some isVecSrc) (some isVecSrc) none f
  | .ffma _ f => chkSR [0, 1, 2] (some isVd) (some isVecSrc) (some isVecSrc) (some anyOf) f
  | .fcmp _ f => chkSR [0, 1, 2] (some isQd) (some isVecSrc) (some isVecSrc) (some (· ≤ 6)) f
  | .fclass _ f => chkSR [0, 1, 2] (some isVd) (some isVecSrc) none none f
  | .vSel _ f => chkSR [0] (some isVd) (some isVecSrc) (some isVecSrc) (some (· < 8)) f
  | .mov _ f => chkSR [0] (some isVd) (some isVecSrc) none none f
  | .movImm _ f => [chkPred f.pred, chkVar f.variant [0], .zero 16 f.a]
  | .bcast _ f => chkSR [0] (some isVd) (some isVecSrc) none (some (· < 64)) f
  | .qpop _ f => chkSR [0] (some isVd) none none (some (· < 8)) f
  | .perm _ f => chkSR [0] (some isVd) (some isVecSrc) (some isVecSrc) none f
  | .rowshUp _ f => chkSR [0] (some isVd) (some isVecSrc) none (some anyOf) f
  | .rowshDown _ f => chkSR [1] (some isVd) (some isVecSrc) none (some anyOf) f
  | .trans _ f => chkSR [0] (some isVd) (some isVecSrc) none none f
  | .shape f =>
    [chkPred f.pred, chkVar f.variant [0], .zero 24 f.d, .zero 16 f.a, .zero 6 (f.imm.extractLsb' 6 10)]
  | .cvt _ f => chkCvt f
  | .pcvt2 _ f => chkPcvt 2 f
  | .pcvt4 _ f => chkPcvt 4 f
  | .pcvt8 _ f => chkPcvt 8 f
  | .vredAdd _ f => chkSR [0, 1, 2] (some isVd) (some isVecSrc) none none f
  | .vredMax _ f => chkSR [4, 5, 6] (some isVd) (some isVecSrc) none none f
  | .rngu _ f => chkSR [0] (some isVd) none none none f
  | .rngb _ f => chkSR [0] (some isVd) (some isVecSrc) none none f
  | .kclr _ f => chkSR [0] none none none (some (· < 4)) f
  | .kacc _ f => chkSR [0, 1, 2] none (some isVecSrc) none (some (· < 4)) f
  | .kmac _ f => chkSR [0, 1, 2] none (some isVecSrc) (some isVecSrc) (some (· < 4)) f
  | .krd _ f => chkSR [0, 1, 2] (some isVd) (some (·.toNat ≤ 4)) none (some (· < 4)) f
  | .kscan _ f => chkSR [0] (some isVd) (some isVecSrc) none none f
  | .exp2 f | .exp f | .log2 f | .rcp f | .rsqrt f | .sqrt f | .sin f | .cos f | .tanh f | .sigm f | .gelu f =>
    chkFR [0] false none [] f
  | .mprg f => chkFR [0] true (some (24 ≤ ·)) [] f
  | .rstat f => chkFR [0] false none [.lim 24 7 (f.d != 127)] f
  | .smax f => chkFR [0] false none [] f
  | .smaxM f => chkFR [1] true none [] f
  | .rnormRms f => chkFR [0] true none [.lim 10 7 (f.b != 127)] f
  | .rnormLayer f => chkFR [1] true none [.lim 10 7 (f.b != 127)] f
  | .tswap f => chkFR [0] false none [.zero 31 f.pred, .zero 24 f.d, .zero 17 f.a] f
  | .ldst f => [chkVar f.variant [0], .zero 21 f.sb, .zero 20 f.rsv]
  | .mswap f => chkMR [0] false false false false none f
  | .mcfgAcc f => chkMR [0] true true true true (some anyOf) f
  | .mcfgFwd f => chkMR [1] true true true true (some anyOf) f
  | .mloop f => [chkVar f.variant [0], .zero 33 f.ra, .zero 20 f.rsv, .zero 18 (f.imm.extractLsb' 18 2)]
  | .madv f => chkMR [0] false false true false (some anyOf) f
  | .mzero f => chkMR [0] false false true false (some (fun n => 1 ≤ n && n ≤ 512)) f
  | .mcvt f => chkMR [0] true false true true (some anyOf) f
  | .ld f | .st f => chkLA [0, 1, 2, 3] true true f
  | .ldu f | .stu f => chkLA [0, 1, 2, 3] true false f
  | .pf f => chkLA [0] false false f
  | .ldb f => chkLT [0, 1] f
  | .stb f => chkLT [0] f
  | .aadd f | .aand f | .aor f | .axor f | .axchg f => chkAtomic [0, 1] f
  | .afadd f => chkAtomic [0] f
  | .amin f | .amax f => chkAtomic [0, 1, 2, 3] f
  | .acas f => chkAtomic [0, 1, 2] f
  | .copy f => chkXD [0] true true true false false f
  | .copyr f => chkXD [0, 1, 2] true true true false false f
  | .gath f => chkXD [0] true true true true false f
  | .resv f => chkXD [0] false true true false true f
  | .rels f => chkXD [0] false false false false true f
  | .tbld f => chkXD [0] true true true false false f
  | .put f => chkXD [0] true true true true false f
  | .get f => chkXD [0] true true true false false f
  | .signalSet f => chkXD [0] false true true false false f
  | .signalAdd f => chkXD [1] false true true false false f
  | .launch f => chkXD [0] true true false false false f
  | .hld f => chkHR true true false false [] f
  | .hst f => chkHR true false true false [] f
  | .hmov f => chkHR false true true false [.zero 0 f.imm] f
  | .hbind f => chkHR false true true true [.zero 0 f.imm] f
  | .hperm f => chkHR false true true false [] f
  | .hbun f =>
    chkHR false false true false
      [.lim 0 4 (f.imm.extractLsb' 0 4 != 0), .zero 6 (f.imm.extractLsb' 6 7)] f
  | .hthr f => chkHR false true false false [.zero 2 (f.imm.extractLsb' 2 11)] f
  | .hclrc f => chkHR false false false false [.zero 2 (f.imm.extractLsb' 2 11)] f
  | .hrand f => chkHR false true false false [.zero 0 f.imm] f
  | .hdist f => chkHR true false true true [.zero 0 f.imm] f
  | .htie f => chkHR true false false false [.zero 2 (f.imm.extractLsb' 2 11)] f
  | .hnear f =>
    [chkPred f.pred, chkVar f.variant [0], Chk.rel [(25, 6), (19, 6)] (f.tok == 0 || f.tok != f.sd)]
  | _ => []

/-- Whether holes leave a check standing: none covers a bit of the named fields that it looks at, and, for reserved bits, a set
one lies outside the holes (R124, R143). -/
def Chk.stands (holes : List (Nat × Nat)) (c : Chk) : Bool :=
  !(c.on.any fun (lo, w) => holes.any fun (hl, hw) => lo < hl + hw && hl < lo + w) &&
    (c.ones.isEmpty || c.ones.any fun i => !(holes.any fun (hl, hw) => hl ≤ i && i < hl + hw))

/-- The lowest rule of R124 (2 or 7) that a check breaks, looking only outside `holes`. -/
def brokenRule (holes : List (Nat × Nat)) (cs : List Chk) : Option Nat :=
  let live := cs.filter (Chk.stands holes)
  if live.any (fun c => c.rule == 2 && !c.ok) then some 2
  else if live.any (fun c => !c.ok) then some 7 else none

/-- Why a field is no instruction of its slot: R124 rules 1, 2 and 7. -/
inductive DecodeError where
  /-- rule 1: the opcode is not defined for the slot -/
  | undefinedOpcode
  /-- rule 2: a reserved bit, variant or field value -/
  | reserved
  /-- rule 7: a format selector, pairing or scope code -/
  | format
  deriving DecidableEq, Repr

/-- The row that slot K gives an opcode (R144); none where the opcode is not defined. -/
def rawK (w : Field) : Option Instr :=
  match (opcodeOf w).toNat with
  | 0x01 => some (.bra (KB.unpack w))
  | 0x02 => some (if (KB.unpack w).variant = 0 then .brc (KB.unpack w) else .brcN (KB.unpack w))
  | 0x03 => some (if (KB.unpack w).variant = 0 then .brdAny (KB.unpack w) else if (KB.unpack w).variant = 1 then .brdAll (KB.unpack w) else .brdNone (KB.unpack w))
  | 0x04 => some (.call (KB.unpack w))
  | 0x05 => some (.ret (KR.unpack w))
  | 0x06 => some (.loop (KB.unpack w))
  | 0x07 => some (.mark (KR.unpack w))
  | 0x08 => some (.join (KB.unpack w))
  | 0x09 => some (.exit (KB.unpack w))
  | 0x0a => some (.trap (KR.unpack w))
  | 0x10 => some (.wait (KWait.unpack w))
  | 0x11 => some (.waitt (KWaitt.unpack w))
  | 0x12 => some (.barw (KBarw.unpack w))
  | 0x13 => some (.bara (KR.unpack w))
  | 0x14 => some (.csync (KR.unpack w))
  | 0x15 => some (.fence (KR.unpack w))
  | 0x18 => some (.grow (KR.unpack w))
  | 0x19 => some (.shrink (KR.unpack w))
  | 0x1a => some (.clkdiv (KR.unpack w))
  | 0x1b => some (.gust (KR.unpack w))
  | 0x1c => some (.gustrel (KR.unpack w))
  | 0x1d => some (.rdcnt (KR.unpack w))
  | 0x30 => some (.sysrd (KR.unpack w))
  | 0x31 => some (if (KR.unpack w).imm = 0x20 then .intreq (KR.unpack w) else if (KR.unpack w).imm = 0x40 then .dtinv (KR.unpack w) else .syswr (KR.unpack w))
  | 0x32 => some (.eret (KB.unpack w))
  | 0x33 => some (if (KR.unpack w).imm = 1 then .freezeStop (KR.unpack w) else if (KR.unpack w).imm = 2 then .freezeResume (KR.unpack w) else .freezeSave (KR.unpack w))
  | _ => none

/-- The row that slot S gives an opcode (R145); none where the opcode is not defined. -/
def rawS (w : Field) : Option Instr :=
  match (opcodeOf w).toNat with
  | 0x01 => some (.sAdd (R3.unpack w))
  | 0x02 => some (.sSub (R3.unpack w))
  | 0x03 => some (.sMul (R3.unpack w))
  | 0x04 => some (.mulh (R3.unpack w))
  | 0x05 => some (.sAnd (R3.unpack w))
  | 0x06 => some (.sOr (R3.unpack w))
  | 0x07 => some (.sXor (R3.unpack w))
  | 0x08 => some (.andn (R3.unpack w))
  | 0x09 => some (.sShl (R3.unpack w))
  | 0x0a => some (.sShr (R3.unpack w))
  | 0x0b => some (.sSar (R3.unpack w))
  | 0x0c => some (.rotl (R3.unpack w))
  | 0x0d => some (.sMin (R3.unpack w))
  | 0x0e => some (.sMax (R3.unpack w))
  | 0x0f => some (.cmp (R3.unpack w))
  | 0x10 => some (.plog (R3.unpack w))
  | 0x11 => some (.sSel (R3.unpack w))
  | 0x12 => some (.lea (R3.unpack w))
  | 0x13 => some (.bfx (R3.unpack w))
  | 0x14 => some (.bfi (R3.unpack w))
  | 0x15 => some (.clz (R3.unpack w))
  | 0x16 => some (.popc (R3.unpack w))
  | 0x17 => some (.movv (R3.unpack w))
  | 0x18 => some (.movq (R3.unpack w))
  | 0x19 => some (.srd (R3.unpack w))
  | 0x1a => some (.swr (R3.unpack w))
  | 0x28 => some (if (SI.unpack w).variant = 0 then .li (SI.unpack w) else if (SI.unpack w).variant = 1 then .liS (SI.unpack w) else .liHi (SI.unpack w))
  | _ => none

/-- The row that slot VA or VB gives an opcode (R147); none where the opcode is not defined. -/
def rawV (sl : VSlot) (w : Field) : Option Instr :=
  match (opcodeOf w).toNat with
  | 0x01 => some (.iadd sl (R3.unpack w))
  | 0x02 => some (.isub sl (R3.unpack w))
  | 0x03 => some (.imul sl (R3.unpack w))
  | 0x04 => some (.imad sl (R3.unpack w))
  | 0x05 => some (.imin sl (R3.unpack w))
  | 0x06 => some (.imax sl (R3.unpack w))
  | 0x07 => some (.iabs sl (R3.unpack w))
  | 0x08 => some (.vAnd sl (R3.unpack w))
  | 0x09 => some (.vOr sl (R3.unpack w))
  | 0x0a => some (.vXor sl (R3.unpack w))
  | 0x0b => some (.vShl sl (R3.unpack w))
  | 0x0c => some (.vShr sl (R3.unpack w))
  | 0x0d => some (.vSar sl (R3.unpack w))
  | 0x0e => some (.icmp sl (R3.unpack w))
  | 0x11 => some (.iaddImm sl (VI.unpack w))
  | 0x12 => some (.isubImm sl (VI.unpack w))
  | 0x13 => some (.imulImm sl (VI.unpack w))
  | 0x18 => some (.vAndImm sl (VI.unpack w))
  | 0x19 => some (.vOrImm sl (VI.unpack w))
  | 0x1a => some (.vXorImm sl (VI.unpack w))
  | 0x1b => some (.vShlImm sl (VI.unpack w))
  | 0x1c => some (.vShrImm sl (VI.unpack w))
  | 0x1d => some (.vSarImm sl (VI.unpack w))
  | 0x30 => some (.fadd sl (R3.unpack w))
  | 0x31 => some (.fsub sl (R3.unpack w))
  | 0x32 => some (.fmul sl (R3.unpack w))
  | 0x33 => some (.ffma sl (R3.unpack w))
  | 0x34 => some (.fmin sl (R3.unpack w))
  | 0x35 => some (.fmax sl (R3.unpack w))
  | 0x36 => some (.fcmp sl (R3.unpack w))
  | 0x37 => some (.fclass sl (R3.unpack w))
  | 0x40 => some (.vSel sl (R3.unpack w))
  | 0x41 => some (.mov sl (R3.unpack w))
  | 0x47 => some (.movImm sl (VI.unpack w))
  | 0x42 => some (.bcast sl (R3.unpack w))
  | 0x59 => some (.qpop sl (R3.unpack w))
  | 0x43 => some (.perm sl (R3.unpack w))
  | 0x44 => some (if (R3.unpack w).variant = 0 then .rowshUp sl (R3.unpack w) else .rowshDown sl (R3.unpack w))
  | 0x45 => some (.trans sl (R3.unpack w))
  | 0x46 => if sl = .va then some (.shape (VI.unpack w)) else none
  | 0x50 => some (.cvt sl (VC.unpack w))
  | 0x51 => some (.pcvt2 sl (VC.unpack w))
  | 0x52 => some (.pcvt4 sl (VC.unpack w))
  | 0x53 => some (.pcvt8 sl (VC.unpack w))
  | 0x58 => some (if (R3.unpack w).variant.getLsbD 2 then .vredMax sl (R3.unpack w) else .vredAdd sl (R3.unpack w))
  | 0x5a => some (.rngu sl (R3.unpack w))
  | 0x5b => some (.rngb sl (R3.unpack w))
  | 0x60 => some (.kclr sl (R3.unpack w))
  | 0x61 => some (.kacc sl (R3.unpack w))
  | 0x62 => some (.kmac sl (R3.unpack w))
  | 0x63 => some (.krd sl (R3.unpack w))
  | 0x64 => some (.kscan sl (R3.unpack w))
  | _ => none

/-- The row that slot F gives an opcode (R148); none where the opcode is not defined. -/
def rawF (w : Field) : Option Instr :=
  match (opcodeOf w).toNat with
  | 0x01 => some (.exp2 (FR.unpack w))
  | 0x02 => some (.exp (FR.unpack w))
  | 0x03 => some (.log2 (FR.unpack w))
  | 0x04 => some (.rcp (FR.unpack w))
  | 0x05 => some (.rsqrt (FR.unpack w))
  | 0x06 => some (.sqrt (FR.unpack w))
  | 0x07 => some (.sin (FR.unpack w))
  | 0x08 => some (.cos (FR.unpack w))
  | 0x09 => some (.tanh (FR.unpack w))
  | 0x0a => some (.sigm (FR.unpack w))
  | 0x0b => some (.gelu (FR.unpack w))
  | 0x10 => some (.mprg (FR.unpack w))
  | 0x18 => some (.rstat (FR.unpack w))
  | 0x19 => some (if (FR.unpack w).variant = 0 then .smax (FR.unpack w) else .smaxM (FR.unpack w))
  | 0x1a => some (if (FR.unpack w).variant = 0 then .rnormRms (FR.unpack w) else .rnormLayer (FR.unpack w))
  | 0x1f => some (.tswap (FR.unpack w))
  | _ => none

/-- The row that slot M gives an opcode (R149); none where the opcode is not defined. -/
def rawM (w : Field) : Option Instr :=
  match (opcodeOf w).toNat with
  | 0x01 => some (.ldst (ML.unpack w))
  | 0x02 => some (.mswap (MR.unpack w))
  | 0x03 => some (if (MR.unpack w).variant = 0 then .mcfgAcc (MR.unpack w) else .mcfgFwd (MR.unpack w))
  | 0x04 => some (.mloop (ML.unpack w))
  | 0x05 => some (.madv (MR.unpack w))
  | 0x06 => some (.mzero (MR.unpack w))
  | 0x07 => some (.mcvt (MR.unpack w))
  | _ => none

/-- The row that slot L gives an opcode (R150, R151); none where the opcode is not defined. -/
def rawL (w : Field) : Option Instr :=
  match (opcodeOf w).toNat with
  | 0x01 => some (.ld (LA.unpack w))
  | 0x02 => some (.st (LA.unpack w))
  | 0x03 => some (.ldu (LA.unpack w))
  | 0x04 => some (.stu (LA.unpack w))
  | 0x05 => some (.pf (LA.unpack w))
  | 0x08 => some (.ldb (LT.unpack w))
  | 0x09 => some (.stb (LT.unpack w))
  | 0x10 => some (.aadd (LA.unpack w))
  | 0x11 => some (.afadd (LA.unpack w))
  | 0x12 => some (.amin (LA.unpack w))
  | 0x13 => some (.amax (LA.unpack w))
  | 0x14 => some (.aand (LA.unpack w))
  | 0x15 => some (.aor (LA.unpack w))
  | 0x16 => some (.axor (LA.unpack w))
  | 0x17 => some (.axchg (LA.unpack w))
  | 0x18 => some (.acas (LA.unpack w))
  | _ => none

/-- The row that slot X gives an opcode (R152); none where the opcode is not defined. -/
def rawX (w : Field) : Option Instr :=
  match (opcodeOf w).toNat with
  | 0x01 => some (.copy (XD.unpack w))
  | 0x02 => some (.copyr (XD.unpack w))
  | 0x03 => some (.gath (XD.unpack w))
  | 0x04 => some (.resv (XD.unpack w))
  | 0x05 => some (.rels (XD.unpack w))
  | 0x06 => some (.tbld (XD.unpack w))
  | 0x08 => some (.put (XD.unpack w))
  | 0x09 => some (.get (XD.unpack w))
  | 0x0a => some (if (XD.unpack w).variant = 0 then .signalSet (XD.unpack w) else .signalAdd (XD.unpack w))
  | 0x0b => some (.launch (XD.unpack w))
  | _ => none

/-- The row that slot H gives an opcode (R153); none where the opcode is not defined. -/
def rawH (w : Field) : Option Instr :=
  match (opcodeOf w).toNat with
  | 0x01 => some (.hld (HR.unpack w))
  | 0x02 => some (.hst (HR.unpack w))
  | 0x03 => some (.hmov (HR.unpack w))
  | 0x04 => some (.hbind (HR.unpack w))
  | 0x05 => some (.hperm (HR.unpack w))
  | 0x06 => some (.hbun (HR.unpack w))
  | 0x07 => some (.hthr (HR.unpack w))
  | 0x08 => some (.hclrc (HR.unpack w))
  | 0x09 => some (.hrand (HR.unpack w))
  | 0x0a => some (.hdist (HR.unpack w))
  | 0x0b => some (.htie (HR.unpack w))
  | 0x10 => some (.hnear (HQ.unpack w))
  | _ => none

/-- The row of a slot's opcode, with its fields unpacked and not yet checked; none for an opcode the slot does not
define (R141). -/
def rawDecode (s : Slot) (w : Field) : Option Instr :=
  match s with
  | .k => rawK w
  | .s => rawS w
  | .va => rawV .va w
  | .vb => rawV .vb w
  | .f => rawF w
  | .m => rawM w
  | .l => rawL w
  | .x => rawX w
  | .h => rawH w

/-- Decode the filled field of a slot (R112, R141 to R143): the operation, or the reason it is none. -/
def decode (s : Slot) (w : Field) : Except DecodeError Instr :=
  match rawDecode s w with
  | none => .error .undefinedOpcode
  | some i =>
    match brokenRule [] i.checks with
    | none => .ok i
    | some 2 => .error .reserved
    | some _ => .error .format

/-- A filled field with opcode 0x00 is idle; any other bit set breaks rule 2 (R109, R124). -/
def isIdle (w : Field) : Bool := opcodeOf w == 0

/-- The instruction of a word: bits [47:0] are the slot field (opcode in [47:40]) and bits [51:48] the slot number of
R438. The opcode table gives its rows no bits; this numbering is the model's (DESIGN CHOICE, log 6). -/
def decodeTableWord (nbits w : Nat) : Option Instr :=
  match Slot.ofNum (w % 2 ^ nbits / 2 ^ 48) with
  | none => none
  | some s =>
    match decode s (BitVec.ofNat 48 (w % 2 ^ nbits)) with
    | .ok i => some i
    | .error _ => none

/-- The slot and the 48 bits that encode a slot operation (R112, R144 to R153); none for an event, which no bundle
holds. -/
def encode (i : Instr) : Option (Slot × Field) :=
  match i with
  | .bra f => some (.k, f.pack 0x01)
  | .brc f => some (.k, f.pack 0x02)
  | .brcN f => some (.k, f.pack 0x02)
  | .brdAny f => some (.k, f.pack 0x03)
  | .brdAll f => some (.k, f.pack 0x03)
  | .brdNone f => some (.k, f.pack 0x03)
  | .call f => some (.k, f.pack 0x04)
  | .ret f => some (.k, f.pack 0x05)
  | .loop f => some (.k, f.pack 0x06)
  | .mark f => some (.k, f.pack 0x07)
  | .join f => some (.k, f.pack 0x08)
  | .exit f => some (.k, f.pack 0x09)
  | .trap f => some (.k, f.pack 0x0a)
  | .wait f => some (.k, f.pack 0x10)
  | .waitt f => some (.k, f.pack 0x11)
  | .barw f => some (.k, f.pack 0x12)
  | .bara f => some (.k, f.pack 0x13)
  | .csync f => some (.k, f.pack 0x14)
  | .fence f => some (.k, f.pack 0x15)
  | .grow f => some (.k, f.pack 0x18)
  | .shrink f => some (.k, f.pack 0x19)
  | .clkdiv f => some (.k, f.pack 0x1a)
  | .gust f => some (.k, f.pack 0x1b)
  | .gustrel f => some (.k, f.pack 0x1c)
  | .rdcnt f => some (.k, f.pack 0x1d)
  | .sysrd f => some (.k, f.pack 0x30)
  | .syswr f => some (.k, f.pack 0x31)
  | .intreq f => some (.k, f.pack 0x31)
  | .dtinv f => some (.k, f.pack 0x31)
  | .eret f => some (.k, f.pack 0x32)
  | .freezeStop f => some (.k, f.pack 0x33)
  | .freezeResume f => some (.k, f.pack 0x33)
  | .freezeSave f => some (.k, f.pack 0x33)
  | .sAdd f => some (.s, f.pack 0x01)
  | .sSub f => some (.s, f.pack 0x02)
  | .sMul f => some (.s, f.pack 0x03)
  | .mulh f => some (.s, f.pack 0x04)
  | .sAnd f => some (.s, f.pack 0x05)
  | .sOr f => some (.s, f.pack 0x06)
  | .sXor f => some (.s, f.pack 0x07)
  | .andn f => some (.s, f.pack 0x08)
  | .sShl f => some (.s, f.pack 0x09)
  | .sShr f => some (.s, f.pack 0x0a)
  | .sSar f => some (.s, f.pack 0x0b)
  | .rotl f => some (.s, f.pack 0x0c)
  | .sMin f => some (.s, f.pack 0x0d)
  | .sMax f => some (.s, f.pack 0x0e)
  | .cmp f => some (.s, f.pack 0x0f)
  | .plog f => some (.s, f.pack 0x10)
  | .sSel f => some (.s, f.pack 0x11)
  | .lea f => some (.s, f.pack 0x12)
  | .bfx f => some (.s, f.pack 0x13)
  | .bfi f => some (.s, f.pack 0x14)
  | .clz f => some (.s, f.pack 0x15)
  | .popc f => some (.s, f.pack 0x16)
  | .movv f => some (.s, f.pack 0x17)
  | .movq f => some (.s, f.pack 0x18)
  | .srd f => some (.s, f.pack 0x19)
  | .swr f => some (.s, f.pack 0x1a)
  | .li f => some (.s, f.pack 0x28)
  | .liS f => some (.s, f.pack 0x28)
  | .liHi f => some (.s, f.pack 0x28)
  | .iadd sl f => some (sl.slot, f.pack 0x01)
  | .isub sl f => some (sl.slot, f.pack 0x02)
  | .imul sl f => some (sl.slot, f.pack 0x03)
  | .imad sl f => some (sl.slot, f.pack 0x04)
  | .imin sl f => some (sl.slot, f.pack 0x05)
  | .imax sl f => some (sl.slot, f.pack 0x06)
  | .iabs sl f => some (sl.slot, f.pack 0x07)
  | .vAnd sl f => some (sl.slot, f.pack 0x08)
  | .vOr sl f => some (sl.slot, f.pack 0x09)
  | .vXor sl f => some (sl.slot, f.pack 0x0a)
  | .vShl sl f => some (sl.slot, f.pack 0x0b)
  | .vShr sl f => some (sl.slot, f.pack 0x0c)
  | .vSar sl f => some (sl.slot, f.pack 0x0d)
  | .icmp sl f => some (sl.slot, f.pack 0x0e)
  | .iaddImm sl f => some (sl.slot, f.pack 0x11)
  | .isubImm sl f => some (sl.slot, f.pack 0x12)
  | .imulImm sl f => some (sl.slot, f.pack 0x13)
  | .vAndImm sl f => some (sl.slot, f.pack 0x18)
  | .vOrImm sl f => some (sl.slot, f.pack 0x19)
  | .vXorImm sl f => some (sl.slot, f.pack 0x1a)
  | .vShlImm sl f => some (sl.slot, f.pack 0x1b)
  | .vShrImm sl f => some (sl.slot, f.pack 0x1c)
  | .vSarImm sl f => some (sl.slot, f.pack 0x1d)
  | .fadd sl f => some (sl.slot, f.pack 0x30)
  | .fsub sl f => some (sl.slot, f.pack 0x31)
  | .fmul sl f => some (sl.slot, f.pack 0x32)
  | .ffma sl f => some (sl.slot, f.pack 0x33)
  | .fmin sl f => some (sl.slot, f.pack 0x34)
  | .fmax sl f => some (sl.slot, f.pack 0x35)
  | .fcmp sl f => some (sl.slot, f.pack 0x36)
  | .fclass sl f => some (sl.slot, f.pack 0x37)
  | .vSel sl f => some (sl.slot, f.pack 0x40)
  | .mov sl f => some (sl.slot, f.pack 0x41)
  | .movImm sl f => some (sl.slot, f.pack 0x47)
  | .bcast sl f => some (sl.slot, f.pack 0x42)
  | .qpop sl f => some (sl.slot, f.pack 0x59)
  | .perm sl f => some (sl.slot, f.pack 0x43)
  | .rowshUp sl f => some (sl.slot, f.pack 0x44)
  | .rowshDown sl f => some (sl.slot, f.pack 0x44)
  | .trans sl f => some (sl.slot, f.pack 0x45)
  | .shape f => some (.va, f.pack 0x46)
  | .cvt sl f => some (sl.slot, f.pack 0x50)
  | .pcvt2 sl f => some (sl.slot, f.pack 0x51)
  | .pcvt4 sl f => some (sl.slot, f.pack 0x52)
  | .pcvt8 sl f => some (sl.slot, f.pack 0x53)
  | .vredAdd sl f => some (sl.slot, f.pack 0x58)
  | .vredMax sl f => some (sl.slot, f.pack 0x58)
  | .rngu sl f => some (sl.slot, f.pack 0x5a)
  | .rngb sl f => some (sl.slot, f.pack 0x5b)
  | .kclr sl f => some (sl.slot, f.pack 0x60)
  | .kacc sl f => some (sl.slot, f.pack 0x61)
  | .kmac sl f => some (sl.slot, f.pack 0x62)
  | .krd sl f => some (sl.slot, f.pack 0x63)
  | .kscan sl f => some (sl.slot, f.pack 0x64)
  | .exp2 f => some (.f, f.pack 0x01)
  | .exp f => some (.f, f.pack 0x02)
  | .log2 f => some (.f, f.pack 0x03)
  | .rcp f => some (.f, f.pack 0x04)
  | .rsqrt f => some (.f, f.pack 0x05)
  | .sqrt f => some (.f, f.pack 0x06)
  | .sin f => some (.f, f.pack 0x07)
  | .cos f => some (.f, f.pack 0x08)
  | .tanh f => some (.f, f.pack 0x09)
  | .sigm f => some (.f, f.pack 0x0a)
  | .gelu f => some (.f, f.pack 0x0b)
  | .mprg f => some (.f, f.pack 0x10)
  | .rstat f => some (.f, f.pack 0x18)
  | .smax f => some (.f, f.pack 0x19)
  | .smaxM f => some (.f, f.pack 0x19)
  | .rnormRms f => some (.f, f.pack 0x1a)
  | .rnormLayer f => some (.f, f.pack 0x1a)
  | .tswap f => some (.f, f.pack 0x1f)
  | .ldst f => some (.m, f.pack 0x01)
  | .mswap f => some (.m, f.pack 0x02)
  | .mcfgAcc f => some (.m, f.pack 0x03)
  | .mcfgFwd f => some (.m, f.pack 0x03)
  | .mloop f => some (.m, f.pack 0x04)
  | .madv f => some (.m, f.pack 0x05)
  | .mzero f => some (.m, f.pack 0x06)
  | .mcvt f => some (.m, f.pack 0x07)
  | .ld f => some (.l, f.pack 0x01)
  | .st f => some (.l, f.pack 0x02)
  | .ldu f => some (.l, f.pack 0x03)
  | .stu f => some (.l, f.pack 0x04)
  | .pf f => some (.l, f.pack 0x05)
  | .ldb f => some (.l, f.pack 0x08)
  | .stb f => some (.l, f.pack 0x09)
  | .aadd f => some (.l, f.pack 0x10)
  | .afadd f => some (.l, f.pack 0x11)
  | .amin f => some (.l, f.pack 0x12)
  | .amax f => some (.l, f.pack 0x13)
  | .aand f => some (.l, f.pack 0x14)
  | .aor f => some (.l, f.pack 0x15)
  | .axor f => some (.l, f.pack 0x16)
  | .axchg f => some (.l, f.pack 0x17)
  | .acas f => some (.l, f.pack 0x18)
  | .copy f => some (.x, f.pack 0x01)
  | .copyr f => some (.x, f.pack 0x02)
  | .gath f => some (.x, f.pack 0x03)
  | .resv f => some (.x, f.pack 0x04)
  | .rels f => some (.x, f.pack 0x05)
  | .tbld f => some (.x, f.pack 0x06)
  | .put f => some (.x, f.pack 0x08)
  | .get f => some (.x, f.pack 0x09)
  | .signalSet f => some (.x, f.pack 0x0a)
  | .signalAdd f => some (.x, f.pack 0x0a)
  | .launch f => some (.x, f.pack 0x0b)
  | .hld f => some (.h, f.pack 0x01)
  | .hst f => some (.h, f.pack 0x02)
  | .hmov f => some (.h, f.pack 0x03)
  | .hbind f => some (.h, f.pack 0x04)
  | .hperm f => some (.h, f.pack 0x05)
  | .hbun f => some (.h, f.pack 0x06)
  | .hthr f => some (.h, f.pack 0x07)
  | .hclrc f => some (.h, f.pack 0x08)
  | .hrand f => some (.h, f.pack 0x09)
  | .hdist f => some (.h, f.pack 0x0a)
  | .htie f => some (.h, f.pack 0x0b)
  | .hnear f => some (.h, f.pack 0x10)
  | .csyncRelease _ _ _ _ => none
  | .shrinkRelease _ _ => none
  | .tlbInvalidatePage _ _ _ => none
  | .tlbInvalidatePartition _ _ => none
  | .migratePage _ _ _ => none
  | .setDirtyLog _ _ _ => none
  | .ldstComplete _ _ => none
  | .tileOpStart _ => none
  | .tileOpComplete _ _ => none
  | .loadComplete _ _ _ => none
  | .storeComplete _ _ _ => none
  | .copyBegin _ _ => none
  | .copyBytesLand _ _ _ => none
  | .copyComplete _ _ => none
  | .hAsyncComplete _ _ => none
  | .exposedWriteLand _ => none
  | .strokeFetch _ _ => none
  | .quillRefill _ _ _ _ => none
  | .strokeGrant _ => none
  | .userTrapDelivery _ _ => none
  | .warpRetire _ _ => none
  | .blockRetire _ _ => none
  | .launchComplete _ => none
  | .blockClaim _ _ _ => none
  | .blockPlace _ _ _ => none
  | .ageingInterval _ => none
  | .warpAgeing _ _ => none
  | .victimResume _ _ => none
  | .pageWalk _ _ _ => none
  | .replay _ _ => none
  | .blockRestore _ _ _ => none
  | .thermalMigration _ _ _ => none
  | .errorRetry _ _ => none
  | .coreLoss _ => none
  | .retentionEntry _ => none
  | .retentionExit _ _ => none
  | .leaseExpiry _ _ => none
  | .lullEntry _ _ => none
  | .lullExit _ _ => none
  | .thermalThrottle _ _ => none
  | .clusterTrip _ _ => none
  | .tripEnd _ _ => none
  | .divisorSwitch _ => none
  | .currentLevelUpdate _ _ => none
  | .droopStretch _ => none
  | .ballastStart _ => none
  | .ballastRampEnd => none
  | .partitionEnable _ _ => none
  | .partitionReset _ => none
  | .qosChange _ _ => none
  | .ctxctlSuspend _ => none
  | .ctxctlResume _ => none
  | .hostRegisterWrite _ _ _ => none
  | .sqTail _ _ _ _ => none
  | .nop _ => none
  | .load _ => none
  | .kick _ => none
  | .unload _ => none
  | .ringEntryInvalid _ => none
  | .msixUnmask _ _ => none
  | .remoteAccessArrival _ _ => none
  | .hostBridgeAccess _ _ => none
  | .l2Eviction _ _ => none
  | .remoteRequestTimeout _ _ => none
  | .linkCrcRetry _ _ _ => none
  | .firmwareUpdate _ => none
  | .firmwareTakeover => none
  | .firmwareFailover => none
  | .packageBoot _ => none
  | .getVersion => none
  | .getCapabilities => none
  | .negotiateAlgorithms _ _ => none
  | .getDigests => none
  | .getCertificate _ _ _ => none
  | .challenge _ _ => none
  | .getMeasurements _ => none
  | .traceFillWrite _ _ => none
  | .traceSample _ => none
  | .breakpointHit _ _ => none
  | .breakpointResume _ _ => none
  | .migrationLineCopy _ => none
  | .throttleRelease _ _ => none
  | .hostCompletionTimeout _ => none
  | .freezeDone _ => none
  | .partitionResetDone _ => none
  | .ctxctlDone _ => none

end Sys2Proof
end

