-- ==== Sys2Proof/Machine/Access.lean ====
section
/-! DEFINITION. Reading and changing the parts of the state, positions of the hardware (spec/02_program_state.md R61),
and time. -/

namespace Sys2Proof.Machine

/-- The outcome of a step. -/
abbrev Out := Host.Outcome State Fault Refusal

/-- Core c changed by f. -/
def State.modCore (s : State) (c : CoreId) (f : Core → Core) : State := { s with cores := upd s.cores c f }
/-- Cluster cl changed by f. -/
def State.modCluster (s : State) (cl : ClusterId) (f : Cluster → Cluster) : State :=
  { s with clusters := upd s.clusters cl f }
/-- Partition p changed by f. -/
def State.modPart (s : State) (p : PartId) (f : Partition → Partition) : State := { s with parts := upd s.parts p f }
/-- Warp slot w of a core, if a warp stands there, changed by f. -/
def Core.modWarp (k : Core) (w : WarpId) (f : Warp → Warp) : Core := { k with warps := upd k.warps w (Option.map f) }
/-- Warp w of core c changed by f. -/
def State.modWarp (s : State) (c : CoreId) (w : WarpId) (f : Warp → Warp) : State := s.modCore c (·.modWarp w f)
/-- The warp in slot w of core c. -/
def State.warp? (s : State) (c : CoreId) (w : WarpId) : Option Warp := s.cores[c].warps[w]
/-- The block of a core with this identifier. -/
def Core.block? (k : Core) (bid : Nat) : Option Block := k.blocks.find? fun b => b.bid == bid
/-- The block of core c with this identifier changed by f. -/
def Core.modBlock (k : Core) (bid : Nat) (f : Block → Block) : Core :=
  { k with blocks := k.blocks.map fun b => if b.bid == bid then f b else b }
def State.modBlock (s : State) (c : CoreId) (bid : Nat) (f : Block → Block) : State := s.modCore c (·.modBlock bid f)
/-- Every warp of a block changed by f. -/
def Core.modBlockWarps (k : Core) (bid : Nat) (f : Warp → Warp) : Core :=
  { k with warps := k.warps.map (Option.map fun w => if w.bid == bid then f w else w) }

/-- The warps of a core with their slots. -/
def Core.warpList (k : Core) : List (WarpId × Warp) :=
  (List.finRange 8).filterMap fun w => k.warps[w].map fun x => (w, x)
/-- The warps of a block, in wid order (R18). -/
def Core.blockWarps (k : Core) (bid : Nat) : List (WarpId × Warp) :=
  match k.block? bid with
  | none => []
  | some b => b.warps.filterMap fun w => k.warps[w].map fun x => (w, x)

/-- Every core, and every core with its number. -/
def allCores : List CoreId := List.finRange 320
/-- The cores on which every block is looked for. -/
def State.blocksOf (s : State) (p : PartId) : List (CoreId × Block) :=
  allCores.flatMap fun c => (s.cores[c].blocks.filter fun b => b.part == p).map fun b => (c, b)

/-- Physical cluster of a core, its compute die, and its index in the cluster (R61). -/
def clusterOf (c : CoreId) : ClusterId := ⟨c.val / 8, by omega⟩
def dieOf (c : CoreId) : DieId := ⟨c.val / 80, by omega⟩
def dieOfCluster (cl : ClusterId) : DieId := ⟨cl.val / 10, by omega⟩
def coreOf (cl : ClusterId) (i : Fin 8) : CoreId := ⟨8 * cl.val + i.val, by omega⟩
/-- The clusters of a die. -/
def clustersOf (d : DieId) : List ClusterId := (List.finRange 40).filter fun cl => dieOfCluster cl == d
/-- The map of `lcid` (R61). -/
def lcidOf (c : CoreId) : Nat := 128 * (c.val / 80) + 8 * (c.val % 80 / 8) + c.val % 8
/-- The core that an lcid value names, if there is one. -/
def coreOfLcid (w : Word) : Option CoreId :=
  if w.toNat < 512 ∧ bitsN w 6 3 < 10 then some (fin 320 (80 * bitsN w 8 7 + 8 * bitsN w 6 3 + bitsN w 2 0)) else none

/-- Package time in nanoseconds (R180). -/
def State.ns (s : State) : Nat := s.time / Config.ticksPerNs
/-- A core clock of a cluster, in ticks (R466). -/
def Cluster.period (k : Cluster) : Nat := 2 * k.div
/-- The thresholds of THERM (R470). -/
def State.tMig (s : State) : Int := (s.therm.extractLsb' 0 16).toInt
def State.tThr (s : State) : Int := (s.therm.extractLsb' 16 16).toInt
def State.tTrip (s : State) : Int := (s.therm.extractLsb' 32 16).toInt

/-- Package time moved on to at least t ticks. -/
def State.upTo (s : State) (t : Nat) : State := { s with time := max s.time t }

/-- Fields of a descriptor (R12). -/
def Block.maxV (b : Block) : Nat := bitsN b.kdesc 175 168
def Block.maxS (b : Block) : Nat := bitsN b.kdesc 183 176
def Block.maxH (b : Block) : Nat := bitsN b.kdesc 191 184
def Block.maxC (b : Block) : Nat := bitsN b.kdesc 199 192
def Block.maxK (b : Block) : Nat := bitsN b.kdesc 207 200
def Block.usesM (b : Block) : Bool := b.kdesc.getLsbD 208
def Block.usesH (b : Block) : Bool := b.kdesc.getLsbD 209
def Block.usesFmicro (b : Block) : Bool := b.kdesc.getLsbD 210
def Block.usesClock (b : Block) : Bool := b.kdesc.getLsbD 211
def Block.supervisor (b : Block) : Bool := b.kdesc.getLsbD 212
def Block.trapOff (b : Block) : BitVec 32 := b.kdesc.extractLsb' 256 32
def Block.codeSize (b : Block) : Nat := bitsN b.kdesc 351 320
def Block.codeBase (b : Block) : Nat := bitsN b.kdesc 63 0
def Block.dictAddr (b : Block) : Nat := bitsN b.kdesc 127 64
def Block.dictId (b : Block) : BitVec 32 := b.kdesc.extractLsb' 288 32
/-- A trap vector exists (R12). -/
def Block.hasTrap (b : Block) : Bool := b.trapOff != 0xFFFFFFFF
/-- Fields of a launch node (R13). -/
def Block.clockOk (b : Block) : Bool := b.node.getLsbD 163

/-- Register x of a warp; s0 reads 0 (R49). -/
def Warp.sreg (w : Warp) (n : Nat) : Word := if n % 64 = 0 then 0 else w.s[fin 64 n]
/-- Predicate n. -/
def Warp.preg (w : Warp) (n : Nat) : Bool := w.p.getLsbD (n % 16)
/-- Lane mask n. -/
def Warp.qreg (w : Warp) (n : Nat) : Mask := w.q[fin 8 n]
/-- The register that `vn` names now (R51, R52): 96 + region slot when the region rotates. -/
def Warp.bind (w : Warp) (n : Nat) : Fin 128 :=
  if w.curV = 128 ∧ 96 ≤ n then fin 128 (96 + (n - 96 + w.vrb.toNat) % 32) else fin 128 n
/-- Vector register `vn`. -/
def Warp.vreg (w : Warp) (n : Nat) : VReg := w.v[w.bind n]
def Warp.hreg (w : Warp) (n : Nat) : HReg := w.h[fin 16 n]
def Warp.bank (w : Warp) (n : Nat) : Bank := w.c[fin 4 n]
def Warp.kreg (w : Warp) (n : Nat) : Kulisch := w.ka[fin 4 n]
/-- Scalar n written; s0 ignores writes (R49). -/
def Warp.setS (w : Warp) (n : Nat) (x : Word) : Warp := if n % 64 = 0 then w else { w with s := upd w.s (fin 64 n) fun _ => x }
/-- Predicate n written. -/
def Warp.setP (w : Warp) (n : Nat) (x : Bool) : Warp := { w with p := setElem 1 w.p (n % 16) (BitVec.ofBool x) }
/-- Stage predicate n written. -/
def Warp.setSp (w : Warp) (n : Nat) (x : Bool) : Warp := { w with sp := setElem 1 w.sp (n % 8) (BitVec.ofBool x) }
/-- Whether scalar n is pending (R29). -/
def Warp.pendingTok (w : Warp) (n : Nat) : Bool := w.tokens.getLsbD n
/-- Live lanes of the running path: dmask AND q0. -/
def Warp.live (w : Warp) : Mask := w.dmask &&& w.qreg 0

/-- esize as bits of an element, elements of a register, rows and columns of the view (R55, R56). -/
def esizeBits (shape : Word) : Nat := if bitsN shape 1 0 = 0 then 32 else if bitsN shape 1 0 = 1 then 16 else 8
def Warp.ebits (w : Warp) : Nat := esizeBits w.shape
def Warp.elems (w : Warp) : Nat := 2048 / w.ebits
def Warp.rows (w : Warp) : Nat := 2 ^ bitsN w.shape 5 2
def Warp.cols (w : Warp) : Nat := w.elems / w.rows
/-- Elements a lane owns (R56). -/
def Warp.perLane (w : Warp) : Nat := w.elems / 64
/-- Whether a value of `shape` is valid (R55). -/
def shapeOk (x : Word) : Bool :=
  decide (x.toNat < 64) && bitsN x 1 0 != 3 && decide (2 ^ bitsN x 5 2 ≤ 64 * 2 ^ bitsN x 1 0)

/-- The allotment register (R63) and the outstanding counters (R53). -/
def Warp.allocWord (w : Warp) : Word :=
  BitVec.ofNat 64 (w.curV + 2 ^ 13 * w.curH + 2 ^ 18 * w.curC + 2 ^ 21 * w.curK)
def Warp.ocnt (w : Warp) : Word :=
  BitVec.ofNat 64 (w.loads + 2 ^ 6 * w.stores + 2 ^ 12 * w.copies + 2 ^ 18 * w.tiles)

/-- A class counter, and the warp with it changed (R28). -/
def Warp.count (w : Warp) : OpClass → Nat
  | .load => w.loads | .store => w.stores | .copy => w.copies | .tile => w.tiles
def Warp.modCount (w : Warp) (k : OpClass) (f : Nat → Nat) : Warp :=
  match k with
  | .load => { w with loads := f w.loads }
  | .store => { w with stores := f w.stores }
  | .copy => { w with copies := f w.copies }
  | .tile => { w with tiles := f w.tiles }

/-- An event counter of a core raised by n (R480). -/
def Core.bump (k : Core) (i : Fin 23) (n : Nat) : Core :=
  { k with counters := upd k.counters i fun x => x + BitVec.ofNat 64 n }

end Sys2Proof.Machine
end

