-- ==== Sys2Proof/Machine/Cache.lean ====
section
/-! DEFINITION. Homes, and the L2 slices (spec/11_memory_model.md R308 to R329). A physical address is
home x 2^50 + local address: homes 0 to 3 are the compute dies, 4 the host, and from 8 on the homes of other packages
(log 13). -/

namespace Sys2Proof.Machine

/-- The home of a physical address, and the address in it. -/
def homeOf (pa : Nat) : Nat := pa / 2 ^ 50
def localOf (pa : Nat) : Nat := pa % 2 ^ 50
/-- A home of another package (R309). -/
def isRemote (pa : Nat) : Bool := decide (8 ≤ homeOf pa)
/-- The package that a remote home belongs to. -/
def packageOf (pa : Nat) : Nat :=
  let h := homeOf pa
  if 65536 ≤ h then (h - 65536) / 64 else if 8 + 4 * 2048 ≤ h then h - (8 + 4 * 2048) else (h - 8) / 4
/-- No live link leads to the package that homes an address (R489, R491, R507). -/
def State.noRoute (s : State) (pa : Nat) : Bool :=
  isRemote pa && !(s.routes.any fun r => r.1.toNat == packageOf pa && s.lanes[r.2] != 0)
/-- The 512 KiB frame and the sector of a physical address. -/
def frameOf (pa : Nat) : Nat := pa / 2 ^ 19
def sectorOf (pa : Nat) : Nat := pa / 64
/-- The sectors that n bytes from pa touch. -/
def sectorsOf (pa n : Nat) : List Nat :=
  if n = 0 then [] else (List.range ((pa + n - 1) / 64 + 1 - pa / 64)).map (pa / 64 + ·)

/-- Whether the old home refuses an access with a moved response (R428, R430). -/
def State.refuses (s : State) (pa : Nat) : Bool :=
  s.movedFrames.contains (frameOf pa) ||
    s.migrations.any fun m => m.oldFrame == frameOf pa && decide (pa % 2 ^ 19 / 128 < m.nextLine)

/-- An access to a line not yet copied whose home is migrating goes on in the ordinary way (R428). -/
def State.migrating (s : State) (pa : Nat) : Bool := s.migrations.any fun m => m.oldFrame == frameOf pa

/-- Two byte ranges meet. -/
def rangesMeet (a n b m : Nat) : Bool := decide (a < b + m ∧ b < a + n)

/-- The mask of the bytes lo to lo + n - 1 of a sector. -/
def byteMask (lo n : Nat) : Mask := BitVec.ofNat 64 ((2 ^ n - 1) * 2 ^ lo)

/-- The copies of a sector in every slice of its home die but one lose their unmarked bytes (R325, R329). -/
def State.invalidate (s : State) (except : Option ClusterId) (num : Nat) : State :=
  let h := homeOf (64 * num)
  if 4 ≤ h then s else
  { s with
    clusters := s.clusters.mapFinIdx fun i k hi =>
      if i / 10 = h ∧ except ≠ some ⟨i, hi⟩ ∧ (k.l2.any fun x => x.num == num) then
        { k with
          l2 := (k.l2.map fun x => if x.num == num then { x with valid := x.valid &&& x.marked } else x).filter
            fun x => x.valid != 0 }
      else k }

/-- Bytes written at their home (R317, R325, R329); one write of a whole sector clears its poison (R444). -/
def State.homeWrite (s : State) (except : Option ClusterId) (pa : Nat) (bs : List Byte) : State :=
  let s := { s with mem := s.mem.write pa bs }
  let whole := (sectorsOf pa bs.length).filter fun n => pa ≤ 64 * n ∧ 64 * n + 64 ≤ pa + bs.length
  let s := { s with poisonSectors := s.poisonSectors.filter fun n => !whole.contains n }
  (sectorsOf pa bs.length).foldl (fun s n => s.invalidate except n) s

/-- Bytes read at their home. -/
def State.homeRead (s : State) (pa n : Nat) : List Byte := s.mem.read pa n
/-- An n-byte number read at its home. -/
def State.homeNum (s : State) (pa n : Nat) : Nat := s.mem.num pa n

/-- The copy of a sector in a slice. -/
def Cluster.sector? (k : Cluster) (num : Nat) : Option Sector := k.l2.find? fun x => x.num == num
/-- A slice with one sector's copy replaced, or added. -/
def Cluster.setSector (k : Cluster) (x : Sector) : Cluster :=
  { k with l2 := if k.l2.any fun y => y.num == x.num then k.l2.map fun y => if y.num == x.num then x else y
                 else k.l2 ++ [x] }
def Cluster.dropSector (k : Cluster) (num : Nat) : Cluster := { k with l2 := k.l2.filter fun y => y.num != num }

/-- The marked bytes of a slice's sector written at the home (R325); a refused write-back leaves them marked (R428). -/
def State.writeBack (s : State) (cl : ClusterId) (num : Nat) : State :=
  match s.clusters[cl].sector? num with
  | none => s
  | some x =>
    if x.marked = 0 ∨ s.refuses (64 * num) then s else
    let s := { s with
      mem := (lanesOf x.marked).foldl (fun m i => m.set (64 * num + i) (elem 8 x.data i)) s.mem }
    (s.invalidate (some cl) num).modCluster cl (·.setSector { x with marked := 0 })

/-- The lines of 128 bytes that a slice holds sectors of (R9). -/
def Cluster.lines (k : Cluster) : List Nat := k.l2.foldl (fun acc x => if acc.contains (x.num / 2) then acc else acc ++ [x.num / 2]) []
/-- A line of a slice that may leave: no home refuses what it has marked (R428). -/
def State.canLeave (s : State) (cl : ClusterId) (line : Nat) : Bool :=
  s.clusters[cl].l2.all fun x => x.num / 2 != line || x.marked == 0 || !s.refuses (64 * x.num)
/-- A slice with no place for the 64 sectors of one access, empty or of a line that may leave, takes none: accesses through it
wait (R9, R428; log 55). -/
def State.sliceStuck (s : State) (cl : ClusterId) : Bool :=
  decide (Config.l2Lines < s.clusters[cl].l2.length + 64) &&
    decide (Config.l2Lines + (s.clusters[cl].lines.filter (s.canLeave cl)).length < s.clusters[cl].lines.length + 64)

/-- A place made in a full slice for a sector of another line (R9): the oldest line that may leave is written back and does (which
one leaves is not stated, log 55). -/
def State.makeRoom (s : State) (cl : ClusterId) (num : Nat) : State :=
  if s.clusters[cl].l2.length < Config.l2Lines || (s.clusters[cl].l2.any fun x => x.num / 2 == num / 2) ||
      decide (s.clusters[cl].lines.length < Config.l2Lines) then s
  else
    match s.clusters[cl].lines.find? (s.canLeave cl) with
    | none => s
    | some line => [2 * line, 2 * line + 1].foldl (fun (s : State) n => (s.writeBack cl n).modCluster cl (·.dropSector n)) s

/-- Release of a partition's writes at die scope or wider (R326). -/
def State.release (s : State) (cl : ClusterId) (p : PartId) : State :=
  ((s.clusters[cl].l2.filter fun x => x.part == p && x.marked != 0).map (·.num)).foldl (fun s n => s.writeBack cl n) s

/-- Acquire at die scope or wider (R327). -/
def State.acquire (s : State) (cl : ClusterId) (p : PartId) : State :=
  s.modCluster cl fun k =>
    { k with l2 := (k.l2.map fun x =>
        if x.part == p && homeOf (64 * x.num) != (dieOfCluster cl).val then { x with valid := x.valid &&& x.marked }
        else x).filter fun x => x.valid != 0 }

/-- The slice's copy taken for partition p (R309): a copy of another partition is written back and dropped. None when
the old home refuses its bytes (R428). -/
def State.retag (s : State) (cl : ClusterId) (p : PartId) (num : Nat) : Option State :=
  match s.clusters[cl].sector? num with
  | some x =>
    if x.part = p then some s
    else
      let s := s.writeBack cl num
      match s.clusters[cl].sector? num with
      | some y => if y.marked = 0 then some (s.modCluster cl (·.dropSector num)) else none
      | none => some s
  | none => some s

/-- The slice's copy of a sector with every byte present for partition p. None when the home refuses (R428). -/
def State.fill (s : State) (cl : ClusterId) (p : PartId) (num : Nat) : Option State :=
  match s.retag cl p num with
  | none => none
  | some s =>
    match s.clusters[cl].sector? num with
    | some x =>
      if x.valid = BitVec.allOnes 64 then some s
      else if s.refuses (64 * num) then none
      else
        let d := packEl 8 64 512 fun i =>
          if x.valid.getLsbD i then elem 8 x.data i else s.mem.get (64 * num + i)
        some (s.modCluster cl (·.setSector { x with data := d, valid := BitVec.allOnes 64 }))
    | none =>
      if s.refuses (64 * num) then none
      else
        some ((s.makeRoom cl num).modCluster cl (·.setSector
          { num := num, part := p, data := ofBytes 512 (s.mem.read (64 * num) 64), valid := BitVec.allOnes 64,
            marked := 0 }))

/-- Bytes of one sector read through a slice (R313). -/
def State.sliceReadOne (s : State) (cl : ClusterId) (p : PartId) (num lo n : Nat) : Option (State × List Byte) :=
  match s.fill cl p num with
  | none => none
  | some s =>
    match s.clusters[cl].sector? num with
    | none => none
    | some x => some (s, (List.range n).map fun i => elem 8 x.data (lo + i))

/-- The slice made ready for a write on behalf of partition p: a copy of another partition is written back and dropped, and
the sector filled afresh (R309). -/
def State.claimSector (s : State) (cl : ClusterId) (p : PartId) (num : Nat) : Option State :=
  match s.clusters[cl].sector? num with
  | some x => if x.part = p then some s else s.fill cl p num
  | none => some (s.makeRoom cl num)

/-- Bytes of one sector written through a slice, and marked there (R309). -/
def State.sliceWriteOne (s : State) (cl : ClusterId) (p : PartId) (num lo : Nat) (bs : List Byte) : Option State :=
  match s.claimSector cl p num with
  | none => none
  | some s =>
    let m := byteMask lo bs.length
    let x := (s.clusters[cl].sector? num).getD ⟨num, p, 0, 0, 0⟩
    let d := packEl 8 64 512 fun i => if lo ≤ i ∧ i < lo + bs.length then bs.getD (i - lo) 0 else elem 8 x.data i
    let x := { x with data := d, valid := x.valid ||| m, marked := x.marked ||| m }
    some (s.modCluster cl (·.setSector x))

/-- n bytes from pa, cut at the sector boundaries: sector, first byte in it, how many. -/
def pieces (pa n : Nat) : List (Nat × Nat × Nat) :=
  (sectorsOf pa n).map fun k =>
    let lo := if pa ≤ 64 * k then 0 else pa - 64 * k
    (k, lo, (min (64 * k + 64) (pa + n)) - (64 * k + lo))

/-- n bytes read through a slice (R313); None when a home refuses (R428). -/
def State.sliceRead (s : State) (cl : ClusterId) (p : PartId) (pa n : Nat) : Option (State × List Byte) :=
  (pieces pa n).foldl (fun acc (k, lo, m) =>
    match acc with
    | none => none
    | some (s, bs) => (s.sliceReadOne cl p k lo m).map fun (s, b) => (s, bs ++ b)) (some (s, []))

/-- Bytes written through a slice (R313); None when a home refuses (R428). -/
def State.sliceWrite (s : State) (cl : ClusterId) (p : PartId) (pa : Nat) (bs : List Byte) : Option State :=
  (pieces pa bs.length).foldl (fun acc (k, lo, m) =>
    match acc with
    | none => none
    | some s => s.sliceWriteOne cl p k lo ((bs.drop (64 * k + lo - pa)).take m)) (some s)

/-- The slice's marked bytes of the sectors written back and its copies dropped, before an access at the home (R328). -/
def State.sliceFlush (s : State) (cl : ClusterId) (pa n : Nat) : Option State :=
  (sectorsOf pa n).foldl (fun acc k =>
    match acc with
    | none => none
    | some s =>
      let s := s.writeBack cl k
      match s.clusters[cl].sector? k with
      | some x => if x.marked = 0 then some (s.modCluster cl (·.dropSector k)) else none
      | none => some s) (some s)

/-- Whether a byte range touches a poisoned sector (R444): its first poisoned sector. -/
def State.poisonAt (s : State) (pa n : Nat) : Option Nat := (sectorsOf pa n).find? fun k => s.poisonSectors.contains k

/-- Bytes that an operation has written of poisoned sectors: a sector of which it has written all 64 is whole again; one
written in part stays poisoned (R444). -/
def State.wipe (s : State) (c : CoreId) (id pa n : Nat) : State :=
  (pieces pa n).foldl (fun (s : State) ((k, lo, m) : Nat × Nat × Nat) =>
    if !s.poisonSectors.contains k then s
    else
      let was : Mask := (((s.cores[c].ops.find? fun o => o.id == id).bind fun o => o.wiped.find? fun x => x.1 == k).map
        (·.2)).getD 0
      let now := was ||| byteMask lo m
      let note (o : AsyncOp) : AsyncOp :=
        if o.id = id then { o with wiped := (k, now) :: o.wiped.filter fun x => x.1 != k } else o
      let s := s.modCore c fun q => { q with ops := q.ops.map note }
      if now = BitVec.allOnes 64 then { s with poisonSectors := s.poisonSectors.filter (· != k) } else s) s

end Sys2Proof.Machine
end

