-- ==== Sys2Proof/Machine/Translate.lean ====
section
/-! DEFINITION. Address translation: tables, walks, TLBs, dirty logging (spec/19_translation.md R405 to R414, R423,
R432 to R435, R508). -/

namespace Sys2Proof.Machine

/-- What an access needs of its page (R411). -/
structure Need where
  r : Bool
  w : Bool
  xd : Bool
  deriving DecidableEq, Repr

def Need.read : Need := ⟨true, false, false⟩
def Need.write : Need := ⟨false, true, false⟩
def Need.both : Need := ⟨true, true, false⟩
def Need.exec : Need := ⟨false, false, true⟩
def Need.execWrite : Need := ⟨false, true, true⟩

/-- Sub-causes of R418. -/
def subNotPresent : Nat := 1
def subPermission : Nat := 2
def subDirtyLog : Nat := 3
def subMoved : Nat := 4

/-- Fields of an entry (R407, R408). -/
def entV (e : Word) : Bool := e.getLsbD 0
def entLeaf (e : Word) : Bool := e.getLsbD 8
/-- Where a non-leaf entry's table lies. -/
def tableAt (e : Word) : Nat := 2 ^ 50 * bitsN e 52 51 + 2 ^ 14 * bitsN e 39 14
/-- A non-leaf entry with every reserved bit zero (R407). -/
def tableOk (e : Word) : Bool :=
  entV e && !entLeaf e && bitsN e 63 53 == 0 && bitsN e 50 40 == 0 && bitsN e 13 9 == 0 && bitsN e 7 1 == 0 &&
    decide (localOf (tableAt e) + 2 ^ 14 ≤ Config.dieBytes)
/-- The reserved bits and values of a leaf (R408, R409). -/
def leafForm (e : Word) : Bool :=
  entLeaf e && decide (bitsN e 18 17 < 2) && decide (bitsN e 15 13 < 6) && bitsN e 12 9 == 0 && bitsN e 2 1 == 0
/-- The home of a leaf's page: a die or the host of this package, or a home of another one (log 13). -/
def State.leafHome (s : State) (e : Word) : Nat :=
  if bitsN e 63 53 = s.packageId.toNat then (if e.getLsbD 50 then 4 else bitsN e 52 51)
  else if e.getLsbD 50 then 8 + 4 * 2048 + bitsN e 63 53 else 8 + 4 * bitsN e 63 53 + bitsN e 52 51
/-- The physical address of a leaf's page. -/
def State.leafBase (s : State) (e : Word) : Nat := 2 ^ 50 * s.leafHome e + 2 ^ 19 * bitsN e 49 19
/-- A die whose pages boot has retired with a stack of it that failed training (R499). -/
def State.dieRetired (s : State) (d : Nat) : Bool := s.failedStacks.any fun k => k.val / 3 == d
/-- n bytes from a physical address lie in memory that exists (R409) and that boot has not retired (R499). -/
def State.memoryAt (s : State) (pa n : Nat) : Bool :=
  decide (homeOf pa = 4 ∧ localOf pa + n ≤ 2 ^ 50) ||
    (decide (homeOf pa < 4 ∧ localOf pa + n ≤ Config.dieBytes) && !s.dieRetired (homeOf pa))
/-- The frame lies within its home die's memory (R409), which has not been retired (R499; DEDUCED, log 12). -/
def State.leafFits (s : State) (e : Word) (big : Bool) : Bool :=
  e.getLsbD 50 || !s.dieRetired (s.leafHome e) && decide (localOf (s.leafBase e) + (if big then 2 ^ 30 else 2 ^ 19) ≤ Config.dieBytes)

/-! ## Lines of a page that migrates (R428, R429)

The old home refuses every access to a copied line, and what it refuses is sent again to the new home after the notice. A core's access
waits before its walk, or in a record; a write of the device's own waits in `heldDev`; an event whose reads are refused is made after the
notice (log 23). The functions here read and write a copied line at its copy, where each access finds it then. -/

/-- Whether the line of an address has been copied by a migration in progress, and where its copy lies. -/
def State.copyOf (s : State) (pa : Nat) : Option Nat :=
  (s.migrations.find? fun m => m.oldFrame == frameOf pa && decide (pa % 2 ^ 19 / 128 < m.nextLine)).map fun m =>
    s.leafBase m.newLeaf + pa % 2 ^ 19
/-- Where an address is found once its migration's notice has come. -/
def State.nowAt (s : State) (pa : Nat) : Nat := (s.copyOf pa).getD pa
/-- Bytes that the device itself reads at their home. -/
def State.devBytes (s : State) (pa n : Nat) : List Byte :=
  if !s.migrating pa then s.homeRead pa n else (List.range n).map fun i => s.mem.get (s.nowAt (pa + i))
/-- Bytes that the device itself writes at their home. -/
def State.devStore (s : State) (pa : Nat) (bs : List Byte) : State :=
  if !s.migrating pa then s.homeWrite none pa bs
  else (pieces pa bs.length).foldl (fun (s : State) (k, lo, m) =>
    s.homeWrite none (s.nowAt (64 * k + lo)) ((bs.drop (64 * k + lo - pa)).take m)) s
/-- Bits set by an indivisible OR at their home (R410, R435), in bytes of one line. -/
def State.devSet (s : State) (pa : Nat) (bits : List Byte) : State :=
  let at_ := s.nowAt pa
  s.homeWrite none at_ (bits.mapIdx fun i x => s.mem.get (at_ + i) ||| x)
/-- An entry of a table as the walkers find it (log 23); none in a frame that has moved (R430). -/
def State.entryAt (s : State) (at_ : Nat) : Option Word :=
  if s.movedFrames.contains (frameOf at_) then none else some (ofBytes 64 (s.devBytes at_ 8))

/-- The indices of a virtual address (R405). -/
def vaI1 (va : Word) : Nat := bitsN va 51 41
def vaI2 (va : Word) : Nat := bitsN va 40 30
def vaI3 (va : Word) : Nat := bitsN va 29 19
/-- The 512 KiB page of a virtual address. -/
def pageOf (va : Word) : Nat := va.toNat / 2 ^ 19

/-- The end of a walk (R409): a leaf, where it lies, whether it maps 1 GiB; an unplaced managed page; a fault; or a table that lies in
a frame that has moved, which refuses the walker (R430, R431). -/
inductive Walk where
  | leaf (e : Word) (at_ : Nat) (big : Bool)
  | managed (e : Word) (at_ : Nat)
  | fault
  | moved
  deriving DecidableEq, Repr

/-- What a walk finds at level two: the entry and where it lies, or how the walk ends. -/
inductive WalkTop where
  | entry (at_ : Nat) (e : Word)
  | fault
  | moved
  deriving DecidableEq, Repr

/-- A non-leaf entry whose table the package has (R407, R409): of a die whose pages boot has retired it has none (R499). -/
def State.tableHere (s : State) (e : Word) : Bool := tableOk e && !s.dieRetired (bitsN e 52 51)

/-- How a walk ends at a leaf entry (R409). One with v = 0 and managed = 1 that has a reserved bit or value set ends it without a toucher
(DEDUCED, log 59). -/
def State.walkLeaf (s : State) (e : Word) (at_ : Nat) (big : Bool) : Walk :=
  if !entV e then (if entLeaf e && e.getLsbD 16 && leafForm e then .managed e at_ else .fault)
  else if leafForm e && (!big || bitsN e 29 19 == 0) && s.leafFits e big then .leaf e at_ big
  else .fault

/-- The level-two entry of an address, and where it lies (R409). -/
def State.walkTop (s : State) (root : Word) (va : Word) : WalkTop :=
  if va.toNat ≥ 2 ^ 52 || !s.tableHere root then .fault
  else
    match s.entryAt (tableAt root + 8 * vaI1 va) with
    | none => .moved
    | some e1 =>
      if !s.tableHere e1 then .fault
      else
        match s.entryAt (tableAt e1 + 8 * vaI2 va) with
        | none => .moved
        | some e2 => .entry (tableAt e1 + 8 * vaI2 va) e2

/-- The level-three end of a walk. -/
def State.walkEnd (s : State) (e2 : Word) (va : Word) : Walk :=
  let a3 := tableAt e2 + 8 * vaI3 va
  match s.entryAt a3 with
  | none => .moved
  | some e3 => if entLeaf e3 then s.walkLeaf e3 a3 false else .fault

/-- A walk of a partition's tables from their homes (R409). -/
def State.walk (s : State) (root : Word) (va : Word) : Walk :=
  match s.walkTop root va with
  | .fault => .fault
  | .moved => .moved
  | .entry a2 e2 =>
    if entLeaf e2 then s.walkLeaf e2 a2 true
    else if !s.tableHere e2 then .fault
    else s.walkEnd e2 va

/-- The physical address of a virtual one as the tables stand, read without effect. -/
def State.peek (s : State) (p : PartId) (va : Word) : Option Nat :=
  match s.walk s.parts[p].ptRoot va with
  | .leaf e _ big => some (s.leafBase e + bitsN va (if big then 29 else 18) 0)
  | _ => none

/-- The 512 KiB pages that n bytes from va touch, as (address, length) pieces. -/
def pagePieces (va : Word) (n : Nat) : List (Word × Nat) :=
  if n = 0 then [] else
  (List.range ((va.toNat % 2 ^ 19 + n - 1) / 2 ^ 19 + 1)).map fun i =>
    let lo := if i = 0 then va.toNat else (va.toNat / 2 ^ 19 + i) * 2 ^ 19
    (BitVec.ofNat 64 lo, min (va.toNat + n) ((va.toNat / 2 ^ 19 + i + 1) * 2 ^ 19) - lo)

/-- Where the entries lie that a walk of an address reads (R409). -/
def State.walkPath (s : State) (root : Word) (va : Word) : List Nat :=
  if va.toNat ≥ 2 ^ 52 || !s.tableHere root then []
  else
    let a1 := tableAt root + 8 * vaI1 va
    match s.entryAt a1 with
    | none => [a1]
    | some e1 =>
      if !s.tableHere e1 then [a1]
      else
        let a2 := tableAt e1 + 8 * vaI2 va
        match s.entryAt a2 with
        | none => [a1, a2]
        | some e2 => if entLeaf e2 || !s.tableHere e2 then [a1, a2] else [a1, a2, tableAt e2 + 8 * vaI3 va]

/-- The frame of the first of some addresses that lies on a copied line: what is done there waits for its notice (R428, R429). -/
def State.copiedOn (s : State) (l : List Nat) : Option Nat :=
  if s.migrations = [] then none else l.findSome? fun a => if (s.copyOf a).isSome then some (frameOf a) else none
/-- The frame whose notice a walk of an address waits for. -/
def State.pathFrame (s : State) (p : PartId) (va : Word) : Option Nat :=
  if s.migrations = [] then none else s.copiedOn (s.walkPath s.parts[p].ptRoot va)
/-- The frame whose notice the dirty log's bit of a written page waits for (R435). -/
def State.logFrame (s : State) (p : PartId) (va : Word) : Option Nat :=
  if s.migrations = [] then none
  else s.parts[p].dirty.bind fun log =>
    let page := pageOf va
    let first := pageOf log.first
    if page < first ∨ first + log.count ≤ page then none
    else
      let a : Word := log.bitmap + BitVec.ofNat 64 ((page - first) / 8)
      if log.byHost then s.copiedOn [2 ^ 50 * bitsN a 51 50 + bitsN a 39 0]
      else (s.pathFrame p a).or ((s.peek p a).bind fun pa => s.copiedOn [pa])
/-- The frame whose notice one of the device's own accesses of n bytes waits for: a table, the log, its own lines, or an earlier write of
its own that waits. -/
def State.devFrame (s : State) (p : PartId) (va : Word) (n : Nat) (need : Need) : Option Nat :=
  if s.migrations = [] then none
  else
    ((pagePieces va n).findSome? fun (a, m) =>
      (s.pathFrame p a).or ((if need.w then s.logFrame p a else none).or
        ((s.peek p a).bind fun pa => s.copiedOn ((sectorsOf pa m).map (64 * ·))))).or
      ((s.heldDev.find? fun h => h.part == p && !h.phys && rangesMeet h.va.toNat h.bytes.length va.toNat n).map (·.frame))

/-- The sub-cause of a walk that ends at no leaf (R418, R431). -/
def Walk.subCause : Walk → Nat
  | .moved => subMoved
  | _ => subNotPresent

/-- An indivisible OR into an entry at its home while it has the bits `when_` (R410): none when it has not. -/
def State.orEntry (s : State) (at_ : Nat) (when_ bits : Word) : Option State :=
  match s.entryAt at_ with
  | none => none
  | some e => if e &&& when_ = when_ then some (s.devSet at_ (bytesOf 8 bits)) else none

/-- toucher written once at the entry's home (R423). -/
def State.touch (s : State) (at_ : Nat) (who : Nat) : State :=
  match s.entryAt at_ with
  | none => s
  | some e => if bitsN e 15 13 = 0 then s.devSet at_ (bytesOf 8 (BitVec.ofNat 64 (who * 2 ^ 13))) else s

/-- The bit of a written page set in its partition's dirty log (R435); false when it cannot be set, as at a frame that has moved, or
in memory that boot has retired (R499). `host` logs name their bitmap package-physically (R433). A bitmap in a page not yet placed gets
its toucher, `who` (R423). -/
def State.logPage (s : State) (p : PartId) (who : Nat) (va : Word) : State × Bool :=
  match s.parts[p].dirty with
  | none => (s, true)
  | some log =>
    let page := pageOf va
    let first := pageOf log.first
    if page < first ∨ first + log.count ≤ page then (s, true)
    else
      let j := page - first
      let a : Word := log.bitmap + BitVec.ofNat 64 (j / 8)
      let set (s : State) (pa : Nat) : State × Bool :=
        if s.movedFrames.contains (frameOf pa) || !s.memoryAt pa 1 then (s, false) else (s.devSet pa [BitVec.ofNat 8 (2 ^ (j % 8))], true)
      if log.byHost then set s (2 ^ 50 * bitsN a 51 50 + bitsN a 39 0)
      else
        match s.walk s.parts[p].ptRoot a with
        | .leaf e at_ big =>
          if e.getLsbD 4 then
            match s.orEntry at_ 0x11 0xC0 with
            | some s => set s (s.leafBase e + bitsN a (if big then 29 else 18) 0)
            | none => (s, false)
          else (s, false)
        | .managed _ at_ => (s.touch at_ who, false)
        | _ => (s, false)

/-- Whether a leaf gives every permission needed (R411). -/
def permits (e : Word) (need : Need) : Bool :=
  (!need.r || e.getLsbD 3) && (!need.w || e.getLsbD 4) && (!need.xd || e.getLsbD 5)

/-- The entry of a 512 KiB page in a list of TLB entries. -/
def findTlb (t : List TlbEntry) (p : PartId) (page : Nat) : Option TlbEntry :=
  t.find? fun e => e.part == p && e.vpage == page

/-- The level-one sets of each block of a core (R412): block, first set, how many, in the order of lowest warp slots. -/
def Core.tlbSets (k : Core) : List (Nat × Nat × Nat) :=
  let bids := (List.finRange 8).filterMap fun w =>
    k.warps[w].bind fun x =>
      if ((List.finRange 8).find? fun v => (k.warps[v].map fun y => y.bid) == some x.bid) == some w then some x.bid else none
  let n := bids.length
  bids.mapIdx fun i b => (b, i * 16 / n, (i + 1) * 16 / n - i * 16 / n)

/-- A fill of the level-one TLB within its block's sets, the oldest entry of a full set evicted (R412). -/
def Core.tlbFill (k : Core) (e : TlbEntry) : Core :=
  let rest := k.tlb.filter fun x => !(x.part == e.part && x.vpage == e.vpage && x.owner == e.owner)
  match k.tlbSets.find? fun x => x.1 == e.owner with
  | none => { k with tlb := rest }
  | some (_, _, n) =>
    let same (x : TlbEntry) : Bool := x.owner == e.owner && x.vpage % (max n 1) == e.vpage % (max n 1)
    let rest := if 4 ≤ (rest.filter same).length then
        match rest.find? same with
        | some old => rest.erase old
        | none => rest
      else rest
    { k with tlb := rest ++ [e] }

/-- After a placement or a retirement the sets are divided again; entries in sets that change owner are dropped, and so are those
whose page falls to another set of the block's new range, where no access would find them (R412; log 25: an entry may
leave at any time). -/
def Core.tlbDivide (old k : Core) : Core :=
  { k with tlb := k.tlb.filter fun e =>
      match old.tlbSets.find? fun x => x.1 == e.owner, k.tlbSets.find? fun x => x.1 == e.owner with
      | some (_, lo, n), some (_, lo', n') =>
        decide (0 < n ∧ 0 < n') && lo + e.vpage % n == lo' + e.vpage % n'
      | _, _ => false }

/-- Entries recorded as written, in every TLB that serves the core (R413). -/
def State.tlbMarkDirty (s : State) (c : CoreId) (p : PartId) (page : Nat) : State :=
  let mark (e : TlbEntry) : TlbEntry := if e.part == p && e.vpage == page then { e with dirty := true } else e
  (s.modCore c fun k => { k with tlb := k.tlb.map mark }).modCluster (clusterOf c) fun k => { k with tlb := k.tlb.map mark }

/-- The entries of one page dropped in the TLBs that serve the core. -/
def State.tlbForget (s : State) (c : CoreId) (p : PartId) (page : Nat) : State :=
  let keep (e : TlbEntry) : Bool := !(e.part == p && e.vpage == page)
  (s.modCore c fun k => { k with tlb := k.tlb.filter keep }).modCluster (clusterOf c) fun k =>
    { k with tlb := k.tlb.filter keep }

/-- An entry installed in the level-two TLB of 2,048 entries, the oldest evicted (R413). -/
def Cluster.tlbFill (k : Cluster) (e : TlbEntry) : Cluster :=
  let rest := k.tlb.filter fun x => !(x.part == e.part && x.vpage == e.vpage)
  { k with tlb := (if 2048 ≤ rest.length then rest.drop 1 else rest) ++ [e] }

/-- The walk that serves a level-two miss, with what it installs: `a` set, the entry in both TLBs (R408, R412, R413),
the die's walk cache (its non-leaf level-two entry), or the toucher of an unplaced page (R423). `touch` is false for a PF. A 1 GiB leaf is installed as its
512 KiB pieces (R434), which serves an unlogged page alike. A walk that ends at no leaf gives its sub-cause. -/
def State.walkInstall (s : State) (c : CoreId) (bid : Nat) (p : PartId) (va : Word) (touch : Bool) :
    State × Except Nat TlbEntry :=
  let key := 2 ^ 22 * (dieOf c).val + vaI1 va * 2048 + vaI2 va
  let cached := s.walkCache.find? fun x => x.1 == p && x.2.1 == key
  let end_ := match cached with
    | some (_, _, e2) => s.walkEnd e2 va
    | none => s.walk s.parts[p].ptRoot va
  match end_ with
  | .fault => (s, .error subNotPresent)
  | .moved => (s, .error subMoved)
  | .managed _ at_ => (if touch then s.touch at_ (dieOf c).val.succ else s, .error subNotPresent)
  | .leaf e at_ big =>
    match s.orEntry at_ 1 0x40 with
    | none => (s, .error subNotPresent)
    | some s =>
      let piece : Word := if big then e + BitVec.ofNat 64 (2 ^ 19 * vaI3 va) else e
      let t : TlbEntry := { part := p, vpage := pageOf va, leaf := piece, leafAt := at_, dirty := false, owner := bid }
      let s := match cached, s.walkTop s.parts[p].ptRoot va with
        | none, .entry _ e2 => if big then s else { s with walkCache := s.walkCache ++ [(p, key, e2)] }
        | _, _ => s
      let s := s.modCluster (clusterOf c) (·.tlbFill t)
      (s.modCore c fun k => k.tlbFill t, .ok t)

/-- The entry that serves an access: level one, level two, or a walk (R412, R413); misses are counted (R480). -/
def State.tlbLookup (s : State) (c : CoreId) (bid : Nat) (p : PartId) (va : Word) (touch : Bool) :
    State × Except Nat TlbEntry :=
  match (s.cores[c].tlb.find? fun e => e.owner == bid && e.part == p && e.vpage == pageOf va) with
  | some e => (s, .ok e)
  | none =>
    let s := s.modCore c fun k => k.bump 0x0B 1
    match findTlb s.clusters[clusterOf c].tlb p (pageOf va) with
    | some e => let e := { e with owner := bid }; (s.modCore c fun k => k.tlbFill e, .ok e)
    | none => (s.modCore c fun k => k.bump 0x0C 1).walkInstall c bid p va touch

/-- What a translation answers: a physical address, or a sub-cause of R418. -/
inductive Trans where
  | ok (pa : Nat)
  | fault (sub : Nat)
  deriving DecidableEq, Repr

/-- An access by a core translated (R405 to R413, R435); `n` bounds the fresh translations of R410. -/
def State.translateN : Nat → State → CoreId → Nat → PartId → Word → Need → Bool → State × Trans
  | 0, s, _, _, _, _, _, _ => (s, .fault subNotPresent)
  | n + 1, s, c, bid, p, va, need, touch =>
    if 2 ^ 52 ≤ va.toNat then (s, .fault subNotPresent)
    else
      match s.tlbLookup c bid p va touch with
      | (s, .error sub) => (s, .fault sub)
      | (s, .ok e) =>
        if !permits e.leaf need then (s, .fault subPermission)
        else
          let pa := s.leafBase e.leaf + bitsN va 18 0
          if !need.w || e.dirty then (s, .ok pa)
          else
            match s.orEntry e.leafAt 0x11 0x80 with
            | none => (s.tlbForget c p (pageOf va)).translateN n c bid p va need touch
            | some s =>
              match s.logPage p (dieOf c).val.succ va with
              | (s, false) => (s, .fault subDirtyLog)
              | (s, true) => (s.tlbMarkDirty c p (pageOf va), .ok pa)

/-- An access by a core translated. -/
def State.translate (s : State) (c : CoreId) (bid : Nat) (p : PartId) (va : Word) (need : Need) : State × Trans :=
  s.translateN 3 c bid p va need true

/-- One of the device's own accesses translated through a partition's tables by a die's walkers, with a and d set, the
page logged, or the toucher written (R508). `who` is the toucher value: 1 to 4, or 5 for the host bridge. A frame that has moved
away refuses it (R430, R431). -/
def State.devTranslate (s : State) (p : PartId) (who : Nat) (va : Word) (need : Need) : State × Trans :=
  match s.walk s.parts[p].ptRoot va with
  | .fault => (s, .fault subNotPresent)
  | .moved => (s, .fault subMoved)
  | .managed _ at_ => (s.touch at_ who, .fault subNotPresent)
  | .leaf e at_ big =>
    if !permits e need then (s, .fault subPermission)
    else
      let pa := s.leafBase e + bitsN va (if big then 29 else 18) 0
      if s.movedFrames.contains (frameOf pa) then (s, .fault subMoved)
      else
      match s.orEntry at_ (if need.w then 0x11 else 1) (if need.w then 0xC0 else 0x40) with
      | none => (s, .fault subNotPresent)
      | some s =>
        if need.w then
          match s.logPage p who va with
          | (s, false) => (s, .fault subDirtyLog)
          | (s, true) => (s, .ok pa)
        else (s, .ok pa)

/-- The device's own read of n bytes at their homes (R508); none when it cannot be made. One that a migrating page's old home refuses
leaves its mark: the event that makes it is made after the notice (R428, R429; log 23). -/
def State.devRead (s : State) (p : PartId) (die : Nat) (va : Word) (n : Nat) (need : Need) : State × Option (List Byte) :=
  if (s.devFrame p va n need).isSome then ({ s with devWaits := true }, none) else
  (pagePieces va n).foldl (fun (s, acc) (a, m) =>
    match acc with
    | none => (s, none)
    | some bs =>
      match s.devTranslate p (die + 1) a need with
      | (s, .ok pa) => (s, some (bs ++ s.devBytes pa m))
      | (s, .fault _) => (s, none)) (s, some [])

/-- A write that waits for the notice of a frame. -/
def State.holdWrite (s : State) (h : HeldWrite) : State := { s with heldDev := s.heldDev ++ [h] }
/-- The device's own write at its home (R508); false when it cannot be made. One that an old home refuses waits for the notice. -/
def State.devWrite (s : State) (p : PartId) (die : Nat) (va : Word) (bs : List Byte) (need : Need) : State × Bool :=
  match s.devFrame p va bs.length need with
  | some f => (s.holdWrite { frame := f, part := p, who := die + 1, phys := false, va := va, bytes := bs, xd := need.xd, adds := false }, true)
  | none =>
  let ok := (pagePieces va bs.length).foldl (fun (s, ok) (a, _) =>
    if !ok then (s, false) else
    match s.devTranslate p (die + 1) a need with
    | (s, .ok _) => (s, true)
    | (s, .fault _) => (s, false)) (s, true)
  if !ok.2 then ok else
  ((pagePieces va bs.length).foldl (fun (s : State) (a, m) =>
    match s.devTranslate p (die + 1) a need with
    | (s, .ok pa) => s.devStore pa ((bs.drop (a.toNat - va.toNat)).take m)
    | (s, .fault _) => s) ok.1, true)

/-- The TLB entry that serves an access of a block (R412, R413). -/
def State.tlbEntry (s : State) (c : CoreId) (b : Block) (va : Word) : Option TlbEntry :=
  (s.cores[c].tlb.find? fun e => e.owner == b.bid && e.part == b.part && e.vpage == pageOf va).or
    (findTlb s.clusters[clusterOf c].tlb b.part (pageOf va))
/-- An access waits for a notice before its translation: its walk, the bit that it must set in its leaf, or the bit of its page's log
meets a copied line of a migrating page, whose old home refuses it (R410, R428, R435). -/
def State.transWaits (s : State) (c : CoreId) (b : Block) (va : Word) (need : Need) : Bool :=
  if s.migrations = [] then false
  else
    match s.tlbEntry c b va with
    | some e => need.w && !e.dirty && ((s.copiedOn [e.leafAt]).isSome || (s.logFrame b.part va).isSome)
    | none => (s.pathFrame b.part va).isSome || (need.w && (s.logFrame b.part va).isSome)

/-- What an event makes of the package, or, where a read that it makes is refused for now, the package as it stands: the event is made
after the notice (R428, R429; log 23). -/
def State.unlessRefused (s t : State) : State := if t.devWaits then s else t
/-- The same of an event's outcome. -/
def State.unlessHeld (s : State) (o : Out) : Out :=
  match o with
  | .next t => .next (s.unlessRefused t)
  | o => o

/-- A migration of the frame behind an address goes on, so that its notice will resolve a refusal (R421, R429). -/
def State.pageMigrating (s : State) (p : PartId) (va : Word) : Bool :=
  s.migrations.any fun m =>
    (m.part == p && pageOf m.page == pageOf va) || (s.peek p va).any fun pa => m.oldFrame == frameOf pa

end Sys2Proof.Machine
end

