-- ==== Sys2Proof/Machine/Flags.lean ====
section
/-! DEFINITION. The sticky flags and modes of `fpc` (spec/02_program_state.md R57 to R59). -/

namespace Sys2Proof.Machine

/-- Flags at their places in `fpc` (R57). -/
abbrev Flags := BitVec 64

def flNv : Flags := 0x10
def flDz : Flags := 0x20
def flOf : Flags := 0x40
def flUf : Flags := 0x80
def flNx : Flags := 0x100
def flKov : Flags := 0x200
/-- The row flag of row i; rows 0 to 31 have one (R57, R58). -/
def flRow (i : Nat) : Flags := if i < 32 then BitVec.ofNat 64 (2 ^ (32 + i)) else 0
/-- A flag when a condition holds. -/
def flIf (b : Bool) (f : Flags) : Flags := if b then f else 0

/-- Flags merged into `fpc` (R59). -/
def Warp.merge (w : Warp) (f : Flags) : Warp := { w with fpc := w.fpc ||| f }

/-- Rounding modes of rm (R57). -/
inductive Mode where
  | nearest | zero | up | down | stochastic
  deriving DecidableEq, Repr

/-- A code of rm; 0b101 to 0b111 are stored as 0b000 (R58). -/
def Mode.ofCode : Nat → Mode
  | 1 => .zero | 2 => .up | 3 => .down | 4 => .stochastic | _ => .nearest
/-- The mode of every operation but a conversion (R58, R82). -/
def Mode.plain : Mode → Mode
  | .stochastic => .nearest
  | m => m

/-- The rounding mode and FTZ bit a warp holds. -/
def Warp.mode (w : Warp) : Mode := Mode.ofCode (bitsN w.fpc 2 0)
def Warp.ftz (w : Warp) : Bool := w.fpc.getLsbD 3

/-- The value `fpc` takes from a write: reserved bits ignored (R6), rm above 0b100 stored as 0b000 (R58). -/
def fpcOf (x : Word) : Word :=
  let y := x &&& 0xFFFFFFFF000003FF
  if 4 < bitsN y 2 0 then y &&& ~~~7 else y

end Sys2Proof.Machine
end

