-- ==== Sys2Proof/Machine/Num.lean ====
section
/-! DEFINITION. Number formats, exact values, rounding and the Kulisch accumulators (spec/03_numbers.md R79 to R102). -/

namespace Sys2Proof.Machine

/-- A decoded number: NaN (signalling or not), an infinity, or (-1)^neg * m * 2^e. -/
inductive FVal where
  | nan (signalling : Bool)
  | inf (neg : Bool)
  | fin (neg : Bool) (m : Nat) (e : Int)
  deriving DecidableEq, Repr

/-- The number formats of R79, R85 and R86. -/
inductive Fmt where
  | b32 | b16 | bf16 | i8 | u8
  | p8 (signed finite : Bool) (p : Nat)
  deriving DecidableEq, Repr

/-- Bytes of an element. -/
def Fmt.bytes : Fmt → Nat
  | .b32 => 4 | .b16 => 2 | .bf16 => 2 | _ => 1
/-- Fraction bits, exponent bits and bias (R79, R86). -/
def Fmt.frac : Fmt → Nat
  | .b32 => 23 | .b16 => 10 | .bf16 => 7 | .p8 _ _ p => p - 1 | _ => 0
def Fmt.ebits : Fmt → Nat
  | .b32 => 8 | .b16 => 5 | .bf16 => 8 | .p8 true _ p => 8 - p | .p8 false _ p => 9 - p | _ => 0
def Fmt.bias : Fmt → Nat
  | .b32 => 127 | .b16 => 15 | .bf16 => 127 | .p8 true _ p => 2 ^ (7 - p) | .p8 false _ p => 2 ^ (8 - p) | _ => 0
/-- A wide format (R79). -/
def Fmt.wide : Fmt → Bool
  | .b32 => true | .b16 => true | .bf16 => true | _ => false
def Fmt.isP8 : Fmt → Bool
  | .p8 _ _ _ => true | _ => false
def Fmt.isInt : Fmt → Bool
  | .i8 => true | .u8 => true | _ => false
/-- The exponent of the smallest normal. -/
def Fmt.emin (f : Fmt) : Int := 1 - f.bias
/-- The sign bit of a format that has one. -/
def Fmt.signBit (f : Fmt) : Nat := 2 ^ (8 * f.bytes - 1)
/-- The all-ones exponent with fraction 0: the infinity of a wide format. -/
def Fmt.infCode (f : Fmt) : Nat := (2 ^ f.ebits - 1) * 2 ^ f.frac
/-- The code of the largest finite value, sign excluded (R79, R87). -/
def Fmt.maxCode : Fmt → Nat
  | .p8 true true _ => 0x7F | .p8 true false _ => 0x7E | .p8 false true _ => 0xFE | .p8 false false _ => 0xFD
  | f => f.infCode - 1
/-- The NaN an operation produces (R80, R87). -/
def Fmt.nanCode : Fmt → Nat
  | .b32 => 0x7FC00000 | .b16 => 0x7E00 | .bf16 => 0x7FC0 | .p8 true _ _ => 0x80 | .p8 false _ _ => 0xFF | _ => 0

/-- The magnitude m * 2^e of a finite code, sign excluded (R79, R86). -/
def Fmt.plain (f : Fmt) (code : Nat) : Nat × Int :=
  let t := code % 2 ^ f.frac
  let ex := code / 2 ^ f.frac
  if ex = 0 then (t, f.emin - f.frac) else (2 ^ f.frac + t, (ex : Int) - f.bias - f.frac)

/-- The value of a code (R79, R85, R86, R87); with ftz a subnormal of a wide format is zero of its sign (R81). -/
def Fmt.decode (f : Fmt) (ftz : Bool) (code : Nat) : FVal :=
  match f with
  | .i8 => .fin (decide (128 ≤ code)) (if 128 ≤ code then 256 - code else code) 0
  | .u8 => .fin false code 0
  | .p8 sg fn p =>
    let inf : Bool := !fn
    if code = (if sg then 0x80 else 0xFF) then .nan false
    else if inf ∧ sg ∧ code % 128 = 0x7F then .inf (decide (code = 0xFF))
    else if inf ∧ ¬sg ∧ code = 0xFE then .inf false
    else
      let (m, e) := Fmt.plain (.p8 sg fn p) (if sg then code % 128 else code)
      .fin (sg && decide (128 ≤ code)) m e
  | f =>
    let neg := decide (f.signBit ≤ code)
    let c := code % f.signBit
    if f.infCode < c then .nan (c / 2 ^ (f.frac - 1) % 2 == 0)
    else if c = f.infCode then .inf neg
    else if ftz ∧ c < 2 ^ f.frac then .fin neg 0 0
    else let (m, e) := f.plain c; .fin neg m e

/-- Whether a value is a signalling NaN, or any NaN. -/
def FVal.isSnan : FVal → Bool
  | .nan s => s | _ => false
def FVal.isNan : FVal → Bool
  | .nan _ => true | _ => false
def FVal.isZero : FVal → Bool
  | .fin _ m _ => m == 0 | _ => false
def FVal.isInf : FVal → Bool
  | .inf _ => true | _ => false
def FVal.isNeg : FVal → Bool
  | .nan _ => false | .inf n => n | .fin n _ _ => n
def FVal.negate : FVal → FVal
  | .nan s => .nan s | .inf n => .inf (!n) | .fin n m e => .fin (!n) m e

/-- floor(log2 (n / d)) for non-zero n and d. -/
def log2Q (n d : Nat) : Int :=
  let k : Int := (n.log2 : Int) - d.log2
  if d * 2 ^ k.toNat ≤ n * 2 ^ (-k).toNat then k else k - 1

/-- n / d * 2^s rounded to a whole number under a mode (R82, R84), with whether it was inexact. `odd f` says which of
f and f + 1 a tie leaves. -/
def roundInt (mode : Mode) (r : Nat) (neg : Bool) (n d : Nat) (s : Int) (odd : Nat → Bool) : Nat × Bool :=
  let num := n * 2 ^ s.toNat
  let den := d * 2 ^ (-s).toNat
  let f := num / den
  let rem := num % den
  let up : Bool := match mode with
    | .nearest => decide (den < 2 * rem) || (decide (2 * rem = den) && odd f)
    | .zero => false
    | .up => !neg
    | .down => neg
    | .stochastic => decide (r < rem * 2 ^ 16 / den)
  if rem = 0 then (f, false) else (if up then f + 1 else f, true)

/-- A value rounded to a format: m * 2^q, on the subnormal spacing below the smallest normal, whether inexact, tiny and
above the largest finite value (R81, R82, R83, R84, R89). -/
structure Rounded where
  m : Nat
  q : Int
  inexact : Bool
  tiny : Bool
  large : Bool
  deriving DecidableEq, Repr

/-- m1 * 2^e1 < m2 * 2^e2. -/
def ltPow (m1 : Nat) (e1 : Int) (m2 : Nat) (e2 : Int) : Bool :=
  let lo := min e1 e2
  decide (m1 * 2 ^ (e1 - lo).toNat < m2 * 2 ^ (e2 - lo).toNat)

/-- round_to before overflow and FTZ (R82). The value is n / d * 2^e, not zero. A tie leaves the even last fraction
bit; with no fraction bits, the even exponent field (PRESUMED, log 14). Stochastic rounding into a wide format takes R84's
neighbours of the unbounded exponent range; what it delivers then passes through R81, which rounds a tiny one to the
subnormal spacing under the same mode and r (DEDUCED, log 19). A P3109 target has the subnormal spacing at once (R89). -/
def Fmt.round (f : Fmt) (mode : Mode) (r : Nat) (neg : Bool) (n d : Nat) (e : Int) : Rounded :=
  let top := log2Q n d + e
  let at_ (n d : Nat) (e q : Int) : Nat × Bool :=
    roundInt mode r neg n d (e - q) fun k =>
      if f.frac = 0 ∧ k ≠ 0 then (q + f.bias) % 2 != 0 else k % 2 == 1
  let u := at_ n d e (top - f.frac)
  let q := max top f.emin - f.frac
  let v := if mode = .stochastic ∧ f.wide = true ∧ top < f.emin then
      let y := at_ u.1 1 (top - f.frac) q
      (y.1, u.2 || y.2)
    else at_ n d e q
  let (mm, me) := f.plain f.maxCode
  { m := v.1, q := q, inexact := v.2, tiny := ltPow u.1 (top - f.frac) 1 f.emin,
    large := ltPow mm me u.1 (top - f.frac) }

/-- The code, sign excluded, of m * 2^q, which the format holds exactly. -/
def Fmt.pack (f : Fmt) (m : Nat) (q : Int) : Nat :=
  if m = 0 then 0
  else
    let top := (m.log2 : Int) + q
    if top < f.emin then m * 2 ^ (q - (f.emin - f.frac)).toNat
    else
      let sig := m * 2 ^ (f.frac - m.log2) / 2 ^ (m.log2 - f.frac)
      (top + f.bias).toNat * 2 ^ f.frac + (sig - 2 ^ f.frac)

/-- Whether an overflow under a mode is infinite (R83). -/
def infOver (mode : Mode) (neg : Bool) : Bool :=
  match mode with
  | .nearest => true | .stochastic => true | .zero => false | .up => !neg | .down => neg

/-- A wide-format result of the value (-1)^neg * n / d * 2^e (R81, R82, R83), with its flags. -/
def Fmt.encodeWide (f : Fmt) (mode : Mode) (r : Nat) (ftz neg : Bool) (n d : Nat) (e : Int) : Nat × Flags :=
  let sign := if neg then f.signBit else 0
  if n = 0 then (sign, 0)
  else
    let x := f.round mode r neg n d e
    if x.large then (sign + (if infOver mode neg then f.infCode else f.maxCode), flOf ||| flNx)
    else if ftz ∧ x.tiny then (sign, flUf ||| flNx)
    else (sign + f.pack x.m x.q, flIf x.inexact flNx ||| flIf (x.inexact && x.tiny) flUf)

/-- A wide-format result of an FVal; a NaN sets nv when it is signalling (R80). -/
def Fmt.ofVal (f : Fmt) (mode : Mode) (r : Nat) (ftz : Bool) : FVal → Nat × Flags
  | .nan s => (f.nanCode, flIf s flNv)
  | .inf n => ((if n then f.signBit else 0) + f.infCode, 0)
  | .fin n m e => f.encodeWide mode r ftz n m 1 e

/-- A conversion into a P3109 format (R89). -/
def Fmt.ofValP8 (f : Fmt) (mode : Mode) (r : Nat) (sat : Bool) (v : FVal) : Nat × Flags :=
  let (sg, fn) := match f with
    | .p8 s n _ => (s, n) | _ => (true, false)
  let inf (neg : Bool) : Nat := if neg then 0xFF else if sg then 0x7F else 0xFE
  let top (neg : Bool) : Nat := (if sg ∧ neg then 0x80 else 0) + f.maxCode
  match v with
  | .nan s => (f.nanCode, flIf s flNv)
  | .inf neg =>
    if !fn then (if neg ∧ !sg then (0, flNv) else (inf neg, 0))
    else if !sat then (f.nanCode, flNv)
    else if neg ∧ !sg then (0, flNv) else (top neg, 0)
  | .fin neg m e =>
    if m = 0 then (0, 0)
    else
      let x := f.round mode r neg m 1 e
      let fl := flIf x.inexact flNx ||| flIf (x.inexact && x.tiny) flUf
      if x.m = 0 then (0, fl)
      else if neg ∧ !sg then (if sat then 0 else f.nanCode, fl ||| flNv)
      else if x.large then
        let fl := fl ||| flOf ||| flNx
        if sat ∨ !infOver mode neg then (top neg, fl)
        else if fn then (f.nanCode, fl) else (inf neg, fl)
      else ((if neg then 0x80 else 0) + f.pack x.m x.q, fl)

/-- A conversion to INT8 or UINT8 (R85). An infinity and a NaN set nv and not nx: R85's 'the source was not an integer' is
asked of numbers (DEDUCED, log 40). -/
def Fmt.ofValInt (f : Fmt) (mode : Mode) (r : Nat) (v : FVal) : Nat × Flags :=
  let lo : Int := if f = .i8 then -128 else 0
  let hi : Int := if f = .i8 then 127 else 255
  let code (x : Int) : Nat := (x % 256).toNat
  match v with
  | .nan _ => (0, flNv)
  | .inf neg => (code (if neg then lo else hi), flNv)
  | .fin neg m e =>
    let x := roundInt mode r neg m 1 e fun k => k % 2 == 1
    let y : Int := if neg then -(x.1 : Int) else x.1
    let z := max lo (min hi y)
    (code z, flIf x.2 flNx ||| flIf (z != y) flNv)

/-- A conversion into any format, saturating or not for a P3109 target (R85, R89, R90). -/
def Fmt.convert (f : Fmt) (mode : Mode) (r : Nat) (ftz sat : Bool) (v : FVal) : Nat × Flags :=
  if f.isP8 then f.ofValP8 mode r sat v else if f.isInt then f.ofValInt mode r v else f.ofVal mode r ftz v

/-- The exact sum of two finite values: sign, magnitude and exponent. An exact zero is + but toward -∞, whatever the signs
of the zeros it may be a sum of (R82). -/
def addFin (mode : Mode) (n1 : Bool) (m1 : Nat) (e1 : Int) (n2 : Bool) (m2 : Nat) (e2 : Int) : FVal :=
  let lo := min e1 e2
  let a : Int := (if n1 then -1 else 1) * (m1 * 2 ^ (e1 - lo).toNat : Nat)
  let b : Int := (if n2 then -1 else 1) * (m2 * 2 ^ (e2 - lo).toNat : Nat)
  let x := a + b
  if x = 0 then .fin (mode == .down) 0 0
  else .fin (decide (x < 0)) x.natAbs lo

/-- The exact sum, with nv when it is invalid or a source signals (R80). -/
def FVal.add (mode : Mode) (a b : FVal) : FVal × Flags :=
  if a.isNan || b.isNan then (.nan false, flIf (a.isSnan || b.isSnan) flNv)
  else
    match a, b with
    | .inf x, .inf y => if x = y then (.inf x, 0) else (.nan false, flNv)
    | .inf x, _ => (.inf x, 0)
    | _, .inf y => (.inf y, 0)
    | .fin n1 m1 e1, .fin n2 m2 e2 => (addFin mode n1 m1 e1 n2 m2 e2, 0)
    | _, _ => (.nan false, 0)

/-- The exact product, with nv when it is invalid or a source signals (R80). -/
def FVal.mul (a b : FVal) : FVal × Flags :=
  if a.isNan || b.isNan then (.nan false, flIf (a.isSnan || b.isSnan) flNv)
  else if (a.isInf && b.isZero) || (a.isZero && b.isInf) then (.nan false, flNv)
  else
    match a, b with
    | .fin n1 m1 e1, .fin n2 m2 e2 => (.fin (n1 != n2) (m1 * m2) (e1 + e2), 0)
    | _, _ => (.inf (a.isNeg != b.isNeg), 0)

/-- The order of two numbers, neither NaN: a < b. -/
def FVal.lt (a b : FVal) : Bool :=
  let key : FVal → Int × Nat × Int := fun v => match v with
    | .inf true => (-2, 0, 0) | .inf false => (2, 0, 0) | .nan _ => (0, 0, 0)
    | .fin n m e => if m = 0 then (0, 0, 0) else if n then (-1, m, e) else (1, m, e)
  let (ka, ma, ea) := key a
  let (kb, mb, eb) := key b
  if ka ≠ kb then decide (ka < kb)
  else if ka = 1 then ltPow ma ea mb eb else if ka = -1 then ltPow mb eb ma ea else false
/-- Equal numbers; the zeros are equal. -/
def FVal.eq (a b : FVal) : Bool := !a.isNan && !b.isNan && !a.lt b && !b.lt a

/-- A value times 2^k. -/
def FVal.scale (v : FVal) (k : Int) : FVal :=
  match v with
  | .fin n m e => .fin n m (e + k)
  | v => v

/-- The value of a Kulisch accumulator (R97). -/
def Kulisch.value (k : Kulisch) : FVal :=
  match k.kind.toNat with
  | 0 => .fin (decide (k.val.toInt < 0)) k.val.toInt.natAbs (-320)
  | 1 => .inf false
  | 2 => .inf true
  | _ => .nan false

/-- An addend on the grid of R97; what lies below the grid is cut toward zero, and no product of R98 does. -/
def Kulisch.ofVal : FVal → Kulisch
  | .nan _ => ⟨0, 3⟩
  | .inf n => ⟨0, if n then 2 else 1⟩
  | .fin n m e =>
    let x : Nat := m * 2 ^ (e + 320).toNat / 2 ^ (-(e + 320)).toNat
    ⟨BitVec.ofInt 640 (if n then -(x : Int) else x), 0⟩

/-- An addition to an accumulator (R98, R214), with kov when it overflows, nv when infinities of both signs meet. The value bits of one
that becomes an infinity or NaN are 0, whatever made it so: R98 says it of an overflow alone (DEDUCED, log 40). -/
def Kulisch.add (a b : Kulisch) : Kulisch × Flags :=
  if a.kind = 3 ∨ b.kind = 3 then (⟨0, 3⟩, 0)
  else if a.kind ≠ 0 ∧ b.kind ≠ 0 then (if a.kind = b.kind then (⟨0, a.kind⟩, 0) else (⟨0, 3⟩, flNv))
  else if a.kind ≠ 0 then (⟨0, a.kind⟩, 0)
  else if b.kind ≠ 0 then (⟨0, b.kind⟩, 0)
  else
    let x := a.val.toInt + b.val.toInt
    if x < -2 ^ 639 ∨ 2 ^ 639 ≤ x then (⟨0, if x < 0 then 2 else 1⟩, flKov) else (⟨BitVec.ofInt 640 x, 0⟩, 0)

/-- mix(key, ctr, l) (R101). -/
def mix (key : BitVec 128) (ctr : Word) (l : Nat) : Word :=
  let k0 : Word := key.extractLsb' 0 64
  let k1 : Word := key.extractLsb' 64 64
  let round (z : Word) : Word :=
    let z := (z ^^^ (z >>> 30)) * 0xBF58476D1CE4E5B9
    let z := (z ^^^ (z >>> 27)) * 0x94D049BB133111EB
    z ^^^ (z >>> 31)
  round (round ((ctr ^^^ k0) + BitVec.ofNat 64 (l + 1) * 0x9E3779B97F4A7C15) ^^^ k1)

/-- The word lane l receives at step n (R101, R102). -/
def Warp.rngWord (w : Warp) (n l : Nat) : Word := mix w.rngk (w.rngc + BitVec.ofNat 64 n) l
/-- The 16 bits that element j of a lane takes of its word (R102). -/
def rngBits (x : Word) (j : Nat) : Nat := (elem 16 x (j % 4)).toNat

/-- The formats of the selectors of R115, with the fin bit. -/
def Fmt.ofSel (sel : Nat) (fn : Bool) : Option Fmt :=
  match sel with
  | 0 => some .b32 | 1 => some .b16 | 2 => some .bf16 | 3 => some .i8 | 4 => some .u8
  | n => if 9 ≤ n ∧ n ≤ 15 then some (.p8 true fn (n - 8)) else if 0x11 ≤ n ∧ n ≤ 0x17 then some (.p8 false fn (n - 16))
         else none

/-- The formats of the codes of R74; none for HV and for invalid codes. -/
def Fmt.ofCode (c : Nat) : Option Fmt :=
  let p := c % 16
  match c / 16 with
  | 1 => if 1 ≤ p ∧ p ≤ 7 then some (.p8 true false p) else none
  | 2 => if 1 ≤ p ∧ p ≤ 7 then some (.p8 true true p) else none
  | 3 => if 1 ≤ p ∧ p ≤ 7 then some (.p8 false false p) else none
  | 4 => if 1 ≤ p ∧ p ≤ 7 then some (.p8 false true p) else none
  | 5 => if p = 0 then some .i8 else if p = 1 then some .u8 else none
  | 6 => if p = 0 then some .bf16 else if p = 1 then some .b16 else if p = 2 then some .b32 else none
  | _ => none

end Sys2Proof.Machine
end

