-- ==== Sys2Proof/Machine/Operands.lean ====
section
/-! DEFINITION. What a slot of the bundle in issue reads and gives: predicates, operands, and its effects, which all take
place at the end of the bundle (spec/04_control_words.md R113, R114, spec/07_vector_instructions.md R190 to R195). -/

namespace Sys2Proof.Machine

/-- What a slot operation sees: the state at the start of its bundle, and its warp, core and block. -/
structure Ctx where
  s : State
  core : CoreId
  wid : WarpId
  k : Core
  w : Warp
  b : Block
  ix : Issue

/-- What a slot operation gives to its bundle. -/
structure Effects where
  draws : Nat := 0
  writes : List Pending := []
  ops : List NewOp := []
  ends : List EndEffect := []
  deriving DecidableEq, Repr

/-- A slot operation's answer: its effects, or a fault precise at issue with its cause code and detail (R438). -/
inductive SlotResult where
  | done (e : Effects)
  | fault (cause : Nat) (detail : Word)
  deriving DecidableEq, Repr

/-- The fault of a check that fails (R129), and the answer otherwise. -/
def SlotResult.check (ok : Bool) (cause : Nat) (detail : Word) (r : SlotResult) : SlotResult :=
  if ok then r else .fault cause detail

/-- Nothing at all: an idle slot, or a condition that does not hold. -/
def SlotResult.nothing : SlotResult := .done {}

/-- The bundle in issue as its slots see it. -/
def State.ctx? (s : State) : Option Ctx :=
  match s.issue with
  | none => none
  | some ix =>
    match s.cores[ix.core].warps[ix.warp] with
    | none => none
    | some w =>
      match s.cores[ix.core].block? w.bid with
      | none => none
      | some b => some { s := s, core := ix.core, wid := ix.warp, k := s.cores[ix.core], w := w, b := b, ix := ix }

/-- The condition of a predicate select in a lane slot: the lanes in which it holds (R113). -/
def condLanes (w : Warp) (pred : BitVec 5) : Mask :=
  let n := bitsN pred 3 0
  let m : Mask := if n = 0 then BitVec.allOnes 64 else if n < 8 then w.qreg n
    else if w.sp.getLsbD (n - 8) then BitVec.allOnes 64 else 0
  if pred.getLsbD 4 then ~~~m else m

/-- The active lanes of a lane slot (R8, R113). -/
def Ctx.active (c : Ctx) (pred : BitVec 5) : Mask := c.w.live &&& condLanes c.w pred

/-- Whether a lane-less slot executes (R113). -/
def Ctx.holds (c : Ctx) (pred : BitVec 5) : Bool :=
  let n := bitsN pred 3 0
  let m : Bool := if n = 0 then true else if n < 8 then (c.w.qreg n &&& c.w.live) != 0 else c.w.sp.getLsbD (n - 8)
  if pred.getLsbD 4 then !m else m

/-- Digits of w bits put together, the first lowest. -/
def packList (w : Nat) : List Nat → Nat
  | [] => 0
  | x :: xs => x % 2 ^ w + 2 ^ w * packList w xs

/-- The lane that owns element e of width w (R190). -/
def laneOf (w e : Nat) : Nat := e * w / 32

/-- The 64 lanes that a warp of the block sees of `fl` in VA or VB; +0 where the block does not use M (R67). -/
def Ctx.flHalf (c : Ctx) (sl : VSlot) : VReg :=
  if !c.b.usesM then 0 else match sl with
    | .va => c.k.fl.extractLsb' 0 2048
    | .vb => c.k.fl.extractLsb' 2048 2048

/-- Every element of width w holds x. -/
def splat (w x : Nat) : VReg := BitVec.ofNat 2048 (packList w (List.replicate (2048 / w) x))

/-- The 256 bytes that a vector operand code reads (R114, R192). -/
def Ctx.vop (c : Ctx) (sl : VSlot) (w : Nat) (code : BitVec 8) : VReg :=
  let n := code.toNat
  if n < 0x80 then c.w.vreg n
  else if n < 0xC0 then splat w (c.w.sreg (n - 0x80)).toNat
  else if n = 0xC0 then c.flHalf sl
  else if n = 0xC1 then 0
  else if n = 0xC2 then BitVec.allOnes 2048
  else BitVec.ofNat 2048 (packList w ((List.range (2048 / w)).map fun e => laneOf w e))

/-- Element e of width w of a register image, as an unsigned number. -/
def el (w : Nat) (x : VReg) (e : Nat) : Nat := (elem w x e).toNat

/-- A w-bit number read as signed, or as unsigned (R198). -/
def sx (w x : Nat) : Int := if 2 ^ w ≤ 2 * x then (x : Int) - 2 ^ w else x
def readInt (u : Bool) (w x : Nat) : Int := if u then x else sx w x
/-- A whole number reduced modulo 2^w, or clamped to the signed or unsigned range (R198). -/
def wrapTo (w : Nat) (x : Int) : Nat := (x % 2 ^ w).toNat
def clampTo (u : Bool) (w : Nat) (x : Int) : Nat :=
  if u then wrapTo w (max 0 (min (2 ^ w - 1) x)) else wrapTo w (max (-2 ^ (w - 1)) (min (2 ^ (w - 1) - 1) x))

/-- The elements of the active lanes computed, with their flags joined (R194, R195). -/
def mapLanes (w : Nat) (act : Mask) (f : Nat → Nat × Flags) : VReg × Flags :=
  let rs := (List.range (2048 / w)).map fun e => if act.getLsbD (laneOf w e) then f e else (0, 0)
  (BitVec.ofNat 2048 (packList w (rs.map (·.1))), rs.foldl (fun a r => a ||| r.2) 0)

/-- An exposed write that becomes visible `lat` core bundles after its issue (R25, R130). -/
def expose (lat : Nat) (flags : Flags) (v : WriteVal) : Pending := { left := lat, live := true, flags := flags, val := v }

/-- An exposed vector write, bound at issue, of the active lanes (R52, R194). -/
def Ctx.writeV (c : Ctx) (lat d : Nat) (act : Mask) (v : VReg) (flags : Flags) : Pending :=
  expose lat flags (.vec (c.w.bind d) v act)

/-- The answer of a slot that makes one exposed write. -/
def oneWrite (p : Pending) : SlotResult := .done { writes := [p] }

/-- An exposed scalar write of latency 1 (R130, R156). -/
def writeS (d : Nat) (v : Word) : Pending := expose 1 0 (.scalar (fin 64 d) v)

/-- The same write with its lane-less condition (R113): without it, it lands without effect. -/
def Pending.when (p : Pending) (b : Bool) : Pending := { p with live := p.live && b }

/-- The answer taken into the bundle in issue: nothing of it is visible before the bundle ends (R25). -/
def Ctx.give (c : Ctx) (e : Effects) : State :=
  { c.s with issue := some { c.ix with
      draws := c.ix.draws + e.draws
      writes := c.ix.writes ++ e.writes
      ops := c.ix.ops ++ e.ops
      ends := c.ix.ends ++ e.ends } }

end Sys2Proof.Machine
end

