-- ==== Sys2Proof/Machine/Ops.lean ====
section
/-! DEFINITION. The operations that meanings share: interrupts, fault records, taking a fault, delivering a trap and
returning from one, leases' ends, and a slot operation run in the bundle in issue (spec/17_partitions.md R364, R365,
R368, R369, spec/20_traps_context.md R439, R440, spec/06_control_scalar_instructions.md R163 to R165). -/

namespace Sys2Proof.Machine

/-- A vector of a partition's function fires: sent, or pending while it is masked (R369); dropped while the partition is being
reset (R377). -/
def State.fireVector (s : State) (p : PartId) (v : Nat) : State :=
  if s.parts[p].resetting then s
  else if s.parts[p].intMask.getLsbD v then s.modPart p fun x => { x with intPend := x.intPend ||| BitVec.ofNat 32 (2 ^ v) }
  else { s with sent := s.sent ++ [.msix p v] }

/-- A fault-queue record's fields (R439). -/
structure Record where
  kind : Nat
  wid : Nat := 0xFF
  cause : Nat
  lcid : Nat
  node : Word := 0
  block : Nat := 0
  glyph : BitVec 32 := 0xFFFFFFFF
  detail : Word := 0
  detail2 : Word := 0
  phase : BitVec 32 := 0xFFFFFFFF
  deriving DecidableEq, Repr

/-- The 64 bytes of a record (R439). -/
def Record.bytes (r : Record) (ns : Nat) : List Byte :=
  [BitVec.ofNat 8 r.kind, BitVec.ofNat 8 r.wid] ++ bytesOf 2 (BitVec.ofNat 16 r.cause) ++ bytesOf 2 (BitVec.ofNat 16 r.lcid)
    ++ [0, 0] ++ bytesOf 8 r.node ++ bytesOf 4 (BitVec.ofNat 32 r.block) ++ bytesOf 4 r.glyph ++ bytesOf 8 r.detail
    ++ bytesOf 8 r.detail2 ++ bytesOf 4 r.phase ++ bytesOf 4 (0 : BitVec 32) ++ bytesOf 8 (BitVec.ofNat 64 ns)
    ++ bytesOf 8 (0 : BitVec 64)

/-- A record dropped: the FQSTAT bit set and the drop count raised, saturating (R361, R368). -/
def Partition.drop (p : Partition) (bit : Word) : Partition :=
  let n := bitsN p.fqStat 63 32
  { p with fqStat := (p.fqStat ||| bit) &&& 3 ||| BitVec.ofNat 64 ((if n = 2 ^ 32 - 1 then n else n + 1) * 2 ^ 32) }

/-- A record written to a partition's fault queue by a die's walkers (R368). -/
def State.pushRecord (s : State) (p : PartId) (die : Nat) (r : Record) : State :=
  let q := s.parts[p]
  let used := (q.fqProd - q.fqCons).toNat
  if 2 ^ q.fqSize ≤ used then s.modPart p (·.drop 1)
  else
    match s.devWrite p die (q.fqBase + BitVec.ofNat 64 (64 * (q.fqProd.toNat % 2 ^ q.fqSize))) (r.bytes s.ns) .write with
    | (s, false) => s.modPart p (·.drop 2)
    | (s, true) =>
      let s := s.modPart p fun x => { x with fqProd := x.fqProd + 1 }
      if used = 0 then s.fireVector p 0 else s

/-- A record about a warp of a block on core c (R439). -/
def warpRecord (c : CoreId) (b : Block) (w : Warp) (kind cause : Nat) (glyph : BitVec 32) (detail detail2 : Word) :
    Record :=
  { kind := kind, wid := w.wid, cause := cause, lcid := lcidOf c, node := b.nodeAddr, block := b.index, glyph := glyph,
    detail := detail, detail2 := detail2, phase := w.baraPhase }

/-- Why one of the device's own accesses to a page cannot be made, as the tables stand, if they give a reason. -/
def State.devSub (s : State) (p : PartId) (va : Word) (need : Need) : Option Nat :=
  match s.walk s.parts[p].ptRoot va with
  | .leaf e _ big =>
    if !permits e need then some subPermission
    else if s.movedFrames.contains (frameOf (s.leafBase e + bitsN va (if big then 29 else 18) 0)) then some subMoved
    else if need.w && !(s.logPage p 0 va).2 then some subDirtyLog
    else none
  | w => some w.subCause
/-- The record of kind 2 that follows one of the device's own accesses of n bytes that cannot be made: it names the first of its pages
that faults, and why (R418, R508). -/
def State.devFault (s : State) (p : PartId) (die : Nat) (node va : Word) (n : Nat) (need : Need) : State :=
  let (at_, sub) := ((pagePieces va n).findSome? fun y => (s.devSub p y.1 need).map fun r => (y.1, r)).getD (va, subNotPresent)
  s.pushRecord p die { kind := 2, cause := 0x0700 + sub, lcid := 0, node := node, detail := at_ }

/-- The group of a co-scheduled block broken for every block of it (R41). -/
def State.breakGroup (s : State) (b : Block) : State :=
  match b.group with
  | none => s
  | some g =>
    { s with cores := s.cores.map fun k => { k with blocks := k.blocks.map fun x =>
        if x.launch == b.launch && x.group == (some g) then { x with broken := true } else x }
             parts := s.parts.map fun q => { q with saved := q.saved.map fun x =>
        if x.launch == b.launch && x.group == (some g) then { x with broken := true } else x } }

/-- RETURN FROM A SUPERVISOR HANDLER (R365). -/
def Warp.eret (w : Warp) : Warp := { w with pc := w.epc.setWidth 32, handler := false }

/-- A Lease Expiry Trap of code 5 or 6 falls due for a warp whose kernel can take it (R165, R179). -/
def leaseTrap (b : Block) (code : Nat) (w : Warp) : Warp :=
  if b.hasTrap ∧ b.maxS = 64 then { w with traps := w.traps ++ [⟨1, code⟩] } else w

/-- A cluster's lease ends with a cause of R62; the divisor returns to 4 (R178, R179). `trap` says whether the holder
gets its trap. -/
def State.endLease (s : State) (cl : ClusterId) (cause : Nat) (trap : Bool) : State :=
  match s.clusters[cl].lease with
  | none => s
  | some l =>
    let s := s.modCluster cl fun k => { k with lease := none, clkdiv := none, pendingDiv := true }
    match s.warp? l.core l.warp with
    | none => s
    | some x =>
      if x.bid ≠ l.bid then s else
      match s.cores[l.core].block? l.bid with
      | none => s
      | some b =>
        s.modWarp l.core l.warp fun y =>
          let y := { y with gstHolder := false, gstCause := BitVec.ofNat 4 cause }
          if trap then leaseTrap b cause y else y

/-- A block halted by its warp's fault (R440): the warp stops as it stands, a record of kind 1 is written, its group
is broken (R41), and its lease ends with cause 7 (R477). -/
def State.halt (s : State) (c : CoreId) (w : WarpId) (cause : Nat) (detail : Word) (glyph : BitVec 32) : State :=
  match s.warp? c w with
  | none => s
  | some x =>
    match s.cores[c].block? x.bid with
    | none => s
    | some b =>
      let s := match s.clusters[clusterOf c].lease with
        | some l => if l.core = c ∧ l.bid = b.bid then s.endLease (clusterOf c) 7 false else s
        | none => s
      let s := s.modCore c fun k =>
        { (k.modWarp w fun y => { y with state := .halted }).modBlock b.bid fun b => { b with halted := true } with
          holder := if k.holder = some w then none else k.holder }
      (s.breakGroup b).pushRecord b.part (dieOf c).val (warpRecord c b x 1 cause glyph detail 0)

/-- TAKING A FAULT precise at stroke start (`glyph` none) or at bundle issue (`glyph` the faulting one): R364 for a
supervisor kernel with a trap vector outside a handler, R440 otherwise. The bundle in issue executes no slot (R129). -/
def State.takeFault (s : State) (c : CoreId) (w : WarpId) (cause : Nat) (detail : Word) (glyph : Option (BitVec 32)) :
    State :=
  let s := { s with issue := none }
  match s.warp? c w with
  | none => s
  | some x =>
    match s.cores[c].block? x.bid with
    | none => s
    | some b =>
      -- a granted stroke counts, though its first bundle faults (R480)
      let s := s.modCore c fun k => k.bump 3 (if glyph.isSome && x.pos == 0 && k.holder == some w then 1 else 0)
      let at_ := glyph.getD x.pc
      if b.supervisor ∧ b.hasTrap ∧ x.handler = false then
        s.modCore c fun k =>
          { k.modWarp w fun y =>
              { y with ecause := BitVec.ofNat 64 cause, einfo := detail, epc := at_.setWidth 64, handler := true, pc := at_,
                       stroke := [], pos := 0, decoded := false, state := .boundary,
                       traps := ⟨2, cause⟩ :: y.traps } with
            holder := if k.holder = some w then none else k.holder }
      else s.halt c w cause detail at_

/-- The trap that is delivered next: supervisor faults, then TRAP, then a lease's end (R165, R364). -/
def nextTrap (ts : List Trap) : Option Trap :=
  match ts.find? fun t => t.kind == 2 with
  | some t => some t
  | none =>
    match ts.find? fun t => t.kind == 0 with
    | some t => some t
    | none => ts.head?

/-- Whether a trap is to be delivered at the boundary where a warp stands: a lease's end waits for a boundary at which no other
trap is delivered (R165). -/
def Warp.trapReady (w : Warp) : Bool :=
  match nextTrap w.traps with
  | none => false
  | some t => t.kind != 1 || !w.trapTaken

/-- DELIVERING A TRAP at a warp's boundary (R163): s62, s63 and the offset of the next stroke. Without a trap vector a
TRAP halts the block (R164). -/
def State.deliverTrap (s : State) (c : CoreId) (w : WarpId) : State :=
  match s.warp? c w with
  | none => s
  | some x =>
    match s.cores[c].block? x.bid, nextTrap x.traps with
    | some b, some t =>
      let s := s.modWarp c w fun y => { y with traps := y.traps.erase t }
      let code : Word := BitVec.ofNat 64 (t.kind * 2 ^ 16 + t.code)
      if b.hasTrap then
        s.modWarp c w fun y =>
          { (y.setS 62 code).setS 63 (y.pc.setWidth 64) with
            pc := b.trapOff, stroke := [], pos := 0, decoded := false, trapTaken := true }
      else s.halt c w 0x1000 code x.pc
    | _, _ => s

/-- The gust status register (R62). -/
def State.gst (s : State) (c : CoreId) (w : Warp) : Word :=
  let l := s.clusters[clusterOf c].lease
  let remain := match l with
    | none => 0
    | some l => max 1 (ceilDiv (l.ends - s.time) Config.ticksPerUs)
  BitVec.ofNat 64 (remain + (if l.isSome then 2 ^ 34 else 0) + (if w.gstHolder then 2 ^ 35 else 0) + 2 ^ 36 * w.gstCause.toNat)

/-- A slot operation in the bundle in issue: its effects wait for the bundle's end, its fault is taken (R129). -/
def runSlot (s : State) (f : Ctx → SlotResult) : Out :=
  match s.ctx? with
  | none => .fault .noBundle
  | some c =>
    match f c with
    | .done e => .next (c.give e)
    | .fault cause detail => .next (s.takeFault c.core c.wid cause detail (some c.ix.word.glyph))

end Sys2Proof.Machine
end

