-- ==== Sys2Proof/Machine/Vector.lean ====
section
/-! DEFINITION. The VA and VB slots: integer, logic, floating point, compares, moves and rearrangement
(spec/07_vector_instructions.md R190 to R205). -/

namespace Sys2Proof.Machine

/-- An element-wise operation of width w on two operand images (R192, R194). -/
def lanes2 (lat d w : Nat) (pred : BitVec 5) (a b : VReg) (op : Nat → Nat → Nat × Flags) (c : Ctx) : SlotResult :=
  let act := c.active pred
  let r := mapLanes w act fun e => op (el w a e) (el w b e)
  oneWrite (c.writeV lat d act r.1 r.2)

/-- An integer or logic operation in class VR, at `shape.esize` (R191, R198). -/
def intVR (sl : VSlot) (f : R3) (op : Nat → Nat → Nat → Nat) (c : Ctx) : SlotResult :=
  let w := c.w.ebits
  lanes2 2 f.d.toNat w f.pred (c.vop sl w f.a) (c.vop sl w f.b) (fun x y => (op w x y, 0)) c

/-- The immediate of class VI at width w: sign-extended, or zero-extended for logic and shifts (R198). -/
def immS (w : Nat) (imm : BitVec 16) : Nat := (imm.signExtend 64).toNat % 2 ^ w
def immZ (w : Nat) (imm : BitVec 16) : Nat := imm.toNat % 2 ^ w

/-- An integer or logic operation in class VI. -/
def intVI (sl : VSlot) (f : VI) (imm : Nat → BitVec 16 → Nat) (op : Nat → Nat → Nat → Nat) (c : Ctx) : SlotResult :=
  let w := c.w.ebits
  lanes2 2 f.d.toNat w f.pred (c.vop sl w f.a) (splat w (imm w f.imm)) (fun x y => (op w x y, 0)) c

/-- The sat and u bits of a variant (R147). -/
def satOf (v : BitVec 4) : Bool := v.getLsbD 0
def uOf (v : BitVec 4) : Bool := v.getLsbD 1

/-- An integer result reduced, or clamped with `.sat` (R198). -/
def intOut (sat u : Bool) (w : Nat) (x : Int) : Nat := if sat then clampTo u w x else wrapTo w x
/-- The element results of R198. -/
def elAdd (v : BitVec 4) (w x y : Nat) : Nat := intOut (satOf v) false w (sx w x + sx w y)
def elSub (v : BitVec 4) (w x y : Nat) : Nat := intOut (satOf v) false w (sx w x - sx w y)
def elMul (v : BitVec 4) (w x y : Nat) : Nat := intOut (satOf v) (uOf v) w (readInt (uOf v) w x * readInt (uOf v) w y)
def elMin (v : BitVec 4) (w x y : Nat) : Nat := if readInt (uOf v) w y < readInt (uOf v) w x then y else x
def elMax (v : BitVec 4) (w x y : Nat) : Nat := if readInt (uOf v) w x < readInt (uOf v) w y then y else x
def elAbs (v : BitVec 4) (w x : Nat) : Nat := intOut (satOf v) false w (sx w x).natAbs
def elAnd (_ x y : Nat) : Nat := x &&& y
def elOr (_ x y : Nat) : Nat := x ||| y
def elXor (_ x y : Nat) : Nat := x ^^^ y
def elShl (w x y : Nat) : Nat := if w ≤ y then 0 else x * 2 ^ y % 2 ^ w
def elShr (w x y : Nat) : Nat := if w ≤ y then 0 else x / 2 ^ y
def elSar (w x y : Nat) : Nat := wrapTo w (sx w x / 2 ^ (min y w))

def execIadd (sl : VSlot) (f : R3) (s : State) : Out := runSlot s (intVR sl f (elAdd f.variant))
def execIsub (sl : VSlot) (f : R3) (s : State) : Out := runSlot s (intVR sl f (elSub f.variant))
def execImul (sl : VSlot) (f : R3) (s : State) : Out := runSlot s (intVR sl f (elMul f.variant))
def execImin (sl : VSlot) (f : R3) (s : State) : Out := runSlot s (intVR sl f (elMin f.variant))
def execImax (sl : VSlot) (f : R3) (s : State) : Out := runSlot s (intVR sl f (elMax f.variant))
def execIabs (sl : VSlot) (f : R3) (s : State) : Out := runSlot s (intVR sl f fun w x _ => elAbs f.variant w x)
def execVAnd (sl : VSlot) (f : R3) (s : State) : Out := runSlot s (intVR sl f elAnd)
def execVOr (sl : VSlot) (f : R3) (s : State) : Out := runSlot s (intVR sl f elOr)
def execVXor (sl : VSlot) (f : R3) (s : State) : Out := runSlot s (intVR sl f elXor)
def execVShl (sl : VSlot) (f : R3) (s : State) : Out := runSlot s (intVR sl f elShl)
def execVShr (sl : VSlot) (f : R3) (s : State) : Out := runSlot s (intVR sl f elShr)
def execVSar (sl : VSlot) (f : R3) (s : State) : Out := runSlot s (intVR sl f elSar)
/-- IMAD: a x b + c formed exactly (R198). -/
def imadRun (sl : VSlot) (f : R3) (c : Ctx) : SlotResult :=
  let w := c.w.ebits
  let u := uOf f.variant
  let act := c.active f.pred
  let a := c.vop sl w f.a
  let b := c.vop sl w f.b
  let z := c.w.vreg f.c.toNat
  let r := mapLanes w act fun e =>
    (intOut (satOf f.variant) u w (readInt u w (el w a e) * readInt u w (el w b e) + readInt u w (el w z e)), 0)
  oneWrite (c.writeV 2 f.d.toNat act r.1 r.2)
def execImad (sl : VSlot) (f : R3) (s : State) : Out := runSlot s (imadRun sl f)
def execIaddImm (sl : VSlot) (f : VI) (s : State) : Out := runSlot s (intVI sl f immS (elAdd f.variant))
def execIsubImm (sl : VSlot) (f : VI) (s : State) : Out := runSlot s (intVI sl f immS (elSub f.variant))
def execImulImm (sl : VSlot) (f : VI) (s : State) : Out := runSlot s (intVI sl f immS (elMul f.variant))
def execVAndImm (sl : VSlot) (f : VI) (s : State) : Out := runSlot s (intVI sl f immZ elAnd)
def execVOrImm (sl : VSlot) (f : VI) (s : State) : Out := runSlot s (intVI sl f immZ elOr)
def execVXorImm (sl : VSlot) (f : VI) (s : State) : Out := runSlot s (intVI sl f immZ elXor)
def execVShlImm (sl : VSlot) (f : VI) (s : State) : Out := runSlot s (intVI sl f immZ elShl)
def execVShrImm (sl : VSlot) (f : VI) (s : State) : Out := runSlot s (intVI sl f immZ elShr)
def execVSarImm (sl : VSlot) (f : VI) (s : State) : Out := runSlot s (intVI sl f immZ elSar)

/-- A compare into a lane mask: the lane's lowest element decides (R199). -/
def maskCompare (lat w d : Nat) (pred : BitVec 5) (a b : VReg) (cond : Nat → Nat → Bool × Flags) (c : Ctx) :
    SlotResult :=
  let act := c.active pred
  let r := (List.range 64).map fun l => if act.getLsbD l then cond (el w a (l * (32 / w))) (el w b (l * (32 / w))) else (false, 0)
  let m : Mask := BitVec.ofNat 64 (packList 1 (r.map fun x => x.1.toNat))
  oneWrite (expose lat (r.foldl (fun x y => x ||| y.2) 0) (.laneMask (fin 8 d) m act))

/-- The conditions eq 0, ne 1, lt 2, le 3, gt 4, ge 5 on equality and order (R147). -/
def condOf (n : Nat) (eq lt gt : Bool) : Bool :=
  match n with
  | 0 => eq | 1 => !eq | 2 => lt | 3 => lt || eq | 4 => gt | _ => gt || eq

def execIcmp (sl : VSlot) (f : R3) (s : State) : Out :=
  runSlot s fun c =>
    let w := c.w.ebits
    maskCompare 2 w f.d.toNat f.pred (c.vop sl w f.a) (c.vop sl w f.b) (fun x y =>
      let i := readInt (uOf f.variant) w x
      let j := readInt (uOf f.variant) w y
      (condOf (bitsN f.c 2 0) (decide (i = j)) (decide (i < j)) (decide (j < i)), 0)) c

/-- The format of a fmt variant (R147). -/
def fmtOf (v : BitVec 4) : Fmt := if bitsN v 1 0 = 0 then .b32 else if bitsN v 1 0 = 1 then .b16 else .bf16

/-- A floating operation on two sources read under R81, its result formed by R80 to R83 (R201). -/
def floatVR (sl : VSlot) (f : R3) (op : Mode → FVal → FVal → FVal × Flags) (c : Ctx) : SlotResult :=
  let k := fmtOf f.variant
  let w := 8 * k.bytes
  let m := c.w.mode.plain
  lanes2 4 f.d.toNat w f.pred (c.vop sl w f.a) (c.vop sl w f.b) (fun x y =>
    let r := op m (k.decode c.w.ftz x) (k.decode c.w.ftz y)
    let o := k.ofVal m 0 c.w.ftz r.1
    (o.1, r.2 ||| o.2)) c

/-- The lesser or the greater value, -0 below +0, the other of one NaN (R202). -/
def fminmax (isMax : Bool) (a b : FVal) : FVal × Flags :=
  let fl := flIf (a.isSnan || b.isSnan) flNv
  let below := a.lt b || (a.isZero && b.isZero && a.isNeg && !b.isNeg)
  if a.isNan then ((if b.isNan then .nan false else b), fl)
  else if b.isNan then (a, fl)
  else (if below != isMax then a else b, fl)

def execFadd (sl : VSlot) (f : R3) (s : State) : Out := runSlot s (floatVR sl f fun m a b => a.add m b)
def execFsub (sl : VSlot) (f : R3) (s : State) : Out := runSlot s (floatVR sl f fun m a b => a.add m b.negate)
def execFmul (sl : VSlot) (f : R3) (s : State) : Out := runSlot s (floatVR sl f fun _ a b => a.mul b)
def execFmin (sl : VSlot) (f : R3) (s : State) : Out := runSlot s (floatVR sl f fun _ a b => fminmax false a b)
def execFmax (sl : VSlot) (f : R3) (s : State) : Out := runSlot s (floatVR sl f fun _ a b => fminmax true a b)
/-- FFMA: one rounding of the exact a x b + c (R201, R202). -/
def ffmaRun (sl : VSlot) (f : R3) (c : Ctx) : SlotResult :=
  let k := fmtOf f.variant
  let w := 8 * k.bytes
  let m := c.w.mode.plain
  let act := c.active f.pred
  let a := c.vop sl w f.a
  let b := c.vop sl w f.b
  let z := c.w.vreg f.c.toNat
  let r := mapLanes w act fun e =>
    let p := (k.decode c.w.ftz (el w a e)).mul (k.decode c.w.ftz (el w b e))
    let q := p.1.add m (k.decode c.w.ftz (el w z e))
    let o := k.ofVal m 0 c.w.ftz q.1
    (o.1, p.2 ||| q.2 ||| o.2)
  oneWrite (c.writeV 4 f.d.toNat act r.1 r.2)
def execFfma (sl : VSlot) (f : R3) (s : State) : Out := runSlot s (ffmaRun sl f)

/-- The condition of FCMP and its nv (R199). -/
def fcmpCond (n : Nat) (a b : FVal) : Bool × Flags :=
  let nan := a.isNan || b.isNan
  let signal := a.isSnan || b.isSnan || (nan && decide (2 ≤ n ∧ n ≤ 5))
  (if n = 6 then nan else if nan then n == 1 else condOf n (a.eq b) (a.lt b) (b.lt a), flIf signal flNv)
def execFcmp (sl : VSlot) (f : R3) (s : State) : Out :=
  runSlot s fun c =>
    let k := fmtOf f.variant
    let w := 8 * k.bytes
    maskCompare 4 w f.d.toNat f.pred (c.vop sl w f.a) (c.vop sl w f.b) (fun x y =>
      fcmpCond (bitsN f.c 2 0) (k.decode c.w.ftz x) (k.decode c.w.ftz y)) c

/-- The class bit of an encoding (R203). -/
def classBit (k : Fmt) (x : Nat) : Nat :=
  match k.decode false x with
  | .nan sig => if sig then 8 else 9
  | .inf neg => if neg then 0 else 7
  | .fin neg m e =>
    let sub := ltPow m e 1 k.emin
    if m = 0 then (if neg then 3 else 4) else if neg then (if sub then 2 else 1) else (if sub then 5 else 6)
def execFclass (sl : VSlot) (f : R3) (s : State) : Out :=
  runSlot s fun c =>
    let k := fmtOf f.variant
    let w := 8 * k.bytes
    let a := c.vop sl w f.a
    lanes2 4 f.d.toNat w f.pred a a (fun x _ => (2 ^ classBit k x, 0)) c

/-- An operation on whole lanes of 32 bits (R200). -/
def laneMove (d : Nat) (pred : BitVec 5) (val : Nat → Nat) (c : Ctx) : SlotResult :=
  let act := c.active pred
  let r := mapLanes 32 act fun l => (val l, 0)
  oneWrite (c.writeV 2 d act r.1 r.2)

def execVSel (sl : VSlot) (f : R3) (s : State) : Out :=
  runSlot s fun c =>
    let a := c.vop sl c.w.ebits f.a
    let b := c.vop sl c.w.ebits f.b
    laneMove f.d.toNat f.pred (fun l => if (c.w.qreg f.c.toNat).getLsbD l then el 32 a l else el 32 b l) c
def execMov (sl : VSlot) (f : R3) (s : State) : Out :=
  runSlot s fun c => let a := c.vop sl c.w.ebits f.a; laneMove f.d.toNat f.pred (fun l => el 32 a l) c
def execMovImm (_sl : VSlot) (f : VI) (s : State) : Out :=
  runSlot s fun c =>
    let a := splat c.w.ebits (immS c.w.ebits f.imm)
    laneMove f.d.toNat f.pred (fun l => el 32 a l) c
def execBcast (sl : VSlot) (f : R3) (s : State) : Out :=
  runSlot s fun c => let a := c.vop sl c.w.ebits f.a; laneMove f.d.toNat f.pred (fun _ => el 32 a f.c.toNat) c
/-- QPOP: the set bits of `qC` below each lane (R200). -/
def execQpop (_sl : VSlot) (f : R3) (s : State) : Out :=
  runSlot s fun c =>
    let w := c.w.ebits
    let act := c.active f.pred
    let q := c.w.qreg f.c.toNat
    let r := mapLanes w act fun e => (popCount (q &&& BitVec.ofNat 64 (2 ^ laneOf w e - 1)), 0)
    oneWrite (c.writeV 2 f.d.toNat act r.1 r.2)

/-- A rearrangement of elements of width w (R204). -/
def rearrange (f : R3) (w : Nat) (val : Nat → Nat) (c : Ctx) : SlotResult :=
  let act := c.active f.pred
  let r := mapLanes w act fun e => (val e, 0)
  oneWrite (c.writeV 3 f.d.toNat act r.1 r.2)

def execPerm (sl : VSlot) (f : R3) (s : State) : Out :=
  runSlot s fun c =>
    let w := c.w.ebits
    let a := c.vop sl w f.a
    let b := c.vop sl w f.b
    rearrange f w (fun e => el w a (el w b e % (2048 / w))) c

/-- ROWSH: its Shape Fault needs an active lane (R204, R216). -/
def rowsh (sl : VSlot) (f : R3) (val : VReg → Nat → Nat) (c : Ctx) : SlotResult :=
  if c.active f.pred ≠ 0 ∧ c.w.rows ≤ f.c.toNat then .fault 0x0C10 c.w.shape
  else rearrange f c.w.ebits (val (c.vop sl c.w.ebits f.a)) c
def execRowshUp (sl : VSlot) (f : R3) (s : State) : Out :=
  runSlot s fun c => rowsh sl f (fun a e =>
    let i := e + f.c.toNat * c.w.cols
    if c.w.elems ≤ i then 0 else el c.w.ebits a i) c
def execRowshDown (sl : VSlot) (f : R3) (s : State) : Out :=
  runSlot s fun c => rowsh sl f (fun a e =>
    let k := f.c.toNat * c.w.cols
    if e < k then 0 else el c.w.ebits a (e - k)) c
def execTrans (sl : VSlot) (f : R3) (s : State) : Out :=
  runSlot s fun c =>
    let w := c.w.ebits
    let a := c.vop sl w f.a
    rearrange f w (fun e => el w a (e % c.w.rows * c.w.cols + e / c.w.rows)) c

/-- SHAPE: lane-less; an invalid view faults and leaves `shape` (R205). -/
def execShape (f : VI) (s : State) : Out :=
  runSlot s fun c =>
    if !c.holds f.pred then .nothing
    else if !shapeOk (f.imm.setWidth 64) then .fault 0x0C10 c.w.shape
    else .done { ends := [.setShape (f.imm.setWidth 6)] }

end Sys2Proof.Machine
end

