-- ==== Sys2Proof/Machine/Convert.lean ====
section
/-! DEFINITION. The VA and VB slots: conversions, row reduction, random numbers and the Kulisch accumulators
(spec/07_vector_instructions.md R206 to R215). -/

namespace Sys2Proof.Machine

/-- One step drawn when the mode is stochastic (R102). -/
def drawsOf (m : Mode) : Nat := if m = .stochastic then 1 else 0

/-- The random bits of element j of lane l for the conversion in issue (R102, R197). -/
def Ctx.rand (c : Ctx) (l j : Nat) : Nat := rngBits (c.w.rngWord c.ix.draws l) j

/-- CVT (R206, R207). -/
def cvtRun (f : VC) (c : Ctx) : SlotResult :=
  match Fmt.ofSel f.src.toNat (f.fin == 1), Fmt.ofSel f.tgt.toNat (f.fin == 1) with
  | some src, some tgt =>
    let act := c.active f.pred
    let mode := c.w.mode
    let a := c.w.vreg f.a.toNat
    let n := 256 / max src.bytes tgt.bytes
    let w := 8 * tgt.bytes
    let r := mapLanes w act fun j =>
      if n ≤ j then (0, 0)
      else tgt.convert mode (if mode = .stochastic then c.rand (laneOf w j) (j % (32 / w)) else 0) c.w.ftz (f.sat == 1)
        (src.decode c.w.ftz (el (8 * src.bytes) a j))
    .done { draws := drawsOf mode, writes := [c.writeV 4 f.d.toNat act r.1 r.2] }
  | _, _ => .nothing
def execCvt (_sl : VSlot) (f : VC) (s : State) : Out := runSlot s (cvtRun f)

/-- One element of PCVTn (R209): narrowing divides by the scale, widening multiplies by it. -/
def pcvtEl (mode : Mode) (ftz sat : Bool) (src tgt : Fmt) (scale r x : Nat) : Nat × Flags :=
  if scale = 0xFF then (tgt.nanCode, 0)
  else
    let k : Int := scale - 127
    tgt.convert mode r ftz sat ((src.decode ftz x).scale (if tgt.isP8 then -k else k))

/-- PCVTn: n wide registers against m = E / 256 narrow ones (R208, R209). -/
def pcvtRun (n : Nat) (f : VC) (c : Ctx) : SlotResult :=
  match Fmt.ofSel f.src.toNat (f.fin == 1), Fmt.ofSel f.tgt.toNat (f.fin == 1) with
  | some src, some tgt =>
    let act := c.active f.pred
    let mode := c.w.mode
    let wide := if tgt.isP8 then src else tgt
    let total := n * (256 / wide.bytes)
    let es := 256 / src.bytes
    let ed := 256 / tgt.bytes
    let w := 8 * tgt.bytes
    let blk := 8 * 2 ^ f.blk.toNat
    let scales := c.w.vreg f.sc.toNat
    let writes := (List.range (total / ed)).map fun g =>
      let r := mapLanes w act fun i =>
        let j := g * ed + i
        pcvtEl mode c.w.ftz (f.sat == 1) src tgt (el 8 scales (j / blk))
          (if mode = .stochastic then c.rand (laneOf w i) (g * (32 / w) + i % (32 / w)) else 0)
          (el (8 * src.bytes) (c.w.vreg (f.a.toNat + j / es)) (j % es))
      c.writeV 4 (f.d.toNat + g) act r.1 r.2
    .done { draws := drawsOf mode, writes := writes }
  | _, _ => .nothing
def execPcvt2 (_sl : VSlot) (f : VC) (s : State) : Out := runSlot s (pcvtRun 2 f)
def execPcvt4 (_sl : VSlot) (f : VC) (s : State) : Out := runSlot s (pcvtRun 4 f)
def execPcvt8 (_sl : VSlot) (f : VC) (s : State) : Out := runSlot s (pcvtRun 8 f)

/-- The exact sum of values, with the special cases of an accumulator (R98) and the sign that R82 gives an exact zero; the
sum of no value is +0 (R210). nv is set for a signalling NaN, and where infinities of both signs meet with no NaN among the
values: next to a NaN they create none (DEDUCED, log 40: R98 and R214 give the sum no order). -/
def exactSum (mode : Mode) (vs : List FVal) : FVal × Flags :=
  if vs.any (·.isNan) then (.nan false, flIf (vs.any (·.isSnan)) flNv)
  else if vs.contains (.inf false) && vs.contains (.inf true) then (.nan false, flNv)
  else
    match vs.find? (·.isInf), vs with
    | some v, _ => (v, 0)
    | none, [] => (.fin false 0 0, 0)
    | none, v :: vs => (vs.foldl (fun acc x => (acc.add mode x).1) ((FVal.fin false 0 0).add mode v).1, 0)

/-- The greatest value, -0 below +0; any NaN gives NaN (R210). -/
def maxVal (vs : List FVal) : FVal × Flags :=
  if vs.any (·.isNan) then (.nan false, flIf (vs.any (·.isSnan)) flNv)
  else (vs.foldl (fun acc v => (fminmax true acc v).1) (.inf true), 0)

/-- VRED: each row's active elements reduced, the result in the row's active elements (R210). -/
def vredRun (sl : VSlot) (f : R3) (red : List FVal → FVal × Flags) (c : Ctx) : SlotResult :=
  let k := fmtOf f.variant
  let w := 8 * k.bytes
  let act := c.active f.pred
  if act ≠ 0 ∧ w ≠ c.w.ebits then .fault 0x0C10 c.w.shape
  else
    let a := c.vop sl w f.a
    let cols := (2048 / w) / c.w.rows
    let rows := (List.range c.w.rows).map fun i =>
      let es := ((List.range cols).map (i * cols + ·)).filter fun e => act.getLsbD (laneOf w e)
      let v := red (es.map fun e => k.decode c.w.ftz (el w a e))
      let o := k.ofVal c.w.mode.plain 0 c.w.ftz v.1
      (o.1, v.2 ||| o.2)
    let r := mapLanes w act fun e => rows.getD (e / cols) (0, 0)
    oneWrite (c.writeV 4 f.d.toNat act r.1 r.2)
def execVredAdd (sl : VSlot) (f : R3) (s : State) : Out :=
  runSlot s fun c => vredRun sl f (exactSum c.w.mode.plain) c
def execVredMax (sl : VSlot) (f : R3) (s : State) : Out := runSlot s (vredRun sl f maxVal)

/-- RNGU (R211). -/
def rnguRun (f : R3) (c : Ctx) : SlotResult :=
  let act := c.active f.pred
  let r := mapLanes 32 act fun l => ((c.w.rngWord c.ix.draws l).toNat, 0)
  .done { draws := 1, writes := [c.writeV 3 f.d.toNat act r.1 0] }
def execRngu (_sl : VSlot) (f : R3) (s : State) : Out := runSlot s (rnguRun f)

/-- RNGB: all ones when bits(z, 63, 40) < p x 2^24 (R211). -/
def rngbLane (p : FVal) (z : Word) : Nat :=
  match p with
  | .nan _ => 0
  | .inf neg => if neg then 0 else 0xFFFFFFFF
  | .fin neg m e => if neg ∨ m = 0 then 0 else if ltPow (bitsN z 63 40) (-24) m e then 0xFFFFFFFF else 0
def rngbRun (sl : VSlot) (f : R3) (c : Ctx) : SlotResult :=
  let act := c.active f.pred
  let a := c.vop sl 32 f.a
  let r := mapLanes 32 act fun l =>
    (rngbLane (Fmt.b32.decode c.w.ftz (el 32 a l)) (c.w.rngWord c.ix.draws l), 0)
  .done { draws := 1, writes := [c.writeV 3 f.d.toNat act r.1 0] }
def execRngb (sl : VSlot) (f : R3) (s : State) : Out := runSlot s (rngbRun sl f)

/-- The accumulator that c[1:0] names (R213). -/
def kaOf (f : R3) : Fin 4 := fin 4 f.c.toNat

/-- KCLR: with no active lane it lands without effect (R214). -/
def execKclr (_sl : VSlot) (f : R3) (s : State) : Out :=
  runSlot s fun c => oneWrite ((expose 2 0 (.kclr (kaOf f) (c.active f.pred))).when (c.active f.pred != 0))

/-- The exact sum of addends formed at issue (R213, R214). -/
def kAddend (f : R3) (c : Ctx) (el1 : Nat → FVal × Flags) : SlotResult :=
  let w := 8 * (fmtOf f.variant).bytes
  let act := c.active f.pred
  let es := (List.range (2048 / w)).filter fun e => act.getLsbD (laneOf w e)
  let vs := es.map el1
  let r := exactSum .nearest (vs.map (·.1))
  oneWrite (expose 2 (vs.foldl (fun a v => a ||| v.2) r.2) (.kadd (kaOf f) (Kulisch.ofVal r.1) act))
def execKacc (sl : VSlot) (f : R3) (s : State) : Out :=
  runSlot s fun c =>
    let k := fmtOf f.variant
    let a := c.vop sl (8 * k.bytes) f.a
    kAddend f c fun e => (k.decode c.w.ftz (el (8 * k.bytes) a e), 0)
def execKmac (sl : VSlot) (f : R3) (s : State) : Out :=
  runSlot s fun c =>
    let k := fmtOf f.variant
    let a := c.vop sl (8 * k.bytes) f.a
    let b := c.vop sl (8 * k.bytes) f.b
    kAddend f c fun e =>
      (k.decode c.w.ftz (el (8 * k.bytes) a e)).mul (k.decode c.w.ftz (el (8 * k.bytes) b e))

/-- KRD: the accumulator rounded once in the mode the a field names (R99, R215). -/
def krdRun (f : R3) (c : Ctx) : SlotResult :=
  let k := fmtOf f.variant
  let act := c.active f.pred
  let mode := Mode.ofCode f.a.toNat
  let o := k.ofVal mode (if mode = .stochastic then c.rand 0 0 else 0) c.w.ftz (c.w.kreg f.c.toNat).value
  .done { draws := drawsOf mode, writes := [c.writeV 6 f.d.toNat act (splat (8 * k.bytes) o.1) (flIf (act != 0) o.2)] }
def execKrd (_sl : VSlot) (f : R3) (s : State) : Out := runSlot s (krdRun f)

/-- The rounded prefix sums of one row: each prefix is a sum of its own (R100). -/
def prefixSums (mode : Mode) (ftz : Bool) (vs : List FVal) : List (Nat × Flags) :=
  (List.range vs.length).map fun j =>
    let r := exactSum mode (vs.take (j + 1))
    let o := Fmt.b32.ofVal mode 0 ftz r.1
    (o.1, r.2 ||| o.2)

/-- KSCAN: inactive elements enter as +0 and are not written (R215). -/
def kscanRun (sl : VSlot) (f : R3) (c : Ctx) : SlotResult :=
  let act := c.active f.pred
  if act ≠ 0 ∧ c.w.ebits ≠ 32 then .fault 0x0C10 c.w.shape
  else
    let a := c.vop sl 32 f.a
    let cols := 64 / c.w.rows
    let outs := (List.range c.w.rows).map fun i =>
      prefixSums c.w.mode.plain c.w.ftz ((List.range cols).map fun j =>
        let e := i * cols + j
        if act.getLsbD e then Fmt.b32.decode c.w.ftz (el 32 a e) else .fin false 0 0)
    let r := mapLanes 32 act fun e => (outs.getD (e / cols) []).getD (e % cols) (0, 0)
    oneWrite (c.writeV 6 f.d.toNat act r.1 r.2)
def execKscan (sl : VSlot) (f : R3) (s : State) : Out := runSlot s (kscanRun sl f)

end Sys2Proof.Machine
end

