-- ==== Sys2Proof/Machine/Scalar.lean ====
section
/-! DEFINITION. The S slot (spec/06_control_scalar_instructions.md R183 to R189): every result is an exposed write of
latency 1, and no operation changes a flag. -/

namespace Sys2Proof.Machine

/-- The second source: register b, or zext(c) when variant bit [36] is set (R183). -/
def Ctx.srcB (c : Ctx) (f : R3) : Word :=
  if f.variant.getLsbD 0 then f.c.setWidth 64 else c.w.sreg f.b.toNat

/-- A two-source operation into a scalar (R184). -/
def scalar2 (f : R3) (op : Word → Word → Word) (c : Ctx) : SlotResult :=
  oneWrite ((writeS f.d.toNat (op (c.w.sreg f.a.toNat) (c.srcB f))).when (c.holds f.pred))

/-- An operation on registers a and b into a scalar (R187). -/
def scalarAB (f : R3) (op : Word → Word → Word) (c : Ctx) : SlotResult :=
  oneWrite ((writeS f.d.toNat (op (c.w.sreg f.a.toNat) (c.w.sreg f.b.toNat))).when (c.holds f.pred))

/-- A write of a predicate (R185, R186). -/
def scalarP (f : R3) (v : Bool) (c : Ctx) : SlotResult :=
  oneWrite ((expose 1 0 (.pred (fin 16 f.d.toNat) v)).when (c.holds f.pred))

/-- The shift amount b[5:0]. -/
def sh6 (b : Word) : Nat := b.toNat % 64
/-- Bit [37] of the variant: unsigned (R184). -/
def uBit (f : R3) : Bool := f.variant.getLsbD 1

/-- MULH: bits [127:64] of the product (R184). -/
def mulHigh (u : Bool) (a b : Word) : Word :=
  if u then BitVec.ofNat 64 (a.toNat * b.toNat / 2 ^ 64) else BitVec.ofInt 64 (a.toInt * b.toInt / 2 ^ 64)
/-- a < b, signed or unsigned. -/
def sLt (u : Bool) (a b : Word) : Bool := if u then a.ult b else a.slt b
/-- The condition of CMP: eq 0, ne 1, lt 2, le 3 (R185). -/
def cmpCond (cond : Nat) (u : Bool) (a b : Word) : Bool :=
  match cond with
  | 0 => a == b
  | 1 => a != b
  | 2 => sLt u a b
  | _ => !sLt u b a

/-- The mask of w' bits from pos, with w' = min(w, 64 - pos) (R187). -/
def fieldWidth (pos w : Nat) : Nat := min w (64 - pos)
/-- BFX (R187). -/
def bfxVal (u : Bool) (a : Word) (pos w : Nat) : Word :=
  let n := fieldWidth pos w
  let x := a.toNat / 2 ^ pos % 2 ^ n
  if u then BitVec.ofNat 64 x else BitVec.ofInt 64 (sx n x)
/-- BFI (R187). -/
def bfiVal (d a : Word) (pos w : Nat) : Word :=
  let n := fieldWidth pos w
  let m : Word := BitVec.ofNat 64 ((2 ^ n - 1) * 2 ^ pos)
  (d &&& ~~~m) ||| ((a <<< pos) &&& m)
/-- Leading zeros, and 1 bits (R187). -/
def clzVal (a : Word) : Word := BitVec.ofNat 64 (if a = 0 then 64 else 63 - a.toNat.log2)
def popcVal (a : Word) : Word := BitVec.ofNat 64 (popCount a)

def execSAdd (f : R3) (s : State) : Out := runSlot s (scalar2 f fun a b => a + b)
def execSSub (f : R3) (s : State) : Out := runSlot s (scalar2 f fun a b => a - b)
def execSMul (f : R3) (s : State) : Out := runSlot s (scalar2 f fun a b => a * b)
def execMulh (f : R3) (s : State) : Out := runSlot s (scalar2 f (mulHigh (uBit f)))
def execSAnd (f : R3) (s : State) : Out := runSlot s (scalar2 f fun a b => a &&& b)
def execSOr (f : R3) (s : State) : Out := runSlot s (scalar2 f fun a b => a ||| b)
def execSXor (f : R3) (s : State) : Out := runSlot s (scalar2 f fun a b => a ^^^ b)
def execAndn (f : R3) (s : State) : Out := runSlot s (scalar2 f fun a b => a &&& ~~~b)
def execSShl (f : R3) (s : State) : Out := runSlot s (scalar2 f fun a b => a <<< sh6 b)
def execSShr (f : R3) (s : State) : Out := runSlot s (scalar2 f fun a b => a >>> sh6 b)
def execSSar (f : R3) (s : State) : Out := runSlot s (scalar2 f fun a b => a.sshiftRight (sh6 b))
def execRotl (f : R3) (s : State) : Out := runSlot s (scalar2 f fun a b => a.rotateLeft (sh6 b))
def execSMin (f : R3) (s : State) : Out := runSlot s (scalar2 f fun a b => if sLt (uBit f) b a then b else a)
def execSMax (f : R3) (s : State) : Out := runSlot s (scalar2 f fun a b => if sLt (uBit f) a b then b else a)
def execCmp (f : R3) (s : State) : Out :=
  runSlot s fun c => scalarP f (cmpCond (bitsN f.variant 3 2) (uBit f) (c.w.sreg f.a.toNat) (c.srcB f)) c
def execPlog (f : R3) (s : State) : Out :=
  runSlot s fun c =>
    scalarP f (f.variant.getLsbD (2 * (c.w.preg f.a.toNat).toNat + (c.w.preg f.b.toNat).toNat)) c
def execSSel (f : R3) (s : State) : Out :=
  runSlot s fun c => scalarAB f (fun a b => if c.w.preg f.c.toNat then a else b) c
def execLea (f : R3) (s : State) : Out := runSlot s (scalarAB f fun a b => a + (b <<< f.c.toNat))
def execBfx (f : R3) (s : State) : Out := runSlot s (scalarAB f fun a b => bfxVal (uBit f) a (sh6 b) f.c.toNat)
def execBfi (f : R3) (s : State) : Out :=
  runSlot s fun c => scalarAB f (fun a b => bfiVal (c.w.sreg f.d.toNat) a (sh6 b) f.c.toNat) c
def execClz (f : R3) (s : State) : Out := runSlot s (scalarAB f fun a _ => clzVal a)
def execPopc (f : R3) (s : State) : Out := runSlot s (scalarAB f fun a _ => popcVal a)

/-- The 32 bits that a lane holds of MOVV's source (R187): a register, elements 0 to 63 of `fl`, or laneid. -/
def Ctx.movv (c : Ctx) (a : BitVec 8) (lane : Nat) : Word :=
  if a.toNat < 0x80 then (elem 32 (c.w.vreg a.toNat) lane).setWidth 64
  else if a = 0xC0 then (elem 32 (c.flHalf .va) lane).setWidth 64
  else BitVec.ofNat 64 lane
def execMovv (f : R3) (s : State) : Out :=
  runSlot s fun c => oneWrite ((writeS f.d.toNat (c.movv f.a f.c.toNat)).when (c.holds f.pred))

/-- MOVQ: q codes are 0x50 to 0x57 (R114, R187). -/
def execMovq (f : R3) (s : State) : Out :=
  runSlot s fun c =>
    oneWrite ((if f.d.toNat < 0x40 then writeS f.d.toNat (c.w.qreg f.a.toNat)
      else expose 1 0 (.laneMask (fin 8 f.d.toNat) (c.w.sreg f.a.toNat) (BitVec.allOnes 64))).when (c.holds f.pred))

/-- The special register of an index of R53; none for an index not in the table. -/
def Ctx.special (c : Ctx) (i : Nat) : Option Word :=
  let w := c.w
  match i with
  | 0x00 => some (w.lc.setWidth 64)
  | 0x01 => some (w.vrb.setWidth 64)
  | 0x02 => some w.shape
  | 0x03 => some w.fpc
  | 0x04 => some w.tie
  | 0x05 => some (w.rngk.extractLsb' 0 64)
  | 0x06 => some (w.rngk.extractLsb' 64 64)
  | 0x07 => some w.rngc
  | 0x08 => some (BitVec.ofNat 64 w.wid)
  | 0x09 => some (c.b.bx.setWidth 64)
  | 0x0A => some (c.b.by_.setWidth 64)
  | 0x0B => some (c.b.bz.setWidth 64)
  | 0x0C => some (BitVec.ofNat 64 (lcidOf c.core))
  | 0x0D => some (c.s.gst c.core w)
  | 0x0E => some w.ocnt
  | 0x0F => some w.dmask
  | 0x10 => some w.allocWord
  | 0x11 => some (w.sp.setWidth 64)
  | 0x12 => some (w.p.setWidth 64)
  | _ => none

/-- The indices of R53 that SWR may write. -/
def specialRw (i : Nat) : Bool := decide (i < 8) || i == 0x11 || i == 0x12

/-- The detail of a Privilege Fault: slot opcode and index (R438). -/
def privDetail (opcode index : Nat) : Word := BitVec.ofNat 64 (opcode + 256 * index)

def execSrd (f : R3) (s : State) : Out :=
  runSlot s fun c =>
    if !c.holds f.pred then oneWrite ((writeS f.d.toNat 0).when false)
    else
      match c.special f.b.toNat with
      | none => .fault 0x0500 (privDetail 0x19 f.b.toNat)
      | some v => oneWrite (writeS f.d.toNat v)

/-- The value SWR gives a register that has reserved bits (R6); an invalid `shape` is refused (R55). -/
def execSwr (f : R3) (s : State) : Out :=
  runSlot s fun c =>
    if !c.holds f.pred then .nothing
    else
      let v := c.w.sreg f.a.toNat
      if !specialRw f.b.toNat then .fault 0x0500 (privDetail 0x1A f.b.toNat)
      else if f.b = 2 ∧ !shapeOk (v &&& 0x3F) then .fault 0x0C10 c.w.shape
      else .done { ends := [.swr f.b.toNat v] }

/-- LI and LI.s carry no predicate (R189). -/
def execLi (f : SI) (s : State) : Out := runSlot s fun _ => oneWrite (writeS f.d.toNat (f.imm.setWidth 64))
def execLiS (f : SI) (s : State) : Out := runSlot s fun _ => oneWrite (writeS f.d.toNat (f.imm.signExtend 64))
def execLiHi (f : SI) (s : State) : Out :=
  runSlot s fun c => oneWrite (writeS f.d.toNat (f.imm ++ (c.w.sreg f.d.toNat).extractLsb' 0 32))

end Sys2Proof.Machine
end

