-- ==== Sys2Proof/Machine/Control.lean ====
section
/-! DEFINITION. The K slot (spec/06_control_scalar_instructions.md R154 to R182, spec/17_partitions.md R361 to R366):
what each operation decides and reads at issue. Its effects take place at the end of its bundle (Issue.lean). -/

namespace Sys2Proof.Machine

/-- A control transfer to an offset, at the end of the bundle (R155). -/
def branchIf (b : Bool) (target : BitVec 32) : SlotResult := if b then .done { ends := [.setPc target] } else .nothing

def execBra (f : KB) (s : State) : Out := runSlot s fun _ => branchIf true f.target
def execBrc (f : KB) (s : State) : Out := runSlot s fun c => branchIf (c.w.preg f.cond.toNat) f.target
def execBrcN (f : KB) (s : State) : Out := runSlot s fun c => branchIf (!c.w.preg f.cond.toNat) f.target
/-- q[cond] AND live (R157). -/
def Ctx.brd (c : Ctx) (f : KB) : Mask := c.w.qreg f.cond.toNat &&& c.w.live
def execBrdAny (f : KB) (s : State) : Out := runSlot s fun c => branchIf (c.brd f != 0) f.target
def execBrdAll (f : KB) (s : State) : Out := runSlot s fun c => branchIf (c.brd f == c.w.live) f.target
def execBrdNone (f : KB) (s : State) : Out := runSlot s fun c => branchIf (c.brd f == 0) f.target
/-- CALL: s63 takes next_glyph (R157). -/
def execCall (f : KB) (s : State) : Out :=
  runSlot s fun c => .done { writes := [writeS 63 (c.w.next.setWidth 64)], ends := [.setPc f.target] }
def execRet (f : KR) (s : State) : Out := runSlot s fun c => branchIf true ((c.w.sreg f.a.toNat).setWidth 32)
def execLoop (f : KB) (s : State) : Out := runSlot s fun _ => .done { ends := [.loop f.target] }

/-- MARK and JOIN (R31, R32, R161). -/
def execMark (f : KR) (s : State) : Out :=
  runSlot s fun c =>
    SlotResult.check (decide (c.w.dstack.length < 16)) 0x0D01 (BitVec.ofNat 64 c.w.dstack.length)
      (.done { ends := [.mark (fin 8 f.imm.toNat) ((c.w.sreg f.a.toNat).setWidth 32) ((c.w.sreg f.b.toNat).setWidth 32)] })
def execJoin (_f : KB) (s : State) : Out :=
  runSlot s fun c => SlotResult.check (!c.w.dstack.isEmpty) 0x0D02 0 (.done { ends := [.join] })
def execExit (_f : KB) (s : State) : Out := runSlot s fun _ => .done { ends := [.exit] }
def execTrap (f : KR) (s : State) : Out := runSlot s fun _ => .done { ends := [.trap f.imm.toNat] }

/-- Head waits issue as no-ops: their effect is the arbiter's condition (R166). -/
def execWait (_f : KWait) (s : State) : Out := runSlot s fun _ => .nothing
def execWaitt (_f : KWaitt) (s : State) : Out := runSlot s fun _ => .nothing
def execBarw (_f : KBarw) (s : State) : Out := runSlot s fun _ => .nothing

/-- A block barrier at a window address of AB (R77). -/
structure Barrier where
  expected : Nat
  arrived : Nat
  phase : BitVec 32
  pending : Int
  deriving DecidableEq, Repr

/-- The barrier that 16 bytes of AB hold. -/
def Core.barrier (k : Core) (pa : Nat) : Barrier :=
  { expected := k.ab.num pa 4, arrived := k.ab.num (pa + 4) 4, phase := BitVec.ofNat 32 (k.ab.num (pa + 8) 4)
    pending := sx 32 (k.ab.num (pa + 12) 4) }
/-- The bytes of a barrier. -/
def Barrier.bytes (x : Barrier) : List Byte :=
  bytesOf 4 (BitVec.ofNat 32 x.expected) ++ bytesOf 4 (BitVec.ofNat 32 x.arrived) ++ bytesOf 4 x.phase
    ++ bytesOf 4 (BitVec.ofInt 32 x.pending)
/-- The completion test (R36). -/
def Barrier.test (x : Barrier) : Barrier :=
  if x.arrived = x.expected ∧ x.pending = 0 then { x with phase := x.phase + 1, arrived := 0 } else x
/-- Whether the pending-byte counter can take an addition (R38). -/
def Barrier.canAdd (x : Barrier) (n : Int) : Bool := decide (-2 ^ 31 ≤ x.pending + n ∧ x.pending + n < 2 ^ 31)

/-- BARA: its checks, and the phase it returns (R38, R168). -/
def baraRun (f : KR) (c : Ctx) : SlotResult :=
  let a := (c.w.sreg f.a.toNat).toNat + f.imm.toNat
  let n := (c.w.sreg f.b.toNat).toNat
  let detail : Word := BitVec.ofNat 64 a
  SlotResult.check (decide (a + 16 ≤ c.b.ab.size)) 0x0A00 detail <|
  SlotResult.check (decide (a % 16 = 0 ∧ n < 2 ^ 31)) 0x0E00 detail <|
    let x := c.k.barrier (c.b.ab.base + a)
    SlotResult.check (decide (x.expected ≠ 0 ∧ x.arrived + 1 ≤ x.expected) && x.canAdd n) 0x0E00 detail <|
    .done { writes := [writeS f.d.toNat (x.phase.setWidth 64)], ends := [.bara a n] }
def execBara (f : KR) (s : State) : Out := runSlot s (baraRun f)

/-- CSYNC: 2 at once where there is no co-scheduled group; otherwise its result lands at release (R40, R169). -/
def execCsync (f : KR) (s : State) : Out :=
  runSlot s fun c =>
    match c.b.group with
    | none => oneWrite (writeS f.d.toNat 2)
    | some _ => .done { ends := [.csync (fin 64 f.d.toNat)] }
def execFence (f : KR) (s : State) : Out :=
  runSlot s fun _ =>
    .done { ends := [.fence (f.imm.extractLsb' 0 5) (f.imm.extractLsb' 5 5) (bitsN f.imm 12 10)] }

/-- Registers of a class that the warps of a core hold: vector, hypervector, counter banks (R65). -/
def Core.usedV (k : Core) : Nat := (k.warpList.map fun x => x.2.curV).foldl (· + ·) 0
def Core.usedH (k : Core) : Nat := (k.warpList.map fun x => x.2.curH).foldl (· + ·) 0
def Core.usedC (k : Core) : Nat := (k.warpList.map fun x => x.2.curC).foldl (· + ·) 0

/-- The amounts of GROW and SHRINK (R172). -/
def amounts (grow : Bool) (f : KR) : AllotChange :=
  { grow := grow, pred := fin 16 f.d.toNat, v := 8 * bitsN f.imm 4 0, h := bitsN f.imm 9 5, c := bitsN f.imm 12 10
    k := bitsN f.imm 15 13 }

/-- Whether a change can be met in every class (R65, R172). -/
def Ctx.canAllot (c : Ctx) (a : AllotChange) : Bool :=
  if a.grow then
    decide (c.w.curV + a.v ≤ c.b.maxV ∧ c.w.curH + a.h ≤ c.b.maxH ∧ c.w.curC + a.c ≤ c.b.maxC ∧ c.w.curK + a.k ≤ c.b.maxK
      ∧ c.k.usedV + a.v ≤ 512 ∧ c.k.usedH + a.h ≤ 64 ∧ c.k.usedC + a.c ≤ 8 ∧ c.w.curK + a.k ≤ 4)
  else decide (a.v ≤ c.w.curV ∧ a.h ≤ c.w.curH ∧ a.c ≤ c.w.curC ∧ a.k ≤ c.w.curK)

/-- GROW and SHRINK: the predicate lands with latency 1, the change at the boundary after the stroke (R172, R173). -/
def allotRun (a : AllotChange) (c : Ctx) : SlotResult :=
  let ok := c.canAllot a
  .done { writes := [expose 1 0 (.pred a.pred ok)], ends := if ok then [.allot a] else [] }
def execGrow (f : KR) (s : State) : Out := runSlot s (allotRun (amounts true f))
def execShrink (f : KR) (s : State) : Out := runSlot s (allotRun (amounts false f))

/-- CLKDIV needs clock_ok of the launch and clock permission of the partition (R175). -/
def execClkdiv (f : KR) (s : State) : Out :=
  runSlot s fun c =>
    SlotResult.check (c.b.clockOk && c.s.parts[c.b.part].control.getLsbD 3) 0x0500 (privDetail 0x1A 0)
      (.done { ends := [.clkdiv (bitsN f.imm 3 0)] })

/-- The heat-store cell of a cluster (R469). -/
def cellOf (cl : ClusterId) : Fin 20 := ⟨5 * (cl.val / 10) + cl.val % 10 / 2, by omega⟩
def State.lull (s : State) (cl : ClusterId) : Bool := s.cells[cellOf cl].getLsbD 12
/-- Leases in force in the package, and those held by a partition (R473). -/
def State.leases (s : State) : Nat := (s.clusters.toList.filter fun k => k.lease.isSome).length
def State.leasesOf (s : State) (p : PartId) : Nat :=
  (s.clusters.toList.filter fun k => (k.lease.map fun l => l.part) == some p).length
/-- Fields of the QoS record (R373). -/
def Partition.gustUs (p : Partition) : Nat := bitsN p.qos 127 96
def Partition.gustClusters (p : Partition) : Nat := bitsN p.qos 95 88

/-- Ten times the package's measured power averaged over the last 100 µs (R473): the sum of the ten averages over 10 µs that the
controller took 10 µs apart, one every microsecond (R475). -/
def State.power100 (s : State) : Nat := ((List.range 10).map fun i => s.powerLog.getD (10 * i) 0).foldl (· + ·) 0
/-- The lease of a cluster was given back by another core in a bundle that ends after a clock: a GUST of that clock is decided first
(R477). -/
def Cluster.heldAt (k : Cluster) (c : CoreId) (t : Nat) : Bool := k.freed.any fun x => decide (t < x.1) && x.2 != c

/-- GUST: the grant in microseconds, or the refusal's cause (R176, R473). -/
def Ctx.gustAnswer (c : Ctx) (us : Word) : Nat ⊕ Nat :=
  let req := min us.toNat 0xFFFFFFFF
  let cl := clusterOf c.core
  let p := c.s.parts[c.b.part]
  if c.s.clusters[cl].lease.isSome || c.s.clusters[cl].heldAt c.core c.k.tick then .inr 4
  else if c.s.lull cl || c.s.clusters[cl].tripped then .inr 1
  else if p.gustUs = 0 ∨ p.gustClusters ≤ c.s.leasesOf c.b.part then .inr 2
  else if 10 * Config.ceilingWatts < c.s.power100 + 10 * Config.leaseWatts * (c.s.leases + 1) then .inr 3
  else .inl (min req p.gustUs)

def gustRun (f : KR) (c : Ctx) : SlotResult :=
  let us := c.w.sreg f.a.toNat
  if us = 0 then oneWrite (writeS f.d.toNat 0)
  else
    match c.gustAnswer us with
    | .inl n => .done { writes := [writeS f.d.toNat (BitVec.ofNat 64 n)], ends := [.gustGrant n] }
    | .inr cause => .done { writes := [writeS f.d.toNat 0], ends := [.gustRefuse cause] }
def execGust (f : KR) (s : State) : Out := runSlot s (gustRun f)
def execGustrel (_f : KR) (s : State) : Out := runSlot s fun _ => .done { ends := [.gustrel] }

/-- The indices of the lane-cycle record's cells (R483): bin 0 to 16, slot 0 to 8, class 0 to 4. -/
def laneCell (i : Nat) : Bool :=
  let j := i - 0x400
  decide (0x400 ≤ i ∧ j / 128 ≤ 16 ∧ j / 8 % 16 < 9 ∧ j % 8 < 5)
/-- The value of a counter index (R180); an index the table does not define reads zero. -/
def Ctx.counter (c : Ctx) (imm : BitVec 16) : Word :=
  let cell := c.s.cells[cellOf (clusterOf c.core)]
  match bitsN imm 15 12, bitsN imm 11 0 with
  | 0, i =>
    if i < 0x400 then (c.k.counters.toList)[i]?.getD 0
    else if laneCell i then ((c.k.laneCycles.find? fun x => x.1 == i).map (·.2)).getD 0 else 0
  | 1, 0 => c.k.sensor.signExtend 64
  | 1, 1 => BitVec.ofNat 64 (bitsN cell 10 0)
  | 1, 2 => BitVec.ofNat 64 (bitsN cell 26 16)
  | 1, 3 => BitVec.ofNat 64 (bitsN cell 42 32)
  | 2, 0 => BitVec.ofNat 64 c.s.ns
  | _, _ => 0
def execRdcnt (f : KR) (s : State) : Out := runSlot s fun c => oneWrite (writeS f.d.toNat (c.counter f.imm))

/-- A privileged operation in a kernel that is not a supervisor's: the filter rejects it at decode (R124 rule 5, R182),
and a bundle that held one would fault with the filter's cause. -/
def privileged (r : Ctx → SlotResult) (c : Ctx) : SlotResult := SlotResult.check c.b.supervisor 0x0105 0 (r c)

/-- The system register of an index (R361): a write-only one reads zero; none for an index not in the table. -/
def Ctx.system (c : Ctx) (i : Nat) : Option Word :=
  let p := c.s.parts[c.b.part]
  match i with
  | 0x00 => some (BitVec.ofNat 64 (c.b.part.val + 16 + if c.w.handler then 32 else 0))
  | 0x01 => some c.w.epc
  | 0x02 => some c.w.ecause
  | 0x03 => some c.w.einfo
  | 0x10 => some p.fqBase
  | 0x11 => some (BitVec.ofNat 64 p.fqSize)
  | 0x12 => some (p.fqProd.setWidth 64)
  | 0x13 => some (p.fqCons.setWidth 64)
  | 0x14 => some p.fqStat
  | 0x20 => some 0
  | 0x21 => some (p.intPend.setWidth 64)
  | 0x30 => some p.ftgt
  | 0x31 => some (p.fstat.setWidth 64)
  | 0x32 => some p.fsave
  | 0x40 => some 0
  | 0x41 => some 0
  | 0x50 => some (p.qos.extractLsb' 0 64)
  | 0x51 => some (p.qos.extractLsb' 64 64)
  | _ => none

/-- SYSRD; of FQPROD it is an acquire at package scope (R362). -/
def execSysrd (f : KR) (s : State) : Out :=
  runSlot s (privileged fun c =>
    match c.system f.imm.toNat with
    | none => .fault 0x0500 (privDetail 0x30 f.imm.toNat)
    | some v => .done { writes := [writeS f.d.toNat v], ends := if f.imm = 0x12 then [.acquire] else [] })

/-- Whether a SYSWR of a value to an index is admitted (R361, R362, R415). -/
def syswrOk (i : Nat) (v : Word) : Bool :=
  match i with
  | 0x01 => true
  | 0x13 => true
  | 0x14 => true
  | 0x20 => decide (4 ≤ bitsN v 4 0)
  | 0x30 => true
  | 0x32 => true
  | 0x40 => true
  | 0x41 => bitsN v 63 52 == 0 && bitsN v 5 3 == 0 && decide (bitsN v 2 0 < 4)
  | _ => false
def syswrRun (f : KR) : Ctx → SlotResult :=
  privileged fun c =>
    let v := c.w.sreg f.a.toNat
    SlotResult.check (syswrOk f.imm.toNat v) 0x0500 (privDetail 0x31 f.imm.toNat) (.done { ends := [.syswr f.imm.toNat v] })
def execSyswr (f : KR) (s : State) : Out := runSlot s (syswrRun f)
def execIntreq (f : KR) (s : State) : Out := runSlot s (syswrRun f)
def execDtinv (f : KR) (s : State) : Out := runSlot s (syswrRun f)
/-- ERET outside a handler raises a Privilege Fault (R365). -/
def execEret (_f : KB) (s : State) : Out :=
  runSlot s (privileged fun c => SlotResult.check c.w.handler 0x0500 (privDetail 0x32 0) (.done { ends := [.eret] }))
def freezeRun (op : Nat) : Ctx → SlotResult := privileged fun _ => .done { ends := [.freeze op] }
def execFreezeStop (_f : KR) (s : State) : Out := runSlot s (freezeRun 1)
def execFreezeResume (_f : KR) (s : State) : Out := runSlot s (freezeRun 2)
def execFreezeSave (_f : KR) (s : State) : Out := runSlot s (freezeRun 3)

end Sys2Proof.Machine
end

