-- ==== Sys2Proof/Machine/Memory.lean ====
section
/-! DEFINITION. The L slot (spec/08_memory_copy_instructions.md R217 to R234): what a load, store or atomic captures and
checks at issue. Its lanes are performed by LOAD_COMPLETE and STORE_COMPLETE (Perform.lean). -/

namespace Sys2Proof.Machine

/-- The address of each lane: wrap64(s[base] + off_l + imm) (R217). -/
def Ctx.laneAddrs (c : Ctx) (f : LA) (imm : Word) : Vector Word 64 :=
  let off := c.w.vreg f.a.toNat
  let base := c.w.sreg f.base.toNat + imm
  Vector.ofFn fun l => base + (elem 32 off l.val).signExtend 64

/-- The words that registers vD to v(D + n - 1) hold in each lane, lowest first (R219, R231). -/
def Ctx.laneData (c : Ctx) (d n : Nat) : Vector (BitVec 256) 64 :=
  let regs := (List.range n).map fun i => c.w.vreg (d + i)
  Vector.ofFn fun l => BitVec.ofNat 256 (packList 32 (regs.map fun r => el 32 r l.val))

/-- The destination registers of a group, bound at issue (R52). -/
def Ctx.dests (c : Ctx) (d n : Nat) : List (Fin 128) := (List.range n).map fun i => c.w.bind (d + i)

/-- Registers of 32 bits that a value of W bytes occupies (R219). -/
def regsOf (width : Nat) : Nat := if width ≤ 4 then 1 else width / 4

/-- The first active lane whose address breaks the alignment (R218). -/
def misaligned (act : Mask) (addrs : Vector Word 64) (width : Nat) : Option Word :=
  ((List.finRange 64).find? fun l => act.getLsbD l.val && addrs[l].toNat % width != 0).map fun l => addrs[l]

/-- An L access to global memory started, or its Alignment Fault (R218, R225, R230). -/
def startAccess (f : LA) (op : BitVec 8) (a : MemAccess) : SlotResult :=
  match misaligned a.left a.addrs a.width with
  | some va => .fault 0x0800 va
  | none =>
    .done { ops := [{ cls := if a.kind = .store then .store else .load, path := .l, field := f.pack op, kind := .mem a }] }

/-- The width of a load or store, in bytes (R225). -/
def widthOf (v : BitVec 4) : Nat := 2 ^ v.toNat
def immLA (f : LA) : Word := f.imm.signExtend 64

def execLd (f : LA) (s : State) : Out :=
  runSlot s fun c =>
    let w := widthOf f.variant
    startAccess f 0x01
      { kind := .load, width := w, uniform := false, left := c.active f.pred, addrs := c.laneAddrs f (immLA f)
        data := Vector.replicate 64 0, dests := c.dests f.d.toNat (regsOf w) }
def execSt (f : LA) (s : State) : Out :=
  runSlot s fun c =>
    let w := widthOf f.variant
    startAccess f 0x02
      { kind := .store, width := w, uniform := false, left := c.active f.pred, addrs := c.laneAddrs f (immLA f)
        data := c.laneData f.d.toNat (regsOf w), dests := [] }
/-- LDU: one load, written to every active lane (R225). -/
def execLdu (f : LA) (s : State) : Out :=
  runSlot s fun c =>
    let w := widthOf f.variant
    startAccess f 0x03
      { kind := .load, width := w, uniform := true, left := c.active f.pred
        addrs := Vector.replicate 64 (c.w.sreg f.base.toNat + immLA f), data := Vector.replicate 64 0
        dests := c.dests f.d.toNat (regsOf w) }
/-- STU: lane 0's value, performed only when lane 0 is active (R225). Its address is checked when any lane is active (R218
checks every active lane; that lane 0 need not be among them is DEDUCED, log 40). -/
def execStu (f : LA) (s : State) : Out :=
  runSlot s fun c =>
    let w := widthOf f.variant
    let addrs : Vector Word 64 := Vector.replicate 64 (c.w.sreg f.base.toNat + immLA f)
    match misaligned (c.active f.pred) addrs w with
    | some va => .fault 0x0800 va
    | none =>
      startAccess f 0x04
        { kind := .store, width := w, uniform := true, left := c.active f.pred &&& 1
          addrs := addrs, data := c.laneData f.d.toNat (regsOf w), dests := [] }
/-- PF is a hint (R226): not counted, never waited for, no fault. -/
def execPf (f : LA) (s : State) : Out :=
  runSlot s fun c =>
    if c.active f.pred = 0 then .nothing
    else .done { ends := [.prefetch (c.w.sreg f.base.toNat + immLA f)] }

/-- A typed buffer of a core, its window in a block, and the buf codes of class LT (R68, R112). -/
def Core.buf (k : Core) : Buf → Memory
  | .wb => k.wb | .ab => k.ab | .cb => k.cb
def Core.modBuf (k : Core) (b : Buf) (f : Memory → Memory) : Core :=
  match b with
  | .wb => { k with wb := f k.wb }
  | .ab => { k with ab := f k.ab }
  | .cb => { k with cb := f k.cb }
def Block.window (b : Block) : Buf → Window
  | .wb => b.wb | .ab => b.ab | .cb => b.cb
def bufOf (x : BitVec 2) : Buf := if x = 0 then .wb else if x = 1 then .ab else .cb

/-- The poisoned CB rows, by physical address, that a lane's 4 bytes at window address a touch: the lane's row (R229). -/
def Ctx.poisonedAt (c : Ctx) (a : Nat) : Bool := c.k.poison.contains (c.b.cb.base + a / 512 * 512)

/-- LDB and STB: the checks of R227 to R229 and what they capture. -/
def typedRun (f : LT) (load : Bool) (c : Ctx) : SlotResult :=
  let act := c.active f.pred
  let a := ((c.w.sreg f.base.toNat).toNat + f.imm.toNat) % 2 ^ 32
  let buf := bufOf f.buf
  let nf := f.variant.getLsbD 0
  let bad := (lanesOf act).filter fun l => buf == .cb && load && c.poisonedAt (a + 4 * l)
  if act = 0 then
    .done { ops := [{ cls := if load then .load else .store, path := .l, field := f.pack (if load then 0x08 else 0x09)
                      kind := if load then .ldb buf a 0 (c.w.bind f.d.toNat) 0 else .stb buf a 0 0 }] }
  else
    SlotResult.check (decide (a % 4 = 0)) 0x0800 (BitVec.ofNat 64 a) <|
    SlotResult.check (decide (a + 256 ≤ (c.b.window buf).size)) 0x0A00 (BitVec.ofNat 64 a) <|
    SlotResult.check (nf || bad.isEmpty) 0x0F00 (BitVec.ofNat 64 ((a + 4 * bad.headD 0) / 512 * 512)) <|
    .done { ops := [{ cls := if load then .load else .store, path := .l, field := f.pack (if load then 0x08 else 0x09)
                      kind := if load then .ldb buf a act (c.w.bind f.d.toNat) (maskOf fun l => bad.contains l)
                              else .stb buf a act (c.w.vreg f.d.toNat) }] }
def execLdb (f : LT) (s : State) : Out := runSlot s (typedRun f true)
def execStb (f : LT) (s : State) : Out := runSlot s (typedRun f false)

/-- An atomic: width, order and scope (R112, R151, R230); `words` operand registers from d. -/
def atomicRun (f : LA) (op : BitVec 8) (k : AtomicOp) (width words : Nat) (c : Ctx) : SlotResult :=
  let order := bitsN f.imm 7 6
  startAccess f op
    { kind := .atomic k (f.variant.getLsbD 1) (bitsN f.imm 10 8) (order % 2 == 1) (decide (2 ≤ order)), width := width
      uniform := false, left := c.active f.pred, addrs := c.laneAddrs f 0, data := c.laneData f.d.toNat words
      dests := c.dests f.d.toNat (regsOf width) }
/-- The width of an atomic of 32 or 64 bits, in bytes (R151). -/
def atomWidth (f : LA) : Nat := if f.variant.getLsbD 0 then 8 else 4
def atomic2 (f : LA) (op : BitVec 8) (k : AtomicOp) (c : Ctx) : SlotResult :=
  atomicRun f op k (atomWidth f) (regsOf (atomWidth f)) c
def execAadd (f : LA) (s : State) : Out := runSlot s (atomic2 f 0x10 .add)
def execAfadd (f : LA) (s : State) : Out := runSlot s (atomic2 f 0x11 .fadd)
def execAmin (f : LA) (s : State) : Out := runSlot s (atomic2 f 0x12 .min)
def execAmax (f : LA) (s : State) : Out := runSlot s (atomic2 f 0x13 .max)
def execAand (f : LA) (s : State) : Out := runSlot s (atomic2 f 0x14 .and)
def execAor (f : LA) (s : State) : Out := runSlot s (atomic2 f 0x15 .or)
def execAxor (f : LA) (s : State) : Out := runSlot s (atomic2 f 0x16 .xor)
def execAxchg (f : LA) (s : State) : Out := runSlot s (atomic2 f 0x17 .xchg)
/-- ACAS: the compare group at d, the swap group after it (R231). -/
def execAcas (f : LA) (s : State) : Out :=
  runSlot s fun c =>
    let w := 4 * 2 ^ f.variant.toNat
    atomicRun f 0x18 .cas w (2 * regsOf w) c

end Sys2Proof.Machine
end

