-- ==== Sys2Proof/Machine/Copy.lean ====
section
/-! DEFINITION. The X slot (spec/08_memory_copy_instructions.md R235 to R250, spec/02_program_state.md R72 to R75): what
each operation reads, checks and captures at issue. Its bytes move by COPY_BYTES_LAND (Transfer.lean). -/

namespace Sys2Proof.Machine

/-- Fields of a tensor shape record (R235). -/
def shFrom (r : BitVec 512) : Word := r.extractLsb' 448 64
def shTo (r : BitVec 512) : Word := r.extractLsb' 384 64
def shExt (r : BitVec 512) : Nat → Nat
  | 0 => bitsN r 383 352 | 1 => bitsN r 351 336 | 2 => bitsN r 335 320 | _ => bitsN r 319 304
def shFromS (r : BitVec 512) : Nat → Nat
  | 1 => bitsN r 303 256 | 2 => bitsN r 255 208 | _ => bitsN r 207 160
def shToS (r : BitVec 512) : Nat → Nat
  | 1 => bitsN r 159 112 | 2 => bitsN r 111 64 | _ => bitsN r 63 16
def shToSpace (r : BitVec 512) : Nat := bitsN r 5 4
def shFromSpace (r : BitVec 512) : Nat := bitsN r 3 2
/-- The element size in bytes. -/
def shE (r : BitVec 512) : Nat := 2 ^ bitsN r 1 0
/-- The buffer of a space code; none for global. -/
def spaceBuf : Nat → Option Buf
  | 1 => some .wb | 2 => some .ab | 3 => some .cb | _ => none

/-- How many elements a record names (R236). -/
def shCount (r : BitVec 512) : Nat := shExt r 0 * shExt r 1 * shExt r 2 * shExt r 3
/-- The indices of the element of a linear index, row by row (R236). -/
def shIndex (r : BitVec 512) (n : Nat) : Nat × Nat × Nat × Nat :=
  (n % shExt r 0, n / shExt r 0 % shExt r 1, n / shExt r 0 / shExt r 1 % shExt r 2,
    n / shExt r 0 / shExt r 1 / shExt r 2)
/-- The byte offsets of an element on the read and write side (R236). -/
def shReadOff (r : BitVec 512) (n : Nat) : Nat :=
  let (i0, i1, i2, i3) := shIndex r n
  i0 * shE r + i1 * shFromS r 1 + i2 * shFromS r 2 + i3 * shFromS r 3
def shWriteOff (r : BitVec 512) (n : Nat) : Nat :=
  let (i0, i1, i2, i3) := shIndex r n
  i0 * shE r + i1 * shToS r 1 + i2 * shToS r 2 + i3 * shToS r 3

/-- Checks 3 and 4 of R237 on one side's strides: whether any stride that item 4 examines is misaligned, or below its
span. -/
def strideMisaligned (r : BitVec 512) (st : Nat → Nat) : Bool :=
  [1, 2, 3].any fun i => decide (1 < shExt r i) && st i % shE r != 0
def strideShort (r : BitVec 512) (st : Nat → Nat) : Bool :=
  let span1 := shExt r 0 * shE r
  let span2 := if 1 < shExt r 1 then shExt r 1 * st 1 else span1
  let span3 := if 1 < shExt r 2 then shExt r 2 * st 2 else span2
  (decide (1 < shExt r 1) && decide (st 1 < span1)) || (decide (1 < shExt r 2) && decide (st 2 < span2)) ||
    (decide (1 < shExt r 3) && decide (st 3 < span3))

/-- The first check of R237 that a record fails; `ok1` is what check 1 adds for the instruction. -/
def shapeCheck (r : BitVec 512) (fromB toB : Word) (ok1 : Bool) : Option Nat :=
  if bitsN r 15 6 ≠ 0 ∨ ok1 = false then some 1
  else if fromB.toNat % shE r ≠ 0 ∨ toB.toNat % shE r ≠ 0 then some 2
  else if strideMisaligned r (shFromS r) || strideMisaligned r (shToS r) then some 3
  else if strideShort r (shFromS r) || strideShort r (shToS r) then some 4
  else none

/-- The bytes from a base to the last byte a side touches. -/
def shSpan (r : BitVec 512) (st : Nat → Nat) : Nat :=
  (shExt r 0 - 1) * shE r + (shExt r 1 - 1) * st 1 + (shExt r 2 - 1) * st 2 + (shExt r 3 - 1) * st 3 + shE r

/-- Whether a side that lies in a typed buffer lies in its window (R68, R238). -/
def sideFits (b : Block) (space : Nat) (base : Word) (span : Nat) : Bool :=
  match spaceBuf space with
  | none => true
  | some x => decide (base.toNat + span ≤ (b.window x).size)

/-- The AB banks of the physical bytes from lo to lo + n - 1 (R72). -/
def banksOf (lo n : Nat) : List Nat :=
  if n = 0 then [] else (List.range ((lo + n - 1) / 32768 + 1 - lo / 32768)).map (lo / 32768 + ·)

/-- The banks of AB that a side's rows touch (R72). -/
def sideBanks (b : Block) (r : BitVec 512) (space : Nat) (base : Word) (st : Nat → Nat) : List Nat :=
  if space ≠ 2 then [] else
  (List.range (shExt r 1 * shExt r 2 * shExt r 3)).foldl (fun acc k =>
    let i1 := k % shExt r 1
    let i2 := k / shExt r 1 % shExt r 2
    let i3 := k / shExt r 1 / shExt r 2
    (banksOf (b.ab.base + base.toNat + i1 * st 1 + i2 * st 2 + i3 * st 3) (shExt r 0 * shE r)).foldl
      (fun acc x => if acc.contains x then acc else acc ++ [x]) acc) []

/-- Whether a later copy must wait for this one: a bank it holds that the later one reads or writes, or a bank it reads
that the later one would lock (R72). -/
def CopyOp.blocks (a later : CopyOp) : Bool :=
  a.locks.any (fun x => later.locks.contains x || later.rbanks.contains x) || a.rbanks.any fun x => later.locks.contains x

/-- A token named or not (R239). -/
def tokenEnd (tok : BitVec 6) : List EndEffect := if tok = 0 then [] else [.token (fin 64 tok.toNat)]
/-- A token written at the end of the bundle with a status and detail (R238, R244). -/
def tokenNow (tok : BitVec 6) (status detail : Nat) : List EndEffect :=
  if tok = 0 then [] else [.tokenDone (fin 64 tok.toNat) (BitVec.ofNat 64 (status + 2 ^ 32 * (detail % 2 ^ 32)))]

/-- A copy-class operation of the X slot started. -/
def startX (f : XD) (op : BitVec 8) (k : OpKind) : SlotResult :=
  .done { ops := [{ cls := .copy, path := .x, field := f.pack op, kind := k }], ends := tokenEnd f.tok }

/-- COPY, COPYR, GATH, PUT and GET: the record read and checked in the issuing bundle (R235 to R243, R248). `ok1` is
check 1's own part; a register takes the place of to_base (PUT) or from_base (GET). A record with an extent of 0 completes
after the checks of R237, before any other (R238). DEDUCED (log 35): a GATH that reads AB counts as reading every bank of
the block's AB window, since the rows it reads depend on an index list that is read after its issue (R72, R241). -/
def copyRun (f : XD) (op : BitVec 8) (kind : CopyKind) (ok1 : BitVec 512 → Bool) (bar : BitVec 6) (c : Ctx) :
    SlotResult :=
  if !c.holds f.pred then .nothing else
  let a := (c.w.sreg f.sa.toNat).toNat
  let rec_ : BitVec 512 := ofBytes 512 (c.k.ab.read (c.b.ab.base + a) 64)
  let fromB := if kind = .get then c.w.sreg f.sb.toNat else shFrom rec_
  let toB := if kind = .put then c.w.sreg f.sb.toNat else shTo rec_
  let barrier := if bar = 0 then none else some (c.w.sreg bar.toNat).toNat
  let list := if kind = .gath then (c.w.sreg f.sb.toNat).toNat else 0
  let signal := if kind = .put ∧ f.sc ≠ 0 then some (c.w.sreg f.sc.toNat) else none
  let at_ : Word := BitVec.ofNat 64 a
  SlotResult.check (decide (a % 64 = 0)) 0x0800 at_ <|
  SlotResult.check (decide (a + 64 ≤ c.b.ab.size)) 0x0A00 at_ <|
  match shapeCheck rec_ fromB toB (ok1 rec_) with
  | some n => .fault (0x0C00 + n) at_
  | none =>
    if shCount rec_ = 0 then .done { ends := tokenNow f.tok 0 0 } else
    SlotResult.check (decide ((signal.getD 0).toNat % 8 = 0)) 0x0800 (signal.getD 0) <|
    SlotResult.check (decide ((barrier.getD 0) + 16 ≤ c.b.ab.size ∨ barrier = none)) 0x0A00 (BitVec.ofNat 64 (barrier.getD 0)) <|
    SlotResult.check (decide ((barrier.getD 0) % 16 = 0)) 0x0E00 (BitVec.ofNat 64 (barrier.getD 0)) <|
    SlotResult.check (decide (list % 4 = 0)) 0x0800 (BitVec.ofNat 64 list) <|
    SlotResult.check (decide (kind ≠ .gath ∨ list + 4 * shExt rec_ 1 ≤ c.b.ab.size)) 0x0A00 (BitVec.ofNat 64 list) <|
    SlotResult.check (kind == .gath || sideFits c.b (shFromSpace rec_) fromB (shSpan rec_ (shFromS rec_))) 0x0A00 fromB <|
    SlotResult.check (sideFits c.b (shToSpace rec_) toB (shSpan rec_ (shToS rec_))) 0x0A00 toB <|
    let rbanks := if kind = .gath then
        banksOf (c.b.ab.base + list) (4 * shExt rec_ 1) ++
          (if shFromSpace rec_ = 2 then banksOf c.b.ab.base c.b.ab.size else [])
      else sideBanks c.b rec_ (shFromSpace rec_) fromB (shFromS rec_)
    startX f op (.copy
      { kind := kind, shape := rec_, fromBase := fromB, toBase := toB, barrier := barrier, list := list, signal := signal
        cursor := 0, quarantine := [], begun := false, rbanks := rbanks
        locks := sideBanks c.b rec_ (shToSpace rec_) toB (shToS rec_), stopped := false, status := 0, detail := 0
        after := [] })

def execCopy (f : XD) (s : State) : Out := runSlot s (copyRun f 0x01 .copy (fun _ => true) f.sb)
/-- COPYR: addf32 and maxf32 take 4-byte elements, addbf16 2-byte ones (R240). -/
def execCopyr (f : XD) (s : State) : Out :=
  runSlot s (copyRun f 0x02 (.copyr f.variant.toNat) (fun r => shE r == (if f.variant = 1 then 2 else 4)) f.sb)
def execGath (f : XD) (s : State) : Out :=
  runSlot s (copyRun f 0x03 .gath (fun r => shExt r 2 == 1 && shExt r 3 == 1) f.sc)
def execPut (f : XD) (s : State) : Out := runSlot s (copyRun f 0x08 .put (fun r => shToSpace r == 0) 0)
def execGet (f : XD) (s : State) : Out := runSlot s (copyRun f 0x09 .get (fun r => shFromSpace r == 0) 0)

/-- Fields of a reservation record (R73). -/
def rvScaleOff (r : BitVec 128) : Nat := bitsN r 107 88
def rvLen (r : BitVec 128) : Nat := bitsN r 87 68 + 1
def rvBase (r : BitVec 128) : Nat := bitsN r 67 48
def rvFmt (r : BitVec 128) : Nat := bitsN r 47 40
def rvBlk (r : BitVec 128) : Nat := 8 * 2 ^ bitsN r 39 38
def rvLayout (r : BitVec 128) : Nat := bitsN r 37 36
def rvAb (r : BitVec 128) : Bool := r.getLsbD 35
def rvScaled (r : BitVec 128) : Bool := r.getLsbD 34
def rvValid (r : BitVec 128) : Bool := r.getLsbD 0
/-- Bytes of an element of a format code; 1 for HV. -/
def codeBytes (c : Nat) : Nat := ((Fmt.ofCode c).map (·.bytes)).getD 1
/-- The bytes of a record's scale region (R75). -/
def rvScaleLen (r : BitVec 128) : Nat := ceilDiv (ceilDiv (rvLen r) (codeBytes (rvFmt r))) (rvBlk r)

/-- Whether RESV admits a record (R75). -/
def resvOk (b : Block) (r : BitVec 128) : Bool :=
  let size := (if rvAb r then b.ab else b.wb).size
  let hv := rvFmt r == 0x70
  bitsN r 127 108 == 0 && bitsN r 33 1 == 0 && ((Fmt.ofCode (rvFmt r)).isSome || hv) && rvLayout r != 3 &&
    decide (rvBase r + rvLen r ≤ size) &&
    (!rvScaled r || (decide (rvScaleOff r + rvScaleLen r ≤ size) &&
      decide (rvScaleOff r + rvScaleLen r ≤ rvBase r ∨ rvBase r + rvLen r ≤ rvScaleOff r))) &&
    (if hv then !rvAb r && rvLayout r == 2 && !rvScaled r && bitsN r 39 38 == 0 && rvLen r % 1024 == 0 &&
        decide (rvLen r ≤ 1024 * 1024)
     else rvLayout r != 2) &&
    (rvLayout r != 1 || rvLen r == 8192)

def resvRun (f : XD) (c : Ctx) : SlotResult :=
  if !c.holds f.pred then .nothing else
  let r : BitVec 128 := c.w.sreg f.sb.toNat ++ c.w.sreg f.sa.toNat
  SlotResult.check (resvOk c.b r) 0x0B00 (BitVec.ofNat 64 f.ra.toNat) (.done { ends := [.resv (fin 8 f.ra.toNat) r] })
def execResv (f : XD) (s : State) : Out := runSlot s (resvRun f)
def execRels (f : XD) (s : State) : Out :=
  runSlot s fun c => if !c.holds f.pred then .nothing else .done { ends := [.rels (fin 8 f.ra.toNat)] }

/-- Whether a TBLD selector names a target (R246). -/
def selectorOk (x : Word) : Bool := decide (x.toNat < 8) || decide (256 + 24 ≤ x.toNat ∧ x.toNat < 256 + 64)

/-- TBLD loads the bank that is inactive at its issue (R246, R247, R286). -/
def tbldRun (f : XD) (c : Ctx) : SlotResult :=
  if !c.holds f.pred then .nothing else
  let a := c.w.sreg f.sa.toNat
  let sel := c.w.sreg f.sb.toNat
  SlotResult.check c.b.usesFmicro 0x0500 (privDetail 0x06 0) <|
  SlotResult.check (decide (a.toNat % 4 = 0)) 0x0800 a <|
  if !selectorOk sel then .done { ends := tokenNow f.tok 5 sel.toNat }
  else startX f 0x06 (.tbld (1 - c.k.bank) (sel.setWidth 9) a)
def execTbld (f : XD) (s : State) : Out := runSlot s (tbldRun f)

/-- SIGNAL (R249). -/
def signalRun (f : XD) (add : Bool) (c : Ctx) : SlotResult :=
  if !c.holds f.pred then .nothing else
  let a := c.w.sreg f.sa.toNat
  SlotResult.check (decide (a.toNat % 8 = 0)) 0x0800 a
    (startX f 0x0A (.signal add a (c.w.sreg f.sb.toNat)))
def execSignalSet (f : XD) (s : State) : Out := runSlot s (signalRun f false)
def execSignalAdd (f : XD) (s : State) : Out := runSlot s (signalRun f true)

/-- LAUNCH (R250). -/
def launchRun (f : XD) (c : Ctx) : SlotResult :=
  if !c.holds f.pred then .nothing else
  let a := c.w.sreg f.sa.toNat
  SlotResult.check (decide (a.toNat % 64 = 0)) 0x0800 a (startX f 0x0B (.launch a))
def execLaunch (f : XD) (s : State) : Out := runSlot s (launchRun f)

end Sys2Proof.Machine
end

