-- ==== Sys2Proof/Machine/Matrix.lean ====
section
/-! DEFINITION. The M slot (spec/09_matrix_function_instructions.md R251 to R274, spec/03_numbers.md R92 to R96): what
each operation checks and latches at issue, and the matrix arithmetic. The sequencer runs in Tiles.lean. -/

namespace Sys2Proof.Machine

/-- Fields of the configuration (R253). -/
def cfValid (c : BitVec 160) : Bool := c.getLsbD 140
def cfFwd (c : BitVec 160) : Bool := c.getLsbD 139
def cfCbBase (c : BitVec 160) : Nat := bitsN c 138 121
def cfCbStep (c : BitVec 160) : Int := sx 18 (bitsN c 120 103)
def cfAbStep (c : BitVec 160) : Int := sx 20 (bitsN c 102 83)
def cfAScaleOff (c : BitVec 160) : Nat := bitsN c 82 63
def cfALen (c : BitVec 160) : Nat := bitsN c 62 43 + 1
def cfABase (c : BitVec 160) : Nat := bitsN c 42 23
def cfAFmt (c : BitVec 160) : Nat := bitsN c 22 15
def cfABlk (c : BitVec 160) : Nat := 8 * 2 ^ bitsN c 14 13
def cfAScaled (c : BitVec 160) : Bool := c.getLsbD 12
def cfWFmt (c : BitVec 160) : Nat := bitsN c 11 4
def cfWBlk (c : BitVec 160) : Nat := 8 * 2 ^ bitsN c 3 2
def cfWScaled (c : BitVec 160) : Bool := c.getLsbD 1

/-- The group of R257 of a format code: 1 8-bit floating, 2 8-bit integer, 3 16-bit floating, 0 none. -/
def matGroup (code : Nat) : Nat :=
  match Fmt.ofCode code with
  | some (.p8 _ _ _) => 1
  | some .i8 => 2 | some .u8 => 2
  | some .bf16 => 3 | some .b16 => 3
  | _ => 0

/-- The tag LDST writes (R252, R258). -/
def planeTag (r : BitVec 128) (poisoned : Bool) : BitVec 16 :=
  BitVec.ofNat 16 (2 ^ 8 * rvFmt r + 2 ^ 6 * bitsN r 39 38 + (if rvScaled r then 32 else 0) + (if poisoned then 16 else 0) + 1)
def tagLoaded (t : BitVec 16) : Bool := t.getLsbD 0
def tagPoisoned (t : BitVec 16) : Bool := t.getLsbD 4
/-- The plane holds what the configuration's weight fields say (R265). -/
def planeMatches (t : BitVec 16) (c : BitVec 160) : Bool :=
  tagLoaded t && bitsN t 15 8 == cfWFmt c && bitsN t 7 6 == bitsN c 3 2 && t.getLsbD 5 == cfWScaled c

/-- A matrix operation started in the tile class. -/
def startM (field : Field) (k : OpKind) (draws : Nat := 0) : SlotResult :=
  .done { draws := draws, ops := [{ cls := .tile, path := .m, field := field, kind := k }] }

/-- LDST (R258). -/
def ldstRun (f : ML) (c : Ctx) : SlotResult :=
  let w := (c.w.sreg f.sa.toNat).toNat + f.imm.toNat
  let r := c.w.resv[fin 8 f.ra.toNat]
  SlotResult.check (decide (w % 64 = 0)) 0x0800 (BitVec.ofNat 64 w) <|
  SlotResult.check (decide (w + 8192 ≤ c.b.wb.size)) 0x0A00 (BitVec.ofNat 64 w) <|
  SlotResult.check (rvValid r && !rvAb r && rvLayout r == 1 && matGroup (rvFmt r) != 0 && w == rvBase r) 0x0B00
    (BitVec.ofNat 64 f.ra.toNat)
    (startM (f.pack 0x01) (.ldst r w (1 - c.k.active) false))
def execLdst (f : ML) (s : State) : Out := runSlot s (ldstRun f)
def execMswap (_f : MR) (s : State) : Out := runSlot s fun _ => .done { ends := [.mswap] }

/-- The configuration MCFG forms (R253, R261). -/
def mcfgWord (fwd : Bool) (a w : BitVec 128) (abStep cbStep base : Nat) : BitVec 160 :=
  BitVec.ofNat 160 (2 ^ 140 + (if fwd then 2 ^ 139 else 0) + 2 ^ 121 * base + 2 ^ 103 * cbStep + 2 ^ 83 * abStep
    + 2 ^ 63 * bitsN a 107 88 + 2 ^ 43 * bitsN a 87 68 + 2 ^ 23 * bitsN a 67 48 + 2 ^ 15 * bitsN a 47 40
    + 2 ^ 13 * bitsN a 39 38 + (if rvScaled a then 2 ^ 12 else 0) + 2 ^ 4 * bitsN w 47 40 + 2 ^ 2 * bitsN w 39 38
    + (if rvScaled w then 2 else 0))

/-- MCFG (R261). -/
def mcfgRun (fwd : Bool) (f : MR) (c : Ctx) : SlotResult :=
  let ab := bitsN (c.w.sreg f.sa.toNat) 19 0
  let cb := bitsN (c.w.sreg f.sb.toNat) 17 0
  let a := c.w.resv[fin 8 f.ra.toNat]
  let w := c.w.resv[fin 8 f.rb.toNat]
  SlotResult.check (decide (ab % 64 = 0)) 0x0800 (BitVec.ofNat 64 ab) <|
  SlotResult.check (decide (cb % 512 = 0)) 0x0800 (BitVec.ofNat 64 cb) <|
  SlotResult.check (decide (f.imm.toNat % 512 = 0)) 0x0800 (f.imm.setWidth 64) <|
  SlotResult.check (rvValid a && rvAb a && rvLayout a == 0) 0x0B00 (BitVec.ofNat 64 f.ra.toNat) <|
  SlotResult.check (rvValid w && !rvAb w && rvLayout w == 1) 0x0B00 (BitVec.ofNat 64 f.rb.toNat) <|
  SlotResult.check (matGroup (rvFmt a) != 0 && matGroup (rvFmt a) == matGroup (rvFmt w) &&
      !(matGroup (rvFmt a) == 2 && rvScaled a)) 0x0B00 (BitVec.ofNat 64 f.ra.toNat) <|
  SlotResult.check (!(matGroup (rvFmt w) == 2 && rvScaled w)) 0x0B00 (BitVec.ofNat 64 f.rb.toNat) <|
    .done { ends := [.mcfg (mcfgWord fwd a w ab cb f.imm.toNat)] }
def execMcfgAcc (f : MR) (s : State) : Out := runSlot s (mcfgRun false f)
def execMcfgFwd (f : MR) (s : State) : Out := runSlot s (mcfgRun true f)

/-- A tile operation as it is queued (R262). -/
def Ctx.tileOp (c : Ctx) (k : TileKind) (record : BitVec 128) (start start2 rows : Nat) : TileOp :=
  { kind := k, config := c.k.config, record := record, start := start, start2 := start2, rows := rows, done := 0
    rm := c.w.fpc.extractLsb' 0 3, ftz := c.w.ftz, rngk := c.w.rngk, rngc := c.w.rngc + BitVec.ofNat 64 c.ix.draws, begun := false
    flags := 0, poisoned := [] }

/-- MZERO (R264). -/
def mzeroRun (f : MR) (c : Ctx) : SlotResult :=
  let a := c.w.sreg f.sa.toNat
  let n := f.imm.toNat
  SlotResult.check (decide (a.toNat % 512 = 0)) 0x0800 a <|
  SlotResult.check (decide (a.toNat + 512 * n ≤ c.b.cb.size)) 0x0A00 a <|
    startM (f.pack 0x06) (.tile (c.tileOp .mzero 0 a.toNat 0 n))
def execMzero (f : MR) (s : State) : Out := runSlot s (mzeroRun f)

/-- The least and the greatest start of n rows from x by a step. -/
def rowsLo (x step : Int) (n : Nat) : Int := min x (x + step * (n - 1))
def rowsHi (x step : Int) (n : Nat) : Int := max x (x + step * (n - 1))
/-- Rows of `len` bytes within [lo, lo + size); the address at fault otherwise. -/
def rowsIn (x step : Int) (n len : Nat) (lo size : Nat) : Bool :=
  decide ((lo : Int) ≤ rowsLo x step n ∧ rowsHi x step n + len ≤ lo + size)
def rowsFault (x step : Int) (n : Nat) : Word :=
  BitVec.ofInt 64 (if rowsLo x step n < 0 then rowsLo x step n else rowsHi x step n)

/-- MLOOP, its checks in the order of R263 (R265). A count of zero passes its checks (DEDUCED, log 16). -/
def mloopRun (f : ML) (c : Ctx) : SlotResult :=
  let n := (c.w.sreg f.sa.toNat).toNat
  let cf := c.k.config
  let ab : Int := (c.w.sreg f.sb.toNat).toNat
  let cb : Int := (cfCbBase cf + f.imm.toNat : Nat)
  if n = 0 then .done { ends := [.tileNone] } else
  SlotResult.check (decide (ab % 64 = 0)) 0x0800 (BitVec.ofInt 64 ab) <|
  SlotResult.check (decide (cb % 512 = 0)) 0x0800 (BitVec.ofInt 64 cb) <|
  SlotResult.check (rowsIn ab (cfAbStep cf) n 64 0 c.b.ab.size) 0x0A00 (rowsFault ab (cfAbStep cf) n) <|
  SlotResult.check (rowsIn cb (cfCbStep cf) n 512 0 c.b.cb.size) 0x0A00 (rowsFault cb (cfCbStep cf) n) <|
  SlotResult.check (cfValid cf && !cfFwd cf) 0x0B01 0 <|
  SlotResult.check (planeMatches c.k.planes[c.k.active].tag cf) 0x0B02 0 <|
  SlotResult.check (rowsIn ab (cfAbStep cf) n 64 (cfABase cf) (cfALen cf)) 0x0B00 0 <|
  SlotResult.check (decide (n ≤ 65535)) 0x0C11 (BitVec.ofNat 64 n) <|
    startM (f.pack 0x04) (.tile (c.tileOp .mloop 0 ab.toNat cb.toNat n))
def execMloop (f : ML) (s : State) : Out := runSlot s (mloopRun f)

/-- Targets of MCVT (R266). -/
def mcvtTarget (r : BitVec 128) : Bool :=
  rvValid r && rvAb r && rvLayout r == 0 &&
    (match Fmt.ofCode (rvFmt r) with
      | some k => k.isP8 || !rvScaled r
      | none => false)

/-- MCVT (R266, R267). A count of zero passes its checks (DEDUCED, log 16). A record that names no target format is taken to have elements of
one byte in the check of its offset, which R263 puts before the Reservation Fault that it then takes (DESIGN CHOICE, log 41). -/
def mcvtRun (f : MR) (c : Ctx) : SlotResult :=
  let r := c.w.resv[fin 8 f.ra.toNat]
  let a := (c.w.sreg f.sa.toNat).toNat
  let n := (c.w.sreg f.sb.toNat).toNat
  let off := f.imm.toNat
  let wt := codeBytes (rvFmt r)
  let lo := rvBase r + off
  let scale0 := rvScaleOff r + off / wt / rvBlk r
  let scales := 128 * n / rvBlk r
  if n = 0 then .done { ends := [.tileNone] } else
  SlotResult.check (decide (a % 512 = 0)) 0x0800 (BitVec.ofNat 64 a) <|
  SlotResult.check (decide (off % (128 * wt) = 0)) 0x0800 (BitVec.ofNat 64 off) <|
  SlotResult.check (decide (a + 512 * n ≤ c.b.cb.size)) 0x0A00 (BitVec.ofNat 64 a) <|
  SlotResult.check (decide (lo + 128 * wt * n ≤ c.b.ab.size)) 0x0A00 (BitVec.ofNat 64 lo) <|
  SlotResult.check (!rvScaled r || decide (scale0 + scales ≤ c.b.ab.size)) 0x0A00 (BitVec.ofNat 64 scale0) <|
  SlotResult.check (mcvtTarget r && decide (off + 128 * wt * n ≤ rvLen r)) 0x0B00 (BitVec.ofNat 64 f.ra.toNat) <|
    startM (f.pack 0x07) (.tile (c.tileOp .mcvt r a lo n)) (if c.w.mode = .stochastic then n else 0)
def execMcvt (f : MR) (s : State) : Out := runSlot s (mcvtRun f)

/-- An element of a scaled range (R92); every source NaN counts as quiet, since the engine reports only the NaNs it
creates (R96). -/
def matEl (k : Fmt) (ftz scaled : Bool) (scale code : Nat) : FVal :=
  if scaled ∧ scale = 0xFF then .nan false
  else
    match k.decode ftz code with
    | .nan _ => .nan false
    | v => if scaled then v.scale ((scale : Int) - 127) else v

/-- One column's exact slice sum rounded once to binary32 (R95, R96), with the engine's flags. -/
def sliceSum (ftz : Bool) (a w : List FVal) : Nat × Flags :=
  let prods := List.zipWith (fun x y => (x.mul y).1) a w
  let sum := (exactSum .nearest prods).1
  let source := a.any (·.isNan) || w.any (·.isNan)
  let o := Fmt.b32.ofVal .nearest 0 ftz sum
  (o.1, flIf (sum.isNan && !source) flNv ||| (o.2 &&& flOf))

/-- One column's exact integer slice sum modulo 2^32 (R85, R96). -/
def sliceInt (a w : List Int) : Nat := wrapTo 32 ((List.zipWith (· * ·) a w).foldl (· + ·) 0)

/-- A signed or unsigned 8-bit code as a number. -/
def intEl (k : Fmt) (code : Nat) : Int := if k = .i8 then sx 8 code else code

/-- The 128 slice sums of an activation row at window address x against a plane (R254, R255, R269): for floating groups
binary32 codes with flags, for the integer group INT32. -/
def rowSums (cf : BitVec 160) (ftz : Bool) (p : Plane) (ab : Memory) (winBase x : Nat) : List (Nat × Flags) :=
  match Fmt.ofCode (cfAFmt cf), Fmt.ofCode (cfWFmt cf) with
  | some ka, some kw =>
    let e := ka.bytes
    let n := 64 / e
    let i0 := (x - cfABase cf) / e
    let aCode (k : Nat) : Nat := ab.num (winBase + x + k * e) e
    let wCode (col k : Nat) : Nat := bitsN p.data (8 * (64 * col + k * e + e) - 1) (8 * (64 * col + k * e))
    if ka.isInt then
      let a := (List.range n).map fun k => intEl ka (aCode k)
      (List.range 128).map fun col => (sliceInt a ((List.range n).map fun k => intEl kw (wCode col k)), 0)
    else
      let a := (List.range n).map fun k =>
        matEl ka ftz (cfAScaled cf) (ab.get (winBase + cfAScaleOff cf + (i0 + k) / cfABlk cf)).toNat (aCode k)
      (List.range 128).map fun col =>
        sliceSum ftz a ((List.range n).map fun k =>
          matEl kw ftz (cfWScaled cf) (elem 8 p.scales ((col * n + k) / cfWBlk cf)).toNat (wCode col k))
  | _, _ => List.replicate 128 (0, 0)

/-- The bytes of AB that an activation row takes, its scale bytes with them: window address and length (R253). -/
def rowBytes (cf : BitVec 160) (x : Nat) : List (Nat × Nat) :=
  let e := codeBytes (cfAFmt cf)
  let i0 := (x - cfABase cf) / e
  let lo := i0 / cfABlk cf
  (x, 64) :: if cfAScaled cf then [(cfAScaleOff cf + lo, (i0 + 64 / e - 1) / cfABlk cf + 1 - lo)] else []

/-- The presentation of a row's slice sums, and the flags that it merges (R269). -/
def rowImage (r : List (Nat × Flags)) : BitVec 4096 := BitVec.ofNat 4096 (packList 32 (r.map (·.1)))
def rowFlags (r : List (Nat × Flags)) : Flags := r.foldl (fun a y => a ||| y.2) 0

/-- MADV (R268, R269): its presentation is an exposed write to `fl` of latency 6. A poisoned plane presents the canonical
NaN and writes a record (R273). The row of one that a FENCE holds back is read later (R171; log 57). -/
def madvRun (f : MR) (c : Ctx) : SlotResult :=
  let x := (c.w.sreg f.sa.toNat).toNat + f.imm.toNat
  let cf := c.k.config
  let p := c.k.planes[c.k.active]
  let at_ : Word := BitVec.ofNat 64 x
  SlotResult.check (decide (x % 64 = 0)) 0x0800 at_ <|
  SlotResult.check (decide (x + 64 ≤ c.b.ab.size)) 0x0A00 at_ <|
  SlotResult.check (cfValid cf && cfFwd cf) 0x0B01 0 <|
  SlotResult.check (planeMatches p.tag cf) 0x0B02 0 <|
  SlotResult.check (decide (cfABase cf ≤ x ∧ x + 64 ≤ cfABase cf + cfALen cf)) 0x0B00 0 <|
    if tagPoisoned p.tag then
      .done { writes := [expose 6 0 (.flRow (BitVec.ofNat 4096 (packList 32 (List.replicate 128 0x7FC00000))) c.ix.word.glyph)]
              ends := [.matrixError] }
    else if c.w.fences.any fun g => g.after.getLsbD 2 then
      let past := (c.k.ops.filter fun o => o.warp == c.wid && o.stroke == c.w.strokes && o.cls == .copy).map (·.id)
      oneWrite (expose 6 0 (.flLate x cf p c.w.ftz past c.ix.word.glyph 0))
    else
      let r := rowSums cf c.w.ftz p c.k.ab c.b.ab.base x
      oneWrite (expose 6 (rowFlags r) (.flRow (rowImage r) c.ix.word.glyph))
def execMadv (f : MR) (s : State) : Out := runSlot s (madvRun f)

end Sys2Proof.Machine
end

