-- ==== Sys2Proof/Machine/Special.lean ====
section
/-! DEFINITION. The F slot (spec/09_matrix_function_instructions.md R275 to R286, spec/03_numbers.md R103 to R107). A
result that R104 only bounds is a free value of Config, kept where it lies within the bound. -/

namespace Sys2Proof.Machine

/-- A number near the exact result: mid * 2^(e - 640), the exact result lying strictly between mid - below and mid + above in
the same units. -/
structure Near where
  mid : Int
  e : Int
  below : Int := 2 ^ 40
  above : Int := 2 ^ 40
  deriving DecidableEq, Repr

/-- One, ln 2, pi / 2 and 1 / sqrt (2 pi) in units of 2^-640, cut: what two binary32 words can differ from a bound by is far above such a
unit. -/
def fxOne : Int := 2 ^ 640
def fxLn2 : Int :=
  0xb17217f7d1cf79abc9e3b39803f2f6af40f343267298b62d8a0d175b8baafa2be7b876206debac98559552fb4afa1b10ed2eae35c138214427573b291169b8253e96ca16224ae8c51acbda11317c387e
def fxHalfPi : Int :=
  0x1921fb54442d18469898cc51701b839a252049c1114cf98e804177d4c76273644a29410f31c6809bbdf2a33679a748636605614dbe4be286e9fc26adadaa3848bc90b6aecc4bcfd8de89885d34c6fdad6
def fxInvSqrt2Pi : Int :=
  0x662114cf50d942343f2cf1402eae38bfd3829f30512706d8c0471b4802639d2e9df8ac55447d3db723f5d3abb374e88deb14277970be1513278e993445f08cff98282e1fd947ce4b4ecdbd6e65c23395
/-- A product, and a quotient, of numbers in units of 2^-640. -/
def fxMul (a b : Int) : Int := a * b / fxOne
def fxDiv (a b : Int) : Int := a * fxOne / b
/-- m * 2^e in units of 2^-640. -/
def fxOf (neg : Bool) (m : Nat) (e : Int) : Int :=
  let x : Nat := m * 2 ^ (e + 640).toNat / 2 ^ (-(e + 640)).toNat
  if neg then -(x : Int) else x

/-- e^x by its power series, 0 ≤ x < 1. -/
def fxSeries (x : Int) : Nat → Nat → Int → Int → Int
  | 0, _, _, acc => acc
  | n + 1, k, t, acc => fxSeries x n (k + 1) (fxMul t x / (k + 1)) (acc + fxMul t x / (k + 1))
/-- e^x. -/
def fxExp (x : Int) : Near :=
  let k := x / fxLn2
  { mid := fxSeries (x - k * fxLn2) 130 0 fxOne fxOne, e := k }
/-- A Near value in units of 2^-640. -/
def Near.fx (n : Near) : Int := n.mid * 2 ^ n.e.toNat / 2 ^ (-n.e).toNat

/-- atanh x for |x| < 1/2. -/
def fxAtanh (x2 : Int) : Nat → Nat → Int → Int → Int
  | 0, _, _, acc => acc
  | n + 1, k, t, acc => fxAtanh x2 n (k + 2) (fxMul t x2) (acc + t / k)
/-- log2 of m * 2^e, m not 0. -/
def fxLog2 (m : Nat) (e : Int) : Int :=
  let b := m.log2
  let y := fxOf false m (-b)
  let (y, top) := if 2 * y > 3 * fxOne then (y / 2, (b : Int) + e + 1) else (y, (b : Int) + e)
  let z := fxDiv (y - fxOne) (y + fxOne)
  top * fxOne + fxDiv (2 * fxAtanh (fxMul z z) 145 1 z 0) fxLn2

/-- sin and cos of |x| ≤ pi/4 by their power series. -/
def fxTrig (x2 : Int) : Nat → Nat → Int → Int → Int
  | 0, _, _, acc => acc
  | n + 1, k, t, acc =>
    let t := -(fxMul t x2) / ((k + 1) * (k + 2))
    fxTrig x2 n (k + 2) t (acc + t)
/-- sin (x + q pi/2). -/
def fxSin (x : Int) (q : Int) : Int :=
  let n := (2 * x + fxHalfPi) / (2 * fxHalfPi)
  let r := x - n * fxHalfPi
  let r2 := fxMul r r
  let s := if (n + q) % 2 = 0 then fxTrig r2 70 1 r r else fxTrig r2 70 0 fxOne fxOne
  if (n + q) % 4 < 2 then s else -s

/-- The integer square root by Newton's steps from above. -/
def isqrtFrom (n : Nat) : Nat → Nat → Nat
  | 0, x => x
  | k + 1, x => let y := (x + n / x) / 2; if y < x then isqrtFrom n k y else x
def isqrt (n : Nat) : Nat := if n = 0 then 0 else isqrtFrom n 40 (2 ^ (n.log2 / 2 + 1))

/-- The sum over k of x^(2k+1) / (2k+1)!!. -/
def fxPhiSum (x2 : Int) : Nat → Nat → Int → Int → Int
  | 0, _, _, acc => acc
  | n + 1, k, t, acc => fxPhiSum x2 n (k + 2) (fxMul t x2 / (k + 2)) (acc + t)
/-- The normal distribution function. -/
def fxPhi (x : Int) : Int :=
  let phi := fxMul fxInvSqrt2Pi (fxExp (-(fxMul x x) / 2)).fx
  fxOne / 2 + fxMul phi (fxPhiSum (fxMul x x) 500 1 x 0)

/-- x * 2^k as a whole number, for k not negative. -/
def zshift (x : Int) (k : Int) : Int := x * 2 ^ k.toNat

/-- The binary32 word nearest to a Near value, subnormals as zero (R103). -/
def Near.round (n : Near) (negZero : Bool) : Nat :=
  if n.mid = 0 then (if negZero then 2 ^ 31 else 0)
  else (Fmt.b32.encodeWide .nearest 0 true (decide (n.mid < 0)) n.mid.natAbs 1 (n.e - 640)).1

/-- How the exact result compares with t * 2^e: none where the interval does not tell. -/
def Near.cmp (n : Near) (t e : Int) : Option Ordering :=
  let unit := n.e - 640
  let lo := min unit e
  let t := zshift t (e - lo)
  if t ≤ zshift (n.mid - n.below) (unit - lo) then some .gt
  else if zshift (n.mid + n.above) (unit - lo) ≤ t then some .lt
  else none

/-- Whether a word lies within a bound of the exact result (R103, R104): `ulps` units of the exact result's binary32
exponent, whose unit is 2^ulpAt, or the absolute 2^floor_ where larger. `cmp` says how the exact result compares with t * 2^e,
as far as it is known. Subnormal words never lie within; a zero does where the result may lie below 2^-126, and an infinity
where it may reach 2^128. -/
def within (cmp : Int → Int → Option Ordering) (ulpAt : Int) (ulps : Nat) (floor_ : Option Int) (x : Nat) : Bool :=
  let lo := min (-200) (min ulpAt (floor_.getD ulpAt))
  let tol := max (zshift ulps (ulpAt - lo)) (match floor_ with | some f => zshift 1 (f - lo) | none => 0)
  let tiny := zshift 1 (-126 - lo)
  let huge := zshift 1 (128 - lo)
  let atLeast (t : Int) : Bool := cmp t lo != some .lt
  let atMost (t : Int) : Bool := cmp t lo != some .gt
  let less (t : Int) : Bool := cmp t lo == none || cmp t lo == some .lt
  let more (t : Int) : Bool := cmp t lo == none || cmp t lo == some .gt
  match Fmt.b32.decode false x with
  | .nan _ => false
  | .inf neg => if neg then atMost (tol - huge) else atLeast (huge - tol)
  | .fin neg m e =>
    if m = 0 then less (tiny + tol) && more (-(tiny + tol)) && (if neg then atMost tol else atLeast (-tol))
    else
      let y := zshift (if neg then -(m : Int) else m) (e - lo)
      decide (tiny ≤ y.natAbs) && atLeast (y - tol) && atMost (y + tol)

/-- The exponent of a Near value's last place in binary32. -/
def Near.ulpAt (n : Near) : Int := (n.mid.natAbs.log2 : Int) + (n.e - 640) - 23

/-- The delivered word: the free value where the bound admits it, else the nearest word. -/
def Near.deliver (n : Near) (ulps : Nat) (floor_ : Option Int) (negZero : Bool) (free : BitVec 32) : Nat :=
  if within n.cmp n.ulpAt ulps floor_ free.toNat then free.toNat else n.round negZero

def posInf : Nat := 0x7F800000
def negInf : Nat := 0xFF800000
def nanWord : Nat := 0x7FC00000

/-- A subnormal word read as zero of its sign (R103). -/
def flushWord (x : Nat) : Nat := if x / 2 ^ 23 % 256 = 0 then x / 2 ^ 31 * 2 ^ 31 else x
/-- A word of the F unit as a value (R103). -/
def fVal (x : Nat) : FVal := Fmt.b32.decode true x
/-- m * 2^e compared with a whole number: at least, and less. -/
def geInt (v : FVal) (n : Int) : Bool := !v.lt (.fin (decide (n < 0)) n.natAbs 0)
def ltInt (v : FVal) (n : Int) : Bool := v.lt (.fin (decide (n < 0)) n.natAbs 0)
/-- The exact word of a whole number. -/
def intWord (n : Int) : Nat := (Fmt.b32.ofVal .nearest 0 true (.fin (decide (n < 0)) n.natAbs 0)).1

/-- An element-wise function (R276) of a word that is neither NaN nor subnormal: a fixed result (R104), or what bounds
it. -/
inductive Sfu where
  | fixed (x : Nat) (flags : Flags)
  | bound (n : Near) (ulps : Nat) (floor_ : Option Int) (negZero : Bool)
  deriving DecidableEq, Repr

/-- The result of a function program on a word. -/
def Sfu.run (prog : Nat) (f : FVal → Sfu) (x : Nat) : Nat × Flags :=
  let x := flushWord x
  match fVal x with
  | .nan s => (nanWord, flIf s flNv)
  | v =>
    match f v with
    | .fixed y fl => (y, fl)
    | .bound n ulps fl z => (n.deliver ulps fl z (Config.freeSfu prog (BitVec.ofNat 32 x)), 0)

/-- An invalid source's NaN (R105). -/
def Sfu.invalid : Sfu := .fixed nanWord flNv

/-- EXP2 (R104). -/
def sfuExp2 (v : FVal) : Sfu :=
  match v with
  | .fin neg m e =>
    if ltInt v (-127) then .fixed 0 0 else if geInt v 128 then .fixed posInf 0
    else
      let x := fxOf neg m e
      if x % fxOne = 0 ∧ -126 ≤ x / fxOne then .fixed ((x / fxOne + 127).toNat * 2 ^ 23) 0
      else
        let k := x / fxOne
        .bound { mid := (fxExp (fxMul (x - k * fxOne) fxLn2)).fx, e := k } 1 none false
  | v => .fixed (if v.isNeg then 0 else posInf) 0

/-- EXP (R104). -/
def sfuExp (v : FVal) : Sfu :=
  match v with
  | .fin neg m e =>
    if ltInt v (-88) then .fixed 0 0 else if !v.lt (.fin false 355 (-2)) then .fixed posInf 0
    else .bound (fxExp (fxOf neg m e)) 2 none false
  | v => .fixed (if v.isNeg then 0 else posInf) 0

/-- LOG2 (R104, R105). -/
def sfuLog2 (v : FVal) : Sfu :=
  match v with
  | .fin neg m e =>
    if m = 0 then .fixed negInf flDz
    else if neg then Sfu.invalid
    else if m = 2 ^ m.log2 then .fixed (intWord (m.log2 + e)) 0
    else .bound { mid := fxLog2 m e, e := 0 } 1 none false
  | v => if v.isNeg then Sfu.invalid else .fixed posInf 0

/-- RCP (R104, R105). -/
def sfuRcp (v : FVal) : Sfu :=
  let sign := if v.isNeg then 2 ^ 31 else 0
  match v with
  | .fin neg m e =>
    if m = 0 then .fixed (sign + posInf) flDz
    else if !ltPow m e 1 126 then .fixed sign 0
    else .bound { mid := (if neg then -1 else 1) * ((2 ^ 664 / m : Nat) : Int), e := -24 - e } 1 none neg
  | _ => .fixed sign 0

/-- The square root of m * 2^e. -/
def nearSqrt (m : Nat) (e : Int) : Near :=
  if e % 2 = 0 then { mid := isqrt (m * 2 ^ 1280), e := e / 2 } else { mid := isqrt (2 * m * 2 ^ 1280), e := (e - 1) / 2 }

/-- RSQRT (R104, R105). -/
def sfuRsqrt (v : FVal) : Sfu :=
  match v with
  | .fin neg m e =>
    if m = 0 then .fixed ((if neg then 2 ^ 31 else 0) + posInf) flDz
    else if neg then Sfu.invalid
    else let r := nearSqrt m e; .bound { mid := 2 ^ 1304 / r.mid, e := -24 - r.e } 1 none false
  | v => if v.isNeg then Sfu.invalid else .fixed 0 0

/-- SQRT (R104). -/
def sfuSqrt (v : FVal) : Sfu :=
  match v with
  | .fin neg m e =>
    if m = 0 then .fixed (if neg then 2 ^ 31 else 0) 0
    else if neg then Sfu.invalid
    else .bound (nearSqrt m e) 1 none false
  | v => if v.isNeg then Sfu.invalid else .fixed posInf 0

/-- SIN and COS, by the quarter turn q (R104). -/
def sfuTrig (q : Int) (v : FVal) : Sfu :=
  match v with
  | .fin neg m e =>
    if ltPow 1 16 m e then Sfu.invalid
    else if m = 0 ∧ q = 0 then .fixed (if neg then 2 ^ 31 else 0) 0
    else .bound { mid := fxSin (fxOf neg m e) q, e := 0 } 1 (some (-21)) false
  | _ => Sfu.invalid

/-- TANH (R104). -/
def sfuTanh (v : FVal) : Sfu :=
  let sign := if v.isNeg then 2 ^ 31 else 0
  match v with
  | .fin neg m e =>
    if m = 0 then .fixed sign 0
    else if !ltPow m e 9 0 then .fixed (sign + 0x3F800000) 0
    else if ltPow m e 1 (-40) then
      -- the exact result lies above x - x³/3, and below that and 2 x⁵/15
      let x : Int := m * 2 ^ 616
      let x2 := fxMul (fxOf false m e) (fxOf false m e)
      let y := x - fxMul x x2 / 3 - 1
      let more := fxMul x (fxMul x2 x2) * 2 / 15 + 2 ^ 40
      .bound (if neg then { mid := -y, e := e + 24, below := more } else { mid := y, e := e + 24, above := more }) 2 none neg
    else
      let t := (fxExp (-2 * fxOf false m e)).fx
      .bound { mid := (if neg then -1 else 1) * fxDiv (fxOne - t) (fxOne + t), e := 0 } 2 none neg
  | _ => .fixed (sign + 0x3F800000) 0

/-- SIGM (R104). -/
def sfuSigm (v : FVal) : Sfu :=
  match v with
  | .fin neg m e =>
    if ltInt v (-88) then .fixed 0 0 else if geInt v 17 then .fixed 0x3F800000 0
    else if neg then
      let t := fxExp (fxOf neg m e)
      .bound { mid := fxDiv t.mid (fxOne + t.fx), e := t.e } 2 none false
    else .bound { mid := fxDiv fxOne (fxOne + (fxExp (-(fxOf neg m e))).fx), e := 0 } 2 none false
  | v => .fixed (if v.isNeg then 0 else 0x3F800000) 0

/-- GELU (R104). -/
def sfuGelu (v : FVal) : Sfu :=
  match v with
  | .fin neg m e =>
    if !ltInt (.fin false m e) 10 then
      .fixed (if neg then 2 ^ 31 else (Fmt.b32.ofVal .nearest 0 true v).1) 0
    else
      let x := fxOf neg m e
      .bound { mid := fxMul x (fxPhi x), e := 0, below := 2 ^ 100, above := 2 ^ 100 } 4 (some (-24)) neg
  | v => .fixed (if v.isNeg then 2 ^ 31 else posInf) 0

/-- An element-wise function of the active lanes; latency 10 (R130, R276). -/
def fElem (f : FR) (prog : Nat) (fn : FVal → Sfu) (c : Ctx) : SlotResult :=
  let act := c.active f.pred
  let a := c.w.vreg f.a.toNat
  let r := mapLanes 32 act fun l => Sfu.run prog fn (el 32 a l)
  oneWrite (c.writeV 10 f.d.toNat act r.1 r.2)

def execExp2 (f : FR) (s : State) : Out := runSlot s (fElem f 0 sfuExp2)
def execExp (f : FR) (s : State) : Out := runSlot s (fElem f 1 sfuExp)
def execLog2 (f : FR) (s : State) : Out := runSlot s (fElem f 2 sfuLog2)
def execRcp (f : FR) (s : State) : Out := runSlot s (fElem f 3 sfuRcp)
def execRsqrt (f : FR) (s : State) : Out := runSlot s (fElem f 4 sfuRsqrt)
def execSqrt (f : FR) (s : State) : Out := runSlot s (fElem f 5 sfuSqrt)
def execSin (f : FR) (s : State) : Out := runSlot s (fElem f 6 (sfuTrig 0))
def execCos (f : FR) (s : State) : Out := runSlot s (fElem f 7 (sfuTrig 1))
def execTanh (f : FR) (s : State) : Out := runSlot s (fElem f 8 sfuTanh)
def execSigm (f : FR) (s : State) : Out := runSlot s (fElem f 9 sfuSigm)
def execGelu (f : FR) (s : State) : Out := runSlot s (fElem f 10 sfuGelu)

/-- The view that the row operations need (R277). -/
def rowView (w : Warp) : Bool := w.ebits == 32 && decide (bitsN w.shape 5 2 ≤ 5)

/-- The rows of the view with an active lane: index and active lanes (R277). -/
def rowLanes (w : Warp) (act : Mask) : List (Nat × List Nat) :=
  let cols := 64 / w.rows
  (List.range w.rows).filterMap fun i =>
    let ls := ((List.range cols).map (i * cols + ·)).filter fun l => act.getLsbD l
    if ls = [] then none else some (i, ls)

/-- A row operation (R277): `row` gives the output words of a row's active lanes, one list per destination register. A
bad view faults when a lane is active (R216). -/
def rowOp (f : FR) (regs : Nat) (row : Ctx → Nat → List Nat → (Nat → Nat → Nat) × Flags) (c : Ctx) : SlotResult :=
  let act := c.active f.pred
  if act ≠ 0 ∧ !rowView c.w then .fault 0x0C10 c.w.shape
  else
    let rows := if act = 0 then [] else (rowLanes c.w act).map fun r => (r.2, row c r.1 r.2)
    let flags := rows.foldl (fun a r => a ||| r.2.2) 0
    .done
      { writes := (List.range regs).map fun g =>
          let v := BitVec.ofNat 2048 (packList 32 ((List.range 64).map fun l =>
            match rows.find? fun r => r.1.contains l with
            | some r => r.2.1 g l
            | none => 0))
          c.writeV 24 (f.d.toNat + g) act v (if g = 0 then flags else 0) }

/-- A sum rounded once to nearest even, with no flag but nv (R278). -/
def sumWord (vs : List FVal) : Nat × Flags :=
  let s := exactSum .nearest vs
  ((Fmt.b32.ofVal .nearest 0 true s.1).1, s.2)

/-- RSTAT (R278): the maximum and the sum. -/
def rstatRow (f : FR) (c : Ctx) (_i : Nat) (ls : List Nat) : (Nat → Nat → Nat) × Flags :=
  let a := c.w.vreg f.a.toNat
  let vs := ls.map fun l => fVal (flushWord (el 32 a l))
  let m := maxVal vs
  let s := sumWord vs
  (fun g _ => if g = 0 then (Fmt.b32.ofVal .nearest 0 true m.1).1 else s.1, m.2 ||| s.2)
def execRstat (f : FR) (s : State) : Out := runSlot s (rowOp f 2 (rstatRow f))

/-- 1 / k rounded to nearest even (R107). -/
def recipWord (k : Nat) : Nat := (Fmt.b32.encodeWide .nearest 0 true false 1 k 0).1

/-- A term of a row's sum, exp of a number not above 0, in units of 2^-640: the least and the most that it may be. -/
def smaxTerm (x : Int) : Int × Int :=
  if x = 0 then (fxOne, fxOne)
  else if x < -400 * fxOne then (0, 2 ^ 64)
  else ((fxExp x).fx - 2 ^ 20, (fxExp x).fx + 2 ^ 20)
/-- exp x over a sum that lies between two numbers, and strictly so where they differ. -/
def smaxOut (x sumLo sumHi : Int) : Near :=
  let t := if x = 0 then { mid := fxOne, e := 0, below := 0, above := 0 } else { fxExp x with below := 2 ^ 20, above := 2 ^ 20 }
  let lo := fxDiv (t.mid - t.below) sumHi
  let exact : Int := if sumLo = sumHi then 1 else 0
  { mid := lo, e := t.e, below := exact, above := -fxDiv (-(t.mid + t.above)) sumLo - lo + exact }

/-- SMAX (R106, R107, R279). -/
def smaxRow (f : FR) (masked : Bool) (c : Ctx) (i : Nat) (ls : List Nat) : (Nat → Nat → Nat) × Flags :=
  let a := c.w.vreg f.a.toNat
  let word (l : Nat) : Nat := flushWord (el 32 a l)
  let inU (l : Nat) : Bool := !masked || el 32 (c.w.vreg f.b.toNat) l == 0
  let u := ls.filter inU
  let vs := u.map fun l => fVal (word l)
  let count := u.length
  if u = [] then (fun _ _ => 0, flRow i)
  else if vs.any (·.isNan) then (fun _ _ => nanWord, flIf (vs.any (·.isSnan)) flNv)
  else
    let tops := (u.filter fun l => word l == posInf).length
    if 0 < tops then (fun _ l => if inU l ∧ word l = posInf then recipWord tops else 0, 0)
    else if u.all fun l => word l == negInf then (fun _ l => if inU l then recipWord count else 0, 0)
    else
      let fx (l : Nat) : Option Int := match fVal (word l) with
        | .fin n m e => some (fxOf n m e)
        | _ => none
      let top := (u.filterMap fx).foldl max ((u.filterMap fx).headD 0)
      let terms := (u.filterMap fx).map fun x => smaxTerm (x - top)
      let lo := (terms.map (·.1)).foldl (· + ·) 0
      let hi := (terms.map (·.2)).foldl (· + ·) 0
      (fun _ l =>
        match (if inU l then fx l else none) with
        | some x =>
          if x - top < -400 * fxOne then 0
          else Near.deliver (smaxOut (x - top) lo hi) 3 none false (Config.freeRow 12 (u.map fun l => BitVec.ofNat 32 (word l)) l)
        | none => 0, 0)
def execSmax (f : FR) (s : State) : Out := runSlot s (rowOp f 1 (smaxRow f false))
def execSmaxM (f : FR) (s : State) : Out := runSlot s (rowOp f 1 (smaxRow f true))

/-- How z * 2^se * sqrt (c / q) + b * 2^be compares with t * 2^e, by exact squares; where q is 0 the first term is 0. -/
def normCmp (z se : Int) (cnt q : Nat) (b be t e : Int) : Option Ordering :=
  let lo := min se (min be e)
  let w := zshift t (e - lo) - zshift b (be - lo)
  let p := if q = 0 then 0 else zshift z (se - lo)
  -- p * sqrt (c / q) with w: their signs, then their squares
  if p.sign ≠ w.sign then some (compare p.sign w.sign)
  else if 0 ≤ w then some (compare (p * p * cnt) (w * w * q))
  else some (compare (w * w * q) (p * p * cnt))

/-- z * s + β for z = n * sqrt (c / q) of a row (R280): special values first, an exact zero as the sum gives it, and
otherwise within the bound, which is taken exactly. -/
def normOut (n : Int) (cnt q : Nat) (sv bv : FVal) (free : BitVec 32) : Nat × Flags :=
  if sv.isNan || bv.isNan then (nanWord, flIf (sv.isSnan || bv.isSnan) flNv)
  else
    let p := FVal.mul (.fin (decide (n < 0)) n.natAbs 0) sv
    let t := p.1.add .nearest bv
    match sv, bv with
    | .fin sn sm se, .fin bn bm be =>
      let zs : Int := (if sn then -1 else 1) * n * sm
      let b : Int := (if bn then -1 else 1) * bm
      let lo := min (2 * se) (2 * be)
      if zs = 0 ∧ b = 0 then ((Fmt.b32.ofVal .nearest 0 true t.1).1, 0)
      else if q ≠ 0 ∧ zs * b < 0 ∧
          zshift (zs * zs * cnt) (2 * se - lo) = zshift (b * b * q) (2 * be - lo) then (0, 0)
      else
        let z : Int := if q = 0 then 0 else (if zs < 0 then -1 else 1) * (isqrt (n.natAbs * n.natAbs * cnt * 2 ^ 3200 / q) : Nat)
        let e0 := min se be
        let mid := zshift (z * sm) (se - e0) + zshift (b * 2 ^ 1600) (be - e0)
        let cmp := normCmp zs se cnt q b be
        let neg := cmp 0 0 == some .lt
        -- the exact result's exponent, which the cut value may miss by one: the result is far above the 2^-1600 of its cut
        let size (k : Int) : Bool := if neg then cmp (-1) k == some .lt || cmp (-1) k == some .eq else cmp 1 k != some .lt
        let k := (mid.natAbs.log2 : Int) + e0 - 1600
        let k := if size (k + 1) then k + 1 else if size k then k else k - 1
        (if within cmp (k - 23) 4 none free.toNat then free.toNat else Near.round { mid := mid, e := e0 - 960 } neg, 0)
    | _, _ =>
      if t.1.isNan then (nanWord, flNv) else ((Fmt.b32.ofVal .nearest 0 true t.1).1, 0)

/-- RNORM (R280). With x in units of 2^-149: rms has n_j = x_j and q = Σ x²; layer has n_j = c x_j - Σ x and
q = Σ n². -/
def rnormRow (f : FR) (layer : Bool) (c : Ctx) (_i : Nat) (ls : List Nat) : (Nat → Nat → Nat) × Flags :=
  let a := c.w.vreg f.a.toNat
  let sc := c.w.vreg f.b.toNat
  let bi := c.w.vreg (f.b.toNat + 1)
  let word (v : VReg) (l : Nat) : Nat := flushWord (el 32 v l)
  let vs := ls.map fun l => fVal (word a l)
  if vs.any fun v => v.isNan || v.isInf then
    let others := ls.flatMap fun l => [fVal (word sc l), fVal (word bi l)]
    (fun _ _ => nanWord, flIf ((vs.any fun v => v.isSnan || v.isInf) || others.any (·.isSnan)) flNv)
  else
    let unit (l : Nat) : Int := match fVal (word a l) with
      | .fin n m e => zshift (if n then -(m : Int) else m) (e + 149)
      | _ => 0
    let cnt := ls.length
    let sum := (ls.map unit).foldl (· + ·) 0
    let n (l : Nat) : Int := if layer then cnt * unit l - sum else unit l
    let q := (ls.map fun l => (n l).natAbs * (n l).natAbs).foldl (· + ·) 0
    let row := (ls.map fun l => BitVec.ofNat 32 (word a l)) ++ (ls.map fun l => BitVec.ofNat 32 (word sc l)) ++
      ls.map fun l => BitVec.ofNat 32 (word bi l)
    let out (l : Nat) : Nat × Flags :=
      normOut (n l) cnt q (fVal (word sc l)) (fVal (word bi l)) (Config.freeRow (if layer then 14 else 13) row l)
    (fun _ l => (out l).1, ls.foldl (fun fl l => fl ||| (out l).2) 0)
def execRnormRms (f : FR) (s : State) : Out := runSlot s (rowOp f 1 (rnormRow f false))
def execRnormLayer (f : FR) (s : State) : Out := runSlot s (rowOp f 1 (rnormRow f true))

/-- The micro-machine's registers (R282): sources x, b, y and r as binary32 words, and k. -/
structure Micro where
  x : Nat
  b : Nat
  y : Nat
  r : Nat
  k : Int
  deriving DecidableEq, Repr

/-- A source code of R283. -/
def Micro.src (m : Micro) (code : Nat) : FVal :=
  Fmt.b32.decode false (match code with | 0 => m.x | 1 => m.b | 2 => m.y | _ => m.r)
/-- A real result rounded, below 2^-126 zero of its sign (R282). -/
def microWord (v : FVal) : Nat := flushWord (Fmt.b32.ofVal .nearest 0 false v).1
/-- Entry j of a table, a subnormal as it stands: R103 and R282 flush sources and results, and a table entry is neither
(DEDUCED, log 40). -/
def FBank.entry (k : FBank) (t j : Nat) : FVal := Fmt.b32.decode false (el' k.tables[fin 8 t] j)
where el' (v : BitVec 8192) (j : Nat) : Nat := (elem 32 v j).toNat

/-- An ill-formed step (R282, R283). -/
def microBad (st : Nat) : Bool :=
  let f (hi lo : Nat) : Nat := st / 2 ^ lo % 2 ^ (hi + 1 - lo)
  match f 31 28 with
  | 1 => f 26 25 == 3 || f 14 0 != 0 || (f 26 25 == 2 && f 22 15 != 0)
  | 2 => f 21 0 != 0
  | 3 => f 13 0 != 0
  | 4 => f 15 0 != 0
  | 5 => f 7 0 != 0
  | 6 => decide (4 < f 26 24) || f 7 0 != 0 || (if f 21 21 = 1 then f 20 19 != 0 else f 18 16 != 0 || f 15 8 != 0)
  | 7 => f 24 0 != 0
  | _ => true

/-- -0 below +0, for numbers (R283). -/
def orderLt (a b : FVal) : Bool := a.lt b || (a.eq b && a.isZero && a.isNeg && !b.isNeg)

/-- One well-formed step (R283). -/
def Micro.step (t : FBank) (m : Micro) (st : Nat) : Micro :=
  let f (hi lo : Nat) : Nat := st / 2 ^ lo % 2 ^ (hi + 1 - lo)
  let y := m.src 2
  match f 31 28 with
  | 1 =>
    match m.src (f 24 23) with
    | .fin n mm e =>
      let clampK (k : Int) : Int := max (-2 ^ 31) (min (2 ^ 31 - 1) k)
      if f 26 25 = 2 then
        if mm = 0 then { m with k := 0, r := 0 }
        else { m with k := clampK (mm.log2 + e), r := microWord (.fin false mm (-(mm.log2 : Int))) }
      else
        let ex := e + sx 8 (f 22 15)
        let s : Int := zshift (if n then -(mm : Int) else mm) (max 0 ex)
        let d : Nat := 2 ^ (-ex).toNat
        let fl := s / d
        let rem2 := 2 * (s - fl * d)
        let k := if f 26 25 = 1 then fl
          else if (d : Int) < rem2 ∨ (rem2 = d ∧ fl % 2 = 1) then fl + 1 else fl
        let r := s - k * d
        { m with k := clampK k, r := microWord (.fin (decide (r < 0)) r.natAbs (min 0 ex)) }
    | _ => { m with k := 0, r := nanWord }
  | 2 =>
    let j := match m.src (f 23 22) with
      | .nan _ => 0
      | .inf n => if n then 0 else 255
      | .fin n mm e => if n then 0 else min 255 (mm * 2 ^ (e + 8).toNat / 2 ^ (-(e + 8)).toNat)
    { m with y := microWord (t.entry (f 26 24) j) }
  | 3 => { m with y := microWord ((y.mul (m.src (f 23 22))).1.add .nearest (t.entry (f 26 24) (f 21 14))).1 }
  | 4 =>
    let e := sx 8 (f 23 16)
    { m with y := microWord (if f 26 26 = 1 then (y.mul (m.src (f 25 24))).1.scale e else y.scale (m.k + e)) }
  | 5 =>
    if y.isNan then m
    else
      let lo := t.entry (f 26 24) (f 23 16)
      let hi := t.entry (f 26 24) (f 15 8)
      let y := if !lo.isNan && orderLt y lo then lo else y
      { m with y := microWord (if !hi.isNan && orderLt hi y then hi else y) }
  | 6 =>
    let v := m.src (f 23 22)
    let hold := match f 26 24 with
      | 0 => !v.isNan && v.isNeg && !v.isZero
      | 1 => v.isZero
      | 2 => v.isNan
      | 3 => v.isInf
      | _ => !v.isNan && !v.isNeg && !v.isZero
    if hold then { m with y := microWord (if f 21 21 = 1 then t.entry (f 18 16) (f 15 8) else m.src (f 20 19)) } else m
  | _ =>
    match m.src (f 26 25) with
    | .nan _ => { m with y := nanWord }
    | .inf n => { m with y := if n then 2 ^ 31 else 0 }
    | .fin n mm e =>
      if mm = 0 then { m with y := (if n then 2 ^ 31 else 0) + posInf }
      else
        let top := mm.log2
        let fr := (mm - 2 ^ top) * 256 / 2 ^ top
        let g := min 255 (roundInt .nearest 0 false ((511 - 2 * fr) * 256) (513 + 2 * fr) 0 fun k => k % 2 == 1).1
        { m with y := microWord (.fin n (256 + g) (-9 - (e + top))) }

/-- The steps of a program up to its last one (R282). -/
def microSteps (p : BitVec 1024) : List Nat :=
  let all := (List.range 32).map fun i => (elem 32 p i).toNat
  let n := all.findIdx fun st => st.testBit 27
  all.take (n + 1)

/-- A microprogram on a lane (R282): nv for a NaN that it creates, and for a signalling source (R80, R105). -/
def microRun (k : FBank) (steps : List Nat) (a b : Nat) : Nat × Flags :=
  if steps.any microBad then (nanWord, flNv)
  else
    let x := flushWord a
    let bb := flushWord b
    let m := steps.foldl (fun (m : Micro) st => m.step k st) { x := x, b := bb, y := x, r := 0, k := 0 }
    let nan (w : Nat) : Bool := (fVal w).isNan
    (if nan m.y then nanWord else m.y,
      flIf ((nan m.y && !nan x && !nan bb) || (fVal x).isSnan || (fVal bb).isSnan) flNv)

/-- The program that n names in a bank, for the loadable ones; programs 0 to 23 are fixed and have no steps to read
(R281): an MPRG names 24 to 63 (R148). -/
def FBank.program (k : FBank) (n : Nat) : BitVec 1024 := k.programs[fin 40 (n - 24)]

/-- MPRG (R282). -/
def mprgRun (f : FR) (c : Ctx) : SlotResult :=
  let act := c.active f.pred
  let k := c.k.banks[c.k.bank]
  let steps := microSteps (k.program f.n.toNat)
  let r := mapLanes 32 act fun l =>
    microRun k steps (el 32 (c.w.vreg f.a.toNat) l) (el 32 (c.w.vreg f.b.toNat) l)
  oneWrite (c.writeV 10 f.d.toNat act r.1 r.2)
def execMprg (f : FR) (s : State) : Out := runSlot s (mprgRun f)

/-- TSWAP (R285, R286). -/
def execTswap (_f : FR) (s : State) : Out :=
  runSlot s fun c => if c.b.usesFmicro then .done { ends := [.tswap] } else .fault 0x0500 0x1F

end Sys2Proof.Machine
end

