-- ==== Sys2Proof/Machine/Hyper.lean ====
section
/-! DEFINITION. The H slot (spec/10_hypervector_instructions.md R287 to R307): hypervectors and counter banks. Its
asynchronous operations end in H_ASYNC_COMPLETE (Tiles.lean). -/

namespace Sys2Proof.Machine

/-- An exposed write of a hypervector, a bank or a scalar with its lane-less condition (R113, R289, R292). -/
def Ctx.writeH (c : Ctx) (pred : BitVec 5) (lat : Nat) (v : WriteVal) : SlotResult :=
  oneWrite ((expose lat 0 v).when (c.holds pred))

/-- An asynchronous H operation started when its condition holds (R289, R292). -/
def Ctx.startH (c : Ctx) (pred : BitVec 5) (cls : OpClass) (field : Field) (draws : Nat) (k : OpKind)
    (ends : List EndEffect) : SlotResult :=
  if c.holds pred then .done { draws := draws, ops := [{ cls := cls, path := .h, field := field, kind := k }], ends := ends }
  else .nothing

/-- The AB window address of HLD and HST, and its checks (R294). -/
def habAddr (f : HR) (c : Ctx) : Nat := ((c.w.sreg f.s.toNat).toNat + f.imm.toNat) % 2 ^ 32
def habCheck (f : HR) (c : Ctx) (r : SlotResult) : SlotResult :=
  let a := habAddr f c
  if !c.holds f.pred then .nothing
  else
    SlotResult.check (decide (a % 64 = 0)) 0x0800 (BitVec.ofNat 64 a) <|
    SlotResult.check (decide (a + 1024 ≤ c.b.ab.size)) 0x0A00 (BitVec.ofNat 64 a) r

def execHld (f : HR) (s : State) : Out :=
  runSlot s fun c => habCheck f c (c.startH f.pred .load (f.pack 0x01) 0 (.hld (habAddr f c) (fin 16 f.hd.toNat)) [])
def execHst (f : HR) (s : State) : Out :=
  runSlot s fun c => habCheck f c (c.startH f.pred .store (f.pack 0x02) 0 (.hst (habAddr f c) (c.w.hreg f.ha.toNat)) [])

/-- Bind, permute and move (R296). -/
def execHmov (f : HR) (s : State) : Out :=
  runSlot s fun c => c.writeH f.pred 2 (.hyper (fin 16 f.hd.toNat) (c.w.hreg f.ha.toNat))
def execHbind (f : HR) (s : State) : Out :=
  runSlot s fun c => c.writeH f.pred 2 (.hyper (fin 16 f.hd.toNat) (c.w.hreg f.ha.toNat ^^^ c.w.hreg f.hb.toNat))
def execHperm (f : HR) (s : State) : Out :=
  runSlot s fun c => c.writeH f.pred 2 (.hyper (fin 16 f.hd.toNat) ((c.w.hreg f.ha.toNat).rotateLeft f.imm.toNat))

/-- HBUN (R297): its addend is formed at issue. -/
def execHbun (f : HR) (s : State) : Out :=
  runSlot s fun c =>
    c.writeH f.pred 3 (.hbun (fin 4 (bitsN f.imm 5 4)) (c.w.hreg f.ha.toNat) (bitsN f.imm 3 0))

/-- Counter i of a bank (R288). -/
def counterAt (b : Bank) (i : Nat) : Int := (elem 8 b i).toInt
/-- The bank with an addend of R297 applied. -/
def bundleBank (b : Bank) (img : HReg) (weight : Nat) : Bank :=
  packEl 8 8192 65536 fun i =>
    BitVec.ofInt 8 (max (-127) (min 127 (counterAt b i + (if img.getLsbD i then (weight : Int) else -weight))))

/-- rand_image of R301, from steps n and n + 1 of the bundle. -/
def Warp.randImage (w : Warp) (n : Nat) : HReg :=
  BitVec.ofNat 8192 (packList 64 ((List.range 128).map fun j => (w.rngWord (n + j / 64) (j % 64)).toNat))

/-- HTHR (R299). -/
def hthrRun (f : HR) (c : Ctx) : SlotResult :=
  if !c.holds f.pred then c.writeH f.pred 3 (.hyper (fin 16 f.hd.toNat) 0)
  else
    let b := c.w.bank (bitsN f.imm 1 0)
    let mode := bitsN c.w.tie 1 0
    let ties : HReg := match mode with
      | 0 => c.w.hreg 15
      | 1 => c.w.randImage c.ix.draws
      | 2 => 0
      | _ => packEl 1 8192 8192 fun i => BitVec.ofBool ((i % 2 == 1) ^^ c.w.tie.getLsbD 2)
    let img : HReg := packEl 1 8192 8192 fun i =>
      BitVec.ofBool (if 0 < counterAt b i then true else if counterAt b i < 0 then false else ties.getLsbD i)
    .done { draws := if mode = 1 then 2 else 0, writes := [expose 3 0 (.hyper (fin 16 f.hd.toNat) img)] }
def execHthr (f : HR) (s : State) : Out := runSlot s (hthrRun f)

def execHclrc (f : HR) (s : State) : Out :=
  runSlot s fun c => c.startH f.pred .store (f.pack 0x08) 0 (.hclrc (fin 4 (bitsN f.imm 1 0))) []
def execHrand (f : HR) (s : State) : Out :=
  runSlot s fun c => c.startH f.pred .load (f.pack 0x09) 2 (.hrand (fin 16 f.hd.toNat) (c.w.randImage c.ix.draws)) []

/-- Bits that differ (R302, R304). -/
def hamming (a b : HReg) : Nat := ((List.range 8192).filter fun i => (a ^^^ b).getLsbD i).length
def execHdist (f : HR) (s : State) : Out :=
  runSlot s fun c =>
    c.writeH f.pred 6 (.scalar (fin 64 f.s.toNat) (BitVec.ofNat 64 (hamming (c.w.hreg f.ha.toNat) (c.w.hreg f.hb.toNat))))

/-- HTIE (R300). -/
def tieCount (b : Bank) : Nat := ((List.range 8192).filter fun i => elem 8 b i == 0).length
def execHtie (f : HR) (s : State) : Out :=
  runSlot s fun c =>
    c.startH f.pred .load (f.pack 0x0B) 0 (.htie (fin 64 f.s.toNat) (tieCount (c.w.bank (bitsN f.imm 1 0)))) (tokenEnd f.s)

/-- HNEAR (R304): the record must be valid and of format HV. -/
def hnearRun (f : HQ) (c : Ctx) : SlotResult :=
  let r := c.w.resv[fin 8 f.ra.toNat]
  if !c.holds f.pred then .nothing
  else
    SlotResult.check (rvValid r && rvFmt r == 0x70) 0x0B00 (BitVec.ofNat 64 f.ra.toNat) <|
      c.startH f.pred .load (f.pack 0x10) 0
        (.hnear (fin 64 f.tok.toNat) (fin 64 f.sd.toNat) (c.w.hreg f.h.toNat) r) (tokenEnd f.tok ++ tokenEnd f.sd)
def execHnear (f : HQ) (s : State) : Out := runSlot s (hnearRun f)

/-- The search of R304 over rows k, k + 1, …: the best row and its distance. -/
def searchRows (row : Nat → HReg) (q : HReg) (t : Nat) : Nat → Nat → Nat × Nat → Nat × Nat
  | 0, _, best => best
  | n + 1, k, best =>
    let d := hamming q (row k)
    searchRows row q t n (k + 1) (if (t = 0 ∨ d ≤ 2 * t) ∧ d < best.2 then (k, d) else best)

end Sys2Proof.Machine
end

