-- ==== Sys2Proof/Machine/Names.lean ====
section
/-! DEFINITION. What a slot operation names and writes, read off its fields: the registers it names (R29, R64, R142,
R196, R219, R290), its exposed writes with their latencies (R127, R130), its asynchronous class (R28) and its issue
occupancy (R130, R270). -/

namespace Sys2Proof.Machine

/-- A class of registers with a descriptor's maximum (R12, R124 rule 3). -/
inductive RegClass where
  | s | v | h | c | ka
  deriving DecidableEq, Repr

/-- A register named: its class and number, and the bit ranges (lowest bit, width) of the field that decide it. -/
structure Name where
  cls : RegClass
  n : Nat
  on : List (Nat × Nat)
  deriving DecidableEq, Repr

/-- A scalar named by a 6-bit field at bit lo, and one named implicitly. -/
def nS (lo : Nat) (x : BitVec 6) : Name := ⟨.s, x.toNat, [(lo, 6)]⟩
def nSi (n : Nat) : Name := ⟨.s, n, []⟩
/-- n vector registers from d, a 7-bit field at bit lo; `more` lists the other ranges that decide how many, of which the first
does not depend. -/
def nV (lo : Nat) (d : BitVec 7) (n : Nat) (more : List (Nat × Nat) := []) : List Name :=
  (List.range n).map fun i => ⟨.v, d.toNat + i, (lo, 7) :: if i = 0 then [] else more⟩
/-- A hypervector named by a 4-bit field. -/
def nH (lo : Nat) (x : BitVec 4) : Name := ⟨.h, x.toNat, [(lo, 4)]⟩
/-- What a scalar operand code names (R114). -/
def nSop (lo : Nat) (x : BitVec 8) : List Name := if x.toNat < 0x40 then [⟨.s, x.toNat, [(lo, 8)]⟩] else []
/-- What a vector operand code names (R114). -/
def nVop (lo : Nat) (x : BitVec 8) : List Name :=
  if x.toNat < 0x80 then [⟨.v, x.toNat, [(lo, 8)]⟩]
  else if x.toNat < 0xC0 then [⟨.s, x.toNat - 0x80, [(lo, 8)]⟩] else []
/-- A vector destination of class VR. -/
def nVd (f : R3) : Name := ⟨.v, f.d.toNat, [(23, 8)]⟩
/-- An accumulator chosen by c (R196). -/
def nKa (f : R3) : Name := ⟨.ka, f.c.toNat, [(0, 7)]⟩
/-- Names of the two-source scalar operations: b is an immediate when i is 1. -/
def namesS2 (f : R3) : List Name :=
  nSop 23 f.d ++ nSop 15 f.a ++ (if f.variant.getLsbD 0 then [] else (nSop 7 f.b).map fun n => { n with on := (36, 1) :: n.on })
def namesS3 (f : R3) : List Name := nSop 23 f.d ++ nSop 15 f.a ++ nSop 7 f.b
/-- Names of a vector operation with d, a and b, or d and a. -/
def namesV2 (f : R3) : List Name := nVd f :: (nVop 15 f.a ++ nVop 7 f.b)
def namesV1 (f : R3) : List Name := nVd f :: nVop 15 f.a
def namesVI (f : VI) : List Name := nV 24 f.d 1 ++ nVop 16 f.a
/-- Names of class LA: the group from d, the offset a, the base. -/
def namesLA (f : LA) (n : Nat) : List Name := nV 24 f.d n [(36, 4)] ++ nV 17 f.a 1 ++ [nS 11 f.base]
def namesXD (f : XD) (tok sa sb sc : Bool) : List Name :=
  (if tok then [nS 25 f.tok] else []) ++ (if sa then [nS 19 f.sa] else []) ++ (if sb then [nS 13 f.sb] else []) ++
    if sc then [nS 7 f.sc] else []
/-- Registers of a PCVTn: source and target groups and the scales (R208). Each group has its first register whatever the
selectors read; the target decides which group is the wide one, and both selectors how many the narrow one has (R143). -/
def namesPcvt (n : Nat) (f : VC) : List Name :=
  let m := max 1 (pcvtNarrow n f)
  let tgt := [(5, 5)]
  let sels := [(0, 5), (5, 5)]
  (if selP8 f.tgt then nV 17 f.a n tgt ++ nV 24 f.d m sels else nV 17 f.a m sels ++ nV 24 f.d n tgt) ++ nV 10 f.sc 1

/-- Every register a slot operation names, but for those of WAITT and the `h15` of HTHR. -/
def names : Instr → List Name
  | .call _ => [nSi 63]
  | .ret f => [nS 24 f.a]
  | .mark f => [nS 24 f.a, nS 18 f.b]
  | .trap _ => [nSi 62, nSi 63]
  | .waitt f =>
    let tok (i lo : Nat) (t : BitVec 6) : List Name :=
      if f.enable.getLsbD i then [⟨.s, t.toNat, [(32 + i, 1), (lo, 6)]⟩] else []
    tok 0 0 f.t0 ++ tok 1 6 f.t1 ++ tok 2 12 f.t2 ++ tok 3 18 f.t3
  | .barw f => [nS 30 f.phase, nS 24 f.addr]
  | .bara f => [nS 30 f.d, nS 24 f.a, nS 18 f.b]
  | .csync f | .rdcnt f | .sysrd f => [nS 30 f.d]
  | .gust f => [nS 30 f.d, nS 24 f.a]
  | .syswr f | .intreq f | .dtinv f => [nS 24 f.a]
  | .sAdd f | .sSub f | .sMul f | .mulh f | .sAnd f | .sOr f | .sXor f | .andn f | .sShl f | .sShr f | .sSar f
  | .rotl f | .sMin f | .sMax f | .cmp f => namesS2 f
  | .sSel f | .lea f | .bfx f | .bfi f => namesS3 f
  | .clz f | .popc f | .movq f => nSop 23 f.d ++ nSop 15 f.a
  | .movv f => nSop 23 f.d ++ nVop 15 f.a
  | .srd f => nSop 23 f.d
  | .swr f => nSop 15 f.a
  | .li f | .liS f | .liHi f => [nS 32 f.d]
  | .iadd _ f | .isub _ f | .imul _ f | .imin _ f | .imax _ f | .vAnd _ f | .vOr _ f | .vXor _ f | .vShl _ f
  | .vShr _ f | .vSar _ f | .fadd _ f | .fsub _ f | .fmul _ f | .fmin _ f | .fmax _ f | .vSel _ f | .perm _ f =>
    namesV2 f
  | .imad _ f | .ffma _ f => namesV2 f ++ nV 0 f.c 1
  | .iabs _ f | .fclass _ f | .mov _ f | .bcast _ f | .rowshUp _ f | .rowshDown _ f | .trans _ f | .vredAdd _ f
  | .vredMax _ f | .rngb _ f | .kscan _ f => namesV1 f
  | .icmp _ f | .fcmp _ f => nVop 15 f.a ++ nVop 7 f.b
  | .qpop _ f | .rngu _ f => [nVd f]
  | .krd _ f => [nVd f, nKa f]
  | .kclr _ f => [nKa f]
  | .kacc _ f => nKa f :: nVop 15 f.a
  | .kmac _ f => nKa f :: (nVop 15 f.a ++ nVop 7 f.b)
  | .iaddImm _ f | .isubImm _ f | .imulImm _ f | .vAndImm _ f | .vOrImm _ f | .vXorImm _ f | .vShlImm _ f
  | .vShrImm _ f | .vSarImm _ f => namesVI f
  | .movImm _ f => nV 24 f.d 1
  | .cvt _ f => nV 24 f.d 1 ++ nV 17 f.a 1
  | .pcvt2 _ f => namesPcvt 2 f
  | .pcvt4 _ f => namesPcvt 4 f
  | .pcvt8 _ f => namesPcvt 8 f
  | .exp2 f | .exp f | .log2 f | .rcp f | .rsqrt f | .sqrt f | .sin f | .cos f | .tanh f | .sigm f | .gelu f
  | .smax f => nV 24 f.d 1 ++ nV 17 f.a 1
  | .rstat f => nV 24 f.d 2 ++ nV 17 f.a 1
  | .mprg f | .smaxM f => nV 24 f.d 1 ++ nV 17 f.a 1 ++ nV 10 f.b 1
  | .rnormRms f | .rnormLayer f => nV 24 f.d 1 ++ nV 17 f.a 1 ++ nV 10 f.b 2
  | .ldst f => [nS 27 f.sa]
  | .mloop f => [nS 27 f.sa, nS 21 f.sb]
  | .mcfgAcc f | .mcfgFwd f | .mcvt f => [nS 24 f.sa, nS 18 f.sb]
  | .madv f | .mzero f => [nS 24 f.sa]
  | .ld f | .st f => namesLA f (regsOf (widthOf f.variant))
  | .ldu f | .stu f => nV 24 f.d (regsOf (widthOf f.variant)) [(36, 4)] ++ [nS 11 f.base]
  | .pf f => [nS 11 f.base]
  | .ldb f | .stb f => nV 24 f.d 1 ++ [nS 18 f.base]
  | .aadd f | .amin f | .amax f | .aand f | .aor f | .axor f | .axchg f => namesLA f (regsOf (atomWidth f))
  | .afadd f => namesLA f 1
  | .acas f => namesLA f (2 * regsOf (4 * 2 ^ f.variant.toNat))
  | .copy f | .copyr f | .tbld f | .get f => namesXD f true true true false
  | .gath f | .put f => namesXD f true true true true
  | .resv f | .signalSet f | .signalAdd f => namesXD f false true true false
  | .launch f => namesXD f true true false false
  | .hld f => [nS 25 f.s, nH 21 f.hd]
  | .hst f => [nS 25 f.s, nH 17 f.ha]
  | .hmov f | .hperm f => [nH 21 f.hd, nH 17 f.ha]
  | .hbind f => [nH 21 f.hd, nH 17 f.ha, nH 13 f.hb]
  | .hbun f => [nH 17 f.ha, ⟨.c, bitsN f.imm 5 4, [(4, 2)]⟩]
  | .hthr f => [nH 21 f.hd, ⟨.c, bitsN f.imm 1 0, [(0, 2)]⟩]
  | .hclrc f => [⟨.c, bitsN f.imm 1 0, [(0, 2)]⟩]
  | .hrand f => [nH 21 f.hd]
  | .hdist f => [nS 25 f.s, nH 17 f.ha, nH 13 f.hb]
  | .htie f => [nS 25 f.s, ⟨.c, bitsN f.imm 1 0, [(0, 2)]⟩]
  | .hnear f => [nS 25 f.tok, nS 19 f.sd, nH 15 f.h]
  | _ => []

/-- The maximum a descriptor gives a class (R12), and the allotment of a warp (R64); scalars are always held. -/
def Block.maxOf (b : Block) : RegClass → Nat
  | .s => b.maxS | .v => b.maxV | .h => b.maxH | .c => b.maxC | .ka => b.maxK
def Warp.heldOf (w : Warp) : RegClass → Nat
  | .s => 64 | .v => w.curV | .h => w.curH | .c => w.curC | .ka => w.curK

/-- A register that an exposed write changes, by name (R127, R188). -/
inductive RegKey where
  | s (n : Nat) | p (n : Nat) | q (n : Nat) | v (n : Nat) | h (n : Nat) | c (n : Nat) | ka (n : Nat) | sp (n : Nat)
  | special (n : Nat) | fl
  deriving DecidableEq, Repr

/-- The key of a scalar operand code as a destination. -/
def keyOp (x : BitVec 8) : RegKey :=
  if x.toNat < 0x40 then .s x.toNat else if x.toNat < 0x50 then .p (x.toNat - 0x40) else .q (x.toNat - 0x50)
/-- The registers an SWR writes, one latency 1 write (R188). -/
def swrKeys (i : Nat) : List RegKey :=
  if i = 0x12 then (List.range 16).map .p else if i = 0x11 then (List.range 8).map .sp else [.special i]
/-- n vector registers from d. -/
def keysV (d : BitVec 7) (n : Nat) : List RegKey := (List.range n).map fun i => .v (d.toNat + i)

/-- The exposed writes of an operation: each entry's registers and its latency (R130). `group` says whether the block is
of a co-scheduled group, in which case a CSYNC waits. -/
def exposedWrites (group : Bool) : Instr → List (List RegKey × Nat)
  | .call _ => [([.s 63], 1)]
  | .bara f | .gust f | .rdcnt f | .sysrd f => [([.s f.d.toNat], 1)]
  | .csync f => if group then [] else [([.s f.d.toNat], 1)]
  | .grow f | .shrink f => [([.p (f.d.toNat % 16)], 1)]
  | .sAdd f | .sSub f | .sMul f | .mulh f | .sAnd f | .sOr f | .sXor f | .andn f | .sShl f | .sShr f | .sSar f
  | .rotl f | .sMin f | .sMax f | .cmp f | .plog f | .sSel f | .lea f | .bfx f | .bfi f | .clz f | .popc f | .movv f
  | .movq f | .srd f => [([keyOp f.d], 1)]
  | .swr f => [(swrKeys f.b.toNat, 1)]
  | .li f | .liS f | .liHi f => [([.s f.d.toNat], 1)]
  | .iadd _ f | .isub _ f | .imul _ f | .imad _ f | .imin _ f | .imax _ f | .iabs _ f | .vAnd _ f | .vOr _ f
  | .vXor _ f | .vShl _ f | .vShr _ f | .vSar _ f | .vSel _ f | .mov _ f | .bcast _ f | .qpop _ f =>
    [([.v f.d.toNat], 2)]
  | .icmp _ f => [([.q f.d.toNat], 2)]
  | .iaddImm _ f | .isubImm _ f | .imulImm _ f | .vAndImm _ f | .vOrImm _ f | .vXorImm _ f | .vShlImm _ f
  | .vShrImm _ f | .vSarImm _ f | .movImm _ f => [([.v f.d.toNat], 2)]
  | .fadd _ f | .fsub _ f | .fmul _ f | .ffma _ f | .fmin _ f | .fmax _ f | .fclass _ f | .vredAdd _ f
  | .vredMax _ f => [([.v f.d.toNat], 4)]
  | .fcmp _ f => [([.q f.d.toNat], 4)]
  | .perm _ f | .rowshUp _ f | .rowshDown _ f | .trans _ f | .rngu _ f | .rngb _ f => [([.v f.d.toNat], 3)]
  | .cvt _ f => [([.v f.d.toNat], 4)]
  | .pcvt2 _ f => (keysV f.d (if selP8 f.tgt then pcvtNarrow 2 f else 2)).map fun k => ([k], 4)
  | .pcvt4 _ f => (keysV f.d (if selP8 f.tgt then pcvtNarrow 4 f else 4)).map fun k => ([k], 4)
  | .pcvt8 _ f => (keysV f.d (if selP8 f.tgt then pcvtNarrow 8 f else 8)).map fun k => ([k], 4)
  | .kclr _ f | .kacc _ f | .kmac _ f => [([.ka f.c.toNat], 2)]
  | .krd _ f | .kscan _ f => [([.v f.d.toNat], 6)]
  | .exp2 f | .exp f | .log2 f | .rcp f | .rsqrt f | .sqrt f | .sin f | .cos f | .tanh f | .sigm f | .gelu f
  | .mprg f => [([.v f.d.toNat], 10)]
  | .smax f | .smaxM f | .rnormRms f | .rnormLayer f => [([.v f.d.toNat], 24)]
  | .rstat f => (keysV f.d 2).map fun k => ([k], 24)
  | .madv _ => [([.fl], 6)]
  | .hmov f | .hbind f | .hperm f => [([.h f.hd.toNat], 2)]
  | .hthr f => [([.h f.hd.toNat], 3)]
  | .hbun f => [([.c (bitsN f.imm 5 4)], 3)]
  | .hdist f => [([.s f.s.toNat], 6)]
  | _ => []

/-- The class an operation counts in when it issues (R28, R292). -/
def asyncClass : Instr → Option OpClass
  | .ld _ | .ldu _ | .ldb _ | .aadd _ | .afadd _ | .amin _ | .amax _ | .aand _ | .aor _ | .axor _ | .axchg _ | .acas _
  | .hld _ | .hrand _ | .htie _ | .hnear _ => some .load
  | .st _ | .stu _ | .stb _ | .hst _ | .hclrc _ => some .store
  | .copy _ | .copyr _ | .gath _ | .tbld _ | .put _ | .get _ | .signalSet _ | .signalAdd _ | .launch _ => some .copy
  | .ldst _ | .mloop _ | .mzero _ | .mcvt _ => some .tile
  | _ => none

/-- Bundles for which an operation occupies F issue (R130, R285); 0 for one that is not of F. -/
def fOccupancy : Instr → Nat
  | .exp2 _ | .exp _ | .log2 _ | .rcp _ | .rsqrt _ | .sqrt _ | .sin _ | .cos _ | .tanh _ | .sigm _ | .gelu _
  | .mprg _ => 4
  | .rstat _ | .smax _ | .smaxM _ | .rnormRms _ | .rnormLayer _ => 8
  | .tswap _ => 1
  | _ => 0

/-- A row that the filter admits only for a supervisor kernel (R124 rule 5), and what the descriptor must declare
(rule 6). -/
def isPrivileged : Instr → Bool
  | .sysrd _ | .syswr _ | .intreq _ | .dtinv _ | .eret _ | .freezeStop _ | .freezeResume _ | .freezeSave _ => true
  | _ => false
def Block.declares (b : Block) (sl : Slot) : Instr → Bool
  | .mprg _ => b.usesFmicro
  | .clkdiv _ => b.usesClock
  | _ => (sl != .m || b.usesM) && (sl != .h || b.usesH)

/-- Transfers of control, head waits, and what stands only in the last bundle (R126 rules 2, 3 and 4). -/
def isTransfer : Instr → Bool
  | .bra _ | .brc _ | .brcN _ | .brdAny _ | .brdAll _ | .brdNone _ | .call _ | .ret _ | .loop _ | .mark _ | .join _
  | .trap _ | .exit _ | .eret _ => true
  | _ => false
def isHeadWait : Instr → Bool
  | .wait _ | .waitt _ | .barw _ => true
  | _ => false
def isLastOnly : Instr → Bool
  | .grow _ | .shrink _ | .clkdiv _ | .csync _ | .tswap _ => true
  | _ => false

/-- Whether a vector field's source a, or b, holds operand code 0xC0 (R111). -/
def readsFl : Instr → Bool × Bool
  | .iadd _ f | .isub _ f | .imul _ f | .imad _ f | .imin _ f | .imax _ f | .vAnd _ f | .vOr _ f | .vXor _ f
  | .vShl _ f | .vShr _ f | .vSar _ f | .icmp _ f | .fadd _ f | .fsub _ f | .fmul _ f | .ffma _ f | .fmin _ f
  | .fmax _ f | .fcmp _ f | .vSel _ f | .perm _ f | .kmac _ f => (f.a == 0xC0, f.b == 0xC0)
  | .iabs _ f | .fclass _ f | .mov _ f | .bcast _ f | .rowshUp _ f | .rowshDown _ f | .trans _ f | .vredAdd _ f
  | .vredMax _ f | .rngb _ f | .kacc _ f | .kscan _ f => (f.a == 0xC0, false)
  | .iaddImm _ f | .isubImm _ f | .imulImm _ f | .vAndImm _ f | .vOrImm _ f | .vXorImm _ f | .vShlImm _ f
  | .vShrImm _ f | .vSarImm _ f => (f.a == 0xC0, false)
  | _ => (false, false)

end Sys2Proof.Machine
end

