-- ==== Sys2Proof/Machine/Fetch.lean ====
section
/-! DEFINITION. Dictionaries, glyphs, the entry filter and the stroke-form checks
(spec/04_control_words.md R116 to R128), and the events STROKE_FETCH and QUILL_REFILL. -/

namespace Sys2Proof.Machine

/-- Fields of a dictionary header (R116). -/
def hdField (h : BitVec 2048) (off n : Nat) : Nat := bitsN h (8 * (off + n) - 1) (8 * off)
def hdG (h : BitVec 2048) : Nat := hdField h 0x06 2
def hdCount (h : BitVec 2048) (i : Nat) : Nat := hdField h (0x08 + 2 * i) 2
def hdWidth (h : BitVec 2048) (i : Nat) : Nat := hdField h (0x1A + i) 1
def hdMicro (h : BitVec 2048) : Nat := hdField h 0x23 1
def hdGOff (h : BitVec 2048) : Nat := hdField h 0x24 4
def hdTab (h : BitVec 2048) (i : Nat) : Nat := hdField h (0x28 + 4 * i) 4
def hdMicroOff (h : BitVec 2048) (i : Nat) : Nat := hdField h (0x4C + 4 * i) 4
def hdSize (h : BitVec 2048) : Nat := hdField h 0xEC 4

/-- A valid header (R116, R117). -/
def headerValid (h : BitVec 2048) : Bool :=
  hdField h 0 4 == 0x49444A47 && hdField h 4 2 == 1 && decide (1 ≤ hdG h ∧ hdG h ≤ 64) && decide (hdMicro h ≤ 40) &&
    hdField h 0xF0 16 == 0 && hdGOff h % 2 == 0 && decide (hdGOff h + 2 * hdG h ≤ hdSize h) &&
    ((List.range 9).all fun i =>
      decide (hdCount h i ≤ 4096 ∧ hdWidth h i ≤ 12 ∧ hdCount h i ≤ 2 ^ hdWidth h i) &&
        (if hdCount h i = 0 then hdWidth h i == 0
         else hdTab h i % 8 == 0 && decide (hdTab h i + 8 * hdCount h i ≤ hdSize h))) &&
    (List.range 40).all fun i =>
      if i < hdMicro h then hdMicroOff h i % 4 == 0 && decide (hdMicroOff h i + 128 ≤ hdSize h) else hdMicroOff h i == 0

/-- Bits of a hole's width code (R118). -/
def holeBits (code : Nat) : Nat := match code with | 0 => 0 | 1 => 8 | 2 => 16 | _ => 32
/-- The holes of an entry, as (lowest bit, width) (R118). -/
def entryHoles (e : BitVec 64) : List (Nat × Nat) :=
  ([(bitsN e 63 58, holeBits (bitsN e 57 56)), (bitsN e 55 50, holeBits (bitsN e 49 48))]).filter fun h => h.2 != 0
def entryField (e : BitVec 64) : Field := e.extractLsb' 0 48
/-- Filter rule 4: the holes are well formed (R118). -/
def holesOk (e : BitVec 64) : Bool :=
  let w0 := holeBits (bitsN e 57 56)
  let w1 := holeBits (bitsN e 49 48)
  let p0 := bitsN e 63 58
  let p1 := bitsN e 55 50
  (if w0 = 0 then p0 == 0 else decide (p0 + w0 ≤ 40)) && (if w1 = 0 then p1 == 0 else decide (p1 + w1 ≤ 40) && w0 != 0) &&
    (w1 == 0 || decide (p0 + w0 ≤ p1 ∨ p1 + w1 ≤ p0))

/-- Whether a bit range meets a hole. -/
def underHole (holes : List (Nat × Nat)) (on : List (Nat × Nat)) : Bool :=
  on.any fun (lo, w) => holes.any fun (hl, hw) => decide (lo < hl + hw ∧ hl < lo + w)

/-- The rules of R124 among 1, 2, 3, 5, 6 and 7 that a field breaks for a block, looking only outside the holes. -/
def fieldRules (b : Block) (sl : Slot) (holes : List (Nat × Nat)) (w : Field) : List Nat :=
  if isIdle w then
    (if (List.range 40).any fun i => w.getLsbD i && !underHole holes [(i, 1)] then [2] else [])
  else
    match rawDecode sl w with
    | none => [1]
    | some i =>
      let named := (names i).any fun n => decide (b.maxOf n.cls ≤ n.n) && !underHole holes n.on
      let micro := match i with
        | .mprg f => decide (24 + hdMicro b.header ≤ f.n.toNat) && !underHole holes [(0, 6)]
        | _ => false
      (if micro then [2] else []) ++ (brokenRule holes i.checks).toList ++ (if named then [3] else []) ++
        (if isPrivileged i && !b.supervisor then [5] else []) ++ if b.declares sl i then [] else [6]

/-- The lowest rule (DESIGN CHOICE: R124 does not order its rules, log 20). -/
def lowestRule (rs : List Nat) : Option Nat :=
  match rs with
  | [] => none
  | r :: rs => some (rs.foldl min r)

/-- The fields an entry can stand for when a hole covers bits of its variant: the variant decides which other fields are
used, so an entry is refused only when every variant is (R124, R143). -/
def variantsOf (holes : List (Nat × Nat)) (w : Field) : List Field :=
  if underHole holes [(36, 4)] then
    (List.range 16).map fun v =>
      packEl 1 48 48 fun i =>
        if 36 ≤ i ∧ i < 40 ∧ underHole holes [(i, 1)] then BitVec.ofBool (v.testBit (i - 36)) else BitVec.ofBool (w.getLsbD i)
  else [w]

/-- The rule that refuses an entry at its installation (R124), but for rules 8 and 9. -/
def installRule (b : Block) (slot : Nat) (e : BitVec 64) : Option Nat :=
  match Slot.ofNum slot with
  | none => if bitsN e 15 5 = 0 then none else some 2
  | some sl =>
    let holes := entryHoles e
    let rs := (variantsOf holes (entryField e)).map fun w => fieldRules b sl holes w
    let least := if rs.any fun r => r.isEmpty then [] else rs.foldl (· ++ ·) []
    lowestRule (least ++ if holesOk e then [] else [4])

/-- The entry of an index in a core's decode tables (R121). -/
def Core.entry? (k : Core) (p : PartId) (b : Block) (slot index : Nat) : Option (BitVec 64) :=
  (k.decode.find? fun d => d.part == p && d.dictId == b.dictId && d.slot == slot && d.index == index).map (·.entry)

/-- The set of a decode table that an entry stands in: 512 entries for a slot are 64 sets of eight, 64 G entries are eight
(R121). Which index falls in which set is a DESIGN CHOICE (log 58). -/
def DecodeEntry.set (d : DecodeEntry) : Nat := d.index % if d.slot = 9 then 8 else 64

/-- An entry installed in its set of eight, of which the oldest leaves (R121). -/
def Core.install (k : Core) (d : DecodeEntry) : Core :=
  let rest := k.decode.filter fun x => !(x.part == d.part && x.dictId == d.dictId && x.slot == d.slot && x.index == d.index)
  let same := rest.filter fun x => x.slot == d.slot && x.set == d.set
  let keep := if 8 ≤ same.length then
      match same with
      | x :: _ => rest.erase x
      | [] => rest
    else rest
  { k with decode := keep ++ [d] }

/-- What decoding a glyph or a stroke comes to: a value, an entry to refill at glyph k, a fault at the stroke's start, or
a translation fault. -/
inductive Fetched (α : Type) where
  | ok (x : α)
  | miss (slot index k : Nat)
  | bad (cause : Nat) (detail : Nat)
  | stall (va : Word) (sub : Nat)
  deriving DecidableEq, Repr

/-- A Dictionary Entry Fault's detail (R438). -/
def defDetail (slot index k : Nat) : Nat := slot + 2 ^ 16 * (index % 4096) + 2 ^ 32 * k

/-- n bytes at a virtual address read through the core's L2 with the xd permission (R120, R411); what faults and its sub-cause, 0 where the
read waits for a notice (R428). -/
def State.codeRead (s : State) (c : CoreId) (b : Block) (va : Word) (n : Nat) : State × (List Byte ⊕ (Word × Nat)) :=
  (pagePieces va n).foldl (fun (s, acc) (a, m) =>
    match acc with
    | .inr f => (s, .inr f)
    | .inl bs =>
      if s.transWaits c b a Need.exec then (s, .inr (a, 0)) else
      match s.translate c b.bid b.part a Need.exec with
      | (s, .fault sub) => (s, .inr (a, sub))
      | (s, .ok pa) =>
        match s.sliceRead (clusterOf c) b.part pa m with
        | none => (s, .inr (a, subMoved))
        | some (s, x) => (s, .inl (bs ++ x))) (s, .inl [])

/-- Bits [lo + n - 1 : lo] of a number. -/
def natBits (x lo n : Nat) : Nat := x / 2 ^ lo % 2 ^ n

/-- The indices of the present slots, in the order K to H, with their places in the stream (R119). -/
def glyphIndices (h : BitVec 2048) (header stream : Nat) : List (Nat × Nat) × Nat :=
  ((List.range 9).foldl (fun (acc, at_) i =>
    if header.testBit (i + 1) then (acc ++ [(i, natBits stream at_ (hdWidth h i))], at_ + hdWidth h i) else (acc, at_))
    ([], 0))

/-- n bytes of code at an offset (R120): a read at or beyond code_size breaks rule 1 of R126. -/
def State.codeAt (s : State) (c : CoreId) (b : Block) (off n k : Nat) : State × Fetched Nat :=
  if b.codeSize < off + n then (s, .bad 0x0201 k)
  else
    match s.codeRead c b (BitVec.ofNat 64 (b.codeBase + off)) n with
    | (s, .inl bs) => (s, .ok (natOfBytes bs))
    | (s, .inr (va, sub)) => (s, .stall va sub)

/-- An entry's field with its holes filled from a stream, and the place in the stream after them (R119, R120). -/
def fillHoles (e : BitVec 64) (stream at_ : Nat) : Field × Nat :=
  let (w, at_) := (entryHoles e).foldl (fun (w, at_) (lo, n) =>
    let keep : Nat := w - natBits w lo n * 2 ^ lo
    (keep + natBits stream at_ n * 2 ^ lo, at_ + n)) ((entryField e).toNat, at_)
  (BitVec.ofNat 48 w, at_)

/-- The fields of the present slots from a place `at_` of a glyph's stream on, and the place after the last, or what stops the
decoding (R120, R125, R128). Each slot in turn: its entry, the bits of its holes, which must lie within code_size, and
the filled field. `empty` records a slot marked present whose table count is 0: rule 5 of R126, which is reported and not
rule 8 of R124, although the slot's index 0 is at its count too (DEDUCED, log 20). -/
def State.slotFields (s : State) (c : CoreId) (b : Block) (off k : Nat) :
    List (Nat × Nat) → Nat → Vector Field 9 → Bool → State × Fetched (Vector Field 9 × Nat × Bool)
  | [], at_, v, empty => (s, .ok (v, at_, empty))
  | (i, ix) :: rest, at_, v, empty =>
    if hdCount b.header i = 0 then s.slotFields c b off k rest at_ v true
    else if hdCount b.header i ≤ ix then (s, .bad 0x0108 (defDetail i ix k))
    else
      match s.cores[c].entry? b.part b i ix, Slot.ofNum i with
      | some e, some sl =>
        let bits := at_ + ((entryHoles e).map (·.2)).foldl (· + ·) 0
        match s.codeAt c b (off + 2) (ceilDiv bits 8) k with
        | (s, .miss x y z) => (s, .miss x y z)
        | (s, .bad x y) => (s, .bad x y)
        | (s, .stall x y) => (s, .stall x y)
        | (s, .ok stream) =>
          let (f, at_) := fillHoles e stream at_
          match lowestRule (fieldRules b sl [] f) with
          | some r => (s, .bad (0x0100 + r) (defDetail i ix k))
          | none => s.slotFields c b off k rest at_ (upd v (fin 9 i) fun _ => f) empty
      | _, _ => (s, .miss i ix k)

/-- A glyph decoded: its control word, whether it ends the stroke, and the offset after it (R119, R120, R128). -/
def State.glyph (s : State) (c : CoreId) (b : Block) (off k : Nat) : State × Fetched (Cword × Bool × Nat) :=
  match s.codeAt c b off 2 k with
  | (s, .miss x y z) => (s, .miss x y z)
  | (s, .bad x y) => (s, .bad x y)
  | (s, .stall x y) => (s, .stall x y)
  | (s, .ok header) =>
    let h := b.header
    let ibits := ((List.range 9).map fun i => if header.testBit (i + 1) then hdWidth h i else 0).foldl (· + ·) 0
    match s.codeAt c b (off + 2) (ceilDiv ibits 8) k with
    | (s, .miss x y z) => (s, .miss x y z)
    | (s, .bad x y) => (s, .bad x y)
    | (s, .stall x y) => (s, .stall x y)
    | (s, .ok head) =>
      let g := header / 2 ^ 10 % 64
      if hdG h ≤ g then (s, .bad 0x0108 (defDetail 9 g k))
      else
        match s.cores[c].entry? b.part b 9 g with
        | none => (s, .miss 9 g k)
        | some ge =>
          let (ixs, at_) := glyphIndices h header head
          match s.slotFields c b off k ixs at_ (Vector.replicate 9 0) false with
          | (s, .miss x y z) => (s, .miss x y z)
          | (s, .bad x y) => (s, .bad x y)
          | (s, .stall x y) => (s, .stall x y)
          | (s, .ok (v, used, empty)) =>
            let total := ceilDiv used 8
            match s.codeAt c b (off + 2) total k with
            | (s, .miss x y z) => (s, .miss x y z)
            | (s, .bad x y) => (s, .bad x y)
            | (s, .stall x y) => (s, .stall x y)
            | (s, .ok stream) =>
              if empty then (s, .bad 0x0205 k)
              else if stream / 2 ^ used ≠ 0 then (s, .bad 0x0206 k)
              else
                (s, .ok ({ glyph := BitVec.ofNat 32 off, slots := v, g := ge.setWidth 16 }, header.testBit 0,
                  off + 2 + total))

/-- The glyphs of a stroke from an offset: the control words and the offset after the last (R126 rule 1). -/
def State.glyphs (s : State) (c : CoreId) (b : Block) : Nat → Nat → Nat → List Cword → State × Fetched (List Cword × Nat)
  | 0, _, _, _ => (s, .bad 0x0201 23)
  | n + 1, off, k, acc =>
    match s.glyph c b off k with
    | (s, .miss x y z) => (s, .miss x y z)
    | (s, .bad x y) => (s, .bad x y)
    | (s, .stall x y) => (s, .stall x y)
    | (s, .ok (w, last, next)) => if last then (s, .ok (acc ++ [w], next)) else s.glyphs c b n next (k + 1) (acc ++ [w])

/-- The glyphs that can be decoded now from an offset, and the offset after them: what the stroke buffer gains before the
entry that is missed (R122). -/
def State.glyphsHeld (s : State) (c : CoreId) (b : Block) : Nat → Nat → Nat → List Cword → List Cword × Nat
  | 0, off, _, acc => (acc, off)
  | n + 1, off, k, acc =>
    match s.glyph c b off k with
    | (s, .ok (w, false, next)) => s.glyphsHeld c b n next (k + 1) (acc ++ [w])
    | _ => (acc, off)

/-- The operations of a control word with their slots, idle slots left out. -/
def Cword.ops (w : Cword) : List (Slot × Instr) :=
  (List.finRange 9).filterMap fun i =>
    match Slot.ofNum i.val with
    | none => none
    | some sl =>
      match isIdle w.slots[i], decode sl w.slots[i] with
      | false, .ok x => some (sl, x)
      | _, _ => none

/-- The route bits that the VA and VB fields call for (R111). -/
def routeOf (ops : List (Slot × Instr)) : Nat :=
  (ops.map fun (sl, i) =>
    let (a, b) := readsFl i
    let n := (if a then 1 else 0) + if b then 2 else 0
    match sl with
    | .va => n
    | .vb => 4 * n
    | _ => 0).foldl (· + ·) 0

/-- The first bundle of a stroke at which a check fails. -/
def firstBad (ops : List (List (Slot × Instr))) (bad : Nat → List (Slot × Instr) → Bool) : Option Nat :=
  ((List.range ops.length).zip ops).findSome? fun (t, x) => if bad t x then some t else none

/-- Rules 2, 3, 4 and 7 of R126: the first rule broken, with its glyph position (R128, R438). -/
def formFault (words : List Cword) : Option (Nat × Nat) :=
  let ops := words.map (·.ops)
  let last := words.length - 1
  let rule (n : Nat) (x : Option Nat) : Option (Nat × Nat) := x.map fun t => (0x0200 + n, t)
  let route := ((List.range words.length).zip (words.zip ops)).findSome? fun (t, w, o) =>
    if routeOf o = bitsN w.g 3 0 then none else some t
  (rule 2 (firstBad ops fun t o => t != last && o.any fun x => isTransfer x.2)).or
    ((rule 3 (firstBad ops fun t o => t != 0 && o.any fun x => isHeadWait x.2)).or
      ((rule 4 (firstBad ops fun t o => t != last && o.any fun x => isLastOnly x.2)).or (rule 7 route)))

/-- The register that a vector name of the rotating region stands for after `rots` rotations since the stroke's first
bundle, up to the base that stands then (R51, R52, R110). -/
def RegKey.slot (rotating : Bool) (rots : Nat) : RegKey → RegKey
  | .v n => if rotating ∧ 96 ≤ n then .v (96 + (n - 96 + 32 - rots % 32) % 32) else .v n
  | k => k

/-- The exposed writes of a stroke: issuing bundle, bundle of visibility, registers. -/
def strokeWrites (rotating group : Bool) (words : List Cword) : List (Nat × Nat × List RegKey) :=
  ((List.range words.length).zip words).flatMap fun (t, w) =>
    let rots := ((words.take t).filter fun x => x.g.getLsbD 4).length
    (w.ops.flatMap fun x => exposedWrites group x.2).map fun (ks, l) => (t, t + l, ks.map (·.slot rotating rots))

/-- Rule 8: the bundles at which a write meets an earlier one (R126, R127, R128). -/
def rule8 : List (Nat × Nat × List RegKey) → List (Nat × Nat × List RegKey) → List (Nat × Nat)
  | _, [] => []
  | seen, (t, v, ks) :: rest =>
    (if seen.any fun (_, v', ks') => v == v' && ks.any fun k => ks'.contains k then [(t, 8)] else []) ++
      rule8 (seen ++ [(t, v, ks)]) rest

/-- Rule 9 in F: the bundles at which an operation finds F occupied (R130). -/
def rule9F : Nat → List (Nat × Nat) → List (Nat × Nat)
  | _, [] => []
  | busy, (t, n) :: rest => (if t < busy then [(t, 9)] else []) ++ rule9F (t + n) rest

/-- What an M operation is to the constraints of R270. -/
inductive MUse where
  | fill | swap | loop | queued | advance | other
  deriving DecidableEq, Repr
def mUse : Instr → Option MUse
  | .ldst _ => some .fill
  | .mswap _ => some .swap
  | .mloop _ => some .loop
  | .mzero _ | .mcvt _ => some .queued
  | .madv _ => some .advance
  | .mcfgAcc _ | .mcfgFwd _ => some .other
  | _ => none
/-- An operation that enters the sequencer. -/
def MUse.queues : MUse → Bool
  | .loop => true
  | .queued => true
  | _ => false

/-- Rule 9 in M (R270). -/
def rule9M : List MUse → List (Nat × MUse) → List (Nat × Nat)
  | _, [] => []
  | seen, (t, u) :: rest =>
    let bad := (u = .swap ∧ (seen.contains .fill || seen.contains .loop)) ∨ (u = .advance ∧ seen.contains .loop) ∨
      (u.queues ∧ 4 ≤ (seen.filter (·.queues)).length)
    (if bad then [(t, 9)] else []) ++ rule9M (seen ++ [u]) rest

/-- Rule 10: the bundles after whose end more than 64 writes are pending. -/
def rule10 (n : Nat) (ws : List (Nat × Nat × List RegKey)) : List (Nat × Nat) :=
  (List.range n).filterMap fun t =>
    if 64 < (ws.filter fun (i, v, _) => i ≤ t && decide (t + 1 < v)).length then some (t, 10) else none

/-- A stroke's uses of F with their occupancies, and of M. -/
def strokeF (words : List Cword) : List (Nat × Nat) :=
  ((List.range words.length).zip words).flatMap fun (t, w) =>
    w.ops.filterMap fun x => if x.1 = .f then some (t, fOccupancy x.2) else none
def strokeM (words : List Cword) : List (Nat × MUse) :=
  ((List.range words.length).zip words).flatMap fun (t, w) => w.ops.filterMap fun x => (mUse x.2).map fun u => (t, u)

/-- Rules 8 to 10: the one broken at the earliest bundle, the lower where two meet (R128). -/
def hazardFault (rotating group : Bool) (words : List Cword) : Option (Nat × Nat) :=
  let ws := strokeWrites rotating group words
  let all := rule8 [] ws ++ rule9F 0 (strokeF words) ++ rule9M [] (strokeM words) ++ rule10 words.length ws
  match all with
  | [] => none
  | x :: rest =>
    let (t, r) := rest.foldl (fun (t, r) (t', r') => if t' < t ∨ (t' = t ∧ r' < r) then (t', r') else (t, r)) x
    some (0x0300 + r, t)

/-- Where the fetch of a warp's stroke stands: the control words that its stroke buffer holds, and the offset after them. -/
def Warp.fetchAt (w : Warp) : List Cword × Nat := (w.stroke, if w.stroke.isEmpty then w.pc.toNat else w.next.toNat)

/-- A stroke fetched and decoded whole, with every check of R124 to R128, from where its fetch stands (R122). -/
def State.fetchStroke (s : State) (c : CoreId) (w : Warp) (b : Block) : State × Fetched (List Cword × Nat) :=
  if !b.headerOk then (s, .bad 0x0108 (defDetail 9 0 0))
  else
    match s.glyphs c b (24 - w.fetchAt.1.length) w.fetchAt.2 w.fetchAt.1.length w.fetchAt.1 with
    | (s, .ok (words, next)) =>
      match (formFault words).or (hazardFault (w.curV = 128) b.group.isSome words) with
      | some (cause, detail) => (s, .bad cause detail)
      | none => (s, .ok (words, next))
    | r => r

/-- A translation fault on a fetch or a refill parks the warp; its stroke is fetched again from its first glyph (R123, R421). A record is written for every sub-cause but
a moved response while the page is migrating, which its notice ends (R419, R431); it names no warp (R508). -/
def State.park (s : State) (c : CoreId) (w : WarpId) (b : Block) (va : Word) (sub : Nat) : State :=
  let migrating := s.pageMigrating b.part va
  let s := s.modWarp c w fun y => { y with fetchFault := some (va, sub), stroke := [] }
  if sub = subMoved ∧ migrating then s
  else
    s.pushRecord b.part (dieOf c).val
      { kind := 2, cause := 0x0700 + sub, lcid := lcidOf c, node := b.nodeAddr, block := b.index, detail := va }

/-- Whether a warp waits for its next stroke to be fetched (R122): at a boundary, with no trap to deliver there. -/
def awaitsFetch (x : Warp) : Bool :=
  (x.state == .boundary || x.state == .midStroke) && !x.decoded && x.fetchFault.isNone && !x.trapReady

/-- A suspend holds the partition's work: until a resume, whose restored blocks run from their placement on (R462). -/
def Partition.stilled (q : Partition) : Bool := q.suspended && q.ctxOp != 2

/-- The core grants strokes: it is whole, in use and neither stopped nor frozen with its partition (R377, R462). -/
def State.coreRuns (s : State) (c : CoreId) : Bool :=
  let k := s.cores[c]
  !k.retired && k.stopped.isNone && !s.clusters[clusterOf c].retention && !k.blocks.isEmpty &&
    !(k.blocks.any fun b => s.parts[b.part].resetting || s.parts[b.part].stilled)

/-- A stroke's fault can be taken: neither the core nor the block is frozen, the block's restore has come to its first core bundle,
and no warp holds the core, so that every sibling stands at a boundary (R440, R442, R451, R464). -/
def State.faultsNow (s : State) (c : CoreId) (b : Block) : Bool :=
  s.coreRuns c && s.cores[c].holder.isNone && !b.restoring && b.moveTo.isNone

/-- STROKE_FETCH (R122 to R128): a stroke whose entries are all installed is decoded into the stroke buffer, or its
fault is taken at its start, once that can be (R440, R442). A warp restored in mid-stroke goes on at its place (R448). -/
def execStrokeFetch (c : CoreId) (w : WarpId) (s : State) : Out :=
  match s.warp? c w with
  | none => .next s
  | some x =>
    match s.cores[c].block? x.bid with
    | none => .next s
    | some b =>
      if !awaitsFetch x || b.halted || s.sliceStuck (clusterOf c) then .next s
      else
        match s.fetchStroke c x b with
        | (s, .ok (words, next)) =>
          .next (s.modWarp c w fun y => { y with stroke := words, decoded := true, next := BitVec.ofNat 32 next })
        | (s, .miss _ _ _) => .next s
        | (s, .bad cause detail) =>
          if s.faultsNow c b then .next (s.takeFault c w cause (BitVec.ofNat 64 detail) none) else .next s
        | (t, .stall va sub) => if sub = 0 then .next s else .next (t.park c w b va sub)

/-- The address of a dictionary entry (R116). -/
def entryAddr (b : Block) (slot index : Nat) : Word :=
  BitVec.ofNat 64 (b.dictAddr + if slot = 9 then hdGOff b.header + 2 * index else hdTab b.header slot + 8 * index)

/-- QUILL_REFILL (R122, R124): the entry that a warp's stroke misses first is read, filtered and installed, and the glyphs
before it stand in the stroke buffer; an entry that the filter refuses, or that cannot be read without error (rule 9), is not. -/
def execQuillRefill (c : CoreId) (w : WarpId) (slot : Fin 10) (index : Nat) (s : State) : Out :=
  match s.warp? c w with
  | none => .next s
  | some x =>
    match s.cores[c].block? x.bid with
    | none => .next s
    | some b =>
      if !awaitsFetch x || b.halted || s.sliceStuck (clusterOf c) then .next s
      else
        match s.fetchStroke c x b with
        | (s, .miss sl ix k) =>
          if sl ≠ slot.val ∨ ix ≠ index then .next s
          else
            let at_ := entryAddr b sl ix
            let n := if sl = 9 then 2 else 8
            match s.codeRead c b at_ n with
            | (t, .inr (va, sub)) => if sub = 0 then .next s else .next (t.park c w b va sub)
            | (s, .inl bs) =>
              let e := ofBytes 64 bs
              let bad := match s.translate c b.bid b.part at_ Need.exec with
                | (_, .ok pa) => (s.poisonAt pa n).isSome
                | _ => false
              let fault (r : Nat) : Out :=
                if s.faultsNow c b then .next (s.takeFault c w (0x0100 + r) (BitVec.ofNat 64 (defDetail sl ix k)) none) else .next s
              if bad then fault 9
              else
                match installRule b sl e with
                | some r => fault r
                | none =>
                  let (held, next) := s.glyphsHeld c b (24 - x.fetchAt.1.length) x.fetchAt.2 x.fetchAt.1.length x.fetchAt.1
                  .next ((s.modWarp c w fun y => { y with stroke := held, next := BitVec.ofNat 32 next }).modCore c fun q =>
                    (q.install { part := b.part, dictId := b.dictId, slot := sl, index := ix, entry := e }).bump 9 1)
        | (s, _) => .next s

end Sys2Proof.Machine
end

