-- ==== Sys2Proof/Machine/Outstanding.lean ====
section
/-! DEFINITION. Outstanding asynchronous operations: what each still has to do, which homes its requests go to, and what it waits for
(spec/02_program_state.md R72, spec/06_control_scalar_instructions.md R170, R171, spec/08_memory_copy_instructions.md R221 to R224,
spec/11_memory_model.md R315, spec/19_translation.md R420, R435, spec/23_links_firmware.md R489). -/

namespace Sys2Proof.Machine

/-- The asynchronous operation of an identifier on a core. -/
def Core.op? (k : Core) (id : Nat) : Option AsyncOp := k.ops.find? fun o => o.id == id
/-- That operation changed. -/
def Core.modOp (k : Core) (id : Nat) (f : AsyncOp → AsyncOp) : Core :=
  { k with ops := k.ops.map fun o => if o.id == id then f o else o }
def State.modOp (s : State) (c : CoreId) (id : Nat) (f : AsyncOp → AsyncOp) : State := s.modCore c (·.modOp id f)
/-- The access of an L operation changed. -/
def AsyncOp.modAccess (o : AsyncOp) (f : MemAccess → MemAccess) : AsyncOp :=
  match o.kind with
  | .mem a => { o with kind := .mem (f a) }
  | _ => o

/-- The rows of a warp's MADVs that are still to be read, by the numbers that they have once their bundles have ended (log 57). -/
def Warp.lateRows (x : Warp) : List Nat :=
  x.pending.filterMap fun p => match p.val with
    | .flLate _ _ _ _ _ _ id => some id
    | _ => none
/-- An operation has not completed, or a late row has not been read: it stands on some core, or with a saved block. -/
def State.opLive (s : State) (id : Nat) : Bool :=
  (s.cores.toList.any fun k => (k.ops.any fun o => o.id == id) || k.warps.toList.any fun x => x.any fun y => y.lateRows.contains id) ||
    s.parts.toList.any fun q => q.saved.any fun e => e.ops.any fun o => o.id == id

/-- The bit of a path in a set (R170). -/
def Path.bit : Path → Nat
  | .l => 0 | .x => 1 | .m => 2 | .h => 3
/-- An operation that must still wait: for the operations it is ordered after, or for a fence's write-back that a home
refuses (R171, R233, R326). -/
def State.opWaits (s : State) (c : CoreId) (o : AsyncOp) : Bool :=
  o.waits.any s.opLive ||
    (match s.cores[c].warps[o.warp] with
      | none => false
      | some x => x.fences.any fun f => f.ids.isEmpty && f.after.getLsbD o.path.bit)

/-- What an access needs of its pages (R411). -/
def MemKind.need : MemKind → Need
  | .load => Need.read
  | .store => Need.write
  | .atomic _ _ _ _ _ => Need.both

/-- The lanes of an access that have not been performed: those it holds and those in records. -/
def Warp.lanesLeft (x : Warp) (o : AsyncOp) (a : MemAccess) : Mask :=
  ((x.records ++ x.held).filter fun r => r.opId == o.id).foldl (fun m r => m ||| r.access.left) a.left

/-- A remote address that names another package (R488, R507), and the memory of a partition of another package, which translates
its own addresses (log 13). -/
def State.elsewhere (s : State) (va : Word) : Bool := va.getLsbD 63 && va.extractLsb' 52 11 != s.packageId
def remotePa (va : Word) (p : PartId) : Nat := 2 ^ 50 * (65536 + 4 * (16 * bitsN va 62 52 + p.val)) + bitsN va 51 0
/-- The location that an access of a block names, and the leaf that says so: through the TLB entry that serves it, else by the tables;
none while its page is not mapped. -/
def State.locateLeaf (s : State) (c : CoreId) (b : Block) (va : Word) : Option (Nat × Word) :=
  match s.tlbEntry c b va with
  | some e => some (s.leafBase e.leaf + bitsN va 18 0, e.leaf)
  | none =>
    match s.walk s.parts[b.part].ptRoot va with
    | .leaf e _ big => some (s.leafBase e + bitsN va (if big then 29 else 18) 0, e)
    | _ => none
def State.locate (s : State) (c : CoreId) (b : Block) (va : Word) : Option Nat := (s.locateLeaf c b va).map (·.1)
/-- The home on another package that an access goes to, if it does: a page that lacks a permission it needs sends it nowhere (R411, R488,
R489). `remote` for the remote side of PUT, GET and SIGNAL. -/
def State.farHome (s : State) (c : CoreId) (b : Block) (va : Word) (need : Need) (remote : Bool) : Option Nat :=
  if remote && s.elsewhere va then some (remotePa va b.part)
  else
    (((s.locateLeaf c b (if remote && va.getLsbD 63 then va &&& 0x000FFFFFFFFFFFFF else va)).filter fun y => permits y.2 need).map
      (·.1)).filter isRemote
/-- The lanes of an access that go to a package with no route: they end as R489 gives. -/
def State.stranded (s : State) (c : CoreId) (b : Block) (a : MemAccess) (l : Nat) : Bool :=
  (s.farHome c b a.addrs[fin 64 l] a.kind.need false).any s.noRoute

/-- A lane's bytes, by virtual address and by location. -/
structure LaneBytes where
  lane : Nat
  va : Nat
  pa : Option Nat
  width : Nat
  deriving DecidableEq, Repr
def State.laneBytes (s : State) (c : CoreId) (b : Block) (a : MemAccess) (l : Nat) : LaneBytes :=
  { lane := l, va := a.addrs[fin 64 l].toNat, pa := s.locate c b a.addrs[fin 64 l], width := a.width }

/-- Two lanes name one byte: by their virtual addresses, or by their locations (R222, R310; log 22). -/
def LaneBytes.meets (x y : LaneBytes) : Bool :=
  rangesMeet x.va x.width y.va y.width ||
    (match x.pa, y.pa with
      | some p, some q => rangesMeet p x.width q y.width
      | _, _ => false)

/-- The vector registers that an operation has still to write in some of these lanes (R223). -/
def Warp.landsIn (x : Warp) (o : AsyncOp) (lanes : Mask) : List (Fin 128) :=
  match o.kind with
  | .mem a => if x.lanesLeft o a &&& lanes = 0 then [] else a.dests
  | .ldb _ _ ls d _ => if ls &&& lanes = 0 then [] else [d]
  | _ => []

/-- The operations of an operation's warp that were issued before it. -/
def Core.earlier (k : Core) (o : AsyncOp) : List AsyncOp := k.ops.filter fun p => p.warp == o.warp && decide (p.id < o.id)

/-- Whether an earlier load of the warp has still to land in one of these registers, in one of these lanes (R223). -/
def Core.destBlocked (k : Core) (x : Warp) (o : AsyncOp) (dests : List (Fin 128)) (lanes : Mask) : Bool :=
  (k.earlier o).any fun p => (x.landsIn p lanes).any dests.contains

/-- The bytes that the earlier accesses of an operation's warp have still to be performed on. -/
def State.earlierBytes (s : State) (c : CoreId) (b : Block) (x : Warp) (o : AsyncOp) : List LaneBytes :=
  (s.cores[c].earlier o).flatMap fun p =>
    match p.kind with
    | .mem e => (lanesOf (x.lanesLeft p e)).map (s.laneBytes c b e)
    | _ => []

/-- Two addresses of a partition lie in one page, of 512 KiB or of a 1 GiB leaf (R405, R420). -/
def State.samePage (s : State) (p : PartId) (x y : Word) : Bool :=
  pageOf x == pageOf y || (x.toNat / 2 ^ 30 == y.toNat / 2 ^ 30 &&
    match s.walkTop s.parts[p].ptRoot x with | .entry _ e => entLeaf e | _ => false)

/-- A lane must wait for an earlier access of the warp to the same byte (R222), for a record of its page (R420), or for an
earlier load into its destination (R223). -/
def State.laneBlocked (s : State) (c : CoreId) (b : Block) (x : Warp) (o : AsyncOp) (a : MemAccess)
    (before : List LaneBytes) (l : Nat) : Bool :=
  let lands : Mask := if a.uniform then a.left else BitVec.ofNat 64 (2 ^ l)
  (!before.isEmpty && before.any (s.laneBytes c b a l).meets) ||
    (x.records.any fun r => decide (r.opId < o.id) &&
      (lanesOf r.access.left).any fun m => s.samePage b.part r.access.addrs[fin 64 m] a.addrs[fin 64 l]) ||
    s.cores[c].destBlocked x o a.dests lands

/-- A lane that must wait, or end in another way: no route leads to its home (R489), or its translation waits for a notice (R428, R435). -/
def State.laneWaits (s : State) (c : CoreId) (b : Block) (a : MemAccess) (l : Nat) : Bool :=
  s.stranded c b a l || s.transWaits c b a.addrs[fin 64 l] a.kind.need

/-- A lane that cannot be performed now: an earlier access, its page's records, its route or its translation holds it back. -/
def State.laneHeld (s : State) (c : CoreId) (b : Block) (x : Warp) (o : AsyncOp) (a : MemAccess) (before : List LaneBytes)
    (l : Nat) : Bool := s.laneBlocked c b x o a before l || s.laneWaits c b a l

/-- The lanes of an operation that can be performed now, among those asked for, in ascending order: a lane of a store or an
atomic waits for every lower lane of its byte that is not performed with it, whatever holds that one back (R221, R231). A uniform
access is one access. -/
def State.freeLanes (s : State) (c : CoreId) (b : Block) (x : Warp) (o : AsyncOp) (a : MemAccess) (lanes : Mask) : List Nat :=
  let before := s.earlierBytes c b x o
  if a.uniform then
    match lanesOf a.left with
    | [] => []
    | l :: _ => if s.laneHeld c b x o a before l then [] else [l]
  else
    let free := (lanesOf (a.left &&& lanes)).filter fun l => !s.laneHeld c b x o a before l
    let rest := lanesOf (x.lanesLeft o a)
    if a.kind = .load ∨ free = rest then free
    else
      let at_ := rest.map (s.laneBytes c b a)
      free.foldl (fun acc l =>
        let mine := s.laneBytes c b a l
        if at_.any fun y => decide (y.lane < l) && !acc.contains y.lane && y.meets mine then acc else acc ++ [l]) []

/-- The request of an operation has not gone out: what it is ordered after, a translation fault, its bank locks, or, for some lane,
an earlier access or its translation holds it back (R72, R171, R222, R243, R435). -/
def State.opHeld (s : State) (c : CoreId) (o : AsyncOp) : Bool :=
  s.opWaits c o || o.fault.isSome ||
    (match o.kind, s.warp? c o.warp, s.cores[c].block? o.bid with
      | .copy t, _, _ => !t.begun
      | .mem a, some x, some b =>
        let before := s.earlierBytes c b x o
        (lanesOf a.left).any fun l => s.laneBlocked c b x o a before l || s.transWaits c b a.addrs[fin 64 l] a.kind.need
      | _, _, _ => false)
/-- A core bundle passes for the requests that are held back: they go out later (R489). -/
def State.holdRequests (s : State) (c : CoreId) : State :=
  let ids := (s.cores[c].ops.filter fun o => s.opHeld c o).map (·.id)
  if ids = [] then s
  else s.modCore c fun k => { k with ops := k.ops.map fun o => if ids.contains o.id then { o with sent := s.time } else o }

/-- Events of a core counted while an operation goes on stand with it and count at its completion (R181, R481): `was` is the package
before them. One that has completed has counted its own. -/
def State.tallied (s : State) (c : CoreId) (id : Nat) (was : State) : State :=
  if (s.cores[c].op? id).isNone then s
  else
    let more : List (Fin 23 × Nat) := [0x0B, 0x0C, 0x0E, 0x13].filterMap fun i =>
      let n := (s.cores[c].counters[i] - was.cores[c].counters[i]).toNat
      if n = 0 then none else some (i, n)
    if more = [] then s
    else s.modCore c fun k =>
      { k.modOp id fun o => { o with counts := o.counts ++ more } with
        counters := more.foldl (fun v (i, n) => upd v i fun x => x - BitVec.ofNat 64 n) k.counters }

end Sys2Proof.Machine
end

