-- ==== Sys2Proof/Machine/Issue.lean ====
section
/-! DEFINITION. A bundle: the checks before it issues, its end, and the core bundle that passes
(spec/01_execution_model.md R24 to R26, R31, R34, spec/04_control_words.md R110, R111, R129,
spec/06_control_scalar_instructions.md R154 to R179). -/

namespace Sys2Proof.Machine

/-- The number of a class in an Allotment Fault's detail (R438). -/
def RegClass.code : RegClass → Nat
  | .v => 0 | .h => 1 | .c => 2 | .ka => 3 | .s => 0

/-- Names of an operation at issue: HTHR adds `h15` in tie mode 0 (R290). -/
def issueNames (c : Ctx) (i : Instr) : List Name :=
  match i with
  | .hthr f => names i ++ if c.holds f.pred ∧ bitsN c.w.tie 1 0 = 0 then [⟨.h, 15, []⟩] else []
  | _ => names i

/-- The Allotment Fault, then the Pending Read Fault, of a bundle (R29, R64, R129). WAITT is exempt from the second. -/
def bundleFault (c : Ctx) (ops : List Instr) : Option (Nat × Nat) :=
  let named := ops.flatMap (issueNames c)
  match named.find? fun n => decide (c.w.heldOf n.cls ≤ n.n) with
  | some n => some (0x0400, 2 ^ 8 * n.cls.code + n.n % 256)
  | none =>
    let read := (ops.filter fun i => match i with | .waitt _ => false | _ => true).flatMap names
    (read.find? fun n => n.cls == .s && c.w.pendingTok n.n).map fun n => (0x0600, n.n)

/-- The bundle that the core's holder comes to: its checks, then its slots may issue (R129). -/
def State.beginBundle (s : State) (c : CoreId) (w : WarpId) : State :=
  match s.warp? c w with
  | none => s
  | some x =>
    match x.stroke[x.pos]? with
    | none => s
    | some cw =>
      let s := { s with issue := some { core := c, warp := w, word := cw, slot := 0, draws := 0, writes := [], ops := [],
                                        ends := [] } }
      match s.ctx? with
      | none => { s with issue := none }
      | some cx =>
        match bundleFault cx (cw.ops.map (·.2)) with
        | some (cause, detail) => s.takeFault c w cause (BitVec.ofNat 64 detail) (some cw.glyph)
        | none => s

/-- The next slot operation of the bundle in issue, at slot number n or later. -/
def Cword.nextOp (w : Cword) (n : Nat) : Option (Nat × Instr) :=
  (List.finRange 9).findSome? fun i =>
    if i.val < n then none
    else
      match Slot.ofNum i.val with
      | none => none
      | some sl =>
        if isIdle w.slots[i] then none
        else
          match decode sl w.slots[i] with
          | .ok x => some (i.val, x)
          | .error _ => none

/-- The bytes of a register image that the lanes of a mask own, replaced (R194). -/
def mergeLanes (old new : VReg) (lanes : Mask) : VReg :=
  BitVec.ofNat 2048 (packList 32 ((List.range 64).map fun l => if lanes.getLsbD l then el 32 new l else el 32 old l))

/-- A special register written (R53, R54, R58): only the bits it holds. -/
def Warp.setSpecial (w : Warp) (i : Nat) (v : Word) : Warp :=
  match i with
  | 0x00 => { w with lc := v.setWidth 32 }
  | 0x01 => { w with vrb := v.setWidth 5 }
  | 0x02 => { w with shape := v &&& 0x3F }
  | 0x03 => { w with fpc := fpcOf v }
  | 0x04 => { w with tie := v &&& 7 }
  | 0x05 => { w with rngk := w.rngk.extractLsb' 64 64 ++ v }
  | 0x06 => { w with rngk := v ++ w.rngk.extractLsb' 0 64 }
  | 0x07 => { w with rngc := v }
  | 0x11 => { w with sp := v.setWidth 8 }
  | 0x12 => { w with p := v.setWidth 16 }
  | _ => w

/-- A pending write lands in its warp, or in the core's `fl` (R25, R52, R59, R67, R98, R131, R297). -/
def Core.landOne (k : Core) (w : WarpId) (p : Pending) : Core :=
  if !p.live then k
  else
    let k := k.modWarp w (·.merge p.flags)
    match p.val with
    | .scalar n v => k.modWarp w (·.setS n v)
    | .pred n v => k.modWarp w (·.setP n v)
    | .laneMask n v lanes => k.modWarp w fun x => { x with q := upd x.q n fun q => (q &&& ~~~lanes) ||| (v &&& lanes) }
    | .vec n v lanes => k.modWarp w fun x => { x with v := upd x.v n fun o => mergeLanes o v lanes }
    | .hyper n v => k.modWarp w fun x => { x with h := upd x.h n fun _ => v }
    | .hbun n img weight => k.modWarp w fun x => { x with c := upd x.c n fun b => bundleBank b img weight }
    | .kadd n a _ =>
      match k.warps[w] with
      | none => k
      | some x => k.modWarp w fun y => { y.merge (x.ka[n].add a).2 with ka := upd y.ka n fun _ => (x.ka[n].add a).1 }
    | .kclr n _ => k.modWarp w fun x => { x with ka := upd x.ka n fun _ => ⟨0, 0⟩ }
    | .stage n v => k.modWarp w (·.setSp n v)
    | .special i v => k.modWarp w (·.setSpecial i v)
    | .flRow v _ => { k with fl := v }
    | .flLate _ _ _ _ _ _ _ => k

/-- The row of an MADV that a FENCE of its stroke holds back; and a pending write that presents a row on `fl` (R269; log 57). -/
def WriteVal.late : WriteVal → Bool
  | .flLate _ _ _ _ _ _ _ => true
  | _ => false
def WriteVal.presents : WriteVal → Bool
  | .flRow _ _ => true
  | v => v.late
/-- A row still to be read has come to its landing: the presentations of its warp stand still (log 57). -/
def Warp.rowStuck (x : Warp) : Bool := x.pending.any fun p => p.val.late && decide (p.left ≤ 1)
/-- A row of a core's warps is still to be read. -/
def Core.rowUnread (k : Core) : Bool := k.warpList.any fun x => x.2.pending.any fun p => p.val.late

/-- A core bundle passes for one warp: every pending write comes one nearer, and those due land (R24, R25); those of a
block being restored wait for its first core bundle (R448), and presentations for a row that a FENCE holds back (log 57). -/
def Core.advanceWarp (k : Core) (w : WarpId) : Core :=
  match k.warps[w] with
  | none => k
  | some x =>
    if (k.block? x.bid).any fun b => b.restoring then k
    else
    let stuck := x.rowStuck
    let ps := x.pending.map fun p => if stuck && p.val.presents then p else { p with left := p.left - 1 }
    (ps.filter fun p => p.left == 0).foldl (fun k p => k.landOne w p)
      (k.modWarp w fun y => { y with pending := ps.filter fun p => p.left != 0 })

/-- Clocks of a bundle at a throttle level (R133), and the level of a core (R475). -/
def Core.level (k : Core) : Nat := max k.thermal k.current
def levelClocks (n : Nat) : Nat := if n = 0 then 1 else if n = 1 then 2 else 4

/-- Bytes written to AB by a store, a copy or a conversion in the core bundle that goes on (R78). -/
def Core.writeAb (k : Core) (pa : Nat) (bs : List Byte) : Core :=
  { k with ab := k.ab.write pa bs, written := (pa, bs.length) :: k.written }
/-- Bytes of AB from a physical address on that this core bundle has changed, or whose barriers it has acted on (R78). -/
def Core.abTouched (k : Core) (pa n : Nat) : Bool :=
  (k.written.any fun x => rangesMeet x.1 x.2 pa n) || k.acted.any fun x => rangesMeet x.1 16 pa n

/-- The end of a core bundle for the barriers that its arrivals and subtractions acted on: the subtractions, which come after the
bundle's other writes (R78), and one completion test each (R36). -/
def Core.testActed (k : Core) : Core :=
  { k with acted := [], written := [], ab := k.acted.foldl (fun ab (pa, n) =>
      let x := ({ k with ab := ab } : Core).barrier pa
      ab.write pa (if x.canAdd (-n) then ({ x with pending := x.pending - n } : Barrier) else x).test.bytes) k.ab }
/-- A barrier acted on, with n bytes to subtract when the core bundle ends (R36, R78). -/
def actOn (acted : List (Nat × Nat)) (pa n : Nat) : List (Nat × Nat) :=
  if acted.any fun x => x.1 == pa then acted.map fun x => if x.1 = pa then (pa, x.2 + n) else x else acted ++ [(pa, n)]

/-- Whether a slice still holds marked bytes of a partition that a home refuses (R326, R428). -/
def State.unreleased (s : State) (cl : ClusterId) (p : PartId) : Bool :=
  s.clusters[cl].l2.any fun x => x.part == p && x.marked != 0

/-- A warp's fences whose operations have been performed take their L2 actions and end, in order (R171, R326, R327). -/
def State.settleFences (s : State) (c : CoreId) (w : WarpId) (p : PartId) : List Fence → State × List Fence
  | [] => (s, [])
  | f :: fs =>
    let f := { f with ids := f.ids.filter s.opLive }
    if f.ids ≠ [] then
      let (s, rest) := s.settleFences c w p fs
      (s, f :: rest)
    else
      let s := if f.writeBack then s.release (clusterOf c) p else s
      if f.writeBack ∧ s.unreleased (clusterOf c) p then
        let (s, rest) := s.settleFences c w p fs
        (s, f :: rest)
      else
        let s := if f.invalidate then s.acquire (clusterOf c) p else s
        s.settleFences c w p fs

/-- The same for one warp of a core. -/
def State.settle (s : State) (c : CoreId) (w : WarpId) : State :=
  match s.warp? c w with
  | none => s
  | some x =>
    match s.cores[c].block? x.bid with
    | none => s
    | some b =>
      if x.fences.isEmpty then s
      else
        let (s, fs) := s.settleFences c w b.part x.fences
        s.modWarp c w fun y => { y with fences := fs }

/-- The arrivals that operations still outstanding come before (R39). -/
def State.settleArrived (s : State) (l : List Arrival) : List Arrival :=
  (l.map fun y => { y with ids := y.ids.filter s.opLive }).filter fun y => y.ids != []
/-- The same for every warp of a core, and for the arrivals at its barriers. -/
def State.settleCore (s : State) (c : CoreId) : State :=
  let s := (List.finRange 8).foldl (fun s w => s.settle c w) s
  if s.cores[c].arrived.isEmpty then s else s.modCore c fun k => { k with arrived := s.settleArrived k.arrived }

/-- One core bundle passes on a core (R24): barriers are tested, pending writes advance, F occupancy falls, counters and time
go on. -/
def State.tickCore (s : State) (c : CoreId) : State :=
  let s := s.settleCore c
  let period := s.clusters[clusterOf c].period
  let s := s.modCore c fun k =>
    let k := k.testActed
    let clocks := levelClocks k.level
    let k := (List.finRange 8).foldl (fun k w => k.advanceWarp w) k
    let k := (k.bump 0 1).bump 1 clocks
    { k with fBusy := k.fBusy - 1, sampleIn := k.sampleIn - 1, tick := k.tick + period * clocks }
  (s.upTo s.cores[c].tick).holdRequests c

/-- Lanes of each class that a slot adds to the lane-cycle record (R482): idle, absent, masked, off and active, in the
record's class numbers 0 to 4. -/
def laneClasses (w : Warp) (idle : Bool) (cond : Mask) : List (Nat × Nat) :=
  if idle then [(4, 64)]
  else
    let q := w.qreg 0
    let absent := ~~~q
    let masked := q &&& ~~~w.dmask
    let off := q &&& w.dmask &&& ~~~cond
    [(3, popCount absent), (1, popCount masked), (2, popCount off), (0, popCount (q &&& w.dmask &&& cond))]

/-- Whether a slot's operation carries a predicate, and whether it is a lane slot (R112, R113). -/
def slotCond (c : Ctx) (sl : Slot) (f : Field) : Mask :=
  let pred := f.extractLsb' 31 5
  let whole (b : Bool) : Mask := if b then BitVec.allOnes 64 else 0
  match sl with
  | .k => BitVec.allOnes 64
  | .m => BitVec.allOnes 64
  | .s => if opcodeOf f = 0x28 then BitVec.allOnes 64 else whole (c.holds pred)
  | .x => whole (c.holds pred)
  | .h => whole (c.holds pred)
  | _ => condLanes c.w pred

/-- The bin of a bundle (R483). -/
def Core.bin (k : Core) (b : Block) (glyph : BitVec 32) : Nat :=
  ((List.finRange 16).find? fun i =>
    let r := k.ranges[i]
    r.getLsbD 100 && bitsN r 99 96 == b.part.val && r.extractLsb' 64 32 == b.dictId &&
      decide (bitsN r 31 0 ≤ glyph.toNat ∧ glyph.toNat < bitsN r 63 32)).elim 16 (·.val)

/-- A lane-cycle counter raised (R483). -/
def bumpLane (l : List (Nat × BitVec 64)) (i n : Nat) : List (Nat × BitVec 64) :=
  if n = 0 then l
  else if l.any fun x => x.1 == i then l.map fun x => if x.1 == i then (i, x.2 + BitVec.ofNat 64 n) else x
  else l ++ [(i, BitVec.ofNat 64 n)]

/-- The lane-cycle record after a bundle (R482, R483). -/
def countLanes (c : Ctx) : List (Nat × BitVec 64) :=
  let bin := c.k.bin c.b c.ix.word.glyph
  (List.finRange 9).foldl (fun l i =>
    match Slot.ofNum i.val with
    | none => l
    | some sl =>
      let f := c.ix.word.slots[i]
      (laneClasses c.w (isIdle f) (slotCond c sl f)).foldl (fun l (cls, n) =>
        bumpLane l (0x400 + 128 * bin + 8 * i.val + cls) n) l) c.k.laneCycles

/-- LOOP (R158): whether it goes back, and the registers after it. -/
def Warp.loopStep (w : Warp) : Warp × Bool :=
  let some_ := w.lc != 0
  let sp := (w.sp <<< 1) ||| (if some_ then 1 else 0)
  ({ w with lc := if some_ then w.lc - 1 else w.lc, sp := sp, vrb := w.vrb - 1 }, sp != 0)

/-- MARK and JOIN (R31). -/
def Warp.mark (w : Warp) (n : Fin 8) (elsePc rejoin : BitVec 32) : Warp :=
  let taken := w.dmask &&& w.q[n]
  let other := w.dmask &&& ~~~w.q[n]
  let e : DivEntry := { rejoin := rejoin, saved := w.dmask, otherPc := elsePc, otherMask := other, pending := other != 0 }
  if taken = 0 then { w with dstack := { e with pending := false } :: w.dstack, dmask := other, pc := elsePc }
  else { w with dstack := e :: w.dstack, dmask := taken }
def Warp.join (w : Warp) : Warp :=
  match w.dstack with
  | [] => w
  | e :: es =>
    if e.pending then { w with dstack := { e with pending := false } :: es, dmask := e.otherMask, pc := e.otherPc }
    else { w with dstack := es, dmask := e.saved, pc := e.rejoin }

/-- A GROW applied (R65, R172, R174): gained registers read zero (R50, R66). -/
def Warp.grow (w : Warp) (a : AllotChange) : Warp :=
  let clear {α : Type} {n : Nat} (zero : α) (old new : Nat) (v : Vector α n) : Vector α n :=
    v.mapFinIdx fun i x _ => if old ≤ i ∧ i < new then zero else x
  { w with
    v := clear 0 w.curV (w.curV + a.v) w.v, h := clear 0 w.curH (w.curH + a.h) w.h
    c := clear 0 w.curC (w.curC + a.c) w.c, ka := clear ⟨0, 0⟩ w.curK (w.curK + a.k) w.ka
    curV := w.curV + a.v, curH := w.curH + a.h, curC := w.curC + a.c, curK := w.curK + a.k
    vrb := if w.curV < 128 ∧ w.curV + a.v = 128 then 0 else w.vrb }

/-- The register that a slot of the rotating region is named by now (R51, R174). -/
def Warp.nameOf (w : Warp) (slot : Fin 128) : Fin 128 :=
  if w.curV = 128 ∧ 96 ≤ slot.val then fin 128 (96 + (slot.val - 96 + 32 - w.vrb.toNat) % 32) else slot

/-- A SHRINK applied (R65, R172, R174). -/
def Warp.shrinkBy (w : Warp) (a : AllotChange) : Warp :=
  let v := if w.curV = 128 ∧ 0 < a.v then Vector.ofFn fun i => w.v[w.bind i.val] else w.v
  { w with v := v, curV := w.curV - a.v, curH := w.curH - a.h, curC := w.curC - a.c, curK := w.curK - a.k
           shrink := none }

/-- A cluster's lease granted (R176, R466). -/
def State.grantLease (s : State) (c : CoreId) (w : WarpId) (us : Nat) : State :=
  match s.warp? c w with
  | none => s
  | some x =>
    match s.cores[c].block? x.bid with
    | none => s
    | some b =>
      (s.modCluster (clusterOf c) fun k =>
        { k with lease := some { part := b.part, core := c, warp := w, bid := x.bid, ends := s.time + us * Config.ticksPerUs }
                 clkdiv := none, pendingDiv := true }).modWarp c w fun y => { y with gstHolder := true, gstCause := 0 }

/-- CLKDIV (R175, R466): no effect under a lease or a trip. -/
def Cluster.setDiv (k : Cluster) (n : Nat) : Cluster :=
  if k.lease.isSome || k.tripped then k else { k with clkdiv := some n, pendingDiv := true }

/-- The clock at which the bundle in issue on a core ends. -/
def State.bundleEnd (s : State) (c : CoreId) : Nat :=
  s.cores[c].tick + s.clusters[clusterOf c].period * levelClocks s.cores[c].level

/-- Whether a warp holds its cluster's lease. -/
def State.holdsLease (s : State) (c : CoreId) (w : WarpId) : Bool :=
  match s.clusters[clusterOf c].lease with
  | some l => l.core == c && l.warp == w && ((s.warp? c w).map fun x => x.bid) == some l.bid
  | none => false

/-- The holder gives its cluster's lease back at the end of the bundle in issue, with cause 7 (R161, R178). -/
def State.giveBack (s : State) (c : CoreId) : State :=
  (s.endLease (clusterOf c) 7 false).modCluster (clusterOf c) fun k => { k with freed := some (s.bundleEnd c, c) }
/-- A lease whose time has ended it (R472, R477): up to that clock it is in force for a GUST of another core. -/
def State.timeOut (s : State) (cl : ClusterId) (cause : Nat) : State :=
  match s.clusters[cl].lease with
  | none => s
  | some l => (s.endLease cl cause true).modCluster cl fun k => { k with freed := some (l.ends, l.core) }
/-- EXIT by the holder (R161): the same; a lease that has expired on an earlier clock has ended as an expiry, one that expires on the same
clock ends with the EXIT (R477). -/
def State.leaveLease (s : State) (c : CoreId) : State :=
  if (s.clusters[clusterOf c].lease).any fun l => decide (l.ends < s.bundleEnd c) then s.timeOut (clusterOf c) 5
  else s.giveBack c
/-- GUSTREL (R178): the holder's lease ends with cause 7; one that expires on the same clock ends as an expiry (R477). -/
def State.releaseLease (s : State) (c : CoreId) (w : WarpId) : State :=
  if !s.holdsLease c w then s
  else if (s.clusters[clusterOf c].lease).any fun l => decide (l.ends ≤ s.bundleEnd c) then s.timeOut (clusterOf c) 5
  else s.giveBack c

/-- The operations of a warp outstanding on the paths of a set, a row that an MADV is still to read among those of M (R170, R271). -/
def Core.onPaths (k : Core) (w : WarpId) (set : BitVec 5) : List Nat :=
  (k.ops.filter fun o => o.warp == w && set.getLsbD o.path.bit).map (·.id) ++
    if set.getLsbD 2 then ((k.warps[w].map Warp.lateRows).getD []) else []

/-- A FENCE takes force (R170, R326, R327). -/
def State.addFence (s : State) (c : CoreId) (w : WarpId) (a b : BitVec 5) (scope : Nat) : State :=
  let ids := s.cores[c].onPaths w a
  let lx (m : BitVec 5) : Bool := m.getLsbD 0 || m.getLsbD 1
  (s.modWarp c w fun y =>
    { y with fences := y.fences ++ [{ after := b, ids := ids, writeBack := decide (3 ≤ scope) && lx a
                                      invalidate := decide (3 ≤ scope) && lx b }] }).settle c w

/-- A prefetch (R226): through a TLB entry, or a table read that installs nothing; its misses count (R480). It does nothing where a
home refuses the walk, or the slice has no place for its sector (R9, R428). -/
def State.prefetch (s : State) (c : CoreId) (b : Block) (va : Word) : State :=
  let near := s.cores[c].tlb.find? fun e => e.owner == b.bid && e.part == b.part && e.vpage == pageOf va
  let held := near.or (findTlb s.clusters[clusterOf c].tlb b.part (pageOf va))
  let s := if 2 ^ 52 ≤ va.toNat then s
    else s.modCore c fun k => (k.bump 0x0B (if near.isNone then 1 else 0)).bump 0x0C (if held.isNone then 1 else 0)
  let leaf := if 2 ^ 52 ≤ va.toNat then none else
    match held with
    | some e => some (s.leafBase e.leaf + bitsN va 18 0, e.leaf)
    | none =>
      if (s.pathFrame b.part va).isSome then none else
      match s.walk s.parts[b.part].ptRoot va with
      | .leaf e _ big => some (s.leafBase e + bitsN va (if big then 29 else 18) 0, e)
      | _ => none
  match leaf with
  | some (pa, e) => if e.getLsbD 3 && !s.sliceStuck (clusterOf c) then (s.fill (clusterOf c) b.part (sectorOf pa)).getD s else s
  | none => s

/-- What a FREEZE request comes to (R366, R367): the status where it ends at once; none where it begins. -/
def State.freezeRefusal (s : State) (c : CoreId) (p : PartId) (op : Nat) : Option Nat :=
  let q := s.parts[p]
  if q.freeze.isSome then some 7
  else
    match coreOfLcid q.ftgt with
    | none => some 3
    | some t =>
      let k := s.cores[t]
      if t = c then some 4
      else if !(k.blocks.any fun b => b.part == p) then some 3
      else if op = 1 then (if k.stopped.isSome then some 6 else none)
      else if op = 2 then (if k.stopped.isNone then some 6 else none)
      else none

/-- A FREEZE takes its request, and stops its target at its next core bundle; or it ends with the code of its refusal
(R366, R367). -/
def State.freezeRequest (s : State) (c : CoreId) (p : PartId) (op : Nat) : State :=
  match s.freezeRefusal c p op with
  | some code =>
    s.modPart p fun q => { q with fstat := BitVec.ofNat 4 code }
  | none =>
    match coreOfLcid s.parts[p].ftgt with
    | none => s
    | some t =>
      let s := s.modPart p fun q => { q with fstat := 1, freeze := some { op := op, target := t, was := s.cores[t].stopped.isSome } }
      if op = 2 then s
      else s.modCore t fun k => { k.bump 0x16 1 with stopped := some (k.stopped.getD .freeze) }

/-- The release at package scope of everything a partition's slices hold marked (R43), and whether some is left. -/
def State.releaseAll (s : State) (p : PartId) : State := (List.finRange 40).foldl (fun s cl => s.release cl p) s
def State.unreleasedAll (s : State) (p : PartId) : Bool := (List.finRange 40).any fun cl => s.unreleased cl p

/-- The messages of a partition whose accesses have been performed are sent, each after a release at sys scope (R362): of
every slice, since a warp that has moved may have written through another cluster's. -/
def State.flushMessages (s : State) (p : PartId) : State :=
  s.parts[p].messages.foldl (fun s (v, c, ids) =>
    if ids.any s.opLive then s
    else
      let s := s.releaseAll p
      if s.unreleasedAll p then s
      else (s.modPart p fun q => { q with messages := q.messages.erase (v, c, ids) }).fireVector p v) s

/-- Whether an operation writes global memory. -/
def OpKind.writes : OpKind → Bool
  | .mem a => a.kind != .load
  | .copy _ => true
  | .signal _ _ _ => true
  | .launch _ => true
  | _ => false

/-- A SYSWR takes effect (R361, R362, R363, R415, R417). Requests to TLBINV withhold the warp until they are done. -/
def State.applySyswr (s : State) (c : CoreId) (w : WarpId) (p : PartId) (i : Nat) (v : Word) : State :=
  match i with
  | 0x01 => s.modWarp c w fun x => { x with epc := v &&& 0xFFFFFFFF }
  | 0x13 => s.modPart p fun q => { q with fqCons := v.setWidth 32 }
  | 0x14 => s.modPart p fun q => { q with fqStat := q.fqStat &&& ~~~(v &&& 3) }
  | 0x20 =>
    (s.modPart p fun q => { q with messages := q.messages ++ [(bitsN v 4 0, c, s.cores[c].onPaths w 0x0F)] }).flushMessages p
  | 0x30 => s.modPart p fun q => { q with ftgt := v &&& 0x1FF }
  | 0x32 => s.modPart p fun q => { q with fsave := v &&& 0xFFFFFFFFFFFFF000 }
  | 0x40 =>
    -- a later refill reads the image as it then stands (R363), so no slice keeps a clean copy from before (DEDUCED, log 20)
    (List.finRange 40).foldl (fun s cl => s.acquire cl p)
      { s with cores := s.cores.map fun k =>
          { k with decode := k.decode.filter fun d => !(d.part == p && d.dictId == v.setWidth 32) } }
  | 0x41 =>
    let addr : Word := v &&& 0x000FFFFFFFFFFFC0
    let who : Requester := .warp c w
    let e : Instr := match bitsN v 2 0 with
      | 0 => .tlbInvalidatePage p addr who
      | 1 => .tlbInvalidatePartition p who
      | 2 => .migratePage p addr who
      | _ => .setDirtyLog p addr who
    let writes := (s.cores[c].ops.filter fun o => o.warp == w && o.kind.writes).map (·.id)
    { s.modWarp c w fun x => { x with withheld := x.withheld + 1 } with requests := s.requests ++ [{ op := e, after := writes }] }
  | _ => s

/-- The operations that come before what a warp does next: its own that are outstanding, its rows still to be read, and those that its
fences name (R322). -/
def Core.before (k : Core) (w : WarpId) : List Nat :=
  ((k.ops.filter fun o => o.warp == w).map (·.id)) ++
    ((k.warps[w].map fun x => (x.lateRows ++ x.fences.flatMap (·.ids)).dedup).getD []).filter fun i =>
      !(k.ops.any fun o => o.warp == w && o.id == i)

/-- One effect of a bundle's end. -/
def State.applyEnd (s : State) (c : CoreId) (w : WarpId) (b : Block) (glyph : BitVec 32) (e : EndEffect) : State :=
  match e with
  | .swr i v => s.modWarp c w (·.setSpecial i v)
  | .setShape v => s.modWarp c w fun x => { x with shape := v.setWidth 64 }
  | .setPc t => s.modWarp c w fun x => { x with pc := t }
  | .loop t =>
    s.modWarp c w fun x =>
      let (y, back) := x.loopStep
      if back then { y with pc := t } else y
  | .mark n elsePc rejoin => s.modWarp c w (·.mark n elsePc rejoin)
  | .join => s.modWarp c w (·.join)
  | .exit =>
    let s := if s.holdsLease c w then s.leaveLease c else s
    s.modWarp c w fun x => { x with state := .exited }
  | .trap code => s.modWarp c w fun x => { x with traps := x.traps ++ [⟨0, code⟩] }
  | .bara a n =>
    let pa := b.ab.base + a
    (s.modCore c fun k =>
      let old := k.barrier pa
      { k with
        ab := k.ab.write pa ({ old with arrived := old.arrived + 1, pending := old.pending + n } : Barrier).bytes
        acted := actOn k.acted pa 0
        arrived := k.arrived ++ if k.before w = [] then [] else [{ bid := b.bid, addr := a, phase := old.phase, ids := k.before w }] }
      ).modWarp c w fun x => { x with baraPhase := (s.cores[c].barrier pa).phase, baraAddr := some a }
  | .csync d => s.modWarp c w fun x => { x with csync := some d }
  | .fence x y scope => s.addFence c w x y scope
  | .allot a => s.modWarp c w fun x => if a.grow then x.grow a else { x with shrink := some a }
  | .clkdiv n => s.modCluster (clusterOf c) (·.setDiv n)
  | .gustGrant us => s.grantLease c w us
  | .gustRefuse cause => s.modWarp c w fun x => { x with gstCause := BitVec.ofNat 4 cause }
  | .gustrel => s.releaseLease c w
  | .syswr i v => s.applySyswr c w b.part i v
  | .acquire => s.acquire (clusterOf c) b.part
  | .eret => s.modWarp c w (·.eret)
  | .freeze op => s.freezeRequest c b.part op
  | .mswap => s.modCore c fun k => { k with active := 1 - k.active }
  | .mcfg cf => s.modCore c fun k => { k with config := cf }
  | .resv n r => s.modWarp c w fun x => { x with resv := upd x.resv n fun _ => r }
  | .rels n => s.modWarp c w fun x => { x with resv := upd x.resv n fun r => r &&& ~~~1 }
  | .tswap => s.modCore c fun k => { k with bank := 1 - k.bank }
  | .token n => s.modWarp c w fun x => { x with tokens := x.tokens ||| BitVec.ofNat 64 (2 ^ n.val) }
  | .tokenDone n v => s.modWarp c w (·.setS n v)
  | .prefetch va => (s.prefetch c b va).modCore c fun k => k.bump 0x0D 1
  | .matrixError =>
    match s.warp? c w with
    | none => s
    | some x => s.pushRecord b.part (dieOf c).val (warpRecord c b x 3 0x3000 glyph (BitVec.allOnes 64) 0)
  | .tileNone => s.modCore c fun k => k.bump 0x14 1

/-- The order of a bundle's end effects: SWR, then SHAPE (R146, R160), then the rest; a GROW or a SHRINK belongs to the boundary
after the bundle (R172). -/
def EndEffect.phase : EndEffect → Nat
  | .swr _ _ => 0
  | .setShape _ => 1
  | .allot _ => 3
  | _ => 2

/-- Whether an operation is an atomic with acquire, or with release (R233). -/
def OpKind.acquires : OpKind → Bool
  | .mem a => match a.kind with | .atomic _ _ _ acq _ => acq | _ => false
  | _ => false
def OpKind.releases : OpKind → Bool
  | .mem a => match a.kind with | .atomic _ _ _ _ rel => rel | _ => false
  | _ => false

/-- The distinct sectors that the coalescer forms of an access (R220). -/
def OpKind.sectors : OpKind → Nat
  | .mem a => (((lanesOf a.left).map fun l => a.addrs[fin 64 l].toNat / 64).foldl
      (fun acc x => if acc.contains x then acc else x :: acc) []).length
  | _ => 0

/-- The events of an operation at its issue, which count at its completion (R181, R481). -/
def OpKind.counts (k : OpKind) : List (Fin 23 × Nat) := if k.sectors = 0 then [] else [(0x0D, k.sectors)]

/-- The asynchronous operations of a bundle start (R28, R72, R170, R233, R248 to R250): each waits for the fences that
stood before the bundle, for its warp's acquiring atomics when it is of the L path, and, as a release, for what it
orders. A copy takes its locks at its issue unless an earlier copy or a FENCE holds it back (R72, log 35). What the coalescer forms of it counts at its completion (R181, R481). -/
def Core.startOp (k : Core) (w : WarpId) (x : Warp) (before : List AsyncOp) (id time : Nat) (glyph : BitVec 32) (o : NewOp) :
    Core :=
  let mine := before.filter fun p => p.warp == w
  let ids (f : AsyncOp → Bool) : List Nat := (mine.filter f).map (·.id)
  let fences := (x.fences.filter fun f => f.after.getLsbD o.path.bit).flatMap (·.ids)
  let acq := if o.path = .l then ids fun p => p.kind.acquires else []
  let rel := match o.kind with
    | .launch _ => ids fun _ => true
    | .signal _ _ _ => ids fun p => p.path == .x
    | kd => if kd.releases then ids fun p => p.path == .l else []
  let kind : OpKind := match o.kind with
    | .copy t =>
      let held := x.fences.any fun f => f.after.getLsbD o.path.bit
      let blocked := held || k.ops.any fun p => match p.kind with | .copy a => a.blocks t | _ => false
      .copy { t with begun := !blocked, after := if t.signal.isSome then ids fun p => p.path == .x else [] }
    | kd => kd
  { k.modWarp w fun y => y.modCount o.cls (· + 1) with
    ops := k.ops ++ [{ id := id, warp := w, bid := x.bid, cls := o.cls, path := o.path, glyph := glyph, field := o.field,
                       waits := fences ++ acq ++ rel, sent := time, fault := none, wiped := []
                       counts := o.kind.counts, stroke := x.strokes, kind := kind }] }

/-- The bundle's new operations, numbered in order. -/
def State.startOps (s : State) (c : CoreId) (w : WarpId) (x : Warp) (before : List AsyncOp) (glyph : BitVec 32) :
    List NewOp → State
  | [] => s
  | o :: os =>
    (({ s with nextId := s.nextId + 1 }).modCore c fun k => k.startOp w x before s.nextId s.time glyph o).startOps c w x
      before glyph os

/-- A row that an MADV is still to read, with its number (log 57). -/
def WriteVal.numbered (v : WriteVal) (id : Nat) : WriteVal :=
  match v with
  | .flLate a cf pl z past g _ => .flLate a cf pl z past g id
  | v => v
/-- The bundle's writes join the warp's pending ones (R25), a row that an MADV is still to read numbered after the bundle's operations:
a FENCE of the same bundle comes before it (log 57). -/
def State.addWrites (s : State) (c : CoreId) (w : WarpId) (ps : List Pending) : State :=
  { s.modWarp c w fun y => { y with pending := y.pending ++ ps.map fun p => { p with val := p.val.numbered s.nextId } } with
    nextId := if ps.any fun p => p.val.late then s.nextId + 1 else s.nextId }

/-- The end of the bundle in issue: every effect of its slots. At the stroke's end the warp stands at a boundary. A grant
counts with the first bundle of its stroke, and a throttle level with each bundle that a warp issues (R480, R481). -/
def State.commit (s : State) (ix : Issue) : State :=
  match s.ctx? with
  | none => { s with issue := none }
  | some cx =>
    let c := ix.core
    let w := ix.warp
    let x := cx.w
    let last := x.stroke.length ≤ x.pos + 1
    let occ := ((ix.word.ops.filter fun o => o.1 == .f).map fun o => fOccupancy o.2).foldl max 0
    let s := { s with issue := none }
    let s := s.modWarp c w fun y =>
      { y with rngc := y.rngc + BitVec.ofNat 64 ix.draws, pos := y.pos + 1
               pc := if last then y.next else y.pc, state := if last then .boundary else .midStroke }
    let s := [0, 1, 2].foldl (fun s n =>
      (ix.ends.filter fun e => e.phase == n).foldl (fun s e => s.applyEnd c w cx.b ix.word.glyph e) s) s
    let looped := ix.ends.any fun e => match e with | .loop _ => true | _ => false
    let s := if ix.word.g.getLsbD 4 && !looped then s.modWarp c w fun y => { y with vrb := y.vrb - 1 } else s
    let s := (ix.ends.filter fun e => e.phase == 3).foldl (fun s e => s.applyEnd c w cx.b ix.word.glyph e) s
    let s := (s.startOps c w x cx.k.ops ix.word.glyph ix.ops).addWrites c w ix.writes
    let s := s.modCore c fun k =>
      { k with
        fBusy := max k.fBusy occ
        laneCycles := countLanes cx
        breakSkip := false
        holder := if last then none else k.holder }
    let s := if last then s.modWarp c w fun y => { y with stroke := [], pos := 0, decoded := false } else s
    s.modCore c fun k =>
      let k := (k.bump 2 1).bump 3 (if x.pos = 0 then 1 else 0)
      if k.level = 1 then k.bump 0x10 1 else if k.level = 2 then k.bump 0x11 1 else k

end Sys2Proof.Machine
end

