-- ==== Sys2Proof/Machine/Grant.lean ====
section
/-! DEFINITION. The arbiter of a core and what happens at stroke boundaries: STROKE_GRANT, EXPOSED_WRITE_LAND,
USER_TRAP_DELIVERY, SHRINK_RELEASE, WARP_AGEING, CSYNC_RELEASE and WARP_RETIRE (spec/01_execution_model.md R27 to R45,
spec/06_control_scalar_instructions.md R163 to R174, spec/18_launch_scheduling.md R394 to R398). -/

namespace Sys2Proof.Machine

/-- The priority of a block: that of its launch as ageing has left it (R45, R394), or 7 where it was placed at level 7
(R375); its node's where it has no launch (R13). -/
def State.levelOf (s : State) (b : Block) : Nat :=
  if b.level7 then 7 else ((s.launches.find? fun l => l.lid == b.launch).map fun l => l.level).getD (bitsN b.node 154 152)

/-- The ageing interval of a partition, in ticks (R394). -/
def Partition.ageingTicks (p : Partition) : Nat :=
  let a := bitsN p.qos 47 40
  Config.ticksPerUs * min 65535 ((a % 16 + 1) * 2 ^ (a / 16))

/-- The K operation of a stroke's first bundle. -/
def Warp.headOp (x : Warp) : Option Instr :=
  x.stroke.head?.bind fun w => (w.ops.find? fun o => o.1 == .k).map fun o => o.2

/-- The address of a BARW (R166). -/
def Warp.barwAddr (x : Warp) (f : KBarw) : Nat := (x.sreg f.addr.toNat).toNat + f.off.toNat

/-- Whether a head wait is satisfied (R30, R37, R166). -/
def Warp.waitOver (x : Warp) (k : Core) (b : Block) : Bool :=
  match x.headOp with
  | some (.wait f) =>
    decide (x.loads ≤ f.load.toNat ∧ x.stores ≤ f.store.toNat ∧ x.copies ≤ f.copy.toNat ∧ x.tiles ≤ f.tile.toNat)
  | some (.waitt f) =>
    let free (i : Nat) (t : BitVec 6) : Bool := !f.enable.getLsbD i || !x.pendingTok t.toNat
    free 0 f.t0 && free 1 f.t1 && free 2 f.t2 && free 3 f.t3
  | some (.barw f) =>
    (k.barrier (b.ab.base + x.barwAddr f)).phase != (x.sreg f.phase.toNat).setWidth 32
  | _ => true

/-- What a BARW raises at its stroke's start instead of waiting (R167). Of two pending scalars the phase's is named (DEDUCED, log 41). -/
def Warp.barwFault (x : Warp) (b : Block) : Option (Nat × Nat) :=
  match x.headOp with
  | some (.barw f) =>
    let a := x.barwAddr f
    if x.pendingTok f.phase.toNat then some (0x0600, f.phase.toNat)
    else if x.pendingTok f.addr.toNat then some (0x0600, f.addr.toNat)
    else if b.ab.size < a + 16 then some (0x0A00, a)
    else if a % 16 ≠ 0 then some (0x0E00, a)
    else none
  | _ => none

/-- The bundles of a warp's stroke that have not issued. -/
def Warp.rest (x : Warp) : List Cword := x.stroke.drop x.pos

/-- The asynchronous operations of a class in a stroke (R28). -/
def strokeCount (words : List Cword) (c : OpClass) : Nat :=
  ((words.flatMap (·.ops)).filter fun o => asyncClass o.2 == some c).length

/-- Whether a stroke's counts fit (R28). -/
def Warp.fits (x : Warp) : Bool :=
  [OpClass.load, .store, .copy, .tile].all fun c => decide (x.count c + strokeCount x.rest c ≤ 63)

/-- What a core's queues hold, as R270 asks. -/
def Core.filling (k : Core) : Bool := k.ops.any fun o => match o.kind with | .ldst _ _ _ _ => true | _ => false
def Core.looping (k : Core) : Bool := k.ops.any fun o => match o.kind with | .tile t => t.kind == .mloop | _ => false
def Core.queued (k : Core) : Nat := (k.ops.filter fun o => match o.kind with | .tile _ => true | _ => false).length
def Core.loadingTable (k : Core) : Bool := k.ops.any fun o => match o.kind with | .tbld _ _ _ => true | _ => false
/-- Some bank of AB is locked by a copy (R72). -/
def Core.abLocked (k : Core) : Bool := k.ops.any fun o => match o.kind with | .copy t => t.begun && t.locks != [] | _ => false

/-- F is occupied at a stroke's first use of it (R132). -/
def Core.busyF (k : Core) (words : List Cword) : Bool :=
  match strokeF words with
  | [] => false
  | (t, _) :: _ => decide (t < k.fBusy)
/-- An M use that the core's queues withhold (R270; any use of the stroke, log 21). -/
def Core.busyM (k : Core) (words : List Cword) : Bool :=
  let us := (strokeM words).map (·.2)
  (us.contains .swap && (k.filling || k.looping)) || (us.contains .advance && k.looping) ||
    decide (4 < k.queued + (us.filter (·.queues)).length)
/-- An MADV while a copy locks a bank of AB (R72), and a TSWAP while a TBLD is outstanding (R247). -/
def Core.busyBank (k : Core) (words : List Cword) : Bool := ((strokeM words).any fun u => u.2 == .advance) && k.abLocked
/-- The operations that the phase which satisfies a stroke's BARW orders before it (R39, R321): those that come before an arrival of
the block at a phase now complete. -/
def Core.phaseOps (k : Core) (b : Block) (x : Warp) : List Nat :=
  match x.headOp with
  | some (.barw f) =>
    let a := x.barwAddr f
    let now := (k.barrier (b.ab.base + a)).phase
    ((k.arrived.filter fun y => y.bid == b.bid && y.addr == a && y.phase != now).flatMap (·.ids)).dedup
  | _ => []

/-- An MADV whose row a FENCE of an earlier stroke, a barrier phase or a CSYNC orders after accesses that are still outstanding
(R171, R271, R321): its stroke waits, since an MADV reads its row at issue (R269; of a FENCE in its own stroke: log 57). -/
def Core.fencedM (k : Core) (b : Block) (x : Warp) : Bool :=
  ((strokeM x.rest).any fun u => u.2 == .advance) &&
    ((x.fences.any fun f => f.after.getLsbD 2) || (x.state == .boundary && x.waitOver k b && k.phaseOps b x != []))
def Core.busyTable (k : Core) (words : List Cword) : Bool :=
  k.loadingTable && words.any fun w => w.ops.any fun o => match o.2 with | .tswap _ => true | _ => false

/-- A block's line of the cluster's sync line (R40). -/
def Core.lineRaised (k : Core) (b : Block) : Bool :=
  let ws := k.blockWarps b.bid
  b.group.isSome && (ws.all fun x => x.2.csync.isSome || x.2.state == .exited || x.2.state == .retired) &&
    ws.any fun x => x.2.csync.isSome
/-- The core is held by CSYNC (R40). -/
def Core.csyncHeld (k : Core) : Bool := k.blocks.any fun b => k.lineRaised b

/-- How a warp stands before the arbiter (R395): what it needs besides, and each thing that may withhold it; `fence` is what R171,
R39 and R42 order its MADV after. -/
structure Standing where
  ready : Bool
  wait : Bool
  drain : Bool
  f : Bool
  m : Bool
  bank : Bool
  table : Bool
  fence : Bool
  deriving DecidableEq, Repr

/-- A warp waits to issue: at its boundary, or restored in mid-stroke (R451), of a block that runs. A block that a thermal move takes is
frozen as each warp of it comes to its boundary (R464). -/
def Warp.standing (x : Warp) (b : Block) : Bool :=
  (x.state == .boundary && b.moveTo.isNone || x.state == .midStroke) && !b.halted && !b.restoring &&
    b.microWait.isNone && x.fetchFault.isNone && x.csync.isNone

/-- Every condition of R395 for a warp of a core that issues; WAIT and drain concern a boundary only. -/
def Core.standing (k : Core) (b : Block) (x : Warp) : Standing :=
  let atBoundary := x.state == .boundary
  { ready := x.standing b && x.decoded && x.withheld == 0 && x.records.isEmpty && x.held.isEmpty &&
      (!atBoundary || !x.trapReady) && x.fits && !k.csyncHeld
    wait := atBoundary && !x.waitOver k b
    drain := atBoundary && (!x.pending.isEmpty || x.shrink.isSome)
    f := k.busyF x.rest
    m := k.busyM x.rest
    bank := k.busyBank x.rest
    table := k.busyTable x.rest
    fence := k.fencedM b x }

def Standing.eligible (t : Standing) : Bool := t.ready && !t.wait && !t.drain && !t.f && !t.m && !t.bank && !t.table && !t.fence
/-- Eligible but for the occupancy of F or M (R397). -/
def Standing.butOccupied (t : Standing) : Bool := t.ready && !t.wait && !t.drain && !t.bank && !t.table && !t.fence

/-- The warps of a core with their blocks and standings. -/
def Core.standings (k : Core) : List (WarpId × Warp × Standing) :=
  k.warpList.filterMap fun (w, x) => (k.block? x.bid).map fun b => (w, x, k.standing b x)

/-- The first of two warps in the arbiter's order (R395): higher priority, longer eligible, lower slot. -/
def firstOf (a b : WarpId × Warp) : WarpId × Warp :=
  let ka := a.2.eligibleSince.getD 0
  let kb := b.2.eligibleSince.getD 0
  if a.2.level ≠ b.2.level then (if b.2.level < a.2.level then a else b)
  else if ka ≠ kb then (if kb < ka then a else b)
  else if a.1 < b.1 then a else b
def bestOf : List (WarpId × Warp) → Option (WarpId × Warp)
  | [] => none
  | x :: xs => some (xs.foldl firstOf x)

/-- A warp may use what an earlier waiting warp claims of F and M (R397). -/
def stickyAllows (sticky : List (WarpId × Bool × Bool)) (w : WarpId) (x : Warp) : Bool :=
  sticky.all fun (v, f, m) => v == w || ((!f || (strokeF x.rest).isEmpty) && (!m || (strokeM x.rest).isEmpty))

/-- The warps that R397 makes wait on F or M, with the one that the arbiter comes to now: what each has been withheld by since
it came to wait. -/
def Core.stickyNow (k : Core) : List (WarpId × Bool × Bool) :=
  let st := k.standings
  let old := k.sticky.filter fun x => st.any fun y => y.1 == x.1
  match bestOf ((st.filter fun y => y.2.2.butOccupied && stickyAllows old y.1 y.2.1).map fun y => (y.1, y.2.1)) with
  | none => old
  | some (w, _) =>
    match st.find? fun y => y.1 == w with
    | some (_, _, t) =>
      if old.any fun x => x.1 == w then old.map fun x => if x.1 == w then (w, x.2.1 || t.f, x.2.2 || t.m) else x
      else if t.f || t.m then old ++ [(w, t.f, t.m)] else old
    | none => old

/-- The warp that the arbiter grants now (R395, R397, R41). What R41 and R451 put first comes before the claims of R397; where its stroke
cannot be granted yet, others are, and it stays first (DESIGN CHOICE, log 62). -/
def Core.toGrant (k : Core) : Option WarpId :=
  if k.holder.isSome then none
  else
    let st := k.standings.filter fun y => y.2.2.eligible
    match k.first with
    | some w =>
      if st.any fun y => y.1 == w then some w
      else (bestOf ((st.filter fun y => stickyAllows k.stickyNow y.1 y.2.1).map fun y => (y.1, y.2.1))).map (·.1)
    | none => (bestOf ((st.filter fun y => stickyAllows k.stickyNow y.1 y.2.1).map fun y => (y.1, y.2.1))).map (·.1)

/-- Whether a warp waits for an entry that the quill engine has to bring (R122, counter 0x00A). -/
def State.awaitsRefill (s : State) (c : CoreId) : Bool :=
  s.cores[c].warpList.any fun (_, x) =>
    awaitsFetch x && (match s.cores[c].block? x.bid with
      | none => false
      | some b => !b.halted && (match s.fetchStroke c x b with | (_, .miss _ _ _) => true | _ => false))

/-- A row still to be read lies in a bank that a copy locks; one issued earlier in the MADV's stroke does not count (R72). -/
def Core.rowHeld (k : Core) (b : Block) (cf : BitVec 160) (x : Nat) (past : List Nat) : Bool :=
  (rowBytes cf x).any fun y => k.ops.any fun o => !past.contains o.id && match o.kind with
    | .copy t => t.begun && (banksOf (b.ab.base + y.1) y.2).any fun n => t.locks.contains n
    | _ => false

/-- The rows that no FENCE and no lock holds back any longer are read (R72, R171, R269; log 57). -/
def State.readLate (s : State) (c : CoreId) : State :=
  if !s.cores[c].rowUnread then s
  else s.modCore c fun k =>
    { k with warps := k.warps.map (Option.map fun x =>
        match k.block? x.bid with
        | none => x
        | some b =>
          if x.fences.any fun f => f.after.getLsbD 2 then x
          else { x with pending := x.pending.map fun p => match p.val with
            | .flLate at_ cf plane ftz past g _ =>
              if k.rowHeld b cf at_ past then p
              else
                let r := rowSums cf ftz plane k.ab b.ab.base at_
                { p with flags := rowFlags r, val := .flRow (rowImage r) g }
            | _ => p }) }

/-- A core bundle passes for the warps that do not issue in it: the core bundles that each has been eligible without a
grant, and its waiting (R24, R395, R396), as each stood when the bundle began. While a warp holds the core, occupancy withholds only those
that it withheld when the arbiter last looked (the run under R398, log 36). -/
def State.coreBundle (s : State) (c : CoreId) (st : List (WarpId × Warp × Standing)) : State :=
  let clocks := levelClocks s.cores[c].level
  let refill := s.awaitsRefill c
  let ticks := s.clusters[clusterOf c].period * clocks
  let s := (s.tickCore c).readLate c
  s.modCore c fun k =>
    let k := if refill then k.bump 0x0A clocks else k
    { k with warps := k.warps.mapFinIdx fun i x hi => x.map fun (y : Warp) =>
        if k.holder = some ⟨i, hi⟩ then y
        else if st.any fun z => z.1 == ⟨i, hi⟩ && (z.2.2.eligible || (k.holder.isSome && z.2.2.butOccupied && !y.barred)) then
          { y with eligibleSince := some (y.eligibleSince.getD 0 + 1), waited := y.waited + ticks }
        else y }

/-- Bytes of a block's quarantine buffer have still to be drained (R450). -/
def Core.quarantined (k : Core) (bid : Nat) : Bool :=
  k.ops.any fun p => p.bid == bid && match p.kind with | .copy u => !u.quarantine.isEmpty | _ => false
/-- A restored block's quarantine is drained before what comes after it (R451). -/
def Core.drainsFirst (k : Core) (b : Block) : Bool := b.restoring && k.quarantined b.bid

/-- The mid-stroke warp of a block being restored, and whether the block has come to its first core bundle: no warp
holds the core, its records are replayed, and that warp can take the core (R451). -/
def Core.restoredWarp (k : Core) (b : Block) : Option (WarpId × Warp) :=
  (k.blockWarps b.bid).find? fun x => x.2.state == .midStroke
def Core.restored (k : Core) (b : Block) : Bool :=
  b.restoring && k.holder.isNone &&
    (b.halted || (k.blockWarps b.bid).all fun x => x.2.records.isEmpty && x.2.held.isEmpty) && !k.drainsFirst b &&
    (match k.restoredWarp b with
      | some (_, x) => (k.standing { b with restoring := false } x).eligible || b.halted
      | none => true)
/-- The blocks that come to their first core bundle now; of those with a mid-stroke warp, the first, and that warp takes
the core ahead of every other (R451). -/
def Core.releaseRestored (k : Core) : Core :=
  let ready := k.blocks.filter fun b => k.restored b
  let mid := ready.find? fun b => (k.restoredWarp b).isSome
  let free (b : Block) : Bool := (k.restoredWarp b).isNone || mid.any fun m => m.bid == b.bid
  { k with
    blocks := k.blocks.map fun b => if ready.any (fun r => r.bid == b.bid) && free b then { b with restoring := false } else b
    first := match mid with | some m => (k.restoredWarp m).map (·.1) | none => k.first }

/-- Whether a warp's BARW raises its fault now: the warp is eligible but for its head wait (R167). -/
def Core.barwFaultOf (k : Core) (w : WarpId) : Option (Nat × Nat) :=
  match k.warps[w] with
  | none => none
  | some x =>
    match k.block? x.bid with
    | none => none
    | some b =>
      let t := k.standing b x
      if x.state == .boundary && t.ready && !t.drain && !t.f && !t.m && !t.bank && !t.table && !t.fence then x.barwFault b else none

/-- The warp whose BARW raises a fault now; of several, that of the lowest slot (DESIGN CHOICE, log 41). -/
def State.barwFaultAt (s : State) (c : CoreId) : Option (WarpId × Nat × Nat) :=
  if !s.coreRuns c then none
  else (List.finRange 8).findSome? fun w => (s.cores[c].barwFaultOf w).map fun f => (w, f)

/-- A fence without L2 actions over some operations: what a barrier phase or a CSYNC orders (R39, R42). -/
def Warp.after (x : Warp) (ids : List Nat) : Warp :=
  if ids = [] then x
  else { x with fences := x.fences ++ [{ after := 0x0F, ids := ids, writeBack := false, invalidate := false }] }

/-- What the arbiter finds of each warp as it grants: withheld by F or M alone (R395). -/
def Core.bar (k : Core) : Core :=
  { k with warps := k.warps.map (Option.map fun x =>
      match k.block? x.bid with
      | none => x
      | some b => { x with barred := (k.standing b x).butOccupied && !(k.standing b x).eligible }) }
/-- A stroke granted to a warp: the core is its own until the stroke ends (R23, R395). -/
def State.grant (s : State) (c : CoreId) (w : WarpId) : State :=
  match s.warp? c w with
  | none => s
  | some x =>
    match s.cores[c].block? x.bid with
    | none => s
    | some b =>
      let level := s.levelOf b
      s.modCore c fun k =>
        { k.bar.modWarp w fun y =>
            { (if x.state = .boundary then y.after (k.phaseOps b x) else y) with
              eligibleSince := none, level := level, waited := 0, trapTaken := false, state := .midStroke
              strokes := y.strokes + if x.state = .boundary then 1 else 0
              taken := y.taken.filter fun n => k.ops.any fun o => o.warp == w && o.stroke == n } with
          holder := some w
          first := if k.first = some w then none else k.first
          breakSkip := false
          sticky := k.stickyNow.filter fun z => z.1 != w }

/-- A warp restored in mid-stroke is to take the core, before any stroke starts or faults (R448, R451). -/
def Core.resumes (k : Core) : Bool := k.first.any fun w => k.warps[w].any fun x => x.state == .midStroke

/-- STROKE_GRANT (R395 to R397); a warp whose BARW faults at its stroke's start faults instead of waiting (R167). -/
def execStrokeGrant (c : CoreId) (s : State) : Out :=
  let s := if s.coreRuns c then s.modCore c (·.releaseRestored) else s
  let k := s.cores[c]
  if !s.coreRuns c || k.holder.isSome then .next s
  else
    match (if k.resumes then none else s.barwFaultAt c), k.toGrant with
    | some (w, cause, a), _ => .next (s.takeFault c w cause (BitVec.ofNat 64 a) none)
    | none, some w => .next (s.grant c w)
    | none, none => .next s

/-- The idle counter of a core bundle without issue (R480), by what withholds the core's warps. -/
def Core.idleReason (k : Core) : Fin 23 :=
  let st := k.standings.filter fun y => (k.block? y.2.1.bid).any fun b => !b.halted
  let only (t : Standing) : Bool := t.ready && t.drain && !t.wait && !t.f && !t.m && !t.bank && !t.table && !t.fence
  if st.any fun y => only y.2.2 then 4
  else if st.any fun y => y.2.1.decoded && y.2.2.wait then 5
  else if st.any fun y => y.2.1.decoded && (y.2.2.f || y.2.2.m || y.2.2.bank) then 6
  else if st.any fun y => awaitsFetch y.2.1 then 7
  else 8

/-- EXPOSED_WRITE_LAND: a core bundle in which no warp issues (R24, R25). -/
def execExposedWriteLand (c : CoreId) (s : State) : Out :=
  let s := if s.coreRuns c then s.modCore c (·.releaseRestored) else s
  let k := s.cores[c]
  if k.holder.isSome || !s.coreRuns c || k.toGrant.isSome then .next s
  else
    let s := s.modCore c fun k => { k.bump k.idleReason 1 with sticky := k.stickyNow }
    .next (s.coreBundle c k.standings)

/-- USER_TRAP_DELIVERY (R163 to R165, R364): at a drained boundary, before the next stroke is granted. A trap that falls due
while its warp stands at a boundary is delivered there, and a stroke already decoded there is dropped (DEDUCED from R163
and R179, log 58); of a block being restored, after its first core bundle (R451). -/
def trapDue (x : Warp) (b : Block) : Bool :=
  x.state == .boundary && !b.halted && !b.restoring && b.moveTo.isNone && x.pending.isEmpty && x.trapReady && x.csync.isNone
def execUserTrapDelivery (c : CoreId) (w : WarpId) (s : State) : Out :=
  match s.warp? c w with
  | none => .next s
  | some x =>
    match s.cores[c].block? x.bid with
    | none => .next s
    | some b =>
      if trapDue x b && s.coreRuns c && s.cores[c].holder != some w && (b.hasTrap || s.cores[c].holder.isNone) then
        .next (s.deliverTrap c w)
      else .next s

/-- Whether an operation writes a register that a SHRINK releases (R66). -/
def Warp.writesReleased (x : Warp) (a : AllotChange) (k : OpKind) : Bool :=
  let v (d : Fin 128) : Bool := decide (x.curV - a.v ≤ (x.nameOf d).val)
  match k with
  | .mem m => m.kind != .store && m.dests.any v
  | .ldb _ _ _ d _ => v d
  | .hld _ d => decide (x.curH - a.h ≤ d.val)
  | .hrand d _ => decide (x.curH - a.h ≤ d.val)
  | .hclrc b => decide (x.curC - a.c ≤ b.val)
  | _ => false

/-- The destinations of an access renamed where a SHRINK stops the rotation (R174). -/
def Warp.renameDests (x : Warp) : OpKind → OpKind
  | .mem m => .mem { m with dests := m.dests.map x.nameOf }
  | .ldb b a l d p => .ldb b a l (x.nameOf d) p
  | k => k

/-- Whether a SHRINK can take effect (R66, R173). -/
def Core.shrinkReady (k : Core) (w : WarpId) : Option AllotChange :=
  match k.warps[w] with
  | none => none
  | some x =>
    match x.shrink with
    | none => none
    | some a =>
      if x.state == .boundary && x.pending.isEmpty && !(k.ops.any fun o => o.warp == w && x.writesReleased a o.kind)
      then some a else none

/-- SHRINK_RELEASE (R65, R66, R174). -/
def execShrinkRelease (c : CoreId) (w : WarpId) (s : State) : Out :=
  match s.cores[c].shrinkReady w, s.warp? c w with
  | some a, some x =>
    let stops := decide (x.curV = 128 ∧ 0 < a.v)
    let ren (r : ReplayRecord) : ReplayRecord := { r with access := { r.access with dests := r.access.dests.map x.nameOf } }
    .next (s.modCore c fun k =>
      let k := k.modWarp w fun y =>
        let y := y.shrinkBy a
        if stops then { y with records := y.records.map ren, held := y.held.map ren } else y
      if stops then { k with ops := k.ops.map fun o => if o.warp = w then { o with kind := x.renameDests o.kind } else o }
      else k)
  | _, _ => .next s

/-- WARP_AGEING (R396). -/
def execWarpAgeing (c : CoreId) (w : WarpId) (s : State) : Out :=
  match s.warp? c w with
  | none => .next s
  | some x =>
    match s.cores[c].block? x.bid with
    | none => .next s
    | some b =>
      let n := s.parts[b.part].ageingTicks
      if x.waited < n ∨ 6 ≤ x.level then .next s
      else .next (s.modWarp c w fun y => { y with level := y.level + 1, waited := y.waited - n })

/-- The blocks of a co-scheduled group on a cluster (R21). -/
def State.groupBlocks (s : State) (cl : ClusterId) (p : PartId) (node : Word) (g : Nat) : List (CoreId × Block) :=
  (List.finRange 8).flatMap fun i =>
    let c := coreOf cl i
    (s.cores[c].blocks.filter fun b => b.part == p && b.nodeAddr == node && b.group == some g).map fun b => (c, b)

/-- The blocks of a group that its sync line releases now, with the result (R41): an absent block has retired and counts
as raised, or is saved and has not raised its line. In a broken group a block is released once its own line is raised, one whose line was
low when the group broke too (DEDUCED, log 62). -/
def State.csyncReleases (s : State) (cl : ClusterId) (p : PartId) (node : Word) (g : Nat) : List (CoreId × Block) × Word :=
  let bs := s.groupBlocks cl p node g
  let up (x : CoreId × Block) : Bool := s.cores[x.1].lineRaised x.2
  let idle (x : CoreId × Block) : Bool :=
    (s.cores[x.1].blockWarps x.2.bid).all fun y => y.2.state == .exited || y.2.state == .retired
  let launches := bs.map fun x => x.2.launch
  let away := s.parts[p].saved.any fun e => e.group == some g && launches.contains e.launch
  let raised := bs.filter up
  if bs.any fun x => x.2.broken then (raised, 1)
  else if !away && bs.all fun x => up x || idle x then (raised, 0)
  else ([], 0)

/-- The operations that a CSYNC release orders before what follows it (R42, R322): those of its participants still outstanding, and
those that their fences name. -/
def State.csyncOps (s : State) (bs : List (CoreId × Block)) : List Nat :=
  (bs.flatMap fun (c, b) => b.warps.flatMap s.cores[c].before).dedup

/-- CSYNC_RELEASE (R40 to R42). -/
def execCsyncRelease (cl : ClusterId) (p : PartId) (node : Word) (group : Nat) (s : State) : Out :=
  let (bs, result) := s.csyncReleases cl p node group
  let ids := s.csyncOps bs
  .next (bs.foldl (fun s (c, b) =>
    s.modCore c fun k =>
      let waiting := (k.blockWarps b.bid).filter fun x => x.2.csync.isSome
      let k := waiting.foldl (fun (k : Core) x =>
        k.modWarp x.1 fun y =>
          match y.csync with
          | some d => { (y.setS d.val result).after ids with csync := none }
          | none => y) k
      { k with first := (waiting.head?).map (·.1) }) s)

/-- WARP_RETIRE (R43). -/
def execWarpRetire (c : CoreId) (w : WarpId) (s : State) : Out :=
  match s.warp? c w with
  | none => .next s
  | some x =>
    if x.state == .exited && x.pending.isEmpty then .next (s.modWarp c w fun y => { y with state := .retired })
    else .next s

end Sys2Proof.Machine
end

