-- ==== Sys2Proof/Machine/Perform.lean ====
section
/-! DEFINITION. The L path after issue: LOAD_COMPLETE, STORE_COMPLETE and REPLAY
(spec/08_memory_copy_instructions.md R217 to R234, spec/11_memory_model.md R313 to R328,
spec/19_translation.md R418 to R422, R428 to R431, spec/20_traps_context.md R444). -/

namespace Sys2Proof.Machine

/-- An operation completes (R28, R316): its counter falls, its events count (R181, R481), and what waited for it goes on (R171, R362). -/
def State.finishOp (s : State) (c : CoreId) (o : AsyncOp) (b : Block) : State :=
  let s := s.modCore c fun k =>
    { o.counts.foldl (fun k x => k.bump x.1 x.2) (k.modWarp o.warp fun y => y.modCount o.cls (· - 1)) with ops := k.ops.filter fun p => p.id != o.id }
  (s.settle c o.warp).flushMessages b.part

/-- A token written on completion: the value, and the mark cleared (R29). -/
def Warp.writeToken (w : Warp) (n : Nat) (v : Word) : Warp :=
  if n % 64 = 0 then w else { w.setS n v with tokens := w.tokens &&& ~~~(BitVec.ofNat 64 (2 ^ (n % 64))) }

/-- The canonical NaN that a poisoned word reads as (R444). -/
def poisonWord : Nat := 0x7FC00000

/-- A value landed in a lane of its destinations, 32 bits in each (R219, R223). -/
def Warp.landLane (w : Warp) (l : Nat) : List (Fin 128) → Nat → Warp
  | [], _ => w
  | d :: ds, x =>
    { w with v := upd w.v d fun r => setElem 32 r l (BitVec.ofNat 32 x) }.landLane l ds (x / 2 ^ 32)

/-- binary32 addition and maximum as atomics and COPYR make them (R232, R240): to nearest even, with subnormals, the
canonical NaN for any NaN. -/
def memAdd (f : Fmt) (x v : Nat) : Nat :=
  (f.ofVal .nearest 0 false (((f.decode false x).add .nearest (f.decode false v)).1)).1
def memMax (x v : Nat) : Nat :=
  let a := Fmt.b32.decode false x
  let b := Fmt.b32.decode false v
  if a.isNan || b.isNan then poisonWord
  else if a.lt b || (a.isZero && b.isZero && a.isNeg && !b.isNeg) then v else x

/-- The new memory value of an atomic of `width` bytes: x the old value, v the operand group (R231). -/
def atomicValue (op : AtomicOp) (signed : Bool) (width : Nat) (x v : Nat) : Nat :=
  let w := 8 * width
  let y := v % 2 ^ w
  match op with
  | .add => (x + y) % 2 ^ w
  | .fadd => memAdd .b32 x y
  | .min => if readInt (!signed) w x ≤ readInt (!signed) w y then x else y
  | .max => if readInt (!signed) w y ≤ readInt (!signed) w x then x else y
  | .and => Nat.land x y
  | .or => Nat.lor x y
  | .xor => Nat.xor x y
  | .xchg => y
  | .cas => if x = y then v / 2 ^ w % 2 ^ w else x

/-- Bytes of a number. -/
def natBytes (n x : Nat) : List Byte := (List.range n).map fun i => BitVec.ofNat 8 (x / 2 ^ (8 * i))

/-- The record of a poisoned read, once per sector and warp (R444). -/
def State.poisonRecord (s : State) (c : CoreId) (b : Block) (w : WarpId) (glyph : BitVec 32) (num : Nat) : State :=
  match s.warp? c w with
  | none => s
  | some x =>
    if x.poisonSeen.contains num then s
    else
      (s.modWarp c w fun y => { y with poisonSeen := y.poisonSeen ++ [num] }).pushRecord b.part (dieOf c).val
        (warpRecord c b x 4 0x3100 glyph (BitVec.ofNat 64 (64 * num)) 0)

/-- One lane of an L access performed at a physical address; none when the home refuses it (R221, R225, R231, R328,
R428, R444). -/
def State.performLane (s : State) (c : CoreId) (b : Block) (o : AsyncOp) (a : MemAccess) (l pa : Nat) : Option State :=
  let cl := clusterOf c
  let p := b.part
  let n := a.width
  let land (s : State) (x : Nat) : State :=
    if a.uniform then s.modWarp c o.warp fun (y : Warp) => (lanesOf a.left).foldl (fun (y : Warp) i => y.landLane i a.dests x) y
    else s.modWarp c o.warp fun (y : Warp) => y.landLane l a.dests x
  let bad := s.poisonAt pa n
  let poisonValue := packList 32 (List.replicate (regsOf n) poisonWord)
  match a.kind with
  | .store => (s.sliceWrite cl p pa (natBytes n a.data[fin 64 l].toNat)).map (·.wipe c o.id pa n)
  | .load =>
    match bad with
    | some num => if s.refuses pa then none else some (land (s.poisonRecord c b o.warp o.glyph num) poisonValue)
    | none => (s.sliceRead cl p pa n).map fun (s, bs) => land s (natOfBytes bs)
  | .atomic op signed scope _ _ =>
    match bad with
    | some num => if s.refuses pa then none else some (land (s.poisonRecord c b o.warp o.glyph num) poisonValue)
    | none =>
      let new (x : Nat) : List Byte := natBytes n (atomicValue op signed n x a.data[fin 64 l].toNat)
      if scope < 3 then
        match s.sliceRead cl p pa n with
        | none => none
        | some (s, bs) => (s.sliceWrite cl p pa (new (natOfBytes bs))).map fun s => land s (natOfBytes bs)
      else if s.refuses pa then none
      else
        (s.sliceFlush cl pa n).map fun s =>
          let x := s.homeNum pa n
          land (s.homeWrite none pa (new x)) x

/-- The distinct values of a list, in order. -/
def distinct (l : List Nat) : List Nat := l.foldl (fun acc x => if acc.contains x then acc else acc ++ [x]) []

/-- Each distinct page of the lanes translated once (R220). -/
def State.lanePages (s : State) (c : CoreId) (b : Block) (a : MemAccess) (lanes : List Nat) :
    State × List (Nat × Trans) :=
  (distinct (lanes.map fun l => pageOf a.addrs[fin 64 l])).foldl (fun (s, acc) page =>
    let (s, t) := s.translate c b.bid b.part (BitVec.ofNat 64 (page * 2 ^ 19)) a.kind.need
    (s, acc ++ [(page, t)])) (s, [])

/-- A lane that could not be performed: its address and sub-cause. -/
abbrev LaneFault := Nat × Word × Nat

/-- Lanes of an access performed in ascending order with their translations (R221, R224, R406). -/
def State.runLanes (s : State) (c : CoreId) (b : Block) (o : AsyncOp) (a : MemAccess) (lanes : List Nat) :
    State × List LaneFault :=
  let (s, pages) := s.lanePages c b a lanes
  lanes.foldl (fun ((s, bad) : State × List LaneFault) l =>
    let va := a.addrs[fin 64 l]
    let t : Option Trans := (pages.find? fun x => x.1 == pageOf va).map fun x => x.2
    match t with
    | some (.ok base) =>
      match s.performLane c b o a l (base + bitsN va 18 0) with
      | some s => (s, bad)
      | none => (s, bad ++ [(l, va, subMoved)])
    | some (.fault sub) => (s, bad ++ [(l, va, sub)])
    | none => (s, bad)) (s, [])

/-- The fault-queue record of a translation fault: every one but a moved response that the migration's notice will
resolve (R419, R431). -/
def State.translationRecord (s : State) (c : CoreId) (b : Block) (w : WarpId) (glyph : BitVec 32) (va : Word) (sub : Nat)
    (lanes : Mask) : State :=
  match s.warp? c w with
  | none => s
  | some x =>
    if sub = subMoved ∧ s.pageMigrating b.part va then s
    else s.pushRecord b.part (dieOf c).val (warpRecord c b x 2 (0x0700 + sub) glyph va lanes)

/-- Faulting lanes put into a replay record, or held: the first two accesses of a stroke that fault take one, and a warp holds at
most two; `front` for a record whose replay faults again (R224, R419, R422). -/
def State.addRecord (s : State) (c : CoreId) (b : Block) (o : AsyncOp) (a : MemAccess) (bad : List LaneFault)
    (front : Bool) : State :=
  match bad with
  | [] => s
  | (_, va, sub) :: _ =>
    let lanes := maskOf fun l => bad.any fun x => x.1 == l
    let r : ReplayRecord :=
      { glyph := o.glyph, subCause := sub, field := o.field, firstVa := va, access := { a with left := lanes }, opId := o.id
        resolved := false }
    match s.warp? c o.warp with
    | none => s
    | some x =>
      let join (q : ReplayRecord) : ReplayRecord :=
        if q.opId = o.id then { q with access := { q.access with left := q.access.left ||| lanes } } else q
      let s :=
        if x.records.any fun q => q.opId == o.id then s.modWarp c o.warp fun y => { y with records := y.records.map join }
        else if x.held.any fun q => q.opId == o.id then s.modWarp c o.warp fun y => { y with held := y.held.map join }
        else if x.records.length < 2 ∧ (front ∨ x.taken.count o.stroke < 2) then
          s.modCore c fun k =>
            (k.modWarp o.warp fun y =>
              { y with records := if front then r :: y.records else y.records ++ [r]
                       taken := if front then y.taken else y.taken ++ [o.stroke] }).bump 0x0E 1
        else s.modWarp c o.warp fun y => { y with held := y.held ++ [{ r with subCause := 0, firstVa := 0 }] }
      s.translationRecord c b o.warp o.glyph va sub lanes

/-- An L operation whose lanes have all been performed completes; an acquire at die scope or wider then invalidates
(R224, R327). -/
def State.closeAccess (s : State) (c : CoreId) (b : Block) (id : Nat) : State :=
  match s.cores[c].op? id with
  | none => s
  | some o =>
    match o.kind, s.warp? c o.warp with
    | .mem a, some x =>
      if x.lanesLeft o a ≠ 0 then s
      else
        let s := match a.kind with
          | .atomic _ _ scope acq _ => if acq && decide (3 ≤ scope) then s.acquire (clusterOf c) b.part else s
          | _ => s
        s.finishOp c o b
    | _, _ => s

/-- A release of die scope or wider is made before its atomic, and must have been acknowledged (R233, R326). -/
def State.beforeAccess (s : State) (c : CoreId) (b : Block) (a : MemAccess) : State × Bool :=
  match a.kind with
  | .atomic _ _ scope _ rel =>
    if rel && decide (3 ≤ scope) then
      let s := s.release (clusterOf c) b.part
      (s, !s.unreleased (clusterOf c) b.part)
    else (s, true)
  | _ => (s, true)

/-- Lanes of a global access performed (R223, R224, R316). -/
def State.performMem (s : State) (c : CoreId) (b : Block) (o : AsyncOp) (a : MemAccess) (lanes : Mask) : State :=
  match s.warp? c o.warp with
  | none => s
  | some x =>
    let was := s
    let (s, ready) := s.beforeAccess c b a
    if !ready || s.sliceStuck (clusterOf c) then s
    else
      let ls := s.freeLanes c b x o a lanes
      let (s, bad) := s.runLanes c b o a ls
      let done := if a.uniform && !ls.isEmpty then a.left else maskOf fun l => ls.contains l
      let bad := if a.uniform then bad.flatMap fun (_, va, sub) => (lanesOf a.left).map fun l => (l, va, sub) else bad
      (((s.modOp c o.id fun p => p.modAccess fun e => { e with left := e.left &&& ~~~done }).addRecord c b o a bad false
        ).tallied c o.id was).closeAccess c b o.id

/-- The AB banks that 256 bytes at a window address touch, locked by a copy (R72, R332). -/
def Core.bankLocked (k : Core) (lo n : Nat) : Bool :=
  k.ops.any fun o => match o.kind with
    | .copy t => t.begun && (banksOf lo n).any fun x => t.locks.contains x
    | _ => false

/-- Whether a typed access must wait: for a bank lock (R72), for an earlier one of its warp to its bytes (R222), or for an
earlier load into its destination (R223). A read of AB gives its bytes as the bundle before has left them, so it waits for the end of
a core bundle that has changed them (R78). -/
def Core.typedBlocked (k : Core) (b : Block) (o : AsyncOp) (buf : Buf) (a n : Nat) : Bool :=
  (buf == .ab && k.bankLocked (b.ab.base + a) n) ||
    (match o.kind, k.warps[o.warp] with
      | .ldb _ _ lanes d _, some x => k.destBlocked x o [d] lanes || (buf == .ab && k.abTouched (b.ab.base + a) n)
      | _, _ => false) ||
    k.ops.any fun p => p.warp == o.warp && decide (p.id < o.id) && (match p.kind with
      | .ldb y x _ _ _ => y == buf && rangesMeet a n x 256
      | .stb y x _ _ => y == buf && rangesMeet a n x 256
      | _ => false)

/-- An LDB performed: its lanes, poisoned ones with the canonical NaN (R227 to R229). -/
def State.performLdb (s : State) (c : CoreId) (b : Block) (o : AsyncOp) (buf : Buf) (a : Nat) (lanes : Mask)
    (dest : Fin 128) (poison : Mask) : State :=
  let m := s.cores[c].buf buf
  let at_ := (b.window buf).base + a
  (s.modWarp c o.warp fun (y : Warp) => (lanesOf lanes).foldl (fun (y : Warp) l =>
    y.landLane l [dest] (if poison.getLsbD l then poisonWord else m.num (at_ + 4 * l) 4)) y).finishOp c o b

/-- An STB performed. -/
def State.performStb (s : State) (c : CoreId) (b : Block) (o : AsyncOp) (buf : Buf) (a : Nat) (lanes : Mask)
    (data : VReg) : State :=
  let at_ := (b.window buf).base + a
  (s.modCore c fun k => (lanesOf lanes).foldl (fun k l =>
    let bs := bytesOf 4 (elem 32 data l)
    if buf = .ab then k.writeAb (at_ + 4 * l) bs else k.modBuf buf fun m => m.write (at_ + 4 * l) bs) k).finishOp c o b

/-- An L operation of a class goes on: the lanes asked for, of those that nothing holds back. -/
def State.performL (s : State) (c : CoreId) (id : Nat) (lanes : Mask) (cls : OpClass) : State :=
  match s.cores[c].op? id with
  | none => s
  | some o =>
    match s.cores[c].block? o.bid with
    | none => s
    | some b =>
      if o.cls ≠ cls ∨ s.opWaits c o then s
      else
        match o.kind with
        | .mem a => s.performMem c b o a lanes
        | .ldb buf a ls dest poison =>
          -- no core bundle passes on a core that does not run
          let s := if s.coreRuns c then s else s.modCore c (·.testActed)
          if s.cores[c].typedBlocked b o buf a 256 then s else s.performLdb c b o buf a ls dest poison
        | .stb buf a ls data =>
          if s.cores[c].typedBlocked b o buf a 256 then s else s.performStb c b o buf a ls data
        | _ => s

/-- LOAD_COMPLETE (R223): lanes of a load or an atomic land; the operation completes with its last. -/
def execLoadComplete (c : CoreId) (op : Nat) (lanes : Mask) (s : State) : Out := .next (s.performL c op lanes .load)
/-- STORE_COMPLETE (R316). -/
def execStoreComplete (c : CoreId) (op : Nat) (lanes : Mask) (s : State) : Out := .next (s.performL c op lanes .store)

/-- The records that may be replayed, in the order they were made: the resolved ones up to the first that is not, and then, with
every record resolved, the held accesses (R224, R422). -/
def Warp.replayable (x : Warp) : List ReplayRecord :=
  x.records.takeWhile (·.resolved) ++ (if x.records.all (·.resolved) then x.held else [])
/-- The lanes of a store or an atomic that it has still to perform outside its record: a lane replayed waits for the lower ones of its
byte (R221). -/
def State.ownLanes (s : State) (c : CoreId) (b : Block) (o : AsyncOp) : List LaneBytes :=
  match o.kind with
  | .mem a => if a.kind = .load ∨ a.uniform then [] else (lanesOf a.left).map (s.laneBytes c b a)
  | _ => []
/-- A record waits for the earlier accesses of its warp to its bytes, and for the earlier loads into its registers, since a replay
lies in program order at its access's own place (R222, R223, R422); for the lower lanes of its own access (R221); and for a notice before
its translation (R428, R435). -/
def State.replayWaits (s : State) (c : CoreId) (b : Block) (x : Warp) (o : AsyncOp) (r : ReplayRecord) : Bool :=
  let before := s.earlierBytes c b x o
  let own := s.ownLanes c b o
  s.cores[c].destBlocked x o r.access.dests r.access.left || (lanesOf r.access.left).any fun l =>
    (!before.isEmpty && before.any (s.laneBytes c b r.access l).meets) ||
      (!own.isEmpty && own.any fun y => decide (y.lane < l) && y.meets (s.laneBytes c b r.access l)) ||
      s.transWaits c b r.access.addrs[fin 64 l] r.access.kind.need
/-- A record waits for another one of its warp: that access was issued earlier and has to perform its lanes on the same bytes, or to
land in the same register (R222, R223). -/
def State.replayAfter (s : State) (c : CoreId) (b : Block) (r y : ReplayRecord) : Bool :=
  decide (y.opId < r.opId) &&
    ((r.access.left &&& y.access.left != 0 && r.access.dests.any y.access.dests.contains) ||
      (lanesOf r.access.left).any fun l => (lanesOf y.access.left).any fun m =>
        (s.laneBytes c b r.access l).meets (s.laneBytes c b y.access m))
/-- The record that is replayed next, with its operation: the first in the order of their creation (R422), or, where that one waits for
the record of an earlier access, that record (DEDUCED, log 22). -/
def State.nextReplay (s : State) (c : CoreId) (b : Block) (x : Warp) : Option (ReplayRecord × AsyncOp) :=
  let all := x.replayable.filterMap fun r => (s.cores[c].op? r.opId).map fun o => (r, o)
  match all with
  | [] => none
  | y :: rest =>
    if !s.replayWaits c b x y.2 y.1 then some y
    else rest.find? fun z => s.replayAfter c b y.1 z.1 && !s.replayWaits c b x z.2 z.1

/-- REPLAY (R422): a record's lanes performed with their captured operands; a translation that faults again makes a new
record. -/
def execReplay (c : CoreId) (w : WarpId) (s : State) : Out :=
  match s.warp? c w with
  | none => .next s
  | some x =>
    match s.cores[c].block? x.bid with
    | none => .next s
    | some b =>
      match s.nextReplay c b x with
      | none => .next s
      | some (r, o) =>
        if s.cores[c].holder = some w ∨ b.halted ∨ s.cores[c].drainsFirst b ∨ s.sliceStuck (clusterOf c) then .next s
        else
          let was := s
          let (s, ready) := s.beforeAccess c b r.access
          if !ready then .next s
          else
            let s := s.modWarp c w fun y =>
              { y with records := y.records.filter fun q => q.opId != r.opId, held := y.held.filter fun q => q.opId != r.opId }
            -- lanes that no route leads to go back to the operation, and end with it (R489)
            let far := (lanesOf r.access.left).filter fun l => s.stranded c b r.access l
            let s := s.modOp c o.id fun p => p.modAccess fun e => { e with left := e.left ||| maskOf fun l => far.contains l }
            let near := (lanesOf r.access.left).filter fun l => !far.contains l
            let ls := if r.access.uniform then near.take 1 else near
            let (s, bad) := s.runLanes c b o r.access ls
            let bad := if r.access.uniform then
                bad.flatMap fun (_, va, sub) => (lanesOf r.access.left).map fun l => (l, va, sub)
              else bad
            .next (((s.addRecord c b o r.access bad true).tallied c o.id was).closeAccess c b o.id)

/-- Records, fetches, X operations and microprogram reads that wait on a fault are resolved where `covers` holds of the
address and the sub-cause (R421). -/
def State.resolveFaults (s : State) (p : PartId) (covers : Word → Nat → Bool) : State :=
  { s with cores := s.cores.map fun k =>
      if k.blocks.any fun b => b.part == p then
        let mine (bid : Nat) : Bool := k.blocks.any fun b => b.bid == bid && b.part == p
        let hit (f : Option (Word × Nat)) : Bool := match f with | some (va, sub) => covers va sub | none => false
        { k with
          warps := k.warps.map (Option.map fun x =>
            if mine x.bid then
              { x with
                records := x.records.map fun r => if covers r.firstVa r.subCause then { r with resolved := true } else r
                fetchFault := if hit x.fetchFault then none else x.fetchFault }
            else x)
          ops := k.ops.map fun o => if mine o.bid && hit o.fault then { o with fault := none } else o }
      else k }

end Sys2Proof.Machine
end

