-- ==== Sys2Proof/Machine/Transfer.lean ====
section
/-! DEFINITION. The X path after issue: the elements of copies, gathers, puts and gets, table loads and signals
(spec/02_program_state.md R72, R78, spec/08_memory_copy_instructions.md R235 to R249, spec/11_memory_model.md R313, R331,
spec/23_links_firmware.md R488, R489), and the events COPY_BEGIN, COPY_BYTES_LAND and REMOTE_REQUEST_TIMEOUT. -/

namespace Sys2Proof.Machine

/-- Status codes of R244. -/
def stBarrier : Nat := 1
def stPoison : Nat := 2
def stUnreachable : Nat := 3
def stIndexRange : Nat := 4

/-- An X access translated; the remote side of PUT, GET and SIGNAL may name a package (R488). -/
def State.xTranslate (s : State) (c : CoreId) (b : Block) (va : Word) (need : Need) (remote : Bool) : State × Trans :=
  if remote && va.getLsbD 63 then
    if s.elsewhere va then (s, .ok (remotePa va b.part))
    else s.translate c b.bid b.part (va &&& 0x000FFFFFFFFFFFFF) need
  else s.translate c b.bid b.part va need

/-- What reading an element comes to. -/
inductive Read where
  | data (x : Nat)
  | poison (num : Nat)
  | fault (va : Word) (sub : Nat)
  deriving DecidableEq, Repr

/-- n bytes read at a global address, through the slice, or at the home on the remote side (R313). -/
def State.xRead (s : State) (c : CoreId) (b : Block) (va : Word) (n : Nat) (remote : Bool) : State × Read :=
  match s.xTranslate c b va Need.read remote with
  | (s, .fault sub) => (s, .fault va sub)
  | (s, .ok pa) =>
    if s.refuses pa && remote then (s, .fault va subMoved)
    else
      match s.poisonAt pa n with
      | some num => if s.refuses pa then (s, .fault va subMoved) else (s, .poison num)
      | none =>
        if remote then (s, .data (s.homeNum pa n))
        else
          match s.sliceRead (clusterOf c) b.part pa n with
          | none => (s, .fault va subMoved)
          | some (s, bs) => (s, .data (natOfBytes bs))

/-- The element that COPYR makes of the target's and the source's (R240). -/
def copyrValue (op t x : Nat) : Nat :=
  match op with
  | 0 => memAdd .b32 t x
  | 1 => memAdd .bf16 t x
  | _ => memMax t x

/-- n bytes written at a global address by operation `id`: an update of COPYR at the home, a PUT at the remote home, and
anything else through the slice (R240, R313, R444). -/
def State.xWrite (s : State) (c : CoreId) (b : Block) (id : Nat) (kind : CopyKind) (va : Word) (n x : Nat) :
    State × Option (Word × Nat) :=
  match kind with
  | .copyr op =>
    match s.xTranslate c b va Need.both false with
    | (s, .fault sub) => (s, some (va, sub))
    | (s, .ok pa) =>
      if s.refuses pa then (s, some (va, subMoved))
      else
        match s.sliceFlush (clusterOf c) pa n with
        | none => (s, some (va, subMoved))
        | some s => (s.homeWrite none pa (natBytes n (copyrValue op (s.homeNum pa n) x)), none)
  | .put =>
    match s.xTranslate c b va Need.write true with
    | (s, .fault sub) => (s, some (va, sub))
    | (s, .ok pa) => if s.refuses pa then (s, some (va, subMoved)) else ((s.homeWrite none pa (natBytes n x)).wipe c id pa n, none)
  | _ =>
    match s.xTranslate c b va Need.write false with
    | (s, .fault sub) => (s, some (va, sub))
    | (s, .ok pa) =>
      match s.sliceWrite (clusterOf c) b.part pa (natBytes n x) with
      | none => (s, some (va, subMoved))
      | some s => (s.wipe c id pa n, none)

/-- An element's bytes landed at their target address, in a window or in global memory. -/
def State.landAt (s : State) (c : CoreId) (b : Block) (id : Nat) (t : CopyOp) (target : Word) (bs : List Byte) :
    State × Option (Word × Nat) :=
  let n := bs.length
  let x := natOfBytes bs
  match spaceBuf (shToSpace t.shape) with
  | none => s.xWrite c b id t.kind target n x
  | some buf =>
    let at_ := (b.window buf).base + target.toNat
    (s.modCore c fun k =>
      let v := match t.kind with | .copyr op => copyrValue op ((k.buf buf).num at_ n) x | _ => x
      if buf = .ab then k.writeAb at_ (natBytes n v) else k.modBuf buf fun m => m.write at_ (natBytes n v), none)

/-- The index that a gather's row reads (R241). -/
def Core.gatherIndex (k : Core) (b : Block) (t : CopyOp) (row : Nat) : Nat := k.ab.num (b.ab.base + t.list + 4 * row) 4

/-- Where element n of a copy is read, and where it lands (R236, R241). -/
def CopyOp.source (t : CopyOp) (k : Core) (b : Block) (n : Nat) : Nat :=
  match t.kind with
  | .gath =>
    t.fromBase.toNat + k.gatherIndex b t (n / shExt t.shape 0) * shFromS t.shape 1 + n % shExt t.shape 0 * shE t.shape
  | _ => t.fromBase.toNat + shReadOff t.shape n
def CopyOp.target (t : CopyOp) (n : Nat) : Word := t.toBase + BitVec.ofNat 64 (shWriteOff t.shape n)

/-- Whether the row of a gather's element passes its window (R241). -/
def CopyOp.badRow (t : CopyOp) (k : Core) (b : Block) (n : Nat) : Bool :=
  match t.kind, spaceBuf (shFromSpace t.shape) with
  | .gath, some buf =>
    let row := t.fromBase.toNat + k.gatherIndex b t (n / shExt t.shape 0) * shFromS t.shape 1
    decide ((b.window buf).size < row + shExt t.shape 0 * shE t.shape)
  | _, _ => false

/-- An element read. -/
def State.readElem (s : State) (c : CoreId) (b : Block) (t : CopyOp) (n : Nat) : State × Read :=
  let a := t.source s.cores[c] b n
  match spaceBuf (shFromSpace t.shape) with
  | none => s.xRead c b (BitVec.ofNat 64 a) (shE t.shape) (t.kind == .get)
  | some buf => (s, .data ((s.cores[c].buf buf).num ((b.window buf).base + a) (shE t.shape)))

/-- n bytes to be subtracted from the barrier of a copy, and its test, at the core bundle's end (R35, R36, R78); none when the barrier,
with what the bundle subtracts already, would leave its range (R38). -/
def Core.subtract (k : Core) (b : Block) (t : CopyOp) (n : Nat) : Option Core :=
  match t.barrier with
  | none => some k
  | some a =>
    let pa := b.ab.base + a
    let due := ((k.acted.lookup pa).getD 0) + n
    if (k.barrier pa).canAdd (-due) then some { k with acted := actOn k.acted pa n } else none

/-- A copy's own data changed. -/
def AsyncOp.modCopy (o : AsyncOp) (f : CopyOp → CopyOp) : AsyncOp :=
  match o.kind with
  | .copy t => { o with kind := .copy (f t) }
  | _ => o

/-- A translation fault on an X access: the operation waits at that point, and the supervisor gets a record (R243, R419). -/
def State.xFault (s : State) (c : CoreId) (b : Block) (o : AsyncOp) (va : Word) (sub : Nat) : State :=
  (s.modOp c o.id fun p => { p with fault := some (va, sub) }).translationRecord c b o.warp o.glyph va sub 0

/-- A status other than DONE: the first that arises stays; POISON counts its bytes (R244). -/
def CopyOp.fail (t : CopyOp) (status detail : Nat) : CopyOp :=
  if t.status = 0 then { t with status := status, detail := detail }
  else if t.status = status ∧ status = stPoison then { t with detail := t.detail + detail }
  else t

/-- The bytes of a copy that have not landed: not read, or in quarantine (R244, R450). -/
def CopyOp.unlanded (t : CopyOp) : Nat :=
  (shCount t.shape - t.cursor) * shE t.shape + (t.quarantine.map fun y => y.2.length).foldl (· + ·) 0

/-- The copy ends at a byte whose subtraction would overflow (R242): BARRIER ends it, so it stands over an earlier POISON or
INDEX_RANGE (DEDUCED, log 9). -/
def CopyOp.overflow (t : CopyOp) : CopyOp :=
  { t with stopped := true, status := stBarrier
           detail := t.unlanded, quarantine := [] }

/-- One element landed, or what stops the copy (R236, R240 to R243, R444). An element that has been read is not read again: one
whose target faults waits in quarantine (R243). -/
def State.copyOne (s : State) (c : CoreId) (b : Block) (o : AsyncOp) (t : CopyOp) : State :=
  let n := match t.quarantine with | (_, bs) :: _ => min bs.length (shE t.shape) | [] => shE t.shape
  match s.cores[c].subtract b t n with
  | none => s.modOp c o.id fun p => p.modCopy (·.overflow)
  | some k' =>
    let counted (s : State) : State := s.modCore c fun k => (k.subtract b t n).getD k
    match t.quarantine with
    | (a, bs) :: rest =>
      match s.landAt c b o.id t a (bs.take n) with
      | (s, some (va, sub)) => s.xFault c b o va sub
      | (s, none) =>
        let more := if bs.length ≤ n then rest else (a + BitVec.ofNat 64 n, bs.drop n) :: rest
        (counted s).modCore c fun k => (k.modOp o.id fun p => p.modCopy fun u => { u with quarantine := more }).bump 0x13 n
    | [] =>
      let next (f : CopyOp → CopyOp) (s : State) : State :=
        s.modOp c o.id fun p => p.modCopy fun u => f { u with cursor := u.cursor + 1 }
      if t.badRow s.cores[c] b t.cursor then
        next (·.fail stIndexRange (t.cursor / shExt t.shape 0)) { s with cores := upd s.cores c fun _ => k' }
      else
        match s.readElem c b t t.cursor with
        | (s, .fault va sub) => s.xFault c b o va sub
        | (s, .poison num) => next (·.fail stPoison n) (counted (s.poisonRecord c b o.warp o.glyph num))
        | (s, .data x) =>
          match s.landAt c b o.id t (t.target t.cursor) (natBytes n x) with
          | (s, some (va, sub)) =>
            (s.modOp c o.id fun p => p.modCopy fun u =>
              { u with cursor := u.cursor + 1, quarantine := [(t.target t.cursor, natBytes n x)] }).xFault c b o va sub
          | (s, none) => (next id (counted s)).modCore c fun k => k.bump 0x13 n

/-- Whether a copy has elements to land. -/
def CopyOp.more (t : CopyOp) : Bool := !t.stopped && (!t.quarantine.isEmpty || decide (t.cursor < shCount t.shape))

/-- A copy of a restored block waits: for the quarantine entries that come before its own, or, past its own, for all of them
(R451). -/
def Core.drainsBefore (k : Core) (b : Block) (o : AsyncOp) (t : CopyOp) : Bool :=
  k.drainsFirst b && (t.quarantine.isEmpty || k.ops.any fun p => p.bid == b.bid && decide (p.id < o.id) && match p.kind with
    | .copy u => !u.quarantine.isEmpty
    | _ => false)

/-- Where the next element of a copy lands: its first quarantine entry's target, or its cursor's (R243). -/
def CopyOp.nextTarget (t : CopyOp) : Word :=
  match t.quarantine with
  | (a, _) :: _ => a
  | [] => t.target t.cursor

/-- What a copy needs of its target's page (R240, R411). -/
def CopyKind.need : CopyKind → Need
  | .copyr _ => Need.both
  | _ => Need.write
/-- The homes on other packages that the next element of a copy goes to, or, once its elements have landed and what comes before its
signal has completed, the signal. -/
def State.copyFar (s : State) (c : CoreId) (b : Block) (t : CopyOp) : List Nat :=
  (if t.more && t.quarantine.isEmpty && shFromSpace t.shape == 0 then
    (s.farHome c b (BitVec.ofNat 64 (t.source s.cores[c] b t.cursor)) Need.read (t.kind == .get)).toList else []) ++
  (if t.more && shToSpace t.shape == 0 then (s.farHome c b t.nextTarget t.kind.need (t.kind == .put)).toList else []) ++
  (match t.signal with
    | some va =>
      if t.more || t.after.any (fun i => s.cores[c].ops.any fun p => p.id == i) then []
      else (s.farHome c b va Need.both true).toList
    | none => [])

/-- An access of the X path waits for a notice before its translation; `remote` for the remote side of PUT, GET and SIGNAL. -/
def State.xWaits (s : State) (c : CoreId) (b : Block) (va : Word) (need : Need) (remote : Bool) : Bool :=
  !(remote && s.elsewhere va) && s.transWaits c b (if remote && va.getLsbD 63 then va &&& 0x000FFFFFFFFFFFFF else va) need
/-- The next element of a copy waits: for a place in its slice (R9), or for a notice before its translation (R428, R435). -/
def State.copyStuck (s : State) (c : CoreId) (b : Block) (t : CopyOp) : Bool :=
  ((shFromSpace t.shape == 0 || shToSpace t.shape == 0) && s.sliceStuck (clusterOf c)) ||
    (t.more && t.quarantine.isEmpty && shFromSpace t.shape == 0 &&
      s.xWaits c b (BitVec.ofNat 64 (t.source s.cores[c] b t.cursor)) Need.read (t.kind == .get)) ||
    (t.more && shToSpace t.shape == 0 && s.xWaits c b t.nextTarget t.kind.need (t.kind == .put))

/-- Up to n elements landed; none of a copy whose next one no route leads to (R489), or must wait. -/
def State.copyMany : Nat → State → CoreId → Block → Nat → State
  | 0, s, _, _, _ => s
  | n + 1, s, c, b, id =>
    match s.cores[c].op? id with
    | none => s
    | some o =>
      match o.kind with
      | .copy t =>
        if t.more && o.fault.isNone && !s.cores[c].drainsBefore b o t && !(s.copyFar c b t).any s.noRoute &&
            !s.copyStuck c b t then (s.copyOne c b o t).copyMany n c b id
        else s
      | _ => s

/-- COPY_BYTES_LAND: up to n elements of a copy land, in the order of their linear indices (no order is promised, R236); its
barrier is tested at the end of the core bundle (R36). -/
def execCopyBytesLand (c : CoreId) (op : Nat) (n : Nat) (s : State) : Out :=
  match s.cores[c].op? op with
  | none => .next s
  | some o =>
    match s.cores[c].block? o.bid, o.kind with
    | some b, .copy t =>
      if !t.begun || !t.more || o.fault.isSome || s.opWaits c o then .next s
      else .next ((s.copyMany n c b op).tallied c op s)
    | _, _ => .next s

/-- An MADV of the stroke in issue is still to read AB (R72, R268). -/
def Core.rowAhead (k : Core) : Bool :=
  (k.holder.bind fun w => k.warps[w]).any fun x => (strokeM x.rest).any fun u => u.2 == .advance
/-- COPY_BEGIN: a copy takes its locks once every earlier copy that it must wait for has completed (R72), and nothing that
a FENCE or a barrier orders before it is left: an access that it waits for may want the bank (R171, R319; log 35). A stroke that
holds an MADV is granted while no bank of AB is locked, and finds none locked later (R72, R331). -/
def Core.canBegin (k : Core) (id : Nat) (t : CopyOp) : Bool :=
  !t.begun && !(t.locks != [] && k.rowAhead) && !(k.ops.any fun p => p.id != id && match p.kind with
    | .copy a => (decide (p.id < id) || a.begun) && a.blocks t
    | _ => false)
def execCopyBegin (c : CoreId) (op : Nat) (s : State) : Out :=
  match s.cores[c].op? op with
  | none => .next s
  | some o =>
    match o.kind with
    | .copy t =>
      if s.cores[c].canBegin op t && !s.opWaits c o then
        .next (s.modOp c op fun p => p.modCopy fun u => { u with begun := true })
      else .next s
    | _ => .next s

/-- The token of an X operation (R239). -/
def tokOf (f : Field) : Nat := bitsN f 30 25
/-- A status word (R244). -/
def statusWord (status detail : Nat) : Word := BitVec.ofNat 64 (status + 2 ^ 32 * (detail % 2 ^ 32))

/-- An X operation completes with its token (R28, R29, R244). -/
def State.finishX (s : State) (c : CoreId) (o : AsyncOp) (b : Block) (status detail : Nat) : State :=
  (s.modWarp c o.warp fun y => y.writeToken (tokOf o.field) (statusWord status detail)).finishOp c o b

/-- A release at domain scope on the X path, and then a word written or added to at its home (R248, R249); false while
it must wait. -/
def State.signalWord (s : State) (c : CoreId) (b : Block) (o : AsyncOp) (add : Bool) (va value : Word) : State × Bool :=
  let s := s.release (clusterOf c) b.part
  if s.unreleased (clusterOf c) b.part || s.xWaits c b va Need.both true then (s, false)
  else
    match s.xTranslate c b va Need.both true with
    | (s, .fault sub) => (s.xFault c b o va sub, false)
    | (s, .ok pa) =>
      if s.refuses pa then (s.xFault c b o va subMoved, false)
      else
        match s.sliceFlush (clusterOf c) pa 8 with
        | none => (s.xFault c b o va subMoved, false)
        | some s =>
          let x : Word := BitVec.ofNat 64 (s.homeNum pa 8)
          (s.homeWrite none pa (bytesOf 8 (if add then x + value else value)), true)

/-- A copy whose elements have all landed completes; a PUT's signal comes first (R248, R316). -/
def State.completeCopy (s : State) (c : CoreId) (b : Block) (o : AsyncOp) (t : CopyOp) : State :=
  if t.more then s
  else
    match t.signal with
    | some va =>
      if t.status = stUnreachable then s.finishX c o b t.status t.detail
      else if t.after.any fun i => s.cores[c].ops.any fun p => p.id == i then s
      else
        match s.signalWord c b o true va 1 with
        | (s, true) => s.finishX c o b t.status t.detail
        | (s, false) => s
    | none => s.finishX c o b t.status t.detail

/-- The bytes of a table load's target, and the bank with them (R246). -/
def tableBytes (sel : BitVec 9) : Nat := if sel.getLsbD 8 then 128 else 1024
def FBank.load (x : FBank) (sel : BitVec 9) (f : Nat → Nat) : FBank :=
  if sel.getLsbD 8 then
    { x with programs := upd x.programs (fin 40 (bitsN sel 7 0 - 24)) fun _ => BitVec.ofNat 1024 (f (bitsN sel 7 0)) }
  else { x with tables := upd x.tables (fin 8 (bitsN sel 7 0)) fun _ => BitVec.ofNat 8192 (f (bitsN sel 7 0)) }
/-- What a bank's target holds. -/
def FBank.held (x : FBank) (sel : BitVec 9) : Nat :=
  if sel.getLsbD 8 then x.programs[fin 40 (bitsN sel 7 0 - 24)].toNat else x.tables[fin 8 (bitsN sel 7 0)].toNat

/-- The words of a table load read, 4 bytes each; a poisoned one keeps the target's (R244, R444). -/
def State.tableWords (s : State) (c : CoreId) (b : Block) (o : AsyncOp) (a : Word) (old : Nat) :
    Nat → State × Nat × Nat ⊕ (State × Word × Nat)
  | 0 => .inl (s, 0, 0)
  | n + 1 =>
    match s.tableWords c b o a old n with
    | .inr r => .inr r
    | .inl (s, acc, bad) =>
      let va := a + BitVec.ofNat 64 (4 * n)
      match s.xRead c b va 4 false with
      | (s, .fault va sub) => .inr (s, va, sub)
      | (s, .poison num) => .inl (s.poisonRecord c b o.warp o.glyph num, acc + natBits old (32 * n) 32 * 2 ^ (32 * n), bad + 4)
      | (s, .data x) => .inl (s, acc + x * 2 ^ (32 * n), bad)

/-- TBLD completes (R246, R247). -/
def State.completeTbld (s : State) (c : CoreId) (b : Block) (o : AsyncOp) (bank : Fin 2) (sel : BitVec 9) (a : Word) : State :=
  let old := s.cores[c].banks[bank].held sel
  if s.sliceStuck (clusterOf c) || (pagePieces a (tableBytes sel)).any fun y => s.xWaits c b y.1 Need.read false then s
  else
  match s.tableWords c b o a old (tableBytes sel / 4) with
  | .inr (s, va, sub) => s.xFault c b o va sub
  | .inl (s, x, bad) =>
    (s.modCore c fun k => { k with banks := upd k.banks bank fun y => y.load sel fun _ => x }).finishX c o b
      (if bad = 0 then 0 else stPoison) bad

/-- SIGNAL completes (R249). -/
def State.completeSignal (s : State) (c : CoreId) (b : Block) (o : AsyncOp) (add : Bool) (va value : Word) : State :=
  match s.signalWord c b o add va value with
  | (s, true) => s.finishOp c o b
  | (s, false) => s

/-- 50 milliseconds in ticks (R489). -/
def timeoutTicks : Nat := 50000 * Config.ticksPerUs

/-- The lanes of an access whose requests have gone out: those that no earlier access and no notice holds back. -/
def State.sentLanes (s : State) (c : CoreId) (b : Block) (o : AsyncOp) (a : MemAccess) : List Nat :=
  match s.warp? c o.warp with
  | none => []
  | some x =>
    let before := s.earlierBytes c b x o
    (lanesOf a.left).filter fun l =>
      !s.laneBlocked c b x o a before l && !s.transWaits c b a.addrs[fin 64 l] a.kind.need

/-- The remaining lanes of an access whose home is on another package end (R489): loads and atomics deliver the canonical
NaN, stores are dropped, and each sector is recorded. -/
def State.timeoutMem (s : State) (c : CoreId) (b : Block) (o : AsyncOp) (a : MemAccess) (ends : Nat → Bool) : State :=
  let ls := (s.sentLanes c b o a).filter fun l => (s.farHome c b a.addrs[fin 64 l] a.kind.need false).any ends
  let bad := packList 32 (List.replicate (regsOf a.width) poisonWord)
  let s := ls.foldl (fun (s : State) l =>
    let s := s.poisonRecord c b o.warp o.glyph (((s.locate c b a.addrs[fin 64 l]).getD 0) / 64)
    if a.kind == MemKind.store then s else s.modWarp c o.warp fun y => y.landLane l a.dests bad) s
  (s.modOp c o.id fun p => p.modAccess fun e => { e with left := e.left &&& ~~~(maskOf fun l => ls.contains l) }).closeAccess c
    b o.id

/-- The homes on other packages that an operation's request has gone out to: none while something holds it back. -/
def State.opFar (s : State) (c : CoreId) (b : Block) (o : AsyncOp) : List Nat :=
  if s.opWaits c o || o.fault.isSome then []
  else
    match o.kind with
    | .mem a => (s.sentLanes c b o a).flatMap fun l => (s.farHome c b a.addrs[fin 64 l] a.kind.need false).toList
    | .copy t => if !t.begun || s.cores[c].drainsBefore b o t || s.copyStuck c b t then [] else s.copyFar c b t
    | .tbld _ sel va => (pagePieces va (tableBytes sel)).flatMap fun y => (s.farHome c b y.1 Need.read false).toList
    | .signal _ va _ => (s.farHome c b va Need.both true).toList
    | _ => []
/-- A partition has an operation whose request no route leads to, so that it waits for its end (R378, R489). -/
def State.waitsFar (s : State) (p : PartId) : Bool :=
  allCores.any fun c => s.cores[c].blocks.any fun b => b.part == p &&
    s.cores[c].ops.any fun o => o.bid == b.bid && (s.opFar c b o).any s.noRoute

/-- REMOTE_REQUEST_TIMEOUT (R489): 50 ms after its send, a request to another package that has not been acknowledged
ends, and one that has not gone out does not; one to a package with no route ends at once. What an unreachable copy has not landed is not subtracted from its barrier: R242
names INDEX_RANGE and POISON alone (DEDUCED, log 9). -/
def execRemoteRequestTimeout (c : CoreId) (op : Nat) (s : State) : Out :=
  match s.cores[c].op? op with
  | none => .next s
  | some o =>
    match s.cores[c].block? o.bid with
    | none => .next s
    | some b =>
      let far := s.opFar c b o
      let lost := far.any s.noRoute
      let due := if lost then s else s.upTo (o.sent + timeoutTicks)
      if far.isEmpty then .next s
      else
        match o.kind with
        | .mem a => .next (due.timeoutMem c b o a fun pa => !lost || s.noRoute pa)
        | .copy t => .next (due.finishX c o b stUnreachable t.unlanded)
        | .tbld _ sel _ => .next (due.finishX c o b stUnreachable (tableBytes sel))
        | .signal _ va _ =>
          match due.warp? c o.warp with
          | none => .next due
          | some x =>
            .next ((due.pushRecord b.part (dieOf c).val (warpRecord c b x 4 0x3100 o.glyph va 0)).finishOp c o b)
        | _ => .next s

end Sys2Proof.Machine
end

