-- ==== Sys2Proof/Machine/Tiles.lean ====
section
/-! DEFINITION. The plane loader, the sequencer and the asynchronous side of H: LDST_COMPLETE, TILE_OP_START,
TILE_OP_COMPLETE and H_ASYNC_COMPLETE (spec/09_matrix_function_instructions.md R258 to R274, spec/03_numbers.md R93 to R96,
spec/10_hypervector_instructions.md R293 to R305). -/

namespace Sys2Proof.Machine

/-- LDST_COMPLETE (R258): LDSTs of a core complete in issue order. -/
def execLdstComplete (c : CoreId) (op : Nat) (s : State) : Out :=
  let k := s.cores[c]
  match k.op? op with
  | none => .next s
  | some o =>
    match k.block? o.bid, o.kind with
    | some b, .ldst r w plane poisoned =>
      let earlier := k.ops.any fun p => decide (p.id < op) && match p.kind with | .ldst _ _ _ _ => true | _ => false
      if earlier || s.opWaits c o then .next s
      else
        let data : BitVec 65536 := ofBytes 65536 (k.wb.read (b.wb.base + w) 8192)
        let n := if rvScaled r then 8192 / codeBytes (rvFmt r) / rvBlk r else 0
        let scales : BitVec 8192 := ofBytes 8192 (k.wb.read (b.wb.base + rvScaleOff r) n)
        let s := s.modCore c fun k =>
          { k with planes := upd k.planes plane fun _ => { data := data, scales := scales, tag := planeTag r poisoned } }
        .next (s.finishOp c o b)
    | _, _ => .next s

/-- The accumulator row at a window address of CB, and its physical address, which names its poison mark (R251, R256). -/
def cbRowAt (b : Block) (row : Nat) : Nat := b.cb.base + row

/-- The poison marks with those of some rows set, or cleared (R251, R274). -/
def Core.mark (k : Core) (rows : List Nat) : Core :=
  { k with poison := k.poison ++ rows.filter fun r => !k.poison.contains r }
def Core.unmark (k : Core) (rows : List Nat) : Core := { k with poison := k.poison.filter fun r => !rows.contains r }

/-- An accumulator element with a rounded slice sum added (R95, R96). -/
def accAdd (ftz : Bool) (acc sum : Nat) : Nat × Flags :=
  let a := Fmt.b32.decode false acc
  let x := Fmt.b32.decode false sum
  let r := (a.add .nearest x).1
  let o := Fmt.b32.ofVal .nearest 0 ftz r
  (o.1, flIf (r.isNan && !a.isNan && !x.isNan) flNv ||| (o.2 &&& flOf))

/-- Row i of an operation: its AB address, and its CB address (R265). -/
def TileOp.abRow (t : TileOp) (i : Nat) : Nat := ((t.start : Int) + cfAbStep t.config * i).toNat
def TileOp.cbRow (t : TileOp) (i : Nat) : Nat :=
  match t.kind with
  | .mloop => ((t.start2 : Int) + cfCbStep t.config * i).toNat
  | _ => t.start + 512 * i

/-- One MLOOP row (R254 to R256, R265, R273): its sums added to the CB row; a poisoned plane marks the row instead. -/
def Core.loopRow (k : Core) (b : Block) (t : TileOp) : Core × Flags × Bool :=
  let plane := k.planes[k.active]
  let at_ := cbRowAt b (t.cbRow t.done)
  if tagPoisoned plane.tag then (k.mark [at_], 0, true)
  else
    let sums := rowSums t.config t.ftz plane k.ab b.ab.base (t.abRow t.done)
    let int := matGroup (cfAFmt t.config) == 2
    let r := (sums.zip (List.range 128)).map fun (x, n) =>
      let acc := k.cb.num (at_ + 4 * n) 4
      if int then ((acc + x.1) % 2 ^ 32, 0)
      else
        let y := accAdd t.ftz acc x.1
        (y.1, y.2 ||| x.2)
    ({ k with cb := k.cb.write at_ (r.flatMap fun y => natBytes 4 y.1) }, r.foldl (fun a y => a ||| y.2) 0, false)

/-- The binary exponent of a format's largest finite value (R93). -/
def Fmt.emax (f : Fmt) : Int := let (m, e) := f.plain f.maxCode; (m.log2 : Int) + e

/-- The E8 scale of a block of sources; none where it is 0xFF (R93). -/
def blockScale (f : Fmt) (vs : List FVal) : Option Nat :=
  if vs.any fun v => v.isNan || v.isInf then none
  else
    let tops := vs.filterMap fun v => match v with | .fin _ m e => if m = 0 then none else some ((m.log2 : Int) + e) | _ => none
    match tops with
    | [] => some 0x7F
    | x :: xs => some (max 0 (min 254 (xs.foldl max x - f.emax + 127))).toNat

/-- A block converted under its own scale: scale byte, codes and flags (R93); a signalling NaN sets nv (R80). -/
def convertBlock (f : Fmt) (mode : Mode) (ftz : Bool) (vs : List (FVal × Nat)) : Nat × List Nat × Flags :=
  match blockScale f (vs.map (·.1)) with
  | none => (0xFF, vs.map fun _ => 0, flIf (vs.any fun v => v.1.isSnan) flNv)
  | some e =>
    let rs := vs.map fun (v, r) => f.convert mode r ftz true (v.scale (127 - (e : Int)))
    (e, rs.map (·.1), rs.foldl (fun a y => a ||| y.2) 0)

/-- The elements of a list in blocks of n. -/
def blocksOf {α : Type} (n : Nat) (count : Nat) (l : List α) : List (List α) :=
  (List.range count).map fun i => (l.drop (n * i)).take n

/-- The random bits of element j of a converted row (R267). -/
def TileOp.rand (t : TileOp) (j : Nat) : Nat :=
  rngBits (mix t.rngk (t.rngc + BitVec.ofNat 64 t.done) (j % 64)) (j / 64)

/-- One row of MCVT (R266, R267). -/
def Core.convertRow (k : Core) (b : Block) (t : TileOp) : Core × Flags :=
  match Fmt.ofCode (rvFmt t.record) with
  | none => (k, 0)
  | some f =>
    let at_ := cbRowAt b (t.cbRow t.done)
    let bad := k.poison.contains at_
    let mode := Mode.ofCode t.rm.toNat
    let wt := f.bytes
    let out := b.ab.base + t.start2 + t.done * 128 * wt
    let codes := (List.range 128).map fun n => k.cb.num (at_ + 4 * n) 4
    let rnd (j : Nat) : Nat := if mode = .stochastic then t.rand j else 0
    let put (k : Core) (cs : List Nat) : Core := k.writeAb out (cs.flatMap fun x => natBytes wt x)
    if f.isInt then
      let rs := codes.map fun x =>
        if bad then (0, flNv)
        else
          let v := sx 32 x
          let y := if f = .i8 then max (-128) (min 127 v) else max 0 (min 255 v)
          (wrapTo 8 y, flIf (y != v) flNv)
      (put k (rs.map (·.1)), rs.foldl (fun a y => a ||| y.2) 0)
    else
      let vs := (codes.zip (List.range 128)).map fun (x, j) =>
        (if bad then FVal.nan false else Fmt.b32.decode t.ftz x, rnd j)
      if rvScaled t.record then
        let blk := rvBlk t.record
        let rs := (blocksOf blk (128 / blk) vs).map fun vs => convertBlock f mode t.ftz vs
        let scaleAt := b.ab.base + rvScaleOff t.record + (t.start2 - rvBase t.record + t.done * 128 * wt) / wt / blk
        let k := put k (rs.flatMap fun r => r.2.1)
        (k.writeAb scaleAt (rs.map fun r => BitVec.ofNat 8 r.1), rs.foldl (fun a r => a ||| r.2.2) 0)
      else
        let rs := vs.map fun (v, r) => f.convert mode r t.ftz true v
        (put k (rs.map (·.1)), rs.foldl (fun a y => a ||| y.2) 0)

/-- The bytes of AB that a row reads or writes, its scale bytes with them: window address and length (R253, R267). -/
def TileOp.abBytes (t : TileOp) : List (Nat × Nat) :=
  match t.kind with
  | .mzero => []
  | .mloop => rowBytes t.config (t.abRow t.done)
  | .mcvt =>
    let wt := codeBytes (rvFmt t.record)
    let at_ := t.start2 + t.done * 128 * wt
    (at_, 128 * wt) ::
      if rvScaled t.record then [(rvScaleOff t.record + (at_ - rvBase t.record) / wt / rvBlk t.record, 128 / rvBlk t.record)] else []

/-- Whether the bytes of AB that a row reads or writes lie in a bank that a copy locks (R72, R271, R331). -/
def Core.rowLocked (k : Core) (b : Block) (t : TileOp) : Bool := t.abBytes.any fun y => k.bankLocked (b.ab.base + y.1) y.2

/-- A tile operation's own data changed. -/
def AsyncOp.modTile (o : AsyncOp) (f : TileOp → TileOp) : AsyncOp :=
  match o.kind with
  | .tile t => { o with kind := .tile (f t) }
  | _ => o

/-- One row of a tile operation. -/
def Core.tileRow (k : Core) (b : Block) (o : AsyncOp) (t : TileOp) : Core :=
  let step (k : Core) (fl : Flags) (marked : Bool) : Core :=
    k.modOp o.id fun p => p.modTile fun u =>
      { u with done := u.done + 1, flags := u.flags ||| fl
               poisoned := if marked then u.poisoned ++ [t.cbRow t.done] else u.poisoned }
  match t.kind with
  | .mzero =>
    let at_ := cbRowAt b (t.cbRow t.done)
    step ({ k with cb := k.cb.clear at_ 512 }.unmark [at_]) 0 false
  | .mloop => let (k, fl, m) := k.loopRow b t; step k fl m
  | .mcvt => let (k, fl) := k.convertRow b t; step k fl false

/-- Up to n rows of the operation at the sequencer's head, while none meets a locked bank. -/
def Core.tileRows : Nat → Core → Block → Nat → Core
  | 0, k, _, _ => k
  | n + 1, k, b, id =>
    match k.op? id with
    | none => k
    | some o =>
      match o.kind with
      | .tile t => if t.done < t.rows && !k.rowLocked b t then (k.tileRow b o t).tileRows n b id else k
      | _ => k

/-- The operation that the sequencer performs: the first in issue order (R263). -/
def Core.sequencer (k : Core) : Option (AsyncOp × TileOp) :=
  k.ops.findSome? fun o => match o.kind with | .tile t => some (o, t) | _ => none

/-- TILE_OP_START: the sequencer's head starts (R263); of a restored block, once its quarantine is drained (R451). -/
def execTileOpStart (c : CoreId) (s : State) : Out :=
  match s.cores[c].sequencer with
  | some (o, t) =>
    if t.begun || s.opWaits c o || (s.cores[c].block? o.bid).any s.cores[c].drainsFirst then .next s
    else .next (s.modOp c o.id fun p => p.modTile fun u => { u with begun := true })
  | none => .next s

/-- The matrix error record of a tile operation that marked rows (R273). -/
def State.matrixRecord (s : State) (c : CoreId) (b : Block) (o : AsyncOp) (rows : List Nat) : State :=
  match s.warp? c o.warp with
  | none => s
  | some x =>
    s.pushRecord b.part (dieOf c).val
      (warpRecord c b x 3 0x3000 o.glyph (match rows with | [] => BitVec.allOnes 64 | r :: _ => BitVec.ofNat 64 r)
        (BitVec.ofNat 64 rows.dedup.length))

/-- A tile operation completes: its flags merge and the tile counter falls (R59, R96, R263, R273). -/
def State.completeTile (s : State) (c : CoreId) (b : Block) (o : AsyncOp) (t : TileOp) : State :=
  let s := if t.poisoned = [] then s else s.matrixRecord c b o t.poisoned
  (s.modCore c fun k => (k.modWarp o.warp (·.merge t.flags)).bump 0x14 1).finishOp c o b

/-- TILE_OP_COMPLETE: up to `rows` rows of the sequencer's head are performed; with its last it completes. -/
def execTileOpComplete (c : CoreId) (rows : Nat) (s : State) : Out :=
  match s.cores[c].sequencer with
  | none => .next s
  | some (o, t) =>
    match s.cores[c].block? o.bid with
    | some b =>
      if !t.begun then .next s
      else
        let s := s.modCore c fun k => k.tileRows (min rows (t.rows - t.done)) b o.id
        match s.cores[c].op? o.id with
        | some o =>
          match o.kind with
          | .tile t => if t.rows ≤ t.done then .next (s.completeTile c b o t) else .next s
          | _ => .next s
        | none => .next s
    | none => .next s

/-- The AB bytes that an H operation reads or writes, and the register it writes (R293 to R295). -/
def OpKind.hRange : OpKind → Option Nat
  | .hld a _ => some a | .hst a _ => some a | _ => none
def OpKind.hDest : OpKind → Option (Fin 16)
  | .hld _ d => some d | .hrand d _ => some d | _ => none
def OpKind.hBank : OpKind → Option (Fin 4)
  | .hclrc b => some b | _ => none

/-- Whether an H operation must wait: for an earlier HNEAR of the core (R305), for an earlier H access of its warp to
its bytes (R295) or result in its register or bank (R293), or for a bank lock (R72). -/
def Core.hBlocked (k : Core) (b : Block) (o : AsyncOp) : Bool :=
  let earlier := k.ops.filter fun p => decide (p.id < o.id)
  let mine := earlier.filter fun p => p.warp == o.warp
  (match o.kind with
    | .hnear _ _ _ _ => earlier.any fun p => match p.kind with | .hnear _ _ _ _ => true | _ => false
    | _ => false) ||
  (match o.kind.hRange with
    | some a => k.bankLocked (b.ab.base + a) 1024 ||
        mine.any fun p => match p.kind.hRange with | some x => rangesMeet a 1024 x 1024 | none => false
    | none => false) ||
  (match o.kind.hDest with
    | some d => mine.any fun p => p.kind.hDest == some d
    | none => false) ||
  (match o.kind.hBank with
    | some d => mine.any fun p => p.kind.hBank == some d
    | none => false)

/-- H_ASYNC_COMPLETE (R293 to R305). HLD reads all its bytes, HNEAR reads every row, and HST shows all its bytes, at this one instant: R294
leaves open the clock of each byte, R305 that of each row, R295 that of each word (DESIGN CHOICE, log 54). -/
def execHAsyncComplete (c : CoreId) (op : Nat) (s : State) : Out :=
  let k := s.cores[c]
  match k.op? op with
  | none => .next s
  | some o =>
    match k.block? o.bid with
    | none => .next s
    | some b =>
      if s.opWaits c o || k.hBlocked b o then .next s
      else
        match o.kind with
        | .hld a d =>
          let x : HReg := ofBytes 8192 (k.ab.read (b.ab.base + a) 1024)
          .next ((s.modWarp c o.warp fun y => { y with h := upd y.h d fun _ => x }).finishOp c o b)
        | .hst a x =>
          .next ((s.modCore c fun k => k.writeAb (b.ab.base + a) (bytesOf 1024 x)).finishOp c o b)
        | .hclrc n => .next ((s.modWarp c o.warp fun y => { y with c := upd y.c n fun _ => 0 }).finishOp c o b)
        | .hrand d x => .next ((s.modWarp c o.warp fun y => { y with h := upd y.h d fun _ => x }).finishOp c o b)
        | .htie d n => .next ((s.modWarp c o.warp fun y => y.writeToken d.val (BitVec.ofNat 64 n)).finishOp c o b)
        | .hnear tok dist q r =>
          let rows := rvLen r / 1024
          let row (i : Nat) : HReg := ofBytes 8192 (k.wb.read (b.wb.base + rvBase r + 1024 * i) 1024)
          let t := bitsN o.field 11 0
          let (best, d) := searchRows row q t rows 0 (0xFFFFFFFF, 0xFFFFFFFF)
          let s := s.modWarp c o.warp fun y => (y.writeToken tok.val (BitVec.ofNat 64 best)).writeToken dist.val (BitVec.ofNat 64 d)
          .next ((s.modCore c fun k => k.bump 0x15 rows).finishOp c o b)
        | _ => .next s

end Sys2Proof.Machine
end

