-- ==== Sys2Proof/Machine/Launch.lean ====
section
/-! DEFINITION. Launch nodes, graphs and their validation, nodes becoming ready, completion
(spec/01_execution_model.md R12 to R16, R43, R509, spec/18_launch_scheduling.md R383 to R391,
spec/08_memory_copy_instructions.md R250, spec/19_translation.md R508), and the event LAUNCH's effect. -/

namespace Sys2Proof.Machine

/-- Fields of a launch node (R13). -/
def ndKdesc (n : BitVec 512) : Word := n.extractLsb' 0 64
def ndCount (n : BitVec 512) : Nat := bitsN n 95 64
def ndViewX (n : BitVec 512) : Nat := bitsN n 111 96
def ndViewY (n : BitVec 512) : Nat := bitsN n 127 112
def ndViewZ (n : BitVec 512) : Nat := bitsN n 143 128
def ndWarps (n : BitVec 512) : Nat := bitsN n 147 144
def ndPriority (n : BitVec 512) : Nat := bitsN n 154 152
def ndCosched (n : BitVec 512) : Bool := n.getLsbD 160
def ndCoresident (n : BitVec 512) : Bool := n.getLsbD 161
def ndSupervisor (n : BitVec 512) : Bool := n.getLsbD 162
def ndHoldOnFail (n : BitVec 512) : Bool := n.getLsbD 164
def ndV (n : BitVec 512) : Nat := bitsN n 191 176
def ndH (n : BitVec 512) : Nat := bitsN n 199 192
def ndC (n : BitVec 512) : Nat := bitsN n 207 200
def ndK (n : BitVec 512) : Nat := bitsN n 215 208
/-- The dies that an affinity admits (R13). -/
def ndAdmits (n : BitVec 512) (d : DieId) : Bool := bitsN n 219 216 == 0 || n.getLsbD (216 + d.val)
def ndWb (n : BitVec 512) : Nat := bitsN n 239 224
def ndAb (n : BitVec 512) : Nat := bitsN n 255 240
def ndCb (n : BitVec 512) : Nat := bitsN n 271 256
def ndLastLanes (n : BitVec 512) : Nat := bitsN n 277 272
def ndSucc (n : BitVec 512) : Word := n.extractLsb' 320 64
def ndArgs (n : BitVec 512) : Word := n.extractLsb' 384 64
def ndCompletion (n : BitVec 512) : Word := n.extractLsb' 448 64

/-- A kernel descriptor's limits (R12). -/
def kdescOk (d : BitVec 512) : Bool :=
  bitsN d 511 352 == 0 && decide (1 ≤ bitsN d 351 320) && decide (bitsN d 255 224 < bitsN d 351 320) &&
    bitsN d 223 216 == 1 && bitsN d 215 213 == 0 && decide (bitsN d 207 200 ≤ 4 ∧ bitsN d 199 192 ≤ 4 ∧ bitsN d 191 184 ≤ 16)
    && decide (1 ≤ bitsN d 183 176 ∧ bitsN d 183 176 ≤ 64) && decide (bitsN d 175 168 ≤ 128) && bitsN d 175 168 % 8 == 0 &&
    bitsN d 167 128 == 0 && bitsN d 71 64 == 0 && bitsN d 7 0 == 0

/-- What validation reads of a node: its descriptor, header and successors where they can be read, and whether its
completion record's page can be written. -/
structure NodeRead where
  node : BitVec 512
  kdesc : Option (BitVec 512)
  header : Option (BitVec 2048)
  succs : Option (List Nat)
  completionOk : Bool
  deriving DecidableEq, Repr

/-- The byte of the lowest non-zero bit of a range that must be zero (R509). -/
def reservedAt (n : BitVec 512) (hi lo : Nat) : List Nat :=
  (((List.range (hi + 1 - lo)).find? fun i => n.getLsbD (lo + i)).map fun i => (lo + i) / 8).toList

/-- A fault offset when a condition fails. -/
def faultUnless (ok : Bool) (off : Nat) : List Nat := if ok then [] else [off]

/-- The offsets at which a node breaks R12 to R14 other than by its per-block needs (R509). -/
def badFields (r : NodeRead) (nodes : Nat) (supervisorGraph prio7Graph : Bool) : List Nat :=
  let n := r.node
  let d := r.kdesc.getD 0
  let have_ := r.kdesc.isSome
  faultUnless (have_ && kdescOk d && r.header.any headerValid && bitsN n 5 0 == 0) 0 ++
  faultUnless (decide (1 ≤ ndCount n)) 8 ++
  faultUnless ((ndViewX n == 0 && ndViewY n == 0 && ndViewZ n == 0) || ndViewX n * ndViewY n * ndViewZ n == ndCount n) 8 ++
  faultUnless (!ndCosched n || ndCount n % 8 == 0) 8 ++
  faultUnless (decide (1 ≤ ndWarps n ∧ ndWarps n ≤ 8)) 18 ++ reservedAt n 151 148 ++
  faultUnless (ndPriority n != 7 || prio7Graph) 19 ++ reservedAt n 159 155 ++
  faultUnless ((!have_ || ndSupervisor n == d.getLsbD 212) && (!ndSupervisor n || supervisorGraph)) 20 ++
  reservedAt n 175 165 ++
  faultUnless (ndV n % 8 == 0 && (!have_ || decide (ndV n ≤ bitsN d 175 168))) 22 ++
  faultUnless (!have_ || decide (ndH n ≤ bitsN d 191 184)) 24 ++
  faultUnless (!have_ || decide (ndC n ≤ bitsN d 199 192)) 25 ++
  faultUnless (!have_ || decide (ndK n ≤ bitsN d 207 200)) 26 ++
  reservedAt n 223 220 ++ reservedAt n 287 278 ++
  faultUnless (bitsN n 322 320 == 0 && (match r.succs with | some l => l.all fun i => decide (i < nodes) | none => false)) 40 ++
  faultUnless (bitsN n 452 448 == 0 && r.completionOk) 56

/-- The offsets at which a node's per-block needs exceed one core (R14, R509). -/
def needFaults (n : BitVec 512) : List Nat :=
  faultUnless (decide (ndWarps n * ndV n ≤ 512 ∧ ndWarps n * ndH n ≤ 64 ∧ ndWarps n * ndC n ≤ 8)) 18 ++
    faultUnless (decide (ndWb n ≤ 4096)) 28 ++ faultUnless (decide (ndAb n ≤ 4096)) 30 ++
    faultUnless (decide (ndCb n ≤ 1024)) 32

/-- n divided by a need; `cap` where nothing is needed. -/
def fitsIn (total need cap : Nat) : Nat := if need = 0 then cap else total / need
/-- Blocks of a node that an empty core takes (R17, R67, R281). CB windows stand on 512-byte boundaries (R251). -/
def blocksPerCore (n d : BitVec 512) : Nat :=
  let w := ndWarps n
  let most := [fitsIn 8 w 8, fitsIn 512 (w * ndV n) 8, fitsIn 64 (w * ndH n) 8, fitsIn 8 (w * ndC n) 8,
    fitsIn 4096 (ndWb n) 8, fitsIn 4096 (ndAb n) 8, fitsIn 512 ((ndCb n + 1) / 2) 8].foldl min 8
  if d.getLsbD 208 || d.getLsbD 210 then min most 1 else most

/-- The cores that a partition may hold at once (R373). -/
def Partition.coreCap (p : Partition) : Nat := if bitsN p.qos 72 64 = 0 then 320 else bitsN p.qos 72 64
/-- Whether a co-resident node's blocks can all stand at once on an otherwise empty package (R14, R387). -/
def State.canReside (s : State) (p : PartId) (n d : BitVec 512) : Bool :=
  let cores := allCores.filter fun c => ndAdmits n (dieOf c) && !s.cores[c].retired
  let cap := s.parts[p].coreCap
  if ndCosched n then
    let whole := (List.finRange 40).filter fun cl => (List.finRange 8).all fun i => cores.contains (coreOf cl i)
    decide (ndCount n ≤ min whole.length (cap / 8) * 8 * blocksPerCore n d)
  else decide (ndCount n ≤ min cores.length cap * blocksPerCore n d)

/-- Rejection codes of R16. -/
def codeExceeds : Nat := 0x10
def codeBadField : Nat := 0x11
def codeNotResident : Nat := 0x12

/-- Least of a list of offsets. -/
def least : List Nat → Option Nat
  | [] => none
  | x :: xs => some (xs.foldl min x)

/-- The code and fault field with which a node is rejected (R14, R387, R509). Of a node that breaks a field limit and exceeds one core too,
the field named is the lowest of those that LAUNCH_BAD_FIELD is for (DEDUCED, log 51). -/
def State.nodeFault (s : State) (p : PartId) (r : NodeRead) (nodes : Nat) (supervisorGraph prio7Graph : Bool) :
    Option (Nat × Nat) :=
  match least (badFields r nodes supervisorGraph prio7Graph) with
  | some off => some (codeBadField, off)
  | none =>
    match least (needFaults r.node) with
    | some off => some (codeExceeds, off)
    | none => if ndCoresident r.node && !s.canReside p r.node (r.kdesc.getD 0) then some (codeNotResident, 20) else none

/-- A device read with the record of kind 2 that follows when it cannot be made (R508). -/
def State.devGet (s : State) (p : PartId) (die : Nat) (node va : Word) (n : Nat) : State × Option (List Byte) :=
  match s.devRead p die va n Need.exec with
  | (s, some bs) => (s, some bs)
  | (s, none) => (s.devFault p die node va n Need.exec, none)
/-- A device write with the same record. -/
def State.devPut (s : State) (p : PartId) (die : Nat) (node va : Word) (bs : List Byte) (need : Need) : State × Bool :=
  match s.devWrite p die va bs need with
  | (s, true) => (s, true)
  | (s, false) => (s.devFault p die node va bs.length need, false)

/-- A page is mapped with w (R14). -/
def State.writable (s : State) (p : PartId) (va : Word) : Bool :=
  match s.walk s.parts[p].ptRoot va with
  | .leaf e _ _ => e.getLsbD 4
  | _ => false

/-- 32-bit numbers in a list of bytes. -/
def words32 (bs : List Byte) : List Nat := (List.range (bs.length / 4)).map fun i => natOfBytes ((bs.drop (4 * i)).take 4)

/-- A node's successor list read (R16); none when it cannot be. -/
def State.readSuccs (s : State) (p : PartId) (die : Nat) (node : Word) (at_ : Word) : State × Option (List Nat) :=
  if at_ = 0 then (s, some [])
  else
    match s.devGet p die node at_ 4 with
    | (s, none) => (s, none)
    | (s, some bs) =>
      match s.devGet p die node (at_ + 4) (4 * natOfBytes bs) with
      | (s, none) => (s, none)
      | (s, some bs) => (s, some (words32 bs))

/-- What validation reads of a node; none when the node itself cannot be read (R387, R508). -/
def State.readNode (s : State) (p : PartId) (die : Nat) (at_ : Word) : State × Option NodeRead :=
  match s.devGet p die at_ at_ 64 with
  | (s, none) => (s, none)
  | (s, some bs) =>
    let n : BitVec 512 := ofBytes 512 bs
    let (s, d) := s.devGet p die at_ (ndKdesc n) 64
    let d : Option (BitVec 512) := d.map (ofBytes 512)
    let (s, h) := match d with
      | some d => s.devGet p die at_ (d.extractLsb' 64 64) 256
      | none => (s, none)
    let (s, l) := s.readSuccs p die at_ (ndSucc n)
    (s, some { node := n, kdesc := d, header := h.map (ofBytes 2048), succs := l
               completionOk := s.writable p (ndCompletion n) })

/-- The bytes of a completion record (R15). -/
def completionBytes (status field retired lost ns : Nat) : List Byte :=
  natBytes 4 status ++ natBytes 2 field ++ [0, 0] ++ natBytes 4 retired ++ natBytes 4 lost ++ natBytes 8 ns ++
    natBytes 8 0

/-- The graph of a header in a partition. -/
def Partition.graph? (q : Partition) (h : Word) : Option Graph := q.graphs.find? fun g => g.header == h
/-- That graph changed, or added. -/
def Partition.setGraph (q : Partition) (g : Graph) : Partition :=
  { q with graphs := if q.graphs.any fun x => x.header == g.header then
      q.graphs.map fun x => if x.header == g.header then g else x else q.graphs ++ [g] }
def gsNone : Nat := 0
def gsIdle : Nat := 1
def gsRunning : Nat := 2
def gsRejected : Nat := 3

/-- The bytes of a graph status record (R384). -/
def statusBytes (g : Graph) (code state : Nat) (tag : Word) : List Byte :=
  natBytes 4 code ++ natBytes 4 0 ++ natBytes 1 state ++ natBytes 1 0 ++ bytesOf 2 g.field ++ bytesOf 4 g.rejected ++
    natBytes 4 g.failed ++ natBytes 4 g.done ++ bytesOf 8 tag

/-- A graph status record written as a release at sys scope, and vector 1 (R369, R384); false when it cannot be. -/
def State.writeStatus (s : State) (p : PartId) (g : Graph) (code state : Nat) (tag : Word) : State × Bool :=
  match s.devPut p 0 0 g.statusAddr (statusBytes g code state tag) Need.write with
  | (s, true) => (s.fireVector p 1, true)
  | (s, false) => (s, false)

/-- The graph whose table holds a node, among those loaded (R250). -/
def Partition.graphOf (q : Partition) (node : Word) : Option (Graph × Nat) :=
  q.graphs.findSome? fun g =>
    if g.state = gsIdle ∨ g.state = gsRunning then
      let off := node.toNat - g.header.toNat
      if g.header.toNat + 64 ≤ node.toNat ∧ off % 64 = 0 ∧ off / 64 ≤ g.nodes then some (g, off / 64 - 1) else none
    else none

/-- A RUNNING graph with nothing queued, claimed, placed or saved becomes IDLE, with a status record (R389). -/
def State.graphIdle (s : State) (p : PartId) (h : Word) : State :=
  match s.parts[p].graph? h with
  | none => s
  | some g =>
    if g.state ≠ gsRunning ∨ (s.launches.any fun l => l.part == p && l.graph == h) then s
    else
      let g := { g with state := gsIdle }
      ((s.modPart p fun q => q.setGraph g).writeStatus p g 0 gsIdle g.tag).1

/-- A rejected node counted in its graph (R384, R388). -/
def Graph.reject (g : Graph) (index field : Nat) : Graph :=
  { g with done := g.done + 1, failed := g.failed + 1
           rejected := if g.rejected = 0xFFFFFFFF then BitVec.ofNat 32 index else g.rejected
           field := if g.rejected = 0xFFFFFFFF then BitVec.ofNat 16 field else g.field }

/-- The completion record of a rejected node, where it can be written (R387). -/
def State.rejectRecord (s : State) (p : PartId) (die : Nat) (node : Word) (r : Option NodeRead) (code field : Nat) : State :=
  match r with
  | some r =>
    if r.completionOk then
      (s.devPut p die node (ndCompletion r.node) (completionBytes code field 0 0 s.ns) Need.write).1
    else s
  | none => s

/-- The home die of a launch: the die that homes the page of its node, else the lowest die that its affinity admits (R20). -/
def State.homeDie (s : State) (p : PartId) (node : Word) (n : BitVec 512) : DieId :=
  let low := ((List.finRange 4).find? fun d => ndAdmits n d).getD 0
  match s.peek p node with
  | some pa => if homeOf pa < 4 then fin 4 (homeOf pa) else low
  | none => low

/-- A node that becomes ready is read and validated again, and rejected or made a launch in the ready queues
(R388, R391). The answer is 0, or the rejection code. -/
def State.nodeReady (s : State) (p : PartId) (die : Nat) (h : Word) (index : Nat) : State × Nat :=
  match s.parts[p].graph? h with
  | none => (s, 0)
  | some g =>
    let at_ : Word := h + BitVec.ofNat 64 (64 + 64 * index)
    let g := { g with state := gsRunning }
    let (s, r) := s.readNode p die at_
    let bad := match r with
      | none => some (codeBadField, 0xFFFF)
      | some r => s.nodeFault p r g.nodes g.supervisor g.prio7
    match bad, r with
    | none, some r =>
      let prio := ndPriority r.node
      let l : Launch :=
        { lid := s.nextId, part := p, graph := h, nodeAddr := at_, node := r.node, kdesc := r.kdesc.getD 0
          header := r.header.getD 0, latched := true, home := s.homeDie p at_ r.node, supervisor := ndSupervisor r.node
          level := if prio = 7 ∧ !s.parts[p].control.getLsbD 2 then 6 else prio
          queued := true, since := s.time, order := s.nextId, next := 0, claims := Vector.replicate 4 [], resident := 0
          saved := 0, retired := 0, lost := 0, placedOn := 0 }
      ({ s.modPart p fun q => q.setGraph g with nextId := s.nextId + 1, launches := s.launches ++ [l] }, 0)
    | some (code, field), r =>
      let g := g.reject index field
      let s := (s.modPart p fun q => q.setGraph g).rejectRecord p die at_ r code field
      ((s.writeStatus p g code gsRunning g.tag).1, code)
    | none, none => (s, 0)

/-- Where a node's pred_count stands (R13). -/
def predAt (node : Word) : Word := node + 36

/-- A node's pred_count read through the partition's tables with xd and w (R390, R411); a read refused for now leaves its mark, as in
`devRead`. -/
def State.readPred (s : State) (p : PartId) (die : Nat) (node : Word) : State × Option Nat :=
  if (s.devFrame p (predAt node) 4 Need.execWrite).isSome then ({ s with devWaits := true }, none) else
  match s.devTranslate p (die + 1) (predAt node) Need.execWrite with
  | (s, .ok pa) => (s, some (natOfBytes (s.devBytes pa 4)))
  | (s, .fault _) => (s, none)
/-- pred_count written at its home. -/
def State.writePred (s : State) (p : PartId) (node : Word) (v : Nat) : State :=
  match s.peek p (predAt node) with
  | some pa => s.devStore pa (natBytes 4 v)
  | none => s

/-- The decrement of a successor by a completion (R43, R390). -/
def State.decrement (s : State) (p : PartId) (die : Nat) (h : Word) (index : Nat) : State :=
  let at_ : Word := h + BitVec.ofNat 64 (64 + 64 * index)
  match s.readPred p die at_ with
  | (s, none) => s.devFault p die at_ (predAt at_) 4 Need.execWrite
  | (s, some n) =>
    if n = 0 then s
    else
      let s := s.writePred p at_ (n - 1)
      if n = 1 then (s.nodeReady p die h index).1 else s

/-- A launch whose blocks have all retired or been lost (R43). -/
def Launch.finished (l : Launch) : Bool :=
  decide (ndCount l.node ≤ l.next) && l.claims.toList.all (·.isEmpty) && l.resident == 0 && l.saved == 0 && !l.queued

/-- Launch completion: release, completion record, successors, and the graph's counts (R15, R43, R44, R384, R389), made by the
walkers of the launch's home die (DEDUCED from R20, log 24). -/
def State.completeLaunch (s : State) (l : Launch) : State :=
  let p := l.part
  let die := l.home.val
  let s := s.releaseAll p
  if s.unreleasedAll p then s
  else
    let partial_ := l.lost != 0
    let status := if partial_ then 2 else 1
    let s := { s with launches := s.launches.filter fun x => x.lid != l.lid }
    let s := (s.devPut p die l.nodeAddr (ndCompletion l.node) (completionBytes status 0xFFFF l.retired l.lost s.ns) Need.write).1
    let s := s.modPart p fun q =>
      match q.graph? l.graph with
      | none => q
      | some g => q.setGraph { g with done := g.done + 1, failed := if partial_ then g.failed + 1 else g.failed }
    let s :=
      if (partial_ && ndHoldOnFail l.node) || (s.parts[p].graph? l.graph).isNone then s
      else
        match s.readSuccs p die l.nodeAddr (ndSucc l.node) with
        | (s, some succs) => succs.foldl (fun s i => s.decrement p die l.graph i) s
        | (s, none) => s
    s.graphIdle p l.graph

/-- LAUNCH performed (R250, R359, R377): its status and detail; none while a release must wait. -/
def State.performLaunch (s : State) (c : CoreId) (b : Block) (node : Word) : State × Option (Nat × Nat) :=
  let p := b.part
  let die := (dieOf c).val
  let s := s.release (clusterOf c) p
  if s.unreleased (clusterOf c) p then (s, none)
  else if s.parts[p].resetting || s.parts[p].stilled then (s, some (0x103, 0))
  else
    match s.parts[p].graphOf node with
    | none => (s, some (0x103, 0))
    | some (g, index) =>
      match s.devGet p die node node 64 with
      | (s, none) => (s, some (0x104, 0))
      | (s, some bs) =>
        let n : BitVec 512 := ofBytes 512 bs
        match s.readPred p die node with
        | (s, none) => (s.devFault p die node (predAt node) 4 Need.execWrite, some (0x104, 0))
        | (s, some pred) =>
          if !b.supervisor && ndSupervisor n then (s, some (codeBadField, 0))
          else if pred = 0 then (s, some (0x102, 0))
          else
            let s := s.writePred p node (pred - 1)
            if pred ≠ 1 then (s, some (0x100, pred - 1))
            else
              let (s, code) := s.nodeReady p die g.header index
              (s.graphIdle p g.header, some (if code = 0 then 0x101 else code, 0))

/-- A LAUNCH operation completes (R250), once no read that it makes is refused (R428). -/
def State.completeLaunchOp (s : State) (c : CoreId) (b : Block) (o : AsyncOp) (node : Word) : State :=
  match s.performLaunch c b node with
  | (t, some (status, detail)) => if t.devWaits then s else t.finishX c o b status detail
  | (s, none) => s

/-- An operation of the X slot completes if nothing holds it back (R244, R316). -/
def State.completeX (s : State) (c : CoreId) (id : Nat) : State :=
  match s.cores[c].op? id with
  | none => s
  | some o =>
    match s.cores[c].block? o.bid with
    | none => s
    | some b =>
      if s.opWaits c o || o.fault.isSome || (s.opFar c b o).any s.noRoute then s
      else
        (match o.kind with
          | .copy t => if t.begun then s.completeCopy c b o t else s
          | .tbld bank sel a => s.completeTbld c b o bank sel a
          | .signal add a v => s.completeSignal c b o add a v
          | .launch node => s.completeLaunchOp c b o node
          | _ => s).tallied c id s

end Sys2Proof.Machine
end

