-- ==== Sys2Proof/Machine/Image.lean ====
section
/-! DEFINITION. The bytes of a context image (spec/20_traps_context.md R452 to R459). -/

namespace Sys2Proof.Machine

/-- Zero bytes, and bytes padded with zeros to a length, or to a multiple of one. -/
def zeros (n : Nat) : List Byte := List.replicate n 0
def padTo (n : Nat) (l : List Byte) : List Byte := l ++ zeros (n - l.length)
def padMul (n : Nat) (l : List Byte) : List Byte := l ++ zeros ((n - l.length % n) % n)

/-- The state code of a warp (R454). -/
def Warp.stateCode (w : Warp) : Nat :=
  match w.state with
  | .boundary => if w.records.isEmpty then 0 else 4
  | .midStroke => if w.pos = 0 then 0 else 1
  | .exited => 2 | .retired => 2 | .halted => 3 | .parked => 4

/-- A divergence stack entry (R454); entry 0 is the oldest (DESIGN CHOICE, log 31). -/
def DivEntry.bytes (e : DivEntry) : List Byte :=
  bytesOf 4 e.rejoin ++ bytesOf 4 e.otherPc ++ bytesOf 8 e.saved ++ bytesOf 8 e.otherMask ++ [if e.pending then 1 else 0] ++
    zeros 7

/-- A warp state (R454). -/
def warpBytes (s : State) (c : CoreId) (b : Block) (w : Warp) : List Byte :=
  padTo 0x1000
    (padTo 0x100
      (bytesOf 4 w.pc ++ natBytes 1 (if w.state = .midStroke ∨ w.state = .halted then w.pos else 0) ++ natBytes 1 w.stateCode ++ natBytes 1 w.wid ++
        natBytes 1 w.dstack.length ++ bytesOf 8 w.dmask ++ bytesOf 8 w.ocnt ++ bytesOf 8 w.allocWord ++ bytesOf 8 w.tokens ++
        bytesOf 8 w.lc ++ bytesOf 8 w.vrb ++ bytesOf 8 w.shape ++ bytesOf 8 w.fpc ++ bytesOf 8 w.tie ++ bytesOf 16 w.rngk ++
        bytesOf 8 w.rngc ++ bytesOf 8 w.p ++ bytesOf 8 w.sp ++ w.q.toList.flatMap (bytesOf 8) ++ bytesOf 8 (s.gst c w) ++
        natBytes 8 (b.part.val + (if b.supervisor then 16 else 0) + if w.handler then 32 else 0) ++ bytesOf 8 w.epc ++
        bytesOf 8 w.ecause ++ bytesOf 8 w.einfo) ++
      w.s.toList.flatMap (bytesOf 8) ++ w.resv.toList.flatMap (bytesOf 16) ++ w.dstack.reverse.flatMap DivEntry.bytes) ++
    (w.v.toList.take w.curV).flatMap (bytesOf 256)

/-- The value of a Kulisch accumulator in its 80 bytes, and its kind. -/
def Kulisch.bytes (k : Kulisch) : List Byte := bytesOf 80 k.val ++ bytesOf 1 k.kind

/-- Kind, register and value of a pending write in the replay buffer (R455); a row still to be read is waited for (`State.drain`). -/
def WriteVal.entry : WriteVal → Nat × Nat × List Byte
  | .scalar n v => (1, n.val, bytesOf 8 v)
  | .pred n v => (2, n.val, [if v then 1 else 0])
  | .laneMask n v _ => (3, n.val, bytesOf 8 v)
  | .vec n v _ => (4, n.val, bytesOf 256 v)
  | .hyper n v => (5, n.val, bytesOf 1024 v)
  | .hbun n v w => (6, n.val, bytesOf 1024 v ++ natBytes 1 w)
  | .kadd n a _ => (7, n.val, a.bytes ++ [0])
  | .kclr n _ => (7, n.val, zeros 81 ++ [1])
  | .flRow v _ => (8, 0, bytesOf 512 v)
  | .flLate _ _ _ _ _ _ _ => (8, 0, zeros 512)
  | .stage n v => (2, 16 + n.val, [if v then 1 else 0])
  | .special i v => (9, i, bytesOf 8 v)
/-- The lane mask fixed at issue. -/
def Pending.mask (p : Pending) : Mask :=
  if !p.live then 0
  else
    match p.val with
    | .vec _ _ m => m
    | .laneMask _ _ m => m
    | .kadd _ _ m => m
    | .kclr _ m => m
    | _ => BitVec.allOnes 64
/-- A replay-buffer entry (R455). -/
def Pending.bytes (p : Pending) : List Byte :=
  let (k, n, v) := p.val.entry
  natBytes 1 k ++ natBytes 1 p.left ++ natBytes 2 n ++ natBytes 4 v.length ++ bytesOf 8 p.mask ++ padMul 16 v
def replayBytes (w : Warp) : List Byte :=
  natBytes 4 w.pending.length ++ zeros 12 ++ w.pending.flatMap Pending.bytes

/-- A replay or held record (R456). -/
def ReplayRecord.bytes (r : ReplayRecord) : List Byte :=
  padTo 0x1000
    (padTo 0x40
      (bytesOf 4 r.glyph ++ natBytes 2 r.subCause ++ natBytes 1 6 ++ [0] ++ bytesOf 8 r.field ++ bytesOf 8 r.firstVa ++
        bytesOf 8 r.access.left ++ r.access.dests.map fun d => BitVec.ofNat 8 d.val) ++
      (List.finRange 64).flatMap fun l => bytesOf 8 r.access.addrs[l] ++ bytesOf 32 r.access.data[l] ++ zeros 8)
def recordBytes (w : Warp) : List Byte :=
  natBytes 4 w.records.length ++ natBytes 4 w.held.length ++ zeros 4088 ++ (w.records ++ w.held).flatMap ReplayRecord.bytes

/-- The kind of an asynchronous entry; 0 for an operation that a freeze completes (R449, R457). -/
def OpKind.imageKind : OpKind → Nat
  | .copy t => match t.kind with | .copy => 1 | .copyr _ => 2 | .gath => 3 | .put => 4 | .get => 5
  | .ldst _ _ _ _ => 6
  | .tile t => match t.kind with | .mloop => 7 | .mzero => 8 | .mcvt => 9
  | .hld _ _ => 10 | .hnear _ _ _ _ => 11 | .hst _ _ => 12 | .hrand _ _ => 13 | .htie _ _ => 14 | .hclrc _ => 15
  | _ => 0

/-- The cursor, the three captured words, the payload and the captured record of an asynchronous entry (R457). Which
word holds which operand is a DESIGN CHOICE (log 31). -/
def OpKind.imageParts : OpKind → Nat × List Word × List Byte × BitVec 512
  | .copy t =>
    (t.cursor, [BitVec.ofNat 64 (t.barrier.getD (2 ^ 64 - 1)), BitVec.ofNat 64 (if t.kind = .put then t.toBase.toNat
      else if t.kind = .get then t.fromBase.toNat else t.list), t.signal.getD (BitVec.allOnes 64)], [], t.shape)
  | .ldst r w _ bad => (0, [BitVec.ofNat 64 w, if bad then 1 else 0, 0], [], r.setWidth 512)
  | .tile t => (t.done, [BitVec.ofNat 64 t.start, BitVec.ofNat 64 t.start2, BitVec.ofNat 64 t.rows], [], t.record.setWidth 512)
  | .hld a _ => (0, [BitVec.ofNat 64 a, 0, 0], [], 0)
  | .hnear _ _ q r => (0, [0, 0, 0], bytesOf 1024 q, r.setWidth 512)
  | .hst a x => (0, [BitVec.ofNat 64 a, 0, 0], bytesOf 1024 x, 0)
  | .hrand _ x => (0, [0, 0, 0], bytesOf 1024 x, 0)
  | .htie _ n => (0, [BitVec.ofNat 64 n, 0, 0], [], 0)
  | _ => (0, [0, 0, 0], [], 0)

/-- The token registers of an operation (R457). -/
def AsyncOp.tokens (o : AsyncOp) : List Nat :=
  match o.kind with
  | .copy _ => [tokOf o.field]
  | .htie d _ => [d.val]
  | .hnear t d _ _ => [t.val, d.val]
  | _ => []

/-- An asynchronous entry (R457). -/
def AsyncOp.bytes (o : AsyncOp) (wid : Nat) : List Byte :=
  let (cursor, ops, payload, record) := o.kind.imageParts
  padTo 0x40
    (natBytes 1 o.kind.imageKind ++ natBytes 1 wid ++ padTo 2 (o.tokens.map (BitVec.ofNat 8)) ++ bytesOf 4 o.glyph ++
      bytesOf 8 o.field ++ natBytes 8 cursor ++ ops.flatMap (bytesOf 8) ++ natBytes 4 payload.length) ++
    bytesOf 64 record ++ payload

/-- The asynchronous operations of a block that its image holds, in issue order (R449). -/
def Core.imageOps (k : Core) (bid : Nat) : List AsyncOp := k.ops.filter fun o => o.bid == bid && o.kind.imageKind != 0
/-- The wid of an operation's warp. -/
def Core.widOf (k : Core) (o : AsyncOp) : Nat := (k.warps[o.warp].map fun w => w.wid).getD 0

/-- The quarantine section (R458); its 1-byte index reaches the first 256 asynchronous entries (log 31). -/
def quarantineBytes (ops : List AsyncOp) : List Byte :=
  let es := ((List.range ops.length).zip ops).flatMap fun (i, o) =>
    match o.kind with
    | .copy t => (if i < 256 then t.quarantine else []).map fun (a, x) =>
        bytesOf 8 a ++ natBytes 1 (shToSpace t.shape) ++ natBytes 1 i ++ [0, 0] ++ natBytes 4 x.length ++ padMul 16 x
    | _ => []
  natBytes 4 es.length ++ zeros 12 ++ es.flatMap id

/-- A sequencer entry (R459); the operands' words are a DESIGN CHOICE (log 31). -/
def seqBytes (o : AsyncOp) (t : TileOp) : List Byte :=
  bytesOf 8 o.field ++ bytesOf 24 t.config ++ natBytes 4 t.done ++ bytesOf 4 o.glyph ++ bytesOf 8 t.rngc ++
    natBytes 4 t.start ++ natBytes 4 t.start2 ++ natBytes 4 t.rows ++
    natBytes 4 (t.rm.toNat + (if t.ftz then 8 else 0) + (t.flags &&& 0x3F0).toNat)

/-- The matrix section (R459). -/
def matrixBytes (k : Core) (b : Block) (ops : List AsyncOp) : List Byte :=
  let tiles := ops.filterMap fun o => match o.kind with | .tile t => some (seqBytes o t) | _ => none
  let ldsts := ops.filterMap fun o => match o.kind with
    | .ldst _ w _ _ => some (bytesOf 8 o.field ++ natBytes 4 w ++ bytesOf 4 o.glyph)
    | _ => none
  let plane (p : Plane) : List Byte := bytesOf 0x2000 p.data ++ bytesOf 0x400 p.scales
  let marks : BitVec 512 := packEl 1 512 512 fun i => BitVec.ofBool (decide (512 * i < b.cb.size) && k.poison.contains (cbRowAt b (512 * i)))
  padTo 0x4BC0
    (padTo 0x4B80
      (padTo 0x4B40
        (padTo 0x4A40
          (padTo 0x4820
            (padTo 0x4808 (plane k.planes[0] ++ plane k.planes[1] ++ bytesOf 2 k.planes[0].tag ++ bytesOf 2 k.planes[1].tag ++
              natBytes 1 k.active.val) ++ bytesOf 24 k.config) ++ bytesOf 512 k.fl ++ natBytes 1 tiles.length) ++
          tiles.flatMap id) ++ bytesOf 64 marks) ++ (ldsts.take 4).flatMap id)

/-- The F store section (R453). -/
def fstoreBytes (k : Core) : List Byte :=
  let bank (x : FBank) : List Byte := x.programs.toList.flatMap (bytesOf 128) ++ x.tables.toList.flatMap (bytesOf 1024)
  padTo 0x6810 (bank k.banks[0] ++ bank k.banks[1] ++ natBytes 1 k.bank.val)

/-- The 13 sections (R453). -/
def sectionsOf (s : State) (c : CoreId) (b : Block) : List (List Byte) :=
  let k := s.cores[c]
  let ws := (k.blockWarps b.bid).map (·.2)
  let ops := k.imageOps b.bid
  let win (m : Memory) (x : Window) : List Byte := m.read x.base x.size
  [ ws.flatMap (warpBytes s c b), ws.flatMap replayBytes, ws.flatMap recordBytes,
    ws.flatMap fun w => (w.ka.toList.take w.curK).flatMap fun x => padTo 96 x.bytes,
    ws.flatMap fun w => (w.h.toList.take w.curH).flatMap (bytesOf 1024),
    ws.flatMap fun w => (w.c.toList.take w.curC).flatMap (bytesOf 8192),
    ops.flatMap fun o => o.bytes (k.widOf o), quarantineBytes ops,
    if b.usesM then matrixBytes k b ops else [], if b.usesFmicro then fstoreBytes k else [],
    win k.wb b.wb, win k.ab b.ab, win k.cb b.cb ]

/-- Offsets and lengths of the sections, each at a multiple of 4,096 after the header (R452). -/
def sectionTable : Nat → List (List Byte) → List (Nat × Nat)
  | _, [] => []
  | at_, x :: xs =>
    if x.isEmpty then (0, 0) :: sectionTable at_ xs
    else (at_, x.length) :: sectionTable (at_ + 4096 * ceilDiv x.length 4096) xs

/-- The context image of a block (R452). `cause` is 1 pre-emption, 2 FREEZE save, 3 suspension, 4 thermal migration. -/
def imageBytes (s : State) (c : CoreId) (b : Block) (cause : Nat) : List Byte :=
  let k := s.cores[c]
  let ws := (k.blockWarps b.bid).map (·.2)
  let secs := sectionsOf s c b
  let size := secs.foldl (fun n x => n + 4096 * ceilDiv x.length 4096) 4096
  let flags := (if b.usesM then 1 else 0) + (if b.usesFmicro then 2 else 0) + (if b.halted then 4 else 0) +
    if ws.all fun w => w.pos == 0 || (w.state != .midStroke && w.state != .halted) then 8 else 0
  padTo 4096
    ([0x47, 0x4A, 0x43, 0x58] ++ natBytes 2 1 ++ natBytes 1 cause ++ natBytes 1 flags ++ natBytes 4 size ++
      natBytes 1 b.part.val ++ natBytes 1 ws.length ++ natBytes 2 (lcidOf c) ++ bytesOf 8 b.nodeAddr ++ natBytes 4 b.index ++
      bytesOf 4 b.dictId ++ bytesOf 8 (ndKdesc b.node) ++ natBytes 8 b.dictAddr ++ natBytes 2 (ndWb b.node) ++
      natBytes 2 (ndAb b.node) ++ natBytes 2 (ndCb b.node) ++ zeros 2 ++ natBytes 8 s.ns ++
      (sectionTable 4096 secs).flatMap fun x => natBytes 4 x.1 ++ natBytes 4 x.2) ++
    secs.flatMap (padMul 4096)

/-- A number read from an image. -/
def rd (bs : List Byte) (off n : Nat) : Nat := natOfBytes ((bs.drop off).take n)
def cut (bs : List Byte) (off n : Nat) : List Byte := (bs.drop off).take n
/-- Section i of an image. -/
def imageSection (img : List Byte) (i : Nat) : List Byte := cut img (rd img (0x40 + 8 * i) 4) (rd img (0x44 + 8 * i) 4)

/-- The registers of a vector read from bytes, element i at i × n. -/
def vecOf {w m : Nat} (bs : List Byte) (off n : Nat) : Vector (BitVec w) m := Vector.ofFn fun i => ofBytes w (cut bs (off + n * i.val) n)

/-- A divergence stack of a depth (R454). -/
def stackOf (bs : List Byte) (off depth : Nat) : List DivEntry :=
  ((List.range depth).map fun i =>
    let a := off + 32 * i
    { rejoin := BitVec.ofNat 32 (rd bs a 4), saved := BitVec.ofNat 64 (rd bs (a + 8) 8), otherPc := BitVec.ofNat 32 (rd bs (a + 4) 4)
      otherMask := BitVec.ofNat 64 (rd bs (a + 16) 8), pending := rd bs (a + 24) 1 % 2 == 1 : DivEntry }).reverse

/-- A warp read from its state, over what the image leaves out (R454). -/
def warpOf (bs : List Byte) (off : Nat) (old : Warp) : Warp :=
  let r (a n : Nat) : Nat := rd bs (off + a) n
  let alloc := r 0x18 8
  let ocnt := r 0x10 8
  let curV := natBits alloc 0 13
  let code := r 5 1
  let pos := r 4 1
  { old with
    pc := BitVec.ofNat 32 (r 0 4), pos := if code = 1 ∨ code = 3 then pos else 0
    state := if code = 2 then .exited else if code = 3 then .halted else if code = 1 ∧ pos ≠ 0 then .midStroke else .boundary
    wid := r 6 1, dmask := BitVec.ofNat 64 (r 8 8), loads := natBits ocnt 0 6, stores := natBits ocnt 6 6
    copies := natBits ocnt 12 6, tiles := natBits ocnt 18 6, curV := curV, curH := natBits alloc 13 5
    curC := natBits alloc 18 3, curK := natBits alloc 21 3, tokens := BitVec.ofNat 64 (r 0x20 8), lc := BitVec.ofNat 32 (r 0x28 4)
    vrb := BitVec.ofNat 5 (r 0x30 1), shape := BitVec.ofNat 64 (r 0x38 8 % 64), fpc := fpcOf (BitVec.ofNat 64 (r 0x40 8))
    tie := BitVec.ofNat 64 (r 0x48 8 % 8), rngk := BitVec.ofNat 128 (r 0x50 16), rngc := BitVec.ofNat 64 (r 0x60 8)
    p := BitVec.ofNat 16 (r 0x68 2), sp := BitVec.ofNat 8 (r 0x70 1), q := vecOf bs (off + 0x78) 8
    gstHolder := false, gstCause := BitVec.ofNat 4 (natBits (r 0xB8 8) 36 4), handler := natBits (r 0xC0 8) 5 1 == 1
    epc := BitVec.ofNat 64 (r 0xC8 4), ecause := BitVec.ofNat 64 (r 0xD0 8), einfo := BitVec.ofNat 64 (r 0xD8 8)
    s := vecOf bs (off + 0x100) 8, resv := vecOf bs (off + 0x300) 16, dstack := stackOf bs (off + 0x380) (min 16 (r 7 1))
    v := Vector.ofFn fun i => if i.val < curV then ofBytes 2048 (cut bs (off + 0x1000 + 256 * i.val) 256) else 0
    stroke := [], decoded := false, pending := [], records := [], held := [], fetchFault := none }

/-- The warps of an image, and the registers of their own sections, in wid order (R453). -/
def warpsOf (img : List Byte) (olds : List Warp) : Nat → Nat → List Warp
  | _, 0 => []
  | off, n + 1 =>
    let bs := imageSection img 0
    let w := warpOf bs off (olds.headD Warp.blank)
    w :: warpsOf img olds.tail (off + 4096 + 256 * w.curV) n

/-- The registers of a class spread over the warps, each taking as many as it holds. -/
def spread {α : Type} (f : Warp → Nat) (set : Warp → Nat → α → Warp) (get : Nat → α) : Nat → List Warp → List Warp
  | _, [] => []
  | at_, w :: ws =>
    (List.range (f w)).foldl (fun x i => set x i (get (at_ + i))) w :: spread f set get (at_ + f w) ws

/-- Sections 4 to 6 read into the warps (R453). -/
def registersOf (img : List Byte) (ws : List Warp) : List Warp :=
  let k := imageSection img 3
  let h := imageSection img 4
  let c := imageSection img 5
  let ws := spread (·.curK) (fun w i x => { w with ka := upd w.ka (fin 4 i) fun _ => x })
    (fun i => ({ val := ofBytes 640 (cut k (96 * i) 80), kind := BitVec.ofNat 2 (rd k (96 * i + 80) 1) } : Kulisch)) 0 ws
  let ws := spread (·.curH) (fun w i x => { w with h := upd w.h (fin 16 i) fun _ => x })
    (fun i => ofBytes 8192 (cut h (1024 * i) 1024)) 0 ws
  spread (·.curC) (fun w i x => { w with c := upd w.c (fin 4 i) fun _ => x }) (fun i => ofBytes 65536 (cut c (8192 * i) 8192)) 0 ws

/-- A replay-buffer entry read (R455). The flags that it merges, which it does not hold, come from what the image leaves out
(log 30). -/
def pendingOf (bs : List Byte) (off : Nat) (flags : BitVec 64) : Option Pending × Nat :=
  let n := rd bs (off + 2) 2
  let len := rd bs (off + 4) 4
  let mask : Mask := BitVec.ofNat 64 (rd bs (off + 8) 8)
  let v := off + 16
  let val : Option WriteVal := match rd bs off 1 with
    | 1 => some (.scalar (fin 64 n) (BitVec.ofNat 64 (rd bs v 8)))
    | 2 => if n < 16 then some (.pred (fin 16 n) (rd bs v 1 % 2 == 1))
        else if n < 24 then some (.stage (fin 8 (n - 16)) (rd bs v 1 % 2 == 1)) else none
    | 3 => some (.laneMask (fin 8 n) (BitVec.ofNat 64 (rd bs v 8)) mask)
    | 4 => some (.vec (fin 128 n) (ofBytes 2048 (cut bs v 256)) mask)
    | 5 => some (.hyper (fin 16 n) (ofBytes 8192 (cut bs v 1024)))
    | 6 => some (.hbun (fin 4 n) (ofBytes 8192 (cut bs v 1024)) (rd bs (v + 1024) 1))
    | 7 => some (if rd bs (v + 81) 1 % 2 = 1 then .kclr (fin 4 n) mask
        else .kadd (fin 4 n) { val := ofBytes 640 (cut bs v 80), kind := BitVec.ofNat 2 (rd bs (v + 80) 1) } mask)
    | 8 => some (.flRow (ofBytes 4096 (cut bs v 512)) 0xFFFFFFFF)
    | 9 => some (.special n (BitVec.ofNat 64 (rd bs v 8)))
    | _ => none
  (val.map fun x => { left := rd bs (off + 1) 1, live := mask != 0, flags := flags, val := x }, 16 + 16 * ceilDiv len 16)

/-- n entries of a replay buffer. -/
def pendingsOf (bs : List Byte) : Nat → List (BitVec 64) → Nat → List Pending × Nat
  | off, _, 0 => ([], off)
  | off, flags, n + 1 =>
    let (p, len) := pendingOf bs off (flags.headD 0)
    let (ps, last) := pendingsOf bs (off + len) flags.tail n
    (p.toList ++ ps, last)

/-- The replay buffers read into the warps (R455). -/
def replaysOf (img : List Byte) : Nat → List Warp → List Warp → List Warp
  | _, _, [] => []
  | off, olds, w :: ws =>
    let bs := imageSection img 1
    let flags := ((olds.headD Warp.blank).pending.map fun p => p.flags)
    let (ps, last) := pendingsOf bs (off + 16) flags (rd bs off 4)
    { w with pending := ps } :: replaysOf img last olds.tail ws

/-- What an L field's access is (R225, R230): its kind, its width and whether it is uniform. -/
def accessForm (f : Field) : Option (MemKind × Nat × Bool) :=
  let at_ (op : AtomicOp) (f : LA) (w : Nat) : MemKind × Nat × Bool :=
    let order := bitsN f.imm 7 6
    (.atomic op (f.variant.getLsbD 1) (bitsN f.imm 10 8) (order % 2 == 1) (decide (2 ≤ order)), w, false)
  match decode .l f with
  | .ok (.ld f) => some (.load, widthOf f.variant, false)
  | .ok (.st f) => some (.store, widthOf f.variant, false)
  | .ok (.ldu f) => some (.load, widthOf f.variant, true)
  | .ok (.stu f) => some (.store, widthOf f.variant, true)
  | .ok (.aadd f) => some (at_ .add f (atomWidth f))
  | .ok (.afadd f) => some (at_ .fadd f 4)
  | .ok (.amin f) => some (at_ .min f (atomWidth f))
  | .ok (.amax f) => some (at_ .max f (atomWidth f))
  | .ok (.aand f) => some (at_ .and f (atomWidth f))
  | .ok (.aor f) => some (at_ .or f (atomWidth f))
  | .ok (.axor f) => some (at_ .xor f (atomWidth f))
  | .ok (.axchg f) => some (at_ .xchg f (atomWidth f))
  | .ok (.acas f) => some (at_ .cas f (4 * 2 ^ f.variant.toNat))
  | _ => none

/-- A record read (R456); resolved, since it is translated afresh (R422, R456). -/
def recordOf (bs : List Byte) (off id : Nat) : Option ReplayRecord :=
  let field : Field := BitVec.ofNat 48 (rd bs (off + 8) 8)
  (accessForm field).map fun (kind, width, uniform) =>
    let dests := if kind = .store then [] else
      (List.range (regsOf width)).map fun i => fin 128 (rd bs (off + 0x20 + i) 1)
    { glyph := BitVec.ofNat 32 (rd bs off 4), subCause := rd bs (off + 4) 2, field := field
      firstVa := BitVec.ofNat 64 (rd bs (off + 0x10) 8), opId := id, resolved := true
      access :=
        { kind := kind, width := width, uniform := uniform, left := BitVec.ofNat 64 (rd bs (off + 0x18) 8)
          addrs := Vector.ofFn fun l => BitVec.ofNat 64 (rd bs (off + 0x40 + 48 * l.val) 8)
          data := Vector.ofFn fun l => ofBytes 256 (cut bs (off + 0x48 + 48 * l.val) 32), dests := dests } }

/-- The records of the warps (R453, R456); `ids` numbers them where nothing else does. -/
def recordsOf (img : List Byte) : Nat → Nat → List Warp → List Warp → List Warp
  | _, _, _, [] => []
  | off, ids, olds, w :: ws =>
    let bs := imageSection img 2
    let old := (olds.headD Warp.blank).records ++ (olds.headD Warp.blank).held
    let n := rd bs off 4
    let m := rd bs (off + 4) 4
    let all := (List.range (n + m)).map fun i =>
      recordOf bs (off + 4096 * (i + 1)) (((old[i]?).map fun r => r.opId).getD (ids + i))
    { w with records := (all.take n).filterMap id, held := (all.drop n).filterMap id } ::
      recordsOf img (off + 4096 * (1 + n + m)) (ids + n + m) olds.tail ws

/-- The quarantine entries, each with its asynchronous entry's index (R458). -/
def quarantineOf (bs : List Byte) : Nat → Nat → List (Nat × Word × List Byte)
  | _, 0 => []
  | off, n + 1 =>
    let len := rd bs (off + 12) 4
    (rd bs (off + 9) 1, BitVec.ofNat 64 (rd bs off 8), cut bs (off + 16) len) ::
      quarantineOf bs (off + 16 + 16 * ceilDiv len 16) n

/-- The k-th sequencer entry of the matrix section (R459). -/
def seqOf (img : List Byte) (k : Nat) : BitVec 160 × Nat × Word × Nat :=
  let bs := imageSection img 8
  let a := 0x4A40 + 64 * k
  (BitVec.ofNat 160 (rd bs (a + 8) 24), rd bs (a + 32) 4, BitVec.ofNat 64 (rd bs (a + 40) 8), rd bs (a + 60) 4)

/-- An asynchronous entry's operation (R457): the class, the path and what it does, from its head, its payload and its
captured record. `b` is the block it is restored into; `tile` counts the tile operations before it. -/
def opKindOf (img : List Byte) (b : Block) (w : Warp) (head payload : List Byte) (tile : Nat) :
    Option (OpClass × Path × OpKind) :=
  let kind := rd head 0 1
  let field : Field := BitVec.ofNat 48 (rd head 8 8)
  let cursor := rd head 16 8
  let op (i : Nat) : Nat := rd head (0x18 + 8 * i) 8
  let record : BitVec 512 := ofBytes 512 (cut head 0x40 64)
  let rv : BitVec 128 := record.extractLsb' 0 128
  let reg (lo : Nat) : Nat := bitsN field (lo + 3) lo
  let copy (ck : CopyKind) : Option (OpClass × Path × OpKind) :=
    let fromB := if ck = .get then BitVec.ofNat 64 (op 1) else shFrom record
    let toB := if ck = .put then BitVec.ofNat 64 (op 1) else shTo record
    let list := if ck = .gath then op 1 else 0
    let rbanks := if ck = .gath then
        banksOf (b.ab.base + list) (4 * shExt record 1) ++ (if shFromSpace record = 2 then banksOf b.ab.base b.ab.size else [])
      else sideBanks b record (shFromSpace record) fromB (shFromS record)
    some (.copy, .x, .copy
      { kind := ck, shape := record, fromBase := fromB, toBase := toB, barrier := if op 0 = 2 ^ 64 - 1 then none else some (op 0)
        list := list, signal := if ck = .put ∧ op 2 ≠ 2 ^ 64 - 1 then some (BitVec.ofNat 64 (op 2)) else none, cursor := cursor
        quarantine := [], begun := false, rbanks := rbanks
        locks := sideBanks b record (shToSpace record) toB (shToS record), stopped := false, status := 0, detail := 0
        after := [] })
  let tileOp (tk : TileKind) : Option (OpClass × Path × OpKind) :=
    let (cf, done, rngc, word) := seqOf img tile
    some (.tile, .m, .tile
      { kind := tk, config := cf, record := rv, start := op 0, start2 := op 1, rows := op 2, done := done
        rm := BitVec.ofNat 3 word, ftz := natBits word 3 1 == 1, rngk := w.rngk, rngc := rngc, begun := false
        flags := BitVec.ofNat 64 (word % 1024 / 16 * 16), poisoned := [] })
  match kind with
  | 1 => copy .copy
  | 2 => copy (.copyr (bitsN field 37 36))
  | 3 => copy .gath
  | 4 => copy .put
  | 5 => copy .get
  | 6 => some (.tile, .m, .ldst rv (op 0) (1 - fin 2 (rd (imageSection img 8) 0x4804 1)) (op 1 == 1))
  | 7 => tileOp .mloop
  | 8 => tileOp .mzero
  | 9 => tileOp .mcvt
  | 10 => some (.load, .h, .hld (op 0) (fin 16 (reg 21)))
  | 11 => some (.load, .h, .hnear (fin 64 (bitsN field 30 25)) (fin 64 (bitsN field 24 19)) (ofBytes 8192 payload) rv)
  | 12 => some (.store, .h, .hst (op 0) (ofBytes 8192 payload))
  | 13 => some (.load, .h, .hrand (fin 16 (reg 21)) (ofBytes 8192 payload))
  | 14 => some (.load, .h, .htie (fin 64 (bitsN field 30 25)) (op 0))
  | 15 => some (.store, .h, .hclrc (fin 4 (bitsN field 1 0)))
  | _ => none

/-- The asynchronous entries of an image as operations, in order (R457). `olds` gives what the image leaves out: the
identifier, the operations waited for, and a copy's status. -/
def opsOf (img : List Byte) (b : Block) (ws : List Warp) (slots : List WarpId) (time : Nat) :
    Nat → Nat → Nat → Nat → List AsyncOp → Nat → List AsyncOp
  | 0, _, _, _, _, _ => []
  | fuel + 1, off, index, tile, olds, ids =>
    let bs := imageSection img 6
    if bs.length < off + 128 then []
    else
      let head := cut bs off 128
      let len := rd head 0x30 4
      let payload := cut bs (off + 128) len
      let wid := rd head 1 1
      let old := olds.head?
      let rest := opsOf img b ws slots time fuel (off + 128 + len) (index + 1)
        (if 7 ≤ rd head 0 1 ∧ rd head 0 1 ≤ 9 then tile + 1 else tile) olds.tail (ids + 1)
      match opKindOf img b (ws.getD wid Warp.blank) head payload tile with
      | none => rest
      | some (cls, path, kind) =>
        let mine := (quarantineOf (imageSection img 7) 16 (rd (imageSection img 7) 0 4)).filter fun q => q.1 == index
        let oldKind : Option OpKind := old.map fun o => o.kind
        let kind : OpKind := match kind, oldKind with
          | .copy t, some (.copy u) =>
            .copy { t with quarantine := if index < 256 then mine.map (·.2) else u.quarantine, begun := u.begun, stopped := u.stopped, status := u.status, detail := u.detail
                           after := u.after }
          | .copy t, _ => .copy { t with quarantine := mine.map (·.2) }
          | .tile t, some (.tile u) => .tile { t with rngk := u.rngk, poisoned := u.poisoned }
          | kd, _ => kd
        { id := (old.map (·.id)).getD ids, warp := slots.getD wid 0, bid := b.bid, cls := cls, path := path
          glyph := BitVec.ofNat 32 (rd head 4 4), field := BitVec.ofNat 48 (rd head 8 8)
          waits := (old.map (·.waits)).getD [], sent := (old.map (·.sent)).getD time, fault := none
          wiped := (old.map (·.wiped)).getD [], counts := (old.map (·.counts)).getD kind.counts
          stroke := (old.map (·.stroke)).getD 0, kind := kind } :: rest

/-- The operation that stands for a record's access (R456). -/
def recordOp (b : Block) (slot : WarpId) (time : Nat) (olds : List AsyncOp) (r : ReplayRecord) : AsyncOp :=
  let old := olds.find? fun o => o.id == r.opId
  { id := r.opId, warp := slot, bid := b.bid, cls := if r.access.kind = .store then .store else .load, path := .l
    glyph := r.glyph, field := r.field, waits := (old.map (·.waits)).getD [], sent := time, fault := none
    wiped := (old.map (·.wiped)).getD [], counts := (old.map (·.counts)).getD (OpKind.mem r.access).counts
    stroke := (old.map (·.stroke)).getD 0, kind := .mem { r.access with left := 0 } }

/-- The F store section read (R453). -/
def bankOf (bs : List Byte) (off : Nat) : FBank :=
  { programs := vecOf bs off 128, tables := vecOf bs (off + 0x1400) 1024 }

/-- A well-formed image of a partition (R452). -/
def imageOk (img : List Byte) (p : PartId) : Bool :=
  cut img 0 4 == [0x47, 0x4A, 0x43, 0x58] && rd img 4 2 == 1 && rd img 0x0C 1 == p.val &&
    decide (1 ≤ rd img 0x0D 1 ∧ rd img 0x0D 1 ≤ 8)

end Sys2Proof.Machine
end

