-- ==== Sys2Proof/Machine/Context.lean ====
section
/-! DEFINITION. Placing a block on a core, freezing one and saving its image, restoring one
(spec/01_execution_model.md R17 to R22, spec/02_program_state.md R49, R50, R67 to R69,
spec/09_matrix_function_instructions.md R251, R281, spec/17_partitions.md R360, R373,
spec/20_traps_context.md R447 to R461). -/

namespace Sys2Proof.Machine

/-- A gap for a window among those taken (R68): the lowest one (its choice is the dispatcher's, log 24). -/
def freeWindow (taken : List Window) (size total align : Nat) : Option Window :=
  if size = 0 then some ⟨0, 0⟩
  else
    let taken := taken.filter fun w => w.size != 0
    let starts := 0 :: taken.map fun w => align * ceilDiv (w.base + w.size) align
    let good := starts.filter fun a => decide (a + size ≤ total) && taken.all fun w => !rangesMeet a size w.base w.size
    match good with
    | [] => none
    | a :: rest => some ⟨rest.foldl min a, size⟩

/-- What a block asks of its core (R17, R67, R281). -/
structure Needs where
  part : PartId
  warps : Nat
  v : Nat
  h : Nat
  c : Nat
  m : Bool
  f : Bool
  wb : Nat
  ab : Nat
  cb : Nat
  deriving DecidableEq, Repr

/-- What a core gives a block: its warp slots and its windows. -/
structure Room where
  slots : List WarpId
  wb : Window
  ab : Window
  cb : Window
  deriving DecidableEq, Repr

/-- The free warp slots of a core. -/
def Core.freeSlots (k : Core) : List WarpId := (List.finRange 8).filter fun w => k.warps[w].isNone

/-- Room on a core for a block (R17, R67, R281, R360). -/
def Core.room (k : Core) (n : Needs) : Option Room :=
  if (k.blocks.any fun b => b.part != n.part || (n.m && b.usesM) || (n.f && b.usesFmicro)) ||
      decide (k.freeSlots.length < n.warps ∨ 512 < k.usedV + n.v ∨ 64 < k.usedH + n.h ∨ 8 < k.usedC + n.c) then none
  else
    match freeWindow (k.blocks.map (·.wb)) n.wb Config.wbBytes 256, freeWindow (k.blocks.map (·.ab)) n.ab Config.abBytes 256,
      freeWindow (k.blocks.map (·.cb)) n.cb Config.cbBytes 512 with
    | some w, some a, some c => some { slots := k.freeSlots.take n.warps, wb := w, ab := a, cb := c }
    | _, _, _ => none

/-- The cores that hold blocks of a partition. -/
def State.heldCores (s : State) (p : PartId) : Nat := (allCores.filter fun c => s.cores[c].blocks.any fun b => b.part == p).length

/-- Room on a core of the package for a block of a partition, within its core_cap (R360, R373, R445, R446), once a SHRINK that
can take effect there has (R173), and once a partition in reset that it last served has no entry left there (R377, R378). While more cores are held than a lowered cap allows, no block is placed (R375). -/
def State.room (s : State) (c : CoreId) (n : Needs) : Option Room :=
  let k := s.cores[c]
  let new := !(k.blocks.any fun b => b.part == n.part)
  let waiting := (match k.lastPart with
      | some q => q != n.part && s.parts[q].resetting && (k.tlb.any (fun e => e.part == q) || k.decode.any fun d => d.part == q)
      | none => false) ||
    (List.finRange 8).any fun w => (k.shrinkReady w).isSome
  if k.retired || s.clusters[clusterOf c].retention || waiting ||
      (new && decide (s.parts[n.part].coreCap ≤ s.heldCores n.part)) || decide (s.parts[n.part].coreCap < s.heldCores n.part) then none
  else k.room n

/-- A core taken by a partition other than the one it last served: its buffers, planes and F store are zeroed (R69) and
its counters too (R480). -/
def Core.serve (k : Core) (p : PartId) : Core :=
  if k.lastPart = some p then k
  else
    { k with lastPart := some p, wb := [], ab := [], cb := [], poison := [], planes := Vector.replicate 2 ⟨0, 0, 0⟩
             banks := Core.reset.banks, counters := Core.reset.counters, laneCycles := [] }

/-- Coordinates of a block (R18). -/
def ndCoords (n : BitVec 512) (b : Nat) : BitVec 32 × BitVec 16 × BitVec 16 :=
  if ndViewX n = 0 then (BitVec.ofNat 32 b, 0, 0)
  else (BitVec.ofNat 32 (b % ndViewX n), BitVec.ofNat 16 (b / ndViewX n % ndViewY n),
    BitVec.ofNat 16 (b / (ndViewX n * ndViewY n)))

/-- A block of a launch given its room. -/
def Launch.block (l : Launch) (bid index : Nat) (r : Room) : Block :=
  let (x, y, z) := ndCoords l.node index
  { bid := bid, part := l.part, launch := l.lid, nodeAddr := l.nodeAddr, node := l.node, kdesc := l.kdesc, header := l.header
    headerOk := headerValid l.header && bitsN l.kdesc 71 64 == 0, index := index, bx := x, by_ := y, bz := z, warps := r.slots, wb := r.wb, ab := r.ab
    cb := r.cb, halted := false, group := if ndCosched l.node then some (index / 8) else none, broken := false
    microWait := none, restoring := false, level7 := l.level == 7, moveTo := none }

/-- The per-block needs of a launch. -/
def Launch.needs (l : Launch) : Needs :=
  let n := l.node
  { part := l.part, warps := ndWarps n, v := ndWarps n * ndV n, h := ndWarps n * ndH n, c := ndWarps n * ndC n
    m := l.kdesc.getLsbD 208, f := l.kdesc.getLsbD 210, wb := 256 * ndWb n, ab := 256 * ndAb n, cb := 256 * ndCb n }

/-- A warp at its start (R19, R33, R49, R50): `s1` the arguments, `q0` its lanes, every other register 0. -/
def Launch.warp (l : Launch) (bid wid : Nat) : Warp :=
  let n := l.node
  let q : Mask := if ndLastLanes n ≠ 0 ∧ wid + 1 = ndWarps n then BitVec.ofNat 64 (2 ^ ndLastLanes n - 1) else BitVec.allOnes 64
  { Warp.blank with
    bid := bid, wid := wid, s := upd Warp.blank.s 1 fun _ => ndArgs n, q := upd Warp.blank.q 0 fun _ => q, dmask := q
    curV := ndV n, curH := ndH n, curC := ndC n, curK := ndK n, pc := l.kdesc.extractLsb' 224 32, level := l.level }

/-- The warps put in their slots. -/
def Core.setWarps (k : Core) (ws : List (WarpId × Warp)) : Core :=
  ws.foldl (fun k (i, w) => { k with warps := upd k.warps i fun _ => some w }) k

/-- 128 bytes of a microprogram read by a die's walkers (R281, R508): its bytes, with a poisoned sector if it has one; or
what faults, with sub-cause 0 where the read waits for a notice (R428). -/
def State.microRead (s : State) (p : PartId) (die : Nat) (va : Word) :
    State × ((List Byte × Option Nat) ⊕ (Word × Nat)) :=
  if (s.devFrame p va 128 Need.exec).isSome then (s, .inr (va, 0)) else
  (pagePieces va 128).foldl (fun ((s, acc) : State × ((List Byte × Option Nat) ⊕ (Word × Nat))) (a, m) =>
    match acc with
    | .inr f => (s, .inr f)
    | .inl (bs, bad) =>
      match s.devTranslate p (die + 1) a Need.exec with
      | (s, .fault sub) => (s, .inr (a, sub))
      | (s, .ok pa) => (s, .inl (bs ++ s.devBytes pa m, bad.or (s.poisonAt pa m)))) (s, .inl ([], none))

/-- The microprograms of a block's dictionary from number i on loaded into both banks (R281). A fault parks the block's
warps and writes a record (R508); a poisoned program stays zero, with a record of kind 4. -/
def State.loadMicro (s : State) (c : CoreId) (b : Block) : Nat → Nat → State × Option (Word × Nat)
  | 0, _ => (s, none)
  | n + 1, i =>
    let va := BitVec.ofNat 64 (b.dictAddr + hdMicroOff b.header i)
    match s.microRead b.part (dieOf c).val va with
    | (s, .inr (a, sub)) => (if sub = 0 then s else s.devFault b.part (dieOf c).val b.nodeAddr a 1 Need.exec, some (a, sub))
    | (s, .inl (_, some num)) =>
      (s.pushRecord b.part (dieOf c).val
        { kind := 4, cause := 0x3100, lcid := lcidOf c, node := b.nodeAddr, block := b.index
          detail := BitVec.ofNat 64 (64 * num) }).loadMicro c b n (i + 1)
    | (s, .inl (bs, none)) =>
      (s.modCore c fun k =>
        { k with banks := k.banks.map fun x => { x with programs := upd x.programs (fin 40 i) fun _ => ofBytes 1024 bs } }
        ).loadMicro c b n (i + 1)

/-- The microprogram store filled for a block, and its fault, if the load met one (R281). -/
def State.fillMicro (s : State) (c : CoreId) (b : Block) : State :=
  if !b.usesFmicro then s
  else
    let s := s.modCore c fun k => { k with banks := Core.reset.banks, bank := 0 }
    let (s, f) := s.loadMicro c b (hdMicro b.header) 0
    s.modBlock c b.bid fun x => { x with microWait := f }

/-- Some core can carry ballast: one with no block that uses the matrix array, and not a retired one (R478). -/
def State.carriesBallast (s : State) : Bool :=
  allCores.any fun c => !s.cores[c].retired && !(s.cores[c].blocks.any fun b => b.usesM)
/-- A block that has come to a core takes the ballast's share off it: the others carry that share, and with none left the
ramps are dropped (R479). -/
def State.shiftBallast (s : State) (b : Block) : State :=
  if b.usesM && !s.ballast.isEmpty && !s.carriesBallast then { s with ballast := [] } else s

/-- The physical addresses of a CB window's rows (R251). -/
def windowRows (w : Window) : List Nat := (List.range (ceilDiv w.size 512)).map fun i => w.base + 512 * i

/-- The block of the launch with this linear index placed on a core that has room (R17 to R19, R49, R67 to R69, R251,
R281). -/
def State.placeBlock (s : State) (l : Launch) (c : CoreId) (index : Nat) (r : Room) : State :=
  let bid := s.nextId
  let b := l.block bid index r
  let s := ({ s with nextId := s.nextId + 1 } : State).modCore c fun k =>
    let k := k.serve l.part
    let new := (k.setWarps (r.slots.mapIdx fun i w => (w, l.warp bid i)))
    let new := { new with blocks := k.blocks ++ [b] }
    let new := if b.usesM then
        { new with planes := new.planes.map (fun x => { x with tag := 0 }), active := 0, config := 0, fl := 0 }
      else new
    k.tlbDivide (new.unmark (windowRows r.cb))
  ((s.fillMicro c b).acquire (clusterOf c) l.part).shiftBallast b

/-! ## Freezing -/

/-- An operation that a freeze completes before the image is written (R449). -/
def AsyncOp.mustEnd (o : AsyncOp) : Bool := o.kind.imageKind == 0

/-- The state after a step that answers one. -/
def nextOr (s : State) : Out → State
  | .next t => t
  | _ => s

/-- An operation carried on as far as it goes now. -/
def State.progress (s : State) (c : CoreId) (id : Nat) : State :=
  match s.cores[c].op? id with
  | none => s
  | some o =>
    match o.kind with
    | .mem _ | .ldb _ _ _ _ _ | .stb _ _ _ _ => s.performL c id (BitVec.allOnes 64) o.cls
    | .copy t =>
      let s := nextOr s (execCopyBegin c id s)
      (nextOr s (execCopyBytesLand c id t.unlanded s)).completeX c id
    | .tbld _ _ _ | .signal _ _ _ | .launch _ => s.completeX c id
    | .ldst _ _ _ _ => nextOr s (execLdstComplete c id s)
    | .tile t =>
      let s := nextOr s (execTileOpStart c s)
      nextOr s (execTileOpComplete c t.rows s)
    | _ => nextOr s (execHAsyncComplete c id s)

/-- Rounds over a block's operations, in issue order: those that a freeze completes, or all of them; with each the barriers are tested,
as at the end of a core bundle (R36, R78). -/
def State.rounds (s : State) (c : CoreId) (bid : Nat) (all : Bool) : Nat → State
  | 0 => s
  | n + 1 =>
    (((((s.cores[c].ops.filter fun o => o.bid == bid && (all || o.mustEnd)).map (·.id)).foldl (fun s id => s.progress c id) s
      ).modCore c (·.testActed)).rounds c bid all n)

/-- An access still to be performed that stands behind its warp's records becomes a held record (R449, R456). -/
def State.holdBack (s : State) (c : CoreId) (bid : Nat) : State :=
  (s.cores[c].ops.filter fun o => o.bid == bid).foldl (fun s o =>
    match o.kind, s.warp? c o.warp with
    | .mem a, some x =>
      let free := o.waits.all fun i => match s.cores[c].op? i with
        | some p => (match p.kind with | .mem _ => true | _ => false)
        | none => true
      if a.left = 0 ∨ (x.records.isEmpty ∧ x.held.isEmpty) ∨ !free then s
      else
        let r : ReplayRecord :=
          { glyph := o.glyph, subCause := 0, field := o.field, firstVa := 0, access := a, opId := o.id, resolved := false }
        let join (q : ReplayRecord) : ReplayRecord :=
          if q.opId = o.id then { q with access := { q.access with left := q.access.left ||| a.left } } else q
        let s := s.modWarp c o.warp fun y =>
          if (y.records ++ y.held).any fun q => q.opId == o.id then
            { y with records := y.records.map join, held := y.held.map join }
          else { y with held := y.held ++ [r] }
        s.modOp c o.id fun p => p.modAccess fun e => { e with left := 0 }
    | _, _ => s) s

/-- A row of a block's warps is still to be read (log 57). -/
def Core.lateRow (k : Core) (bid : Nat) : Bool := k.warpList.any fun x => x.2.bid == bid && x.2.pending.any fun p => p.val.late

/-- A block brought to where its image can be written: what a freeze completes has completed, the rest is suspended
(R449), and its barriers are tested (R36). Accesses that a fence holds back are waited for, a row of an MADV among them, and so is
all that the fence names. -/
def State.drain (s : State) (c : CoreId) (bid : Nat) : State :=
  let n := (s.cores[c].ops.filter fun o => o.bid == bid).length + 1
  let s := (s.rounds c bid false n).holdBack c bid
  let s := if s.cores[c].lateRow bid ||
      (s.cores[c].ops.any fun o => o.bid == bid && o.mustEnd && (match o.kind with | .mem a => a.left != 0 | _ => true))
    then (s.rounds c bid true n).holdBack c bid
    else s
  (s.modCore c (·.testActed)).readLate c

/-- Whether a block's image can be written: nothing that a freeze completes is left but what records hold, no row is still to be
read (log 57), and no translation request of its warps waits. -/
def Core.drained (k : Core) (bid : Nat) : Bool :=
  !k.lateRow bid && !(k.ops.any fun o => o.bid == bid && o.mustEnd && (match o.kind with | .mem a => a.left != 0 | _ => true)) &&
    (k.warpList.all fun x => x.2.bid != bid || x.2.withheld == 0)

/-- An element read and not landed joins the last entry of a quarantine where its target follows and the entry stays within 64
bytes; else it is an entry of its own (R458; how elements share entries is a DESIGN CHOICE, log 31). -/
def joinQuarantine (target : Word) (bs : List Byte) : List (Word × List Byte) → List (Word × List Byte)
  | [] => [(target, bs)]
  | [(a, x)] => if a + BitVec.ofNat 64 x.length = target ∧ x.length + bs.length ≤ 64 then [(a, x ++ bs)] else [(a, x), (target, bs)]
  | e :: es => e :: joinQuarantine target bs es
/-- The bytes in a core's quarantine buffer. -/
def Core.quarantineSize (k : Core) : Nat :=
  (k.ops.map fun o => match o.kind with | .copy t => (t.quarantine.map fun y => y.2.length).foldl (· + ·) 0 | _ => 0).foldl (· + ·) 0
/-- Up to n elements of a begun copy read and not landed, within the 64 KiB of the buffer (R450); an element whose read does not
give its bytes stays where it is. -/
def State.readAhead : Nat → State → CoreId → Block → Nat → State
  | 0, s, _, _, _ => s
  | n + 1, s, c, b, id =>
    match s.cores[c].op? id with
    | none => s
    | some o =>
    match o.kind with
    | .copy t =>
      if !t.begun || t.stopped || o.fault.isSome || s.opWaits c o || s.cores[c].drainsFirst b ||
          decide (shCount t.shape ≤ t.cursor ∨ 65536 < s.cores[c].quarantineSize + shE t.shape) || t.badRow s.cores[c] b t.cursor ||
          s.sliceStuck (clusterOf c) || (s.copyFar c b t).any s.noRoute then s
      else
        match s.readElem c b t t.cursor with
        | (s, .data x) =>
          (s.modOp c id fun p => p.modCopy fun u =>
            { u with cursor := u.cursor + 1
                     quarantine := joinQuarantine (u.target u.cursor) (natBytes (shE u.shape) x) u.quarantine }).readAhead n c b id
        | _ => s
    | _ => s
/-- The reads of a block's copies that are in flight at a freeze land in the quarantine buffer (R449, R450): how many they are is
open (a free value, log 5). -/
def State.landReads (s : State) (c : CoreId) (b : Block) : State :=
  ((s.cores[c].ops.filter fun o => o.bid == b.bid).map (·.id)).foldl (fun s id => (s.readAhead (Config.readsInFlight id) c b id).tallied c id s) s

/-- The lease of a block that leaves its core ends with cause 6 and its trap (R179, R451). -/
def State.endBlockLease (s : State) (c : CoreId) (bid : Nat) : State :=
  match s.clusters[clusterOf c].lease with
  | some l => if l.core = c ∧ l.bid = bid then s.endLease (clusterOf c) 6 true else s
  | none => s

/-- A block gone from its core, and what its copies had still to subtract in its window with it (R69); a core that empties is invalidated
for the partition (R360, R377). -/
def Core.leave (k : Core) (bid : Nat) : Core :=
  let gone (w : WarpId) : Bool := (k.warps[w].map fun x => x.bid) == some bid
  let blocks := k.blocks.filter fun b => b.bid != bid
  k.tlbDivide
    { k with
      blocks := blocks
      decode := if blocks.isEmpty then [] else k.decode
      tlb := if blocks.isEmpty then [] else k.tlb
      warps := k.warps.map fun x => x.filter fun (y : Warp) => y.bid != bid
      ops := k.ops.filter fun o => o.bid != bid
      arrived := k.arrived.filter fun y => y.bid != bid
      acted := k.acted.filter fun x => !(k.blocks.any fun b => b.bid == bid && rangesMeet x.1 16 b.ab.base b.ab.size)
      holder := k.holder.filter fun w => !gone w
      first := k.first.filter fun w => !gone w
      sticky := k.sticky.filter fun x => !gone x.1
      stopped := if blocks.isEmpty then none else k.stopped }

/-- What an image leaves out of a block (log 30). -/
def Core.extra (k : Core) (c : CoreId) (b : Block) (entry : Nat) : SavedExtra :=
  { entry := entry, launch := b.launch, core := c, group := b.group, broken := b.broken, bid := b.bid, microWait := b.microWait
    warps := (k.blockWarps b.bid).map (·.2), ops := k.ops.filter fun o => o.bid == b.bid
    arrived := k.arrived.filter fun y => y.bid == b.bid }

/-- A launch changed. -/
def State.modLaunch (s : State) (l : Nat) (f : Launch → Launch) : State :=
  { s with launches := s.launches.map fun x => if x.lid == l then f x else x }

/-! ## The context save area (R460) -/

/-- An image entry of a save area. -/
structure ImageEntry where
  index : Nat
  offset : Nat
  size : Nat
  state : Nat
  cause : Nat
  deriving DecidableEq, Repr

def ImageEntry.bytes (e : ImageEntry) : List Byte :=
  natBytes 8 e.offset ++ natBytes 4 e.size ++ natBytes 1 e.state ++ natBytes 1 e.cause ++ [0, 0]
def enSaved : Nat := 2
def enHeld : Nat := 3
def enReady : Nat := 4

/-- The image table's number of entries, and one entry of its bytes (R460). -/
def imageSlots : Nat := 4096
def entryOf (bs : List Byte) (i : Nat) : ImageEntry :=
  { index := i, offset := rd bs (16 * i) 8, size := rd bs (16 * i + 8) 4, state := rd bs (16 * i + 12) 1, cause := rd bs (16 * i + 13) 1 }

/-- The entries of the table's bytes; none of them where these cannot be read. -/
def entriesOf : Option (List Byte) → List ImageEntry
  | none => []
  | some bs => (List.range imageSlots).map (entryOf bs)
/-- The image entries of a partition's save area. -/
def State.imageEntries (s : State) (p : PartId) : State × List ImageEntry :=
  let r := s.devRead p 0 s.parts[p].saveBase 65536 Need.read
  (r.1, entriesOf r.2)

/-- An image entry written; none when it cannot be. -/
def State.writeEntry (s : State) (p : PartId) (e : ImageEntry) : Option State :=
  match s.devWrite p 0 (s.parts[p].saveBase + BitVec.ofNat 64 (16 * e.index)) e.bytes Need.write with
  | (s, true) => some s
  | (s, false) => none

/-- The lowest offset at which an image of a size in bytes fits (R460). -/
def freeOffset (es : List ImageEntry) (size total : Nat) : Option Nat :=
  let used := (es.filter fun e => e.offset != 0).map fun e => (⟨e.offset, 4096 * e.size⟩ : Window)
  let starts := 0x18000 :: used.map fun w => max 0x18000 (4096 * ceilDiv (w.base + w.size) 4096)
  let good := starts.filter fun a => decide (a + size ≤ total) && used.all fun w => !rangesMeet a size w.base w.size
  match good with
  | [] => none
  | a :: rest => some (rest.foldl min a)

/-- A drained block, its reads in flight landed, saved: its image written, at an offset given or at the lowest that fits, its entry recorded, and the
block gone from its core; its launch goes on (R400, R449, R460). None when there is no place, or a write cannot be made
(R371). -/
def State.saveBlock (s : State) (c : CoreId) (bid : Nat) (cause state : Nat) (offset : Option Nat) : Option State :=
  match s.cores[c].block? bid with
  | none => none
  | some b =>
    let p := b.part
    let s := s.endBlockLease c bid
    let (s, es) := s.imageEntries p
    let img := imageBytes s c b cause
    let at_ := match offset with
      | some o => if o + img.length ≤ s.parts[p].saveSize then some o else none
      | none => freeOffset es img.length s.parts[p].saveSize
    match es.find? fun e => e.offset == 0, at_ with
    | some e, some at_ =>
      match s.devWrite p 0 (s.parts[p].saveBase + BitVec.ofNat 64 at_) img Need.write with
      | (_, false) => none
      | (s, true) =>
        (s.writeEntry p { index := e.index, offset := at_, size := img.length / 4096, state := state, cause := cause }).map
          fun s =>
            let x := s.cores[c].extra c b e.index
            ((s.modCore c (·.leave bid)).modPart p fun q =>
              { q with saved := (q.saved.filter fun y => y.entry != e.index) ++ [x] }).modLaunch b.launch fun l =>
                { l with resident := l.resident - 1, saved := l.saved + 1 }
    | _, _ => none

/-! ## Restoring -/

/-- What the block of an image asks of its core (R17, R451): as it stood when it was saved. -/
def imageNeeds (img : List Byte) (p : PartId) (ws : List Warp) : Needs :=
  let sum (f : Warp → Nat) : Nat := (ws.map f).foldl (· + ·) 0
  { part := p, warps := ws.length, v := sum (·.curV), h := sum (·.curH), c := sum (·.curC), m := natBits (rd img 7 1) 0 1 == 1
    f := natBits (rd img 7 1) 1 1 == 1, wb := 256 * rd img 0x30 2, ab := 256 * rd img 0x32 2, cb := 256 * rd img 0x34 2 }

/-- The matrix state of an image (R459). -/
def Core.loadMatrix (k : Core) (img : List Byte) (b : Block) : Core :=
  let bs := imageSection img 8
  let plane (at_ tag : Nat) : Plane :=
    { data := ofBytes 65536 (cut bs at_ 8192), scales := ofBytes 8192 (cut bs (at_ + 8192) 1024), tag := ofBytes 16 (cut bs tag 2) }
  let marked := (List.range (ceilDiv b.cb.size 512)).filter fun i => natBits (natOfBytes (cut bs 0x4B40 64)) i 1 == 1
  { k with
      planes := upd (upd k.planes 0 fun _ => plane 0 0x4800) 1 fun _ => plane 0x2400 0x4802
      active := fin 2 (rd bs 0x4804 1), config := ofBytes 160 (cut bs 0x4808 24), fl := ofBytes 4096 (cut bs 0x4820 512)
      }.mark (marked.map fun i => cbRowAt b (512 * i))

/-- The F store of an image (R453). -/
def Core.loadStore (k : Core) (img : List Byte) : Core :=
  let bs := imageSection img 9
  { k with banks := upd (upd k.banks 0 fun _ => bankOf bs 0) 1 fun _ => bankOf bs 0x3400, bank := fin 2 (rd bs 0x6800 1) }

/-- The suspended copies of a restored block that had begun take their locks again, in issue order; one that must wait for another block's
copy begins once that has completed (R72, R451). -/
def Core.relock (k : Core) (bid : Nat) : Core :=
  let set (b : Bool) (o : AsyncOp) : AsyncOp := o.modCopy fun u => { u with begun := b }
  let mine := k.ops.filter fun o => o.bid == bid && match o.kind with | .copy t => t.begun | _ => false
  let free := mine.foldl (fun (k : Core) o => k.modOp o.id (set false)) k
  mine.foldl (fun (k : Core) o =>
    match o.kind with
    | .copy t => if k.canBegin o.id { t with begun := false } then k.modOp o.id (set true) else k
    | _ => k) free

/-- Operations in issue order. -/
def insertOp (o : AsyncOp) : List AsyncOp → List AsyncOp
  | [] => [o]
  | p :: ps => if o.id < p.id then o :: p :: ps else p :: insertOp o ps

/-- A launch with its dictionary header read again from memory; a header that cannot be read is not valid (R117, R508). -/
def State.rereadHeader (s : State) (l : Launch) (c : CoreId) : State × Launch :=
  match s.devGet l.part (dieOf c).val l.nodeAddr (l.kdesc.extractLsb' 64 64) 256 with
  | (s, some h) => (s, { l with header := ofBytes 2048 h })
  | (s, none) => (s, { l with header := 0 })

/-- The block of an image put on a core with room (R451): its windows, registers, engines, operations and records. What
the image leaves out comes from `x` where the block was saved on this package. No row of its CB window is marked but those that its
image marks: a block without a matrix section has marked none (R274; DEDUCED, log 60). Where the launch has no latched header, the block reads
and checks it again (R117). The block waits for its first core
bundle; a halted one stays so unless a FREEZE saved it (R441, R462). -/
def State.restoreAt (s : State) (l : Launch) (img : List Byte) (x : Option SavedExtra) (c : CoreId) : Option State :=
  let olds := (x.map (·.warps)).getD []
  let oldOps := (x.map (·.ops)).getD []
  let n := rd img 0x0D 1
  let ids := s.nextId + 1
  let ws := warpsOf img olds 0 n
  -- what the block wrote through another cluster's slice is at its home before it goes on (R315, R318; log 50)
  let s := s.releaseAll l.part
  if s.unreleasedAll l.part then none else
  match s.room c (imageNeeds img l.part ws) with
  | none => none
  | some r =>
    let bid := (x.map (·.bid)).getD s.nextId
    let (s, l) := if l.latched then (s, l) else s.rereadHeader l c
    let b0 := l.block bid (rd img 0x18 4) r
    let halted := natBits (rd img 7 1) 2 1 == 1 && rd img 6 1 != 2
    let resumed (w : Warp) : WarpState :=
      if w.state = .halted ∧ !halted then (if w.pos ≠ 0 then .midStroke else .boundary) else w.state
    let b := { b0 with broken := (x.map (·.broken)).getD false, halted := halted, restoring := true }
    let ws := recordsOf img 0 ids olds (replaysOf img 0 olds (registersOf img ws))
    let ids := ids + (ws.map fun w => w.records.length + w.held.length).foldl (· + ·) 0
    let ws := ws.mapIdx fun i (w : Warp) =>
      let old := olds[i]?
      { w with bid := bid, level := (old.map (·.level)).getD l.level, state := resumed w }
    let most := (imageSection img 6).length / 128
    let ops := opsOf img b ws r.slots s.time most 0 0 0 (oldOps.filter fun o => o.kind.imageKind != 0) ids
    let ops := (r.slots.zip ws).foldl (fun ops (slot, (w : Warp)) =>
      (w.records ++ w.held).foldl (fun ops q => insertOp (recordOp b slot s.time oldOps q) ops) ops) ops
    let s := { s with nextId := ids + most + 1 }
    let s := s.modCore c fun k =>
      let k := k.serve l.part
      let put (m : Memory) (w : Window) (i : Nat) : Memory := m.write w.base (cut (imageSection img i) 0 w.size)
      let new := k.setWarps (r.slots.zip ws)
      let new :=
        { new with blocks := k.blocks ++ [b], wb := put k.wb r.wb 10, ab := put k.ab r.ab 11, cb := put k.cb r.cb 12
                   ops := ops.foldl (fun acc o => insertOp o acc) k.ops
                   arrived := k.arrived ++ ((x.map SavedExtra.arrived).getD []) }
      let new := new.unmark (windowRows r.cb)
      let new := if b.usesM then new.loadMatrix img b else new
      let new := if b.usesFmicro then new.loadStore img else new
      (k.tlbDivide new).relock bid
    let s := if (x.bind fun y => y.microWait).isSome then s.fillMicro c b else s
    some ((s.acquire (clusterOf c) l.part).shiftBallast b)

/-- The image of an entry, read from the save area; none where it cannot be read or is no image. -/
def State.readImage (s : State) (p : PartId) (e : ImageEntry) : State × Option (List Byte) :=
  match s.devRead p 0 (s.parts[p].saveBase + BitVec.ofNat 64 e.offset) (4096 * e.size) Need.read with
  | (s, some img) => (s, if imageOk img p then some img else none)
  | (s, none) => (s, none)

/-- The launch in progress that an image belongs to. -/
def State.launchOf (s : State) (p : PartId) (node : Word) : Option Launch :=
  s.launches.find? fun l => l.part == p && l.nodeAddr == node

/-- A saved block restored on a core that is not closed to its launch, its entry freed and its launch's reservation there ended
(R393, R451, R460); none when it cannot be. -/
def State.restoreEntry (s : State) (p : PartId) (e : ImageEntry) (c : CoreId) (closed : State → Launch → Bool) : Option State :=
  match s.readImage p e with
  | (_, none) => none
  | (s, some img) =>
    match s.launchOf p (BitVec.ofNat 64 (rd img 0x10 8)) with
    | none => none
    | some l =>
      let x := s.parts[p].saved.find? fun y => y.entry == e.index && y.launch == l.lid
      if !ndAdmits l.node (dieOf c) || closed s l then none
      else
        match s.restoreAt l img x c with
        | none => none
        | some s =>
          (s.writeEntry p { index := e.index, offset := 0, size := 0, state := 0, cause := 0 }).map fun s =>
            let s := s.modCore c fun k => { k with reserved := k.reserved.filter fun r => r.launch != l.lid }
            (s.modPart p fun q => { q with saved := q.saved.filter fun y => y.entry != e.index }).modLaunch l.lid fun l =>
              { l with resident := l.resident + 1, saved := l.saved - 1 }

end Sys2Proof.Machine
end

