-- ==== Sys2Proof/Machine/Place.lean ====
section
/-! DEFINITION. The dispatchers: BLOCK_CLAIM, BLOCK_PLACE, AGEING_INTERVAL, VICTIM_RESUME, BLOCK_RESTORE, BLOCK_RETIRE,
LAUNCH_COMPLETE, and level-7 pre-emption (spec/01_execution_model.md R17 to R22, R43 to R45,
spec/18_launch_scheduling.md R391 to R403). COPY_COMPLETE stands here because a LAUNCH can pre-empt. -/

namespace Sys2Proof.Machine

/-- The dispatchers serve a partition (R377, R462). -/
def State.admits (s : State) (p : PartId) : Bool := s.parts[p].enabled && !s.parts[p].resetting && !s.parts[p].suspended

/-- Where an entry of a partition's save area stands. -/
def State.entryVa (s : State) (p : PartId) (entry : Nat) : Word := s.parts[p].saveBase + BitVec.ofNat 64 (16 * entry)
/-- The read of an entry is refused for now, and answered after a notice (R428, R429). -/
def State.entryWaits (s : State) (p : PartId) (entry : Nat) : Bool := (s.devFrame p (s.entryVa p entry) 16 Need.read).isSome
/-- The state that an entry holds; 0 where it cannot be read, or not yet (R428, R430). -/
def State.entryState (s : State) (p : PartId) (entry : Nat) : Nat :=
  if s.entryWaits p entry then 0
  else
    match s.peek p (s.entryVa p entry) with
    | some pa => if s.refuses pa || s.homeNum pa 8 == 0 then 0 else s.homeNum (pa + 12) 1
    | none => 0
/-- The victims that have not resumed on the core they left (R400): entries still SAVED, or not yet known to be another thing. -/
def State.victimsOn (s : State) (c : CoreId) : List SavedExtra :=
  (List.finRange 16).flatMap fun p =>
    s.parts[p].saved.filter fun x => x.core == c && (s.entryState p x.entry == enSaved || s.entryWaits p x.entry)

/-- The level of a launch as it stands (R394). -/
def State.launchLevel (s : State) (lid : Nat) : Option Nat := (s.launches.find? fun l => l.lid == lid).map fun l => l.level

/-- The launch belongs to a partition in reset, whose launches wait for nothing any more (R377, R402). -/
def State.ending (s : State) (lid : Nat) : Bool := s.launches.any fun l => l.lid == lid && s.parts[l.part].resetting
/-- A core closed to a launch by a reservation (R393). -/
def State.reservedFrom (s : State) (l : Launch) (c : CoreId) : Bool :=
  s.cores[c].reserved.any fun r => r.launch != l.lid && decide (l.level ≤ r.level) && !s.ending r.launch
/-- A core closed to a launch by a victim that has not resumed, of the launch's level or above (R400). -/
def State.victimBars (s : State) (l : Launch) (x : SavedExtra) : Bool :=
  !s.ending x.launch && (match s.launchLevel x.launch with | some n => decide (l.level ≤ n) | none => false)
/-- A core closed to a launch by a reservation (R393) or by a victim that has not resumed (R400). -/
def State.closedTo (s : State) (l : Launch) (c : CoreId) : Bool := s.reservedFrom l c || (s.victimsOn c).any (s.victimBars l)

/-- Room on a core for a block of a launch now (R392). -/
def State.canPlace (s : State) (l : Launch) (c : CoreId) : Option Room :=
  if !s.admits l.part || !ndAdmits l.node (dieOf c) || s.closedTo l c then none else s.room c l.needs

/-- A FREEZE in progress on a core that a level-7 node needs ends as REFUSED; a core that stood stopped before it stays so
(R402; a save is made at FREEZE_DONE, so none has begun). -/
def State.refuseFreeze (s : State) (c : CoreId) : State :=
  let mine (q : Partition) : Bool := match q.freeze with | some f => f.target == c | none => false
  let was := s.parts.toList.any fun q => match q.freeze with | some f => f.target == c && f.was | none => false
  if s.parts.toList.any mine then
    ({ s with parts := s.parts.map fun q => if mine q then { q with freeze := none, fstat := 7 } else q } : State).modCore c
      fun k => { k with stopped := if was then k.stopped else none }
  else s

/-- One block of a launch placed on a core; a reservation of the launch there ends (R393). -/
def State.placeOn (s : State) (l : Launch) (index : Nat) (c : CoreId) : Option State :=
  (s.canPlace l c).map fun r =>
    let s := if l.level = 7 then s.refuseFreeze c else s
    ((s.placeBlock l c index r).modCore c fun k => { k with reserved := k.reserved.filter fun x => x.launch != l.lid }
      ).modLaunch l.lid fun x => { x with resident := x.resident + 1, placedOn := x.placedOn ||| BitVec.ofNat 4 (2 ^ (dieOf c).val) }

/-- Blocks placed together, or none of them (R21, R22). -/
def State.placeMany (s : State) (l : Launch) (pairs : List (Nat × CoreId)) : Option State :=
  pairs.foldl (fun acc (i, c) => acc.bind fun s => s.placeOn l i c) (some s)

/-- The cores of a die, and the eight of a cluster in logical order. -/
def coresOf (d : DieId) : List CoreId := allCores.filter fun c => dieOf c == d
def clusterCores (cl : ClusterId) : List CoreId := (List.finRange 8).map fun i => coreOf cl i

/-- Where the next unit of a launch goes on some dies: one block, or a group on one cluster (R17, R21): the first core or
cluster with room. Which of those with room is taken is the dispatcher's (log 24). -/
def State.unitPlan (s : State) (l : Launch) (dies : List DieId) (idx : List Nat) : Option (List (Nat × CoreId)) :=
  if ndCosched l.node then
    (dies.flatMap clustersOf).findSome? fun cl =>
      let pairs := idx.zip (clusterCores cl)
      if (s.placeMany l pairs).isSome then some pairs else none
  else
    match idx with
    | i :: _ => ((dies.flatMap coresOf).find? fun c => (s.canPlace l c).isSome).map fun c => [(i, c)]
    | [] => none

/-- How many blocks of a launch a core takes (R17). -/
def Core.takes (l : Launch) : Nat → Core → Nat
  | 0, _ => 0
  | n + 1, k =>
    match k.room l.needs with
    | none => 0
    | some r =>
      Core.takes l n { k.setWarps (r.slots.map fun w => (w, l.warp 0 0)) with blocks := k.blocks ++ [l.block 0 0 r] } + 1

/-- A place for units of a launch, a core or the eight of a cluster (R17, R21): how many units it takes, and how many of its cores the
partition does not hold yet. -/
structure Site where
  cores : List CoreId
  most : Nat
  opens : Nat
  deriving DecidableEq, Repr

/-- The sites of a die, with what each core takes. -/
def State.sites (s : State) (l : Launch) (d : DieId) (takes : CoreId → Nat) : List Site :=
  (if ndCosched l.node then (clustersOf d).map clusterCores else (coresOf d).map fun c => [c]).map fun cs =>
    { cores := cs, most := (cs.map takes).foldl min 8
      opens := (cs.filter fun c => !(s.cores[c].blocks.any fun b => b.part == l.part)).length }

/-- A way to place a number of units: how many cores the partition comes to hold by it, and each unit's cores. -/
abbrev Plan := Option (Nat × List (List CoreId))
/-- Of two ways the one that opens fewer cores, which core_cap bounds (R373). -/
def Plan.least (a b : Plan) : Plan :=
  match a, b with
  | some x, some y => if y.1 < x.1 then some y else some x
  | none, b => b
  | a, none => a
def Plan.and (a b : Plan) : Plan := a.bind fun x => b.map fun y => (x.1 + y.1, x.2 ++ y.2)
/-- The least ways to place 0, 1, 2, ... units, when one site more may be used. -/
def Site.extend (t : List Plan) (x : Site) : List Plan :=
  (List.range t.length).map fun n =>
    (List.range (min x.most n)).foldl (fun best j =>
      best.least (Plan.and (t.getD (n - (j + 1)) none) (some (x.opens, List.replicate (j + 1) x.cores)))) (t.getD n none)
/-- The same when the sites of one die more may be used, where at least `lo` units are to go. -/
def joinPlans (lo : Nat) (a b : List Plan) : List Plan :=
  (List.range a.length).map fun n =>
    (List.range (n + 1)).foldl (fun best m =>
      if m < lo then best else best.least (Plan.and (a.getD (n - m) none) (b.getD m none))) none

/-- A list of indices in units. -/
def unitsOf (cosched : Bool) : Nat → List Nat → List (List Nat)
  | 0, _ => []
  | _, [] => []
  | n + 1, l => if cosched then l.take 8 :: unitsOf cosched n (l.drop 8) else l.take 1 :: unitsOf cosched n (l.drop 1)

/-- The dies that a launch's affinity admits. -/
def Launch.dies (l : Launch) : List DieId := (List.finRange 4).filter fun d => ndAdmits l.node d
/-- The dies on which a unit may be placed: the one that has claimed its indices, or, while none has, each that may (R20, R392). -/
def Launch.diesFor (l : Launch) (u : List Nat) : List DieId :=
  match l.dies.filter fun d => u.any fun i => l.claims[d].contains i with
  | [] => l.dies
  | ds => ds

/-- A unit placed. -/
def State.placeUnit (s : State) (l : Launch) (u : List Nat) : Option State := (s.unitPlan l (l.diesFor u) u).bind (s.placeMany l)

/-- A launch leaves the queues once its counter is exhausted and every claimed index has been placed; its reservations
end (R392, R393). -/
def State.leaveQueue (s : State) (lid : Nat) : State :=
  match s.launches.find? fun l => l.lid == lid with
  | none => s
  | some l =>
    if decide (l.next < ndCount l.node) || l.claims.toList.any fun x => !x.isEmpty then s
    else
      { s.modLaunch lid fun x => { x with queued := false } with
        cores := s.cores.map fun k => { k with reserved := k.reserved.filter fun r => r.launch != lid } }

/-- Indices 0 to n - 1 of a launch in units. -/
def Launch.allUnits (l : Launch) : List (List Nat) := unitsOf (ndCosched l.node) (ndCount l.node) (List.range (ndCount l.node))

/-- Every block of a launch placed at once, if some choice of cores has room for them all (R22): on each die the units that it has
claimed, and the others where they open the fewest cores. -/
def State.placeAll (s : State) (l : Launch) : Option (State × List (Nat × CoreId)) :=
  let us := l.allUnits
  let none_ : List Plan := some (0, []) :: List.replicate us.length none
  let takes (c : CoreId) : Nat := if (s.canPlace l c).isSome then Core.takes l 8 s.cores[c] else 0
  let held (u : List Nat) : Bool := l.claims.toList.any fun x => u.any x.contains
  let plans := l.dies.foldl (fun t d =>
    joinPlans (us.filter fun u => u.any l.claims[d].contains).length t ((s.sites l d takes).foldl Site.extend none_)) none_
  match plans.getD us.length none with
  | none => none
  | some (_, places) =>
    let pairs := (((us.filter held) ++ us.filter fun u => !held u).foldl (fun (acc, left) u =>
      match left.find? fun cs => cs.any fun c => (l.diesFor u).contains (dieOf c) with
      | some cs => (acc ++ u.zip cs, left.erase cs)
      | none => (acc, left)) (([] : List (Nat × CoreId)), places)).1
    (s.placeMany l pairs).map fun s => (s, pairs)

/-- The unit that a die would place next: of its claims, or of what it could claim (R20, R392). -/
def Launch.unitOn (l : Launch) (d : DieId) : List Nat :=
  let size := if ndCosched l.node then 8 else 1
  if l.claims[d] ≠ [] then l.claims[d].take size
  else if l.next < ndCount l.node then (List.range size).map (l.next + ·) else []

/-- A die could place a block of a launch now. -/
def State.placeable (s : State) (l : Launch) (d : DieId) : Bool :=
  l.queued && s.admits l.part && ndAdmits l.node d &&
    (if ndCoresident l.node then (s.placeAll l).isSome
     else l.unitOn d != [] && (s.unitPlan l [d] (l.unitOn d)).isSome)

/-- A launch stands ahead of another in a die's scan (R392). -/
def Launch.ahead (a b : Launch) : Bool := decide (b.level < a.level ∨ (a.level = b.level ∧ a.order < b.order))

/-- BLOCK_CLAIM (R20): up to 16 consecutive indices; 8 or 16 under cluster co-scheduling; those at or above block_count
are discarded. -/
def execBlockClaim (l : Nat) (d : DieId) (n : Nat) (s : State) : Out :=
  match s.launches.find? fun x => x.lid == l with
  | none => .next s
  | some x =>
    let legal := if ndCosched x.node then n == 8 || n == 16 else decide (1 ≤ n ∧ n ≤ 16)
    if !legal || !x.queued || !s.admits x.part || !ndAdmits x.node d || decide (ndCount x.node ≤ x.next) then .next s
    else
      let got := ((List.range n).map (x.next + ·)).filter fun i => decide (i < ndCount x.node)
      .next (s.modLaunch l fun y => { y with next := y.next + n, claims := upd y.claims d (· ++ got) })

/-- The blocks that a BLOCK_PLACE puts on its cores: all of a co-resident launch, else the first of the die's claims. -/
def Launch.toPlace (l : Launch) (d : DieId) (cores : List CoreId) : Option (List (Nat × CoreId)) :=
  let idx := if ndCoresident l.node then List.range (ndCount l.node) else l.claims[d].take cores.length
  let pairs := idx.zip cores
  let own := pairs.all fun (i, c) => (if ndCoresident l.node then true else dieOf c == d) && l.claims[dieOf c].contains i
  let grouped := !ndCosched l.node || (pairs.all fun (i, c) =>
    i % 8 == c.val % 8 && (pairs.all fun (j, e) => i / 8 != j / 8 || clusterOf c == clusterOf e)) && pairs.length % 8 == 0
  if pairs.length = cores.length ∧ pairs.length = idx.length ∧ own ∧ grouped ∧ pairs ≠ [] then some pairs else none

/-- The level of a launch changed: its placed blocks go with it, but for those that keep level 7 (R375, R396), and so do its
reservations, one to a die below level 7; where a die holds another of that level, the one that comes to it ends (R393, log 24). It enters the queue of its new
level behind those that stand there (R391). -/
def State.setLevel (s : State) (l : Launch) (n : Nat) : State :=
  if n = l.level then s
  else
  let mine (e : CoreId) : Bool := s.cores[e].reserved.any fun r => r.launch == l.lid
  let taken (c : CoreId) : Bool :=
    ((coresOf (dieOf c)).any fun e => s.cores[e].reserved.any fun r => r.launch != l.lid && r.level == n) ||
      decide (n < 7 ∧ (coresOf (dieOf c)).find? mine ≠ some c)
  let shift (k : Core) (x : Warp) : Warp :=
    if k.blocks.any fun b => b.bid == x.bid && b.launch == l.lid && !b.level7 then
      { x with level := min (max 6 n) (x.level + n - l.level) }
    else x
  let away (e : SavedExtra) : SavedExtra :=
    if e.launch = l.lid then { e with warps := e.warps.map fun x => { x with level := min (max 6 n) (x.level + n - l.level) } } else e
  ({ s with
      nextId := s.nextId + 1
      parts := s.parts.map fun q => { q with saved := q.saved.map away }
      cores := s.cores.mapFinIdx fun i (k : Core) hi =>
        { k with
          warps := k.warps.map fun x => x.map (shift k)
          reserved := k.reserved.filterMap fun r =>
            if r.launch != l.lid then some r else if taken ⟨i, hi⟩ then none else some { r with level := n } } } : State
    ).modLaunch l.lid fun x => { x with level := n, order := s.nextId }

/-- A core would fit a block of a launch once its current blocks leave: it is in service, with the others of its cluster where the block's
group takes them (R21), and the partition's cap allows it. -/
def State.wouldFit (s : State) (l : Launch) (c : CoreId) : Bool :=
  let cs := if ndCosched l.node then clusterCores (clusterOf c) else [c]
  !s.clusters[clusterOf c].retention && (cs.all fun e => !s.cores[e].retired) &&
    decide (s.heldCores l.part - (cs.filter fun e => s.cores[e].blocks.any fun b => b.part == l.part).length + cs.length ≤
      s.parts[l.part].coreCap)

/-- The core that a die reserves for a launch (R393, R404): the first that would fit a block of it and holds no reservation
of its level or above (which core would first fit is the dispatcher's choice, log 24). -/
def State.toReserve (s : State) (d : DieId) (l : Launch) (level : Nat) : Option CoreId :=
  (coresOf d).find? fun c => s.wouldFit l c && !(s.cores[c].reserved.any fun r => decide (level ≤ r.level))

/-- A core reserved for a launch; a lower reservation on it moves on (R404). -/
def State.reserveOn (s : State) (l : Launch) (c : CoreId) : State :=
  let moved := s.cores[c].reserved
  let s := s.modCore c fun k => { k with reserved := [{ level := l.level, launch := l.lid }] }
  moved.foldl (fun (s : State) r =>
    match (s.launches.find? fun y => y.lid == r.launch).bind fun y => s.toReserve (dieOf c) y r.level with
    | some e => s.modCore e fun k => { k with reserved := k.reserved ++ [r] }
    | none => s) s

/-- A reservation of a die for a passed-over launch: at most one per level (R393). -/
def State.reserve (s : State) (l : Launch) (d : DieId) : State :=
  if (coresOf d).any fun c => s.cores[c].reserved.any fun r => r.level == l.level || r.launch == l.lid then s
  else
    match s.toReserve d l l.level with
    | none => s
    | some c => s.reserveOn l c

/-- What stays on a core when the victims of a level-7 launch leave it (R399, R441). -/
def Core.emptied (k : Core) : Core :=
  let stay := k.blocks.filter fun b => b.halted || b.level7
  { k with blocks := stay, warps := k.warps.map fun x => x.filter fun y => stay.any fun b => b.bid == y.bid }

/-- The cores that a level-7 launch's blocks need at once, reserved on each admitted die (R399): those that the partition holds first, as
many as take the blocks that are still to be placed, whole clusters for groups (R21), and no more than core_cap allows. -/
def State.reserveSeven (s : State) (l : Launch) : State :=
  let left := ndCount l.node - l.next + (l.claims.toList.map (·.length)).foldl (· + ·) 0
  let need := if ndCosched l.node then ceilDiv left 8 else left
  let budget := s.parts[l.part].coreCap - s.heldCores l.part
  l.dies.foldl (fun (s : State) d =>
    let free (c : CoreId) : Bool := s.wouldFit l c && !s.cores[c].reserved.any fun r => r.launch != l.lid && r.level == 7
    let all := s.sites l d fun c => if free c then Core.takes l 8 s.cores[c].emptied else 0
    let chosen := (all.filter (·.opens == 0) ++ all.filter (·.opens != 0)).foldl (fun (acc : List CoreId × Nat × Nat) (x : Site) =>
      if x.most = 0 ∨ need ≤ acc.2.1 ∨ budget < acc.2.2 + x.opens then acc
      else (acc.1 ++ x.cores, acc.2.1 + x.most, acc.2.2 + x.opens)) ([], 0, 0)
    (chosen.1.filter fun c => !s.cores[c].reserved.any fun r => r.launch == l.lid).foldl (fun (s : State) c => s.reserveOn l c) s) s

/-- A launch has been passed over on a die (R393): the die holds claims of it or could claim from its counter (R392), and has
placed no block of it in the interval. -/
def Launch.passedOver (l : Launch) (d : DieId) : Bool :=
  ndAdmits l.node d && !l.placedOn.getLsbD d.val && (l.claims[d] != [] || decide (l.next < ndCount l.node))

/-- AGEING_INTERVAL (R45, R393, R394, R396): an interval of a waiting launch passes. -/
def execAgeingInterval (l : Nat) (s : State) : Out :=
  match s.launches.find? fun x => x.lid == l with
  | none => .next s
  | some x =>
    if !x.queued || !s.admits x.part then .next s
    else
      let due := x.since + s.parts[x.part].ageingTicks
      let s := s.upTo due
      let rises := decide (x.level < 6)
      let y := { x with level := if rises then x.level + 1 else x.level, since := due
                        order := if rises then s.nextId else x.order, placedOn := 0 }
      let s := (s.setLevel x y.level).modLaunch l fun _ => y
      .next (((List.finRange 4).filter x.passedOver).foldl (fun (s : State) d => s.reserve y d) s)

/-! ## Level-7 pre-emption (R399) -/

/-- The next unit of a level-7 launch placed: of the claims of the first die that can place its own, else of what can still be claimed;
a co-resident launch whole. -/
def State.placeNext (s : State) (l : Launch) : Option State :=
  if ndCoresident l.node then
    if l.resident ≠ 0 ∨ l.saved ≠ 0 ∨ ndCount l.node ≤ l.retired + l.lost then none
    else
      (s.placeAll l).map fun (s, _) =>
        (s.modLaunch l.lid fun x => { x with next := ndCount x.node, claims := Vector.replicate 4 [] }).leaveQueue l.lid
  else
    (l.dies.findSome? fun d =>
      let u := l.unitOn d
      if l.claims[d] = [] then none
      else
        (s.placeUnit l u).map fun s =>
          (s.modLaunch l.lid fun x => { x with claims := upd x.claims d fun c => c.filter fun i => !u.contains i }).leaveQueue l.lid).or
      (if ndCount l.node ≤ l.next then none
      else
        let size := if ndCosched l.node then 8 else 1
        let u := (List.range size).map (l.next + ·)
        (s.placeUnit l u).map fun s =>
          (s.modLaunch l.lid fun x => { x with next := x.next + size }).leaveQueue l.lid)

/-- The blocks that leave with a block (R399): its group, or every block of its co-resident launch. -/
def State.victimSet (s : State) (c : CoreId) (b : Block) : List (CoreId × Block) :=
  if ndCoresident b.node then allCores.flatMap fun e => (s.cores[e].blocks.filter fun x => x.launch == b.launch).map fun x => (e, x)
  else if b.group.isSome then
    allCores.flatMap fun e =>
      (s.cores[e].blocks.filter fun x => x.launch == b.launch && x.group == b.group).map fun x => (e, x)
  else [(c, b)]

/-- A block of a partition in reset leaves its core as step 3 of R377 gives, so that the reset delays no level-7 node (R402). -/
def State.discard (s : State) (c : CoreId) (b : Block) : State :=
  (match s.clusters[clusterOf c].lease with
    | some l => if l.core = c ∧ l.bid = b.bid then s.endLease (clusterOf c) 6 false else s
    | none => s).modCore c (·.leave b.bid)

/-- Blocks frozen and saved together as pre-emption victims; none when one of them is no victim (R399, R441, R487): its
launch at level 7, halted, its core stopped, its partition not in service, or its image without a place. Those of a partition in reset
go without an image (R402). -/
def State.evict (s : State) (victims : List (CoreId × Block)) : Option State :=
  if victims.all fun (_, b) => s.parts[b.part].resetting then some (victims.foldl (fun (s : State) (c, b) => s.discard c b) s)
  else if victims.any fun (_, b) => decide (7 ≤ s.levelOf b) || b.halted || !s.admits b.part then none
  else
    let s := victims.foldl (fun (s : State) (c, _) => s.refuseFreeze c) s
    if victims.any fun (c, _) => s.cores[c].stopped.isSome then none
    else
      let s := victims.foldl (fun (s : State) (c, b) => s.drain c b.bid) s
      if victims.any fun (c, b) => !s.cores[c].drained b.bid then none
      else victims.foldl (fun acc (c, b) => acc.bind fun s => (s.landReads c b).saveBlock c b.bid 1 enSaved none) (some s)

/-- Blocks evicted one after another until the next unit of a launch can be placed; those that are no victims stay. None when
no block has left. -/
def State.evictUntil (s : State) (l : Launch) : List (CoreId × Nat) → Bool → Option State
  | [], gone => if gone then some s else none
  | (c, bid) :: rest, gone =>
    if gone && (s.placeNext l).isSome then some s
    else
      match (s.cores[c].block? bid).bind fun b => s.evict (s.victimSet c b) with
      | some t => t.evictUntil l rest true
      | none => s.evictUntil l rest gone

/-- Victims chosen so that the next unit of a level-7 launch can be placed: those of the first core, or cluster, where that
suffices, and else those of all its dies in turn, the launch's own partition's first, whose cap they use up (which are chosen is not
architectural, R399). Of a co-resident launch, whose blocks are placed together, the victims of each core in turn. -/
def State.evictFor (s : State) (l : Launch) : Option State :=
  let cores := l.dies.flatMap coresOf
  let on (cs : List CoreId) : List (CoreId × Nat) := cs.flatMap fun c => s.cores[c].blocks.map fun b => (c, b.bid)
  let own := cores.filter fun c => s.cores[c].blocks.any fun b => b.part == l.part
  let sets := (if ndCosched l.node then (l.dies.flatMap clustersOf).map fun cl => on (clusterCores cl) else cores.map fun c => on [c]) ++
    [on own ++ on (cores.filter fun c => !own.contains c)]
  sets.findSome? fun vs =>
    match s.evictUntil l vs false with
    | none => none
    | some t => if ndCoresident l.node || (t.placeNext l).isSome then some t else none

/-- A level-7 launch placed as far as it can be, victims leaving as it needs them. -/
def State.preemptFor (lid : Nat) : Nat → State → State
  | 0, s => s
  | n + 1, s =>
    match s.launches.find? fun l => l.lid == lid && l.queued with
    | none => s
    | some l =>
      match s.placeNext l with
      | some t => t.preemptFor lid n
      | none =>
        match s.evictFor l with
        | some t =>
          let t := t.preemptFor lid n
          -- a co-resident launch that does not fit after all evicts nothing
          if ndCoresident l.node && (t.launches.any fun x => x.lid == lid && x.queued) then s.reserveSeven l else t
        | none => s.reserveSeven l

/-- Level-7 launches that wait pre-empt (R399), once no read that this makes is refused (R428). A core whose blocks leave freezes once (R480). -/
def State.preempt (s : State) : State :=
  match (s.launches.filter fun l => l.level == 7 && l.queued && s.admits l.part).map (·.lid) with
  | [] => s
  | waiting =>
    let t := waiting.foldl (fun (s : State) lid => s.preemptFor lid 4096) s
    let left := allCores.filter fun c => s.cores[c].blocks.any fun b => (t.cores[c].block? b.bid).isNone
    s.unlessRefused (left.foldl (fun (s : State) c => s.modCore c fun k => k.bump 0x16 1) t)

/-- BLOCK_PLACE (R17 to R22, R392): blocks of a launch placed on the named cores, when nothing ahead of it in the die's
scan, or in that of any die it takes a core of, can be placed. With no core named, the dispatchers' level-7 launches pre-empt (R399, R401). -/
def execBlockPlace (l : Nat) (d : DieId) (cores : List CoreId) (s : State) : Out :=
  match s.launches.find? fun x => x.lid == l with
  | none => .next s
  | some x =>
    if cores = [] then .next s.preempt
    else if !x.queued || s.launches.any (fun y => y.ahead x && (d :: cores.map dieOf).any (s.placeable y)) then .next s
    else
      match x.toPlace d cores with
      | none => .next s
      | some pairs =>
        match s.placeMany x pairs with
        | none => .next s
        | some s =>
          let done (i : Nat) : Bool := pairs.any fun y => y.1 == i
          .next ((s.modLaunch l fun y => { y with claims := y.claims.map fun c => c.filter fun i => !done i }).leaveQueue l)

/-- COPY_COMPLETE: an X operation completes (R244, R316), and a LAUNCH may pre-empt (R250, R399). -/
def execCopyComplete (c : CoreId) (op : Nat) (s : State) : Out := .next (s.completeX c op).preempt

/-- VICTIM_RESUME (R400): a victim resumes on the core it left, its group or co-resident launch with it, once every victim of a
higher priority has resumed there; those of its own priority do not wait on each other (DEDUCED, log 24). -/
def execVictimResume (p : PartId) (entry : Nat) (s : State) : Out :=
  match s.parts[p].saved.find? fun x => x.entry == entry with
  | none => .next s
  | some x =>
    let whole := match s.launches.find? fun l => l.lid == x.launch with
      | some l => ndCoresident l.node
      | none => false
    let mine := s.parts[p].saved.filter fun y =>
      y.entry == entry || (y.launch == x.launch && (whole || (x.group.isSome && y.group == x.group)))
    if !s.admits p then .next s
    else
      let (t, es) := s.imageEntries p
      let all := mine.foldl (fun acc (y : SavedExtra) =>
        acc.bind fun (s : State) =>
          match es.find? fun e => e.index == y.entry && e.state == enSaved && e.offset != 0 with
          | some e => s.restoreEntry p e y.core fun s l => s.reservedFrom l y.core ||
              (s.victimsOn y.core).any fun v => s.launchLevel v.launch != some l.level && s.victimBars l v
          | none => none) (some t)
      .next (s.unlessRefused (all.getD s))

/-- BLOCK_RESTORE (R451, R462): a resume in progress restores a READY image on a core. -/
def execBlockRestore (p : PartId) (entry : Nat) (c : CoreId) (s : State) : Out :=
  let q := s.parts[p]
  if q.ctxOp ≠ 2 ∨ q.ctxStatus ≠ 1 ∨ q.resetting then .next s
  else
    let (t, es) := s.imageEntries p
    match es.find? fun e => e.index == entry && e.state == enReady && e.offset != 0 with
    | none => .next s
    | some e =>
      match t.restoreEntry p e c fun s l => s.closedTo l c with
      | none => .next s
      | some t => .next (s.unlessRefused (t.modPart p fun q => { q with ctxCount := q.ctxCount + 1 }))

/-- A block retires (R43): its warps have, its counters are zero and every token is written. -/
def Core.retires (k : Core) (b : Block) : Bool :=
  !b.halted && !b.restoring &&
    ((k.blockWarps b.bid).all fun x => x.2.state == .retired && x.2.loads == 0 && x.2.stores == 0 && x.2.copies == 0 &&
      x.2.tiles == 0 && x.2.tokens == 0 && x.2.withheld == 0) && !(k.ops.any fun o => o.bid == b.bid)
/-- BLOCK_RETIRE (R43). -/
def execBlockRetire (c : CoreId) (bid : Nat) (s : State) : Out :=
  match s.cores[c].block? bid with
  | none => .next s
  | some b =>
    if !s.cores[c].retires b || s.parts[b.part].resetting || s.parts[b.part].stilled then .next s
    else
      .next ((s.modCore c (·.leave bid)).modLaunch b.launch fun l =>
        { l with resident := l.resident - 1, retired := l.retired + 1 })

/-- LAUNCH_COMPLETE (R43, R44), once no read that it makes is refused (R428). -/
def execLaunchComplete (l : Nat) (s : State) : Out :=
  match s.launches.find? fun x => x.lid == l with
  | none => .next s
  | some x =>
    if !x.finished || !s.admits x.part then .next s else s.unlessHeld (.next (s.completeLaunch x).preempt)

end Sys2Proof.Machine
end

