-- ==== Sys2Proof/Machine/Suspend.lean ====
section
/-! DEFINITION. FREEZE_DONE, THERMAL_MIGRATION, CTXCTL_SUSPEND, CTXCTL_RESUME and CTXCTL_DONE
(spec/17_partitions.md R366, R367, spec/20_traps_context.md R447 to R465). -/

namespace Sys2Proof.Machine

/-- A FREEZE ends with a code of R367. -/
def State.endFreeze (s : State) (p : PartId) (code : Nat) : State :=
  s.modPart p fun q => { q with freeze := none, fstat := BitVec.ofNat 4 code }

/-- Every block of some cores brought to where its image can be written. -/
def State.drainAll (s : State) (blocks : List (CoreId × Block)) : State :=
  blocks.foldl (fun (s : State) (c, b) => s.drain c b.bid) s
def State.allDrained (s : State) (blocks : List (CoreId × Block)) : Bool := blocks.all fun (c, b) => s.cores[c].drained b.bid

/-- The blocks of a core saved one after another from an offset of the save area (R366). -/
def State.saveFrom (s : State) (c : CoreId) : List Nat → Nat → Option State
  | [], _ => some s
  | bid :: rest, off =>
    match s.cores[c].block? bid with
    | none => s.saveFrom c rest off
    | some b =>
      let s := s.landReads c b
      let size := (imageBytes s c b 2).length
      (s.saveBlock c bid 2 enHeld (some off)).bind fun s => s.saveFrom c rest (off + size)

/-- FREEZE_DONE (R366, R367): the request in progress ends. A save waits until its blocks are drained; one that would pass
the save area, or whose images cannot be written, does nothing (R371). -/
def State.freezeDone (s : State) (p : PartId) : State :=
  match s.parts[p].freeze with
  | none => s
  | some f =>
    let t := f.target
    if f.op = 1 then s.endFreeze p 2
    else if f.op = 2 then
      (s.modCore t fun k =>
        { k with stopped := none, breakSkip := match k.stopped with | some (.breakpoint _ _) => true | _ => k.breakSkip }
        ).endFreeze p 2
    else
      let blocks := s.cores[t].blocks.map fun b => (t, b)
      let s := s.drainAll blocks
      if !s.allDrained blocks then s
      else
        let q := s.parts[p]
        let off := q.fsave.toNat - q.saveBase.toNat
        let saved := if q.fsave.toNat < q.saveBase.toNat + 0x18000 then none
          else s.saveFrom t (blocks.map fun x => x.2.bid) off
        match saved with
        | some s => s.endFreeze p 2
        | none =>
          (s.modCore t fun k => { k with stopped := if f.was then k.stopped else none }).endFreeze p 5
def execFreezeDone (p : PartId) (s : State) : Out := s.unlessHeld (.next (s.freezeDone p).preempt)

/-- A block that the firmware may move (R441, R464, R465): alone, not halted, of a core that is not stopped, and held by no FREEZE. -/
def State.movable (s : State) (c : CoreId) (b : Block) (target : CoreId) : Bool :=
  let k := s.cores[c]
  dieOf c == dieOf target && c != target && !ndCosched b.node && !ndCoresident b.node && k.stopped.isNone &&
    s.admits b.part && (match s.parts[b.part].freeze with | some f => f.target != c | none => true) &&
    !b.restoring && !b.halted

/-- THERMAL_MIGRATION (R464, R465, R474): a core whose sensor stands at or above t_mig gives up a block: at the first core bundle
at which no warp of the block holds the core, its image goes core to core, and the block is restored there, what the partition wrote
through its slices having reached its home (R315, R318; log 50). Until then the request stands; one that finds the block held, the target closed, or no room there is dropped. -/
def execThermalMigration (c : CoreId) (bid : Nat) (target : CoreId) (s : State) : Out :=
  match s.cores[c].block? bid with
  | none => .next s
  | some b =>
    match s.launches.find? fun l => l.lid == b.launch with
    | none => .next s
    | some l =>
      let asked (e : Option CoreId) (s : State) : State := s.modBlock c bid fun x => { x with moveTo := e }
      if b.moveTo != some target && decide (s.cores[c].sensor.toInt < s.tMig) then .next s
      else if !s.movable c b target || s.closedTo l target then .next (asked none s)
      else if (s.cores[c].blockWarps bid).any fun x => x.2.state == .midStroke then .next (asked (some target) s)
      else
        let t := (s.drain c bid).releaseAll b.part
        if !t.cores[c].drained bid || t.unreleasedAll b.part then .next (asked (some target) s)
        else
          let t := (t.endBlockLease c bid).landReads c b
          let img := imageBytes t c b 4
          let x := t.cores[c].extra c b 0
          let t := t.modCore c fun k => (k.bump 0x16 1).leave bid
          s.unlessHeld (.next ((t.restoreAt l img (some x) target).getD (asked none s)))

/-! ## Suspension of a partition (R460 to R462) -/

/-- A launch entry (R461). Indices that a die has claimed and not placed are returned by lowering the next index. -/
def Launch.entryBytes (l : Launch) : List Byte :=
  let claimed := l.claims.toList.flatMap id
  bytesOf 8 l.nodeAddr ++ natBytes 4 (claimed.foldl min l.next) ++ natBytes 4 (l.saved + l.resident) ++ natBytes 1 l.level ++
    zeros 15

/-- The table of launch entries written; none when it holds too many launches or cannot be written. -/
def State.writeLaunches (s : State) (p : PartId) (ls : List Launch) : Option State :=
  if 1024 < ls.length then none
  else
    match s.devWrite p 0 (s.parts[p].saveBase + 0x10000) (padTo 32768 (ls.flatMap Launch.entryBytes)) Need.write with
    | (s, true) => some s
    | (s, false) => none

/-- CTXCTL_SUSPEND (R462): admission stops. -/
def execCtxctlSuspend (p : PartId) (s : State) : Out :=
  let q := s.parts[p]
  if !q.enabled || q.resetting || q.ctxStatus == 1 then .next s
  else .next (s.modPart p fun q => { q with suspended := true, ctxOp := 1, ctxStatus := 1, ctxCount := 0 })

/-- A launch that another package suspended, made from its entry and its node (R461, R463). Its blocks below the next
index that are not saved have retired. It enters at the level of its entry, but at 6 for a 7 that the partition no longer grants (R391). -/
def State.reenter (s : State) (p : PartId) (node : Word) (next saved stored : Nat) : State :=
  let level := if stored = 7 ∧ !s.parts[p].control.getLsbD 2 then 6 else stored
  match s.launchOf p node with
  | some l => (s.setLevel l level).modLaunch l.lid fun x => { x with since := s.time }
  | none =>
    match s.readNode p 0 node with
    | (s, none) => s
    | (s, some r) =>
      let l : Launch :=
        { lid := s.nextId, part := p, graph := ((s.parts[p].graphOf node).map fun g => g.1.header).getD 0, nodeAddr := node
          node := r.node, kdesc := r.kdesc.getD 0, header := r.header.getD 0, latched := false
          home := s.homeDie p node r.node, supervisor := ndSupervisor r.node, level := level
          queued := decide (next < ndCount r.node), since := s.time, order := s.nextId, next := next
          claims := Vector.replicate 4 [], resident := 0, saved := saved, retired := next - saved, lost := 0, placedOn := 0 }
      { s with nextId := s.nextId + 1, launches := s.launches ++ [l] }

/-- CTXCTL_RESUME (R462): launch entries re-enter the ready queues; READY images are then placed. -/
def execCtxctlResume (p : PartId) (s : State) : Out :=
  let q := s.parts[p]
  s.unlessHeld <|
  if !q.enabled || q.resetting || q.ctxStatus == 1 then .next s
  else
    let s := s.modPart p fun q => { q with ctxOp := 2, ctxStatus := 1, ctxCount := 0 }
    match s.devRead p 0 (q.saveBase + 0x10000) 32768 Need.read with
    | (s, none) => .next s
    | (s, some bs) =>
      let s := (List.range 1024).foldl (fun (s : State) i =>
        let node : Word := BitVec.ofNat 64 (rd bs (32 * i) 8)
        if node = 0 then s
        else s.reenter p node (rd bs (32 * i + 8) 4) (rd bs (32 * i + 12) 4) (rd bs (32 * i + 16) 1)) s
      .next ((s.writeLaunches p []).getD s)

/-- Where a block of a co-scheduled group may be restored: at its logical index, with the rest of its group (R21). -/
def State.groupFits (s : State) (l : Launch) (index : Nat) (c : CoreId) : Bool :=
  !ndCosched l.node || (index % 8 == c.val % 8 && allCores.all fun e =>
    (s.cores[e].blocks.all fun b => b.launch != l.lid || b.group != some (index / 8) || clusterOf e == clusterOf c))

/-- The images that are restored together with one: those of its group (R21, R400). -/
def State.restoreUnit (s : State) (p : PartId) (l : Launch) (unit : List (ImageEntry × Nat)) : Option State :=
  if ndCosched l.node then
    (List.finRange 40).findSome? fun cl =>
      unit.foldl (fun acc (e, index) =>
        acc.bind fun (s : State) =>
          let c := coreOf cl (fin 8 index)
          if s.groupFits l index c then s.restoreEntry p e c fun s l => s.closedTo l c else none) (some s)
  else
    match unit with
    | (e, _) :: _ => allCores.findSome? fun c => s.restoreEntry p e c fun s l => s.closedTo l c
    | [] => none

/-- READY images placed wherever they fit; the count, and whether some image still waits for room. -/
def State.restoreReady (s : State) (p : PartId) (all : List (ImageEntry × Launch × Nat)) :
    List (ImageEntry × Launch × Nat) → List Nat → Nat → State × Nat × Bool
  | [], _, n => (s, n, false)
  | (e, l, index) :: rest, done, n =>
    if done.contains e.index then s.restoreReady p all rest done n
    else
      let unit := if ndCosched l.node then
          (all.filter fun x => x.2.1.lid == l.lid && x.2.2 / 8 == index / 8).map fun x => (x.1, x.2.2)
        else [(e, index)]
      match s.restoreUnit p l unit with
      | some s => s.restoreReady p all rest (done ++ unit.map fun x => x.1.index) (n + unit.length)
      | none =>
        let (s, n, _) := s.restoreReady p all rest (done ++ unit.map fun x => x.1.index) n
        (s, n, true)

/-- The READY images of a partition that belong to launches in progress. -/
def State.readyImages (s : State) (p : PartId) : State × List (ImageEntry × Launch × Nat) :=
  let (s, es) := s.imageEntries p
  (es.filter fun e => e.offset != 0 && e.state == enReady).foldl
    (fun ((s, acc) : State × List (ImageEntry × Launch × Nat)) e =>
      match s.readImage p e with
      | (s, none) => (s, acc)
      | (s, some img) =>
        match s.launchOf p (BitVec.ofNat 64 (rd img 0x10 8)) with
        | some l => (s, acc ++ [(e, l, rd img 0x18 4)])
        | none => (s, acc)) (s, [])

/-- Every block saved READY, SAVED images made READY, the launch entries written; none when the save area is full or
cannot be written. -/
def State.saveAll (s : State) (p : PartId) (blocks : List (CoreId × Block)) : Option State :=
  let s := (blocks.map fun x => x.1).dedup.foldl (fun (s : State) c => s.modCore c fun k => k.bump 0x16 1) s
  let saved := blocks.foldl (fun acc (c, b) => acc.bind fun (s : State) => (s.landReads c b).saveBlock c b.bid 3 enReady none) (some s)
  saved.bind fun s =>
    let (s, es) := s.imageEntries p
    let turned := (es.filter fun e => e.offset != 0 && e.state == enSaved).foldl
      (fun acc e => acc.bind fun (s : State) => s.writeEntry p { e with state := enReady }) (some s)
    turned.bind fun s => s.writeLaunches p (s.launches.filter fun l => l.part == p)

/-- CTXCTL_DONE (R462): a suspend saves every block and launch and releases at sys scope, or changes nothing when the save
area is full; a resume has placed every READY image. -/
def execCtxctlDone (p : PartId) (s : State) : Out :=
  let q := s.parts[p]
  s.unlessHeld <|
  if q.ctxStatus ≠ 1 ∨ q.resetting then .next s
  else if q.ctxOp = 1 then
    let s := s.freezeDone p
    if s.parts[p].freeze.isSome then .next s
    else
      let blocks := s.blocksOf p
      let s := (s.drainAll blocks).releaseAll p
      if !s.allDrained blocks || s.unreleasedAll p then .next s
      else
        match s.saveAll p blocks with
        | some t => .next (t.modPart p fun q => { q with ctxStatus := 2, ctxCount := BitVec.ofNat 32 blocks.length })
        | none => .next (s.modPart p fun q => { q with ctxStatus := 3, suspended := false })
  else
    let (s, ready) := s.readyImages p
    let (s, n, waits) := s.restoreReady p ready ready [] 0
    let s := s.modPart p fun q => { q with ctxCount := q.ctxCount + BitVec.ofNat 32 n }
    if waits then .next s
    else .next (s.modPart p fun q => { q with ctxStatus := 2, suspended := false }).preempt

end Sys2Proof.Machine
end

