-- ==== Sys2Proof/Machine/Requests.lean ====
section
/-! DEFINITION. Page walks, translation requests, page migration, dirty logs, evictions, and accesses that come from
outside the package (spec/19_translation.md R409 to R437, spec/11_memory_model.md R325, R329,
spec/23_links_firmware.md R488, R493). -/

namespace Sys2Proof.Machine

/-! ## PAGE_WALK -/

/-- The warp's access that a walk of a page serves: an L operation with free lanes of the page. -/
def State.walkMem (s : State) (c : CoreId) (w : WarpId) (b : Block) (x : Warp) (va : Word) : Option (AsyncOp × MemAccess × List Nat) :=
  s.cores[c].ops.findSome? fun o =>
    match o.kind with
    | .mem a =>
      if o.warp ≠ w ∨ s.opWaits c o then none
      else
        let ls := (s.freeLanes c b x o a (BitVec.allOnes 64)).filter fun l => pageOf a.addrs[fin 64 l] == pageOf va
        if ls ≠ [] then some (o, a, ls) else none
    | _ => none

/-- The warp's X operation whose next access is to the page, with what it needs. -/
def State.walkX (s : State) (c : CoreId) (w : WarpId) (b : Block) (va : Word) : Option (AsyncOp × Need) :=
  let here (a : Nat) : Bool := a / 2 ^ 19 == pageOf va && decide (a < 2 ^ 52)
  s.cores[c].ops.findSome? fun o =>
    if o.warp ≠ w ∨ o.fault.isSome then none
    else
      match o.kind with
      | .copy t =>
        if !t.begun || !t.more then none
        else if t.quarantine.isEmpty ∧ shFromSpace t.shape = 0 ∧ here (t.source s.cores[c] b t.cursor) then some (o, Need.read)
        else if shToSpace t.shape = 0 ∧ here t.nextTarget.toNat then
          some (o, match t.kind with | .copyr _ => Need.both | _ => Need.write)
        else none
      | .tbld _ _ a => if here a.toNat then some (o, Need.read) else none
      | .signal _ a _ => if here a.toNat then some (o, Need.both) else none
      | _ => none

/-- The code or dictionary bytes that a warp's fetch reads lie in the page. -/
def fetchTouches (b : Block) (x : Warp) (va : Word) : Bool :=
  let page := pageOf va
  awaitsFetch x && !b.halted &&
    (decide (b.codeBase / 2 ^ 19 ≤ page ∧ page * 2 ^ 19 < b.codeBase + b.codeSize) ||
      decide (b.dictAddr / 2 ^ 19 ≤ page ∧ page * 2 ^ 19 < b.dictAddr + hdSize b.header))

/-- PAGE_WALK (R409, R412 to R414, R423): a miss of an access that a warp waits on is served: a translation is installed,
or its Translation Fault taken (R123, R224, R243). A walk that a migrating page's old home refuses is made after the notice (R429). -/
def execPageWalk (c : CoreId) (w : WarpId) (va : Word) (s : State) : Out :=
  match s.warp? c w with
  | none => .next s
  | some x =>
    match s.cores[c].block? x.bid with
    | none => .next s
    | some b =>
      let held := (s.cores[c].tlb.any fun e => e.owner == b.bid && e.part == b.part && e.vpage == pageOf va) ||
        (findTlb s.clusters[clusterOf c].tlb b.part (pageOf va)).isSome
      if held || (s.pathFrame b.part va).isSome then .next s
      else
        match s.walkMem c w b x va, s.walkX c w b va with
        | some (o, a, ls), _ =>
          let was := s
          match s.translate c b.bid b.part va a.kind.need with
          | (s, .ok _) => .next (s.tallied c o.id was)
          | (s, .fault sub) =>
            let bad : List LaneFault :=
              (if a.uniform then lanesOf a.left else ls).map fun l => (l, a.addrs[fin 64 l], sub)
            let gone := maskOf fun l => bad.any fun y => y.1 == l
            .next ((((s.modOp c o.id fun p => p.modAccess fun e => { e with left := e.left &&& ~~~gone }).addRecord c b o a bad
              false).tallied c o.id was).closeAccess c b o.id)
        | none, some (o, need) =>
          let was := s
          if s.transWaits c b va need then .next s else
          match s.translate c b.bid b.part va need with
          | (s, .ok _) => .next (s.tallied c o.id was)
          | (s, .fault sub) => .next ((s.xFault c b o va sub).tallied c o.id was)
        | none, none =>
          if fetchTouches b x va then
            match s.translate c b.bid b.part va Need.exec with
            | (s, .ok _) => .next s
            | (s, .fault sub) => .next (s.park c w b va sub)
          else .next s

/-! ## Requests -/

/-- A request that can be carried out now: it stands among those submitted, and what the warp wrote before it has been
released at package scope (R416). -/
def State.startRequest (s : State) (p : PartId) (who : Requester) (op : Instr) : State × Bool :=
  match s.requests.find? fun r => r.op == op with
  | none => (s, false)
  | some r =>
    if r.after.any s.opLive then (s, false)
    else
      match who with
      | .host => (s, true)
      | .warp c _ =>
        let s := s.release (clusterOf c) p
        (s, !s.unreleased (clusterOf c) p)

/-- A request carried out: the warp that submitted it goes on (R362). -/
def State.finishRequest (s : State) (who : Requester) (op : Instr) : State :=
  let s := { s with requests := match s.requests.find? fun r => r.op == op with
    | some r => s.requests.erase r
    | none => s.requests }
  match who with
  | .host => s
  | .warp c w => s.modWarp c w fun x => { x with withheld := x.withheld - 1 }

/-- Fields of TRACE (R484). -/
def trBase (t : BitVec 256) : Nat := bitsN t 255 192
def trSize (t : BitVec 256) : Nat := bitsN t 191 160
def trFill (t : BitVec 256) : Nat := bitsN t 159 128
def trPeriod (t : BitVec 256) : Nat := bitsN t 95 64
def trSetFill (t : BitVec 256) (n : Nat) : BitVec 256 :=
  (t &&& ~~~((0xFFFFFFFF : BitVec 256) <<< 128)) ||| BitVec.ofNat 256 (n % 2 ^ 32 * 2 ^ 128)

/-- The bit that says a record was dropped for want of room. -/
def trFull : BitVec 256 := (1 : BitVec 256) <<< 96

/-- The physical address that a trace buffer's base names: the host's where bit [50] is set, else that of the die of bits
[52:51], as in a leaf (R408; DESIGN CHOICE, log 32). None where no memory lies there. -/
def tracePa (base : Nat) (n : Nat) : Option Nat :=
  let a := base % 2 ^ 50
  if base / 2 ^ 50 % 2 = 1 then (if a + n ≤ 2 ^ 50 then some (4 * 2 ^ 50 + a) else none)
  else if a + n ≤ Config.dieBytes then some (base / 2 ^ 51 % 4 * 2 ^ 50 + a)
  else none

/-- A partition's trace records are written at the place that `fill` gives, which each raises with its write, or dropped with `full` set
where the buffer has no place left (R484). Each is a release at sys scope of its cluster's slice: it waits while a home refuses what the
slice holds marked, or the record itself (R326, R428). A frame that has moved, and memory that boot has retired, take nothing (R430, R499). -/
def State.sendTrace (s : State) (p : PartId) : State :=
  s.heldTrace.foldl (fun (s : State) h =>
    if h.part ≠ p then s
    else
      let t := s.parts[p].trace
      let gone (s : State) : State := { s with heldTrace := s.heldTrace.erase h }
      if trSize t ≤ 32 * trFill t then (gone s).modPart p fun q => { q with trace := q.trace ||| trFull }
      else
        let s := s.release h.cluster p
        let at_ := (tracePa (trBase t + 32 * trFill t) 32).filter fun pa => s.memoryAt pa 32 && !s.movedFrames.contains (frameOf pa)
        if s.unreleased h.cluster p || at_.any fun pa => (s.copiedOn [pa]).isSome then s
        else
          ((match at_ with | some pa => (gone s).homeWrite none pa h.bytes | none => gone s)).modPart p fun q => { q with trace := trSetFill q.trace (trFill t + 1) }) s

/-- Fences, messages and trace records that waited for a slice's write-back go on. -/
def State.settleAll (s : State) (p : PartId) : State :=
  ((((s.blocksOf p).flatMap fun (c, b) => b.warps.map fun w => (c, w)).foldl (fun (s : State) (c, w) => s.settle c w) s
    ).flushMessages p).sendTrace p

/-- Microprogram loads that wait on a fault are made again where `covers` holds (R281, R421): all programs are read
again, one that gave a record of kind 4 before the fault too (DEDUCED, log 47). -/
def State.retryMicro (s : State) (p : PartId) (covers : Word → Nat → Bool) : State :=
  ((s.blocksOf p).filter fun (_, b) => b.microWait.any fun (va, sub) => covers va sub).foldl
    (fun (s : State) (c, b) => s.fillMicro c b) s

/-- The new memory value of an atomic that another package makes here (R231, R240). -/
def RemoteOp.value (op : RemoteOp) (n x v : Nat) : Nat :=
  match op with
  | .add => atomicValue .add false n x v
  | .fadd => atomicValue .fadd false n x v
  | .min g => atomicValue .min g n x v
  | .max g => atomicValue .max g n x v
  | .and => atomicValue .and false n x v
  | .or => atomicValue .or false n x v
  | .xor => atomicValue .xor false n x v
  | .xchg => atomicValue .xchg false n x v
  | .cas => atomicValue .cas false n x v
  | .addBf16 => copyrValue 1 x v
  | .maxF32 => copyrValue 2 x v

/-- Whether a fence in force of the partition's warps holds back what comes from outside: R in its second set, and accesses before
it still outstanding, or its write-back still to be made (R170, R171, R326). -/
def State.remoteHeld (s : State) (p : PartId) : Bool :=
  (s.blocksOf p).any fun (c, b) => (s.cores[c].blockWarps b.bid).any fun x => x.2.fences.any fun f => f.after.getLsbD 4

/-- An old home refuses some of n bytes (R428, R430). -/
def State.refusesAny (s : State) (pa n : Nat) : Bool := (sectorsOf pa n).any fun k => s.refuses (64 * k)

/-- A host or remote access performed, or the answer that it gets (R325, R329, R428); or the sub-cause that the host's access is held
for at the bridge: a managed page not placed, for which a record is written as well (R423, R424), or a home that refuses it until
the notice, one whose log must be set first among them (R428, R429, R435). `who` is the toucher value. -/
def State.outside (s : State) (p : PartId) (who : Nat) (a : OutsideAccess) : State × Option Nat :=
  let managed (s : State) (va : Word) : Bool := match s.walk s.parts[p].ptRoot va with | .managed _ _ => true | _ => false
  let answer (s : State) (m : OutMsg) : State × Option Nat := ({ s with sent := s.sent ++ [m] }, none)
  let refused (s : State) : State × Option Nat := if who = 5 then (s, some subMoved) else answer s .moved
  let one (va : Word) (n : Nat) (need : Need) (f : State → List (Nat × Nat) → State × Option Nat) : State × Option Nat :=
    if (s.devFrame p va n need).isSome then (if who = 5 then (s, some 0) else answer s .moved)
    else
    let (s, r) := (pagePieces va n).foldl (fun ((s, acc) : State × (List (Nat × Nat) ⊕ (Word × Nat))) (x, m) =>
      match acc with
      | .inr e => (s, .inr e)
      | .inl l =>
        match s.devTranslate p who x need with
        | (s, .ok pa) => (s, .inl (l ++ [(pa, m)]))
        | (s, .fault sub) => (s, .inr (x, sub))) (s, .inl [])
    match r with
    | .inr (x, sub) =>
      if sub = subMoved then (if who = 5 then (s.devFault p 0 0 x 1 need, some subMoved) else answer s .moved)
      else (s.devFault p 0 0 x 1 need, if managed s x && who == 5 then some subNotPresent else none)
    | .inl l => f s l
  let word (va : Word) (f : Word → Word) : State × Option Nat :=
    one va 8 Need.both fun s l =>
      match l with
      | [(pa, _)] => (s.homeWrite none pa (bytesOf 8 (f (BitVec.ofNat 64 (s.homeNum pa 8)))), none)
      | _ => (s, none)
  match a with
  | .write va data =>
    one va data.length Need.write fun s l =>
      ((l.foldl (fun ((s, bs) : State × List Byte) (pa, m) => (s.homeWrite none pa (bs.take m), bs.drop m)) (s, data)).1, none)
  | .read va n => one va n Need.read fun s l => answer s (.readData (l.flatMap fun (pa, m) => s.homeRead pa m))
  | .signalAdd va v => word va (· + v)
  | .signalSet va v => word va fun _ => v
  | .writePhys pa data => if s.refusesAny pa data.length then refused s else (s.homeWrite none pa data, none)
  | .readPhys pa n => if s.refusesAny pa n then refused s else answer s (.readData (s.homeRead pa n))
  | .atomicPhys pa n op v =>
    if s.refusesAny pa n then refused s
    else if (s.poisonAt pa n).isSome then answer s (.readData (natBytes n (packList 32 (List.replicate (regsOf n) poisonWord))))
    else
      let x := s.homeNum pa n
      answer (s.homeWrite none pa (natBytes n (RemoteOp.value op n x v.toNat))) (.readData (natBytes n x))

/-- An access by physical address reaches such memory. -/
def State.outsideExists (s : State) : OutsideAccess → Bool
  | .writePhys pa data => s.memoryAt pa data.length
  | .readPhys pa n | .atomicPhys pa n _ _ => s.memoryAt pa n
  | _ => true

/-- The virtual address that an access names, and the frame of the physical one that it names. -/
def outsideVa : OutsideAccess → Option Word
  | .write va _ | .read va _ | .signalAdd va _ | .signalSet va _ => some va
  | _ => none
def outsideFrame : OutsideAccess → Option Nat
  | .writePhys pa _ | .readPhys pa _ | .atomicPhys pa _ _ _ => some (frameOf pa)
  | _ => none
/-- Held host accesses that `covers` names are to be sent again (R424, R429). -/
def State.retryHost (s : State) (p : PartId) (covers : Word → Nat → Bool) : State :=
  { s with heldHost := s.heldHost.map fun h =>
      if h.part == p && (outsideVa h.access).any fun va => covers va h.sub then { h with ready := true } else h }

/-- Everything that waits on a Translation Fault which `covers` names is translated again (R421, R424). -/
def State.resolve (s : State) (p : PartId) (covers : Word → Nat → Bool) : State :=
  ((s.resolveFaults p covers).retryMicro p covers).retryHost p covers

/-- TLB entries dropped in every core and cluster, and walk-cache entries, by page number. Every entry of the page's 1 GiB
goes for a page (DEDUCED, log 25: an entry may leave at any time). -/
def State.dropEntries (s : State) (p : PartId) (pages : Option (List Nat)) : State :=
  let hit (v : Nat) : Bool := match pages with | some l => l.any fun q => v / 2048 == q / 2048 | none => true
  let keep (e : TlbEntry) : Bool := !(e.part == p && hit e.vpage)
  { s with
    cores := s.cores.map fun k => if k.tlb.isEmpty then k else { k with tlb := k.tlb.filter keep }
    clusters := s.clusters.map fun k => if k.tlb.isEmpty then k else { k with tlb := k.tlb.filter keep }
    walkCache := s.walkCache.filter fun x => !(x.1 == p && hit (x.2.1 % 2 ^ 22 * 2048)) }

/-- The frames that the entries of the pages which `covers` names translate to. -/
def State.framesOf (s : State) (p : PartId) (covers : Word → Nat → Bool) : List Nat :=
  let hits (t : List TlbEntry) : List Nat :=
    (t.filter fun e => e.part == p && covers (BitVec.ofNat 64 (e.vpage * 2 ^ 19)) 0).map fun e => frameOf (s.leafBase e.leaf)
  (s.cores.toList.flatMap fun k => hits k.tlb) ++ s.clusters.toList.flatMap fun k => hits k.tlb

/-- Marked bytes of the sectors that `hit` names, written back in every slice (R416); whether some are left. -/
def State.writeBackAll (s : State) (hit : Sector → Bool) : State × Bool :=
  let s := (List.finRange 40).foldl (fun (s : State) cl =>
    ((s.clusters[cl].l2.filter fun x => hit x && x.marked != 0).map (·.num)).foldl (fun (s : State) n => s.writeBack cl n) s) s
  (s, s.clusters.toList.any fun k => k.l2.any fun x => hit x && x.marked != 0)

/-- A package-physical address of a host request (R417); its bits [49:40], which are reserved there, are ignored (R6). -/
def physOf (a : Word) : Nat := 2 ^ 50 * bitsN a 51 50 + bitsN a 39 0

/-- The pages that an op 0 request covers (R416): 512 KiB, or 1 GiB where its leaf maps that; of a host's request, which names a
package-physical address (R417), the pages whose entries translate to the frame that holds it, or whose leaf maps it. -/
def State.covers (s : State) (p : PartId) (addr : Word) (who : Requester) : Word → Nat → Bool :=
  match who with
  | .host =>
    let frame := frameOf (physOf addr)
    let here (t : List TlbEntry) (page : Nat) : Bool :=
      t.any fun e => e.part == p && e.vpage == page && frameOf (s.leafBase e.leaf) == frame
    fun va _ =>
      let a := va &&& 0x000FFFFFFFFFFFFF
      (match s.walk s.parts[p].ptRoot a with
        | .leaf e _ big => decide (s.leafBase e ≤ physOf addr ∧ physOf addr < s.leafBase e + if big then 2 ^ 30 else 2 ^ 19)
        | _ => false) || (s.cores.toList.any fun k => here k.tlb (pageOf a)) ||
        s.clusters.toList.any fun k => here k.tlb (pageOf a)
  | .warp _ _ =>
  let big := match s.walk s.parts[p].ptRoot addr with | .leaf _ _ b => b | _ => false
  fun va _ => pageOf (va &&& 0x000FFFFFFFFFFFFF) == pageOf addr ||
    (big && pageOf (va &&& 0x000FFFFFFFFFFFFF) / 2048 == pageOf addr / 2048)

/-- The pages whose entries an op 0 request drops: a host's drops every entry of the partition, since the address of a frame does not
say which entries lead to it, and an entry may leave at any time (log 25). -/
def pagesOf (addr : Word) : Requester → Option (List Nat)
  | .warp _ _ => some [pageOf addr]
  | .host => none

/-- TLB_INVALIDATE_PAGE (R416, R417). What the slices hold marked for the partition is written back whole, since an entry that
named a frame of the page may have left before (a write-back may fall at any time, R325; log 25). The request waits while a
home refuses bytes of a frame that the page's entries or its leaf name. -/
def execTlbInvalidatePage (p : PartId) (addr : Word) (who : Requester) (s : State) : Out :=
  let op : Instr := .tlbInvalidatePage p addr who
  match s.startRequest p who op with
  | (s, false) => .next s
  | (s, true) =>
    let covers := s.covers p addr who
    let leaf := match who with
      | .host => some (physOf addr)
      | .warp _ _ => s.peek p addr
    let frames := s.framesOf p covers ++ (leaf.map frameOf).toList
    let s := (s.writeBackAll fun x => x.part == p).1
    match s.writeBackAll fun x => frames.contains (frameOf (64 * x.num)) with
    | (s, true) => .next s
    | (s, false) =>
      .next ((((s.dropEntries p (pagesOf addr who)).resolve p covers).finishRequest who op).settleAll p)

/-- TLB_INVALIDATE_PARTITION (R416). -/
def execTlbInvalidatePartition (p : PartId) (who : Requester) (s : State) : Out :=
  let op : Instr := .tlbInvalidatePartition p who
  match s.startRequest p who op with
  | (s, false) => .next s
  | (s, true) =>
    match s.writeBackAll fun x => x.part == p with
    | (s, true) => .next s
    | (s, false) => .next ((((s.dropEntries p none).resolve p fun _ _ => true).finishRequest who op).settleAll p)

/-- n bytes that a host's request names physically can be reached: their home has them and has not moved them away (R409, R430, R499). -/
def State.physHere (s : State) (pa n : Nat) : Bool := s.memoryAt pa n && !s.movedFrames.contains (frameOf pa)
/-- The frame whose notice an access to n such bytes waits for (R428). -/
def State.physFrame (s : State) (pa n : Nat) : Option Nat :=
  if s.migrations = [] then none else s.copiedOn ((sectorsOf pa n).map (64 * ·))
/-- Bytes at an address that a request names: physical from the host, else through the partition's tables; none where they
cannot be read. A read that an old home refuses leaves its mark, as in `devRead`. -/
def State.reqRead (s : State) (p : PartId) (who : Requester) (a : Word) (n : Nat) : State × Option (List Byte) :=
  match who with
  | .host =>
    if (s.physFrame (physOf a) n).isSome then ({ s with devWaits := true }, none)
    else (s, if s.physHere (physOf a) n then some (s.homeRead (physOf a) n) else none)
  | .warp c _ => s.devRead p (dieOf c).val a n Need.read
/-- Bytes written at a physical address that a host named, or 8 of them added to the word there (`adds`). -/
def State.physWrite (s : State) (p : PartId) (pa : Nat) (bs : List Byte) (adds : Bool) : State :=
  match s.physFrame pa bs.length with
  | some f => s.holdWrite { frame := f, part := p, who := 5, phys := true, va := BitVec.ofNat 64 pa, bytes := bs, xd := false, adds := adds }
  | none =>
    if isRemote pa || s.physHere pa bs.length then
      s.homeWrite none pa (if adds then bytesOf 8 (ofBytes 64 (s.homeRead pa 8) + ofBytes 64 bs : Word) else bs)
    else s
/-- A number of 8 bytes added by the device to the word at a virtual address (R425); false when it cannot be. -/
def State.devAdd (s : State) (p : PartId) (die : Nat) (va : Word) (bs : List Byte) : State × Bool :=
  match s.devFrame p va 8 Need.both with
  | some f => (s.holdWrite { frame := f, part := p, who := die + 1, phys := false, va := va, bytes := bs, xd := false, adds := true }, true)
  | none =>
    match s.devRead p die va 8 Need.both with
    | (s, some x) => s.devWrite p die va (bytesOf 8 (ofBytes 64 x + ofBytes 64 bs : Word)) Need.write
    | (s, none) => (s, false)
/-- Either write for a request: physical from the host, else through the partition's tables. -/
def State.reqWrite (s : State) (p : PartId) (who : Requester) (a : Word) (bs : List Byte) (adds : Bool) : State :=
  match who with
  | .host => s.physWrite p (physOf a) bs adds
  | .warp c _ => (if adds then s.devAdd p (dieOf c).val a bs else s.devWrite p (dieOf c).val a bs Need.write).1

/-- The codes of R437 written to a descriptor's status word. -/
def State.reqStatus (s : State) (p : PartId) (who : Requester) (desc : Word) (code detail : Nat) : State :=
  s.reqWrite p who (desc + 24) (natBytes 4 code ++ natBytes 4 detail) false
def rqDone : Nat := 1
def rqBad : Nat := 2
def rqNotMapped : Nat := 3
def rqBusy : Nat := 4
def rqPoison : Nat := 5
def rqRefused : Nat := 6

/-- Fields of a descriptor of 64 bytes (R425, R432). -/
def descWord (bs : List Byte) (off : Nat) : Word := ofBytes 64 (cut bs off 8)

/-- The field of a migration descriptor that is at fault (R425, R437). -/
def State.badMigration (s : State) (bs : List Byte) : Option Nat :=
  let new := descWord bs 8
  if bitsN (descWord bs 0) 18 0 ≠ 0 then some 0
  else if !(leafForm new && entV new && bitsN new 18 17 == 0 && !new.getLsbD 16 && s.leafFits new false) then some 8
  else if bitsN (descWord bs 16) 2 0 ≠ 0 then some 16
  else if natOfBytes (cut bs 32 32) ≠ 0 then some 32
  else none

/-- MIGRATE_PAGE (R425 to R428): the descriptor is accepted or refused; an accepted migration marks its leaf. A request whose
descriptor or leaf lies on a copied line of another page is carried out after that page's notice (R429). -/
def execMigratePage (p : PartId) (addr : Word) (who : Requester) (s : State) : Out :=
  let op : Instr := .migratePage p addr who
  s.unlessHeld <|
  match s.startRequest p who op with
  | (s, false) => .next s
  | (s, true) =>
    match s.reqRead p who addr 64 with
    | (s, none) => .next ((s.devFault p 0 0 addr 64 Need.read).finishRequest who op)
    | (s, some bs) =>
      let s := s.finishRequest who op
      match s.badMigration bs with
      | some off => .next (s.reqStatus p who addr rqBad off)
      | none =>
        let page := descWord bs 0
        if (s.pathFrame p page).isSome then .next { s with devWaits := true } else
        match s.walk s.parts[p].ptRoot page with
        | .leaf e at_ false =>
          if bitsN e 18 17 ≠ 0 then .next (s.reqStatus p who addr rqBusy 0)
          else
            let new := descWord bs 8
            let s := s.devSet at_ (bytesOf 8 (0x20000 : Word))
            .next
              { s with
                nextId := s.nextId + 1
                movedFrames := s.movedFrames.filter fun f => f != frameOf (s.leafBase new)
                migrations := s.migrations ++
                  [{ mid := s.nextId, part := p, page := page, leafAt := at_, oldFrame := frameOf (s.leafBase e), newLeaf := new
                     notice := descWord bs 16, statusAddr := addr.toNat, host := who == .host, who := who, nextLine := 0
                     poisonedLines := 0 }] }
        | _ => .next (s.reqStatus p who addr rqNotMapped 0)

/-- The bytes that slices hold of the old frame are sent to the new one, and their copies dropped (R428, R429). -/
def State.sendHeld (s : State) (m : Migration) : State :=
  let dest := frameOf (s.leafBase m.newLeaf)
  (List.finRange 40).foldl (fun (s : State) cl =>
    (s.clusters[cl].l2.filter fun x => frameOf (64 * x.num) == m.oldFrame).foldl (fun (s : State) x =>
      let base := 2 ^ 19 * dest + 64 * x.num % 2 ^ 19
      let s := (lanesOf x.marked).foldl (fun (s : State) i => s.homeWrite none (base + i) [elem 8 x.data i]) s
      let s := if x.marked = BitVec.allOnes 64 ∧ !s.poisonSectors.contains x.num then { s with poisonSectors := s.poisonSectors.filter (· != base / 64) } else s
      s.modCluster cl (·.dropSector x.num)) s) s

/-- What the device's own writes have left waiting for the notice of a page's move is sent again: through a fresh translation, which may
fault and then gives its record, or to the new home of the bytes that a host named (R429, R508). -/
def State.deliverHeld (s : State) (m : Migration) : State :=
  let mine := s.heldDev.filter fun h => h.frame == m.oldFrame
  mine.foldl (fun (s : State) h =>
    let pa := h.va.toNat
    let die := h.who - 1
    if h.phys then
      s.physWrite h.part (if frameOf pa = m.oldFrame then s.leafBase m.newLeaf + pa % 2 ^ 19 else pa) h.bytes h.adds
    else
      match (if h.adds then s.devAdd h.part die h.va h.bytes else s.devWrite h.part die h.va h.bytes ⟨false, true, h.xd⟩) with
      | (s, true) => s
      | (s, false) => s.devFault h.part die 0 h.va h.bytes.length ⟨h.adds, true, h.xd⟩)
    { s with heldDev := s.heldDev.filter fun h => h.frame != m.oldFrame }

/-- The notice of a frame's move: whatever its old home has refused, through whichever address and partition, is sent again
(R421, R429), and so is what a table or a log on a copied line has kept from being translated (sub-cause 0). -/
def State.notify (s : State) (frame : Nat) : State :=
  let s := (List.finRange 16).foldl (fun (s : State) q =>
    s.resolve q fun va sub => sub == 0 || sub == subMoved && (s.peek q (va &&& 0x000FFFFFFFFFFFFF)).any fun pa => frameOf pa == frame) s
  { s with heldHost := s.heldHost.map fun h => if h.sub = 0 ∨ h.sub = subMoved ∧ outsideFrame h.access = some frame then { h with ready := true } else h }

/-- The end of a migration: the leaf flips, the page is invalidated, and the notice is sent (R427, R429). -/
def State.flipPage (s : State) (m : Migration) : State :=
  let p := m.part
  let old : Word := (s.entryAt m.leafAt).getD 0
  let s := if entV old then s.devStore m.leafAt (bytesOf 8 (m.newLeaf ||| (old &&& 0xC0))) else s
  let s := { s.sendHeld m with migrations := s.migrations.filter fun x => x.mid != m.mid }
  let s := { s with movedFrames := s.movedFrames ++ [m.oldFrame] }
  let s := (s.dropEntries p (some [pageOf m.page])).resolve p fun va _ => pageOf (va &&& 0x000FFFFFFFFFFFFF) == pageOf m.page
  let s := (s.notify m.oldFrame).deliverHeld m
  let s := s.releaseAll p
  let s := if m.notice = 0 then s else s.reqWrite p m.who m.notice (bytesOf 8 (1 : Word)) true
  let s := s.reqStatus p m.who (BitVec.ofNat 64 m.statusAddr) (if m.poisonedLines = 0 then rqDone else rqPoison) m.poisonedLines
  (List.finRange 16).foldl (fun (s : State) q => s.settleAll q) s

/-- MIGRATION_LINE_COPY (R427, R437): one line of 128 bytes; after the last the page flips. -/
def execMigrationLineCopy (n : Nat) (s : State) : Out :=
  match s.migrations.find? fun m => m.mid == n with
  | none => .next s
  | some m =>
    let src := 2 ^ 19 * m.oldFrame + 128 * m.nextLine
    let dst := s.leafBase m.newLeaf + 128 * m.nextLine
    let bad := (sectorsOf src 128).filter fun k => s.poisonSectors.contains k
    let s := s.homeWrite none dst (s.homeRead src 128)
    let s := { s with poisonSectors := s.poisonSectors ++ bad.map fun k => dst / 64 + (k - src / 64) }
    let m := { m with nextLine := m.nextLine + 1, poisonedLines := m.poisonedLines + if bad = [] then 0 else 1 }
    let s := { s with migrations := s.migrations.map fun x => if x.mid == n then m else x }
    .next (if m.nextLine = 4096 then s.flipPage m else s)

/-- The field of a dirty-log descriptor that is at fault (R432, R437). -/
def badLog (bs : List Byte) : Option Nat :=
  if bitsN (descWord bs 0) 2 0 ≠ 0 then some 0
  else if bitsN (descWord bs 8) 18 0 ≠ 0 then some 8
  else if 2 ^ 33 < (descWord bs 16).toNat then some 16
  else if natOfBytes (cut bs 32 32) ≠ 0 then some 32
  else none

/-- SET_DIRTY_LOG (R432, R433). -/
def execSetDirtyLog (p : PartId) (addr : Word) (who : Requester) (s : State) : Out :=
  let op : Instr := .setDirtyLog p addr who
  s.unlessHeld <|
  match s.startRequest p who op with
  | (s, false) => .next s
  | (s, true) =>
    match s.reqRead p who addr 64 with
    | (s, none) => .next ((s.devFault p 0 0 addr 64 Need.read).finishRequest who op)
    | (s, some bs) =>
      let s := s.finishRequest who op
      match badLog bs with
      | some off => .next (s.reqStatus p who addr rqBad off)
      | none =>
        let hostLog := s.parts[p].dirty.any fun d => d.byHost
        if who ≠ .host ∧ hostLog then .next (s.reqStatus p who addr rqRefused 0)
        else
          let count := (descWord bs 16).toNat
          let log : DirtyLog := { bitmap := descWord bs 0, first := descWord bs 8, count := count, byHost := who == .host }
          .next ((s.modPart p fun q => { q with dirty := if count = 0 then none else some log }).reqStatus p who addr rqDone 0)

/-! ## Slices and outside agents -/

/-- L2_EVICTION (R325): a sector's marked bytes are written back and its copy leaves; bytes that a home refuses stay
(R428). -/
def execL2Eviction (cl : ClusterId) (sector : Nat) (s : State) : Out :=
  let s := s.writeBack cl sector
  match s.clusters[cl].sector? sector with
  | some x => if x.marked = 0 then .next (s.modCluster cl (·.dropSector sector)) else .next s
  | none => .next s

/-- REMOTE_ACCESS_ARRIVAL (R329, R488): an access on the R path, translated through the partition's tables by die 0's
walkers. One that a FENCE holds back has not arrived yet (R171). -/
def execRemoteAccessArrival (p : PartId) (a : OutsideAccess) (s : State) : Out :=
  if !s.outsideExists a then .fault .noSuchAddress else if s.remoteHeld p then .next s else .next (s.outside p 1 a).1

/-- HOST_BRIDGE_ACCESS (R329, R424, R429, R493): an access of the host at sys scope, or the first like it that the bridge holds and is
to send again. One to an unplaced managed page, or that a migrating page's home refuses, is held there. -/
def execHostBridgeAccess (p : PartId) (a : OutsideAccess) (s : State) : Out :=
  if !s.outsideExists a then .fault .noSuchAddress
  else if s.remoteHeld p then .next s
  else
    let again := s.heldHost.find? fun h => h.part == p && h.ready && h.access == a
    match s.outside p 5 a with
    | (s, none) => .next { s with heldHost := match again with | some h => s.heldHost.filter fun x => x.n != h.n | none => s.heldHost }
    | (s, some sub) =>
      match again with
      | some h => .next { s with heldHost := s.heldHost.map fun x => if x.n == h.n then { x with sub := sub, ready := false } else x }
      | none =>
        .next { s with nextId := s.nextId + 1
                       heldHost := s.heldHost ++ [{ n := s.nextId, part := p, access := a, sub := sub, ready := false }] }

/-- HOST_COMPLETION_TIMEOUT (R424). -/
def execHostCompletionTimeout (n : Nat) (s : State) : Out :=
  if s.heldHost.any fun h => h.n == n then
    .next { s with heldHost := s.heldHost.filter (fun h => h.n != n), sent := s.sent ++ [.unsupportedRequest] }
  else .next s

end Sys2Proof.Machine
end

