-- ==== Sys2Proof/Machine/Power.lean ====
section
/-! DEFINITION. Clocks, current and the heat store (spec/21_power_sprint.md R466 to R479): leases that expire, lulls,
throttle and trip, the divisor's switch, current levels, droop and ballast. Sensors, MELT and power are inputs that the
events bring. -/

namespace Sys2Proof.Machine

/-- Fields of CELL (R469). -/
def cellMelt (x : BitVec 64) : Nat := bitsN x 10 0
def cellHi (x : BitVec 64) : Nat := bitsN x 26 16
def cellLo (x : BitVec 64) : Nat := bitsN x 42 32
def cellSet (x : BitVec 64) (melt : BitVec 11) (lull : Bool) : BitVec 64 :=
  (x &&& ~~~0x17FF) ||| melt.setWidth 64 ||| (if lull then 0x1000 else 0)

/-- The lease holder's block is being frozen for its image: a FREEZE save has stopped its core, its partition is being suspended, or it
stands at a boundary from which it is to move (R366, R462, R464). -/
def State.leaseFrozen (s : State) (cl : ClusterId) : Bool :=
  s.clusters[cl].lease.any fun l =>
    (s.cores[l.core].stopped.isSome && s.parts.toList.any fun q => q.freeze.any fun f => f.op == 3 && f.target == l.core) ||
      (s.cores[l.core].block? l.bid).any fun b =>
        s.parts[b.part].stilled || (b.moveTo.isSome && (s.cores[l.core].blockWarps l.bid).all fun x => x.2.state != .midStroke)
/-- The cause of an expiry: 5, or that of a freeze that has come before (R179, R451, R477). -/
def State.expiryCause (s : State) (cl : ClusterId) : Nat := if s.leaseFrozen cl then 6 else 5
/-- A lease that heat ends (R472, R474). -/
def State.expire (s : State) (cl : ClusterId) : State := s.endLease cl (s.expiryCause cl) true

/-- A reading of a cell's MELT: the cell enters its lull at melt_hi or above and leaves it below melt_lo (R471), and at 1,024 the
leases of its clusters expire (R472). -/
def State.setMelt (s : State) (cell : Fin 20) (melt : BitVec 11) : State :=
  let x := s.cells[cell]
  let lull := if cellHi x ≤ melt.toNat then true else if melt.toNat < cellLo x then false else x.getLsbD 12
  let s := { s with cells := upd s.cells cell fun x => cellSet x melt lull }
  if melt.toNat = 1024 then
    ((List.finRange 40).filter fun cl => cellOf cl == cell).foldl (fun (s : State) cl => s.expire cl) s
  else s

/-- LEASE_EXPIRY (R472, R477): its time has passed, or MELT has reached 1,024. -/
def execLeaseExpiry (cl : ClusterId) (melt : BitVec 11) (s : State) : Out :=
  match s.clusters[cl].lease with
  | none => .next s
  | some l =>
    if 1024 < melt.toNat then .next s
    else
      if melt.toNat = 1024 then .next (s.setMelt (cellOf cl) melt)
      else
        let s := (s.upTo l.ends).setMelt (cellOf cl) melt
        .next (s.timeOut cl (s.expiryCause cl))

/-- LULL_ENTRY (R471): a reading of MELT from melt_hi on; a lower one is a reading without an entry (log 46). -/
def execLullEntry (cell : Fin 20) (melt : BitVec 11) (s : State) : Out :=
  if 1024 < melt.toNat then .next s else .next (s.setMelt cell melt)
/-- LULL_EXIT (R471): a reading of MELT below melt_lo. -/
def execLullExit (cell : Fin 20) (melt : BitVec 11) (s : State) : Out :=
  if cellLo s.cells[cell] ≤ melt.toNat then .next s else .next (s.setMelt cell melt)

/-- A tripped cluster whose sensors all lie below t_mig: its trip ends, and the divisor becomes 4 (R466, R474). -/
def State.endTrip (s : State) (cl : ClusterId) : State :=
  if s.clusters[cl].tripped && (List.finRange 8).all fun i => decide ((s.cores[coreOf cl i]).sensor.toInt < s.tMig) then
    s.modCluster cl fun k => { k with tripped := false, clkdiv := none, pendingDiv := true }
  else s

/-- A reading of a core's sensor (R474): from t_thr on the core runs at level 2 until its sensor falls below t_mig; from t_trip
on its cluster trips: the divisor becomes 8 (R466), and a lease ends as an expiry. -/
def State.setSensor (s : State) (c : CoreId) (sensor : BitVec 16) : State :=
  let s := s.modCore c fun k =>
    { k with sensor := sensor
             thermal := if s.tThr ≤ sensor.toInt then 2 else if sensor.toInt < s.tMig then 0 else k.thermal }
  if sensor.toInt < s.tTrip then s.endTrip (clusterOf c)
  else
    (s.expire (clusterOf c)).modCluster (clusterOf c) fun k => { k with tripped := true, clkdiv := none, pendingDiv := true }

/-- The sensors as last read held against thresholds that have changed (R470, R474). -/
def State.retest (s : State) : State :=
  let s := (allCores.filter fun c => decide (s.tThr ≤ s.cores[c].sensor.toInt) || s.cores[c].thermal != 0).foldl
    (fun (s : State) c => s.setSensor c s.cores[c].sensor) s
  (List.finRange 40).foldl (fun (s : State) cl => s.endTrip cl) s

/-- THERMAL_THROTTLE (R474): a reading of a core's sensor; one that passes no threshold is a reading alone (log 46). -/
def execThermalThrottle (c : CoreId) (sensor : BitVec 16) (s : State) : Out := .next (s.setSensor c sensor)
/-- THROTTLE_RELEASE (R474): below t_mig. -/
def execThrottleRelease (c : CoreId) (sensor : BitVec 16) (s : State) : Out :=
  if s.tMig ≤ sensor.toInt then .next s else .next (s.setSensor c sensor)

/-- CLUSTER_TRIP (R474, R466): at or above t_trip. -/
def execClusterTrip (c : CoreId) (sensor : BitVec 16) (s : State) : Out :=
  if sensor.toInt < s.tTrip then .next s else .next (s.setSensor c sensor)
/-- TRIP_END (R474): every sensor of the cluster lies below t_mig; the divisor becomes 4 (R466). -/
def execTripEnd (cl : ClusterId) (sensors : List (BitVec 16)) (s : State) : Out :=
  if !s.clusters[cl].tripped || sensors.length != 8 || sensors.any fun x => decide (s.tMig ≤ x.toInt) then .next s
  else
    let s := ((List.finRange 8).zip sensors).foldl (fun (s : State) (i, x) =>
      s.modCore (coreOf cl i) fun k => { k with sensor := x, thermal := 0 }) s
    .next (s.modCluster cl fun k => { k with tripped := false, clkdiv := none, pendingDiv := true })

/-- The divisor of a cluster (R466). -/
def Cluster.target (k : Cluster) : Nat :=
  if k.tripped then 8 else if k.lease.isSome then 3 else k.clkdiv.getD 4
/-- DIVISOR_SWITCH (R467): the whole cluster switches at one boundary between core bundles. -/
def execDivisorSwitch (cl : ClusterId) (s : State) : Out :=
  if !s.clusters[cl].pendingDiv then .next s
  else .next (s.modCluster cl fun k => { k with div := k.target, pendingDiv := false })

/-- Leases in force, and the ceiling (R475). -/
def State.leasesInForce (s : State) : Nat := (s.clusters.toList.filter fun k => k.lease.isSome).length
def State.ceiling (s : State) : Nat := min Config.ceilingWatts (Config.sustainedWatts + Config.leaseWatts * s.leasesInForce)

/-- How long a ballast ramp lasts, in ticks, and the power that a ramp draws at a time: it falls linearly to zero (R478). -/
def rampTicks : Nat := 250 * Config.ticksPerUs
def rampWatts (time : Nat) (r : Nat × Nat) : Nat := r.2 * (rampTicks - (time - r.1)) / rampTicks
/-- The power that the ballast draws now. -/
def State.ballastWatts (s : State) : Nat := (s.ballast.map (rampWatts s.time)).foldl (· + ·) 0
/-- Ramps lowered by the power that returning work draws, the oldest first; each goes on linearly to its end (R479). -/
def lowerRamps (time : Nat) : List (Nat × Nat) → Nat → List (Nat × Nat)
  | [], _ => []
  | r :: rs, x =>
    let now := rampWatts time r
    if now ≤ x then lowerRamps time rs (x - now)
    else (r.1, (now - x) * rampTicks / (rampTicks - (time - r.1))) :: rs

/-- CURRENT_LEVEL_UPDATE (R475): the measured power, without ballast, against the ceiling; the named cores move by one level. The
measure is kept for the average of R473, and what it has risen by lowers the ballast (R479). -/
def execCurrentLevelUpdate (watts : Nat) (cores : List CoreId) (s : State) : Out :=
  let ballast := if s.power < watts then lowerRamps s.time s.ballast (watts - s.power) else s.ballast
  let s := { s with power := watts, powerLog := (watts :: s.powerLog).take 91, ballast := ballast }
  let f (n : Nat) : Nat := if s.ceiling < watts then min 2 (n + 1) else if 100 * watts < 95 * s.ceiling then n - 1 else n
  .next (cores.dedup.foldl (fun (s : State) c => s.modCore c fun k => { k with current := f k.current }) s)

/-- DROOP_STRETCH (R476): the cluster's next clock is longer by half a period; at most one clock in four. -/
def execDroopStretch (cl : ClusterId) (s : State) : Out :=
  let k := s.clusters[cl]
  if (match k.stretched with | some t => decide (s.time < t + 4 * k.period) | none => false) then .next s
  else
    let s := (List.finRange 8).foldl (fun (s : State) i =>
      s.modCore (coreOf cl i) fun k' => { k'.bump 0x12 1 with tick := k'.tick + k.period / 2 }) s
    .next (s.modCluster cl fun k => { k with stretched := some s.time })

/-- BALLAST_START (R478, R479): a drop of more than 200 W is taken up, unless no core can carry it. -/
def execBallastStart (drop : Nat) (s : State) : Out :=
  if drop ≤ 200 ∨ !s.carriesBallast then .next s
  else .next { s with ballast := s.ballast ++ [(s.time, drop)] }
/-- BALLAST_RAMP_END (R478): the oldest ramp ends, 250 µs after its start. -/
def execBallastRampEnd (s : State) : Out :=
  match s.ballast with
  | [] => .next s
  | r :: rest => .next { s.upTo (r.1 + rampTicks) with ballast := rest }

/-- CLKSTAT of a cluster, as the host reads it (R468). -/
def State.clkstat (s : State) (cl : ClusterId) : Word :=
  let k := s.clusters[cl]
  let level := ((List.finRange 8).map fun i => (s.cores[coreOf cl i]).level).foldl max 0
  let (owner, remain) := match k.lease with
    | some l => (l.part.val, max 1 (ceilDiv (l.ends - s.time) Config.ticksPerUs))
    | none => (0, 0)
  BitVec.ofNat 64 (k.div + 2 ^ 4 * level + (if k.lease.isSome then 2 ^ 6 else 0) + (if k.pendingDiv then 2 ^ 7 else 0) +
    (if k.tripped then 2 ^ 8 else 0) + 2 ^ 16 * owner + 2 ^ 32 * (remain % 2 ^ 32))

end Sys2Proof.Machine
end

