-- ==== Sys2Proof/Machine/Errors.lean ====
section
/-! DEFINITION. Errors, retry, poison and containment: ERROR_RETRY, CORE_LOSS, RETENTION_ENTRY and RETENTION_EXIT
(spec/20_traps_context.md R443 to R446, spec/09_matrix_function_instructions.md R273, R274). -/

namespace Sys2Proof.Machine

/-- A retirement written to the fault queue of partitions (R443): record of kind 7. -/
def State.retireRecord (s : State) (ps : List PartId) (lcid code number : Nat) : State :=
  ps.dedup.foldl (fun (s : State) p =>
    s.pushRecord p 0 { kind := 7, cause := 0x3200, lcid := lcid, detail := BitVec.ofNat 64 code, detail2 := BitVec.ofNat 64 number }) s

/-- A lease of a cluster ends with cause 6 and no trap (R477). -/
def State.dropLease (s : State) (cl : ClusterId) (only : Option CoreId) : State :=
  match s.clusters[cl].lease with
  | some l => if only.all fun c => c == l.core then s.endLease cl 6 false else s
  | none => s

/-- A block ends with Core Loss or Retention Loss (R41, R44, R445, R446): a record, its group broken, its launch's lost
count. -/
def State.loseBlock (s : State) (c : CoreId) (b : Block) (kind cause detail : Nat) : State :=
  let s := s.pushRecord b.part (dieOf c).val
    { kind := kind, cause := cause, lcid := lcidOf c, node := b.nodeAddr, block := b.index, detail := BitVec.ofNat 64 detail }
  ((s.breakGroup b).modCore c (·.leave b.bid)).modLaunch b.launch fun l => { l with resident := l.resident - 1, lost := l.lost + 1 }

/-- A FREEZE of a core that is gone finds no block of its partition there (R367). -/
def State.orphanFreeze (s : State) (c : CoreId) : State :=
  { s with parts := s.parts.map fun q =>
      match q.freeze with
      | some f => if f.target = c then { q with freeze := none, fstat := 3 } else q
      | none => q }

/-- A core lost (R445): its blocks end, and it is retired until the package is reset. -/
def State.loseCore (s : State) (c : CoreId) : State :=
  let k := s.cores[c]
  if k.retired then s
  else
    let s := (s.retireRecord (k.blocks.map fun b => b.part) (lcidOf c) 4 c.val).dropLease (clusterOf c) (some c)
    let s := k.blocks.foldl (fun (s : State) b => s.loseBlock c b 5 0x2000 c.val) s
    (s.orphanFreeze c).modCore c fun k =>
      { Core.reset with retired := true, lastPart := k.lastPart, counters := k.counters, laneCycles := k.laneCycles
                        ranges := k.ranges, sensor := k.sensor, thermal := k.thermal, current := k.current, tick := k.tick }

/-- CORE_LOSS (R445). -/
def execCoreLoss (c : CoreId) (s : State) : Out := .next (s.loseCore c)

/-- Some leaf of a partition's tables maps a frame. -/
def State.mapsFrame (s : State) (root : Word) (frame : Nat) : Bool :=
  let entry (t i : Nat) : Word := (s.entryAt (t + 8 * i)).getD 0
  s.tableHere root && (List.range 2048).any fun i =>
    let e1 := entry (tableAt root) i
    s.tableHere e1 && (List.range 2048).any fun j =>
      let e2 := entry (tableAt e1) j
      if entLeaf e2 then entV e2 && decide (frameOf (s.leafBase e2) ≤ frame ∧ frame < frameOf (s.leafBase e2) + 2048)
      else s.tableHere e2 && (List.range 2048).any fun k =>
        let e3 := entry (tableAt e2) k
        entLeaf e3 && entV e3 && frameOf (s.leafBase e3) == frame

/-- The partitions that hold work in a frame (R443): those with a launch in progress whose tables or TLBs map it (log 47). -/
def State.usersOf (s : State) (frame : Nat) : List PartId :=
  let hit (p : PartId) (t : List TlbEntry) : Bool := t.any fun e => e.part == p && frameOf (s.leafBase e.leaf) == frame
  (List.finRange 16).filter fun p =>
    (s.launches.any fun l => l.part == p) &&
      ((s.clusters.toList.any fun k => hit p k.tlb) || (s.cores.toList.any fun k => hit p k.tlb) ||
        s.mapsFrame s.parts[p].ptRoot frame)

/-- A sector marked poisoned at its home (R444). -/
def State.poisonSector (s : State) (num : Nat) : State :=
  if s.poisonSectors.contains num then s else { s with poisonSectors := s.poisonSectors ++ [num] }

/-- A lasting error in the operand bytes of a matrix operation (R273). -/
def State.matrixError (s : State) (c : CoreId) (id : Nat) : State :=
  match s.cores[c].op? id with
  | none => s
  | some o =>
    match s.cores[c].block? o.bid with
    | none => s
    | some b =>
      match o.kind with
      | .ldst r w plane _ => (s.modOp c id fun p => { p with kind := .ldst r w plane true }).matrixRecord c b o []
      | .tile t =>
        if !t.begun || t.rows ≤ t.done then s
        else
          match t.kind with
          | .mzero => s
          | .mcvt =>
            let row := t.cbRow t.done
            (s.modCore c (·.mark [cbRowAt b row])).modOp c id fun p => p.modTile fun u => { u with poisoned := u.poisoned ++ [row] }
          | .mloop =>
            let rows := (List.range (t.rows - t.done)).map fun i => t.cbRow (t.done + i)
            let s := s.modCore c (·.mark (rows.map fun r => cbRowAt b r))
            let t := { t with done := t.rows, poisoned := t.poisoned ++ rows }
            (s.modOp c id fun p => p.modTile fun _ => t).completeTile c b o t
      | _ => s

/-- A lasting error in the row of the MADV in flight that lands next (R273): its presentation is poison. The flags that it
merges are left as the row gave them (DEDUCED, log 47). -/
def State.madvError (s : State) (c : CoreId) : State :=
  let flGlyph (p : Pending) : Option (BitVec 32) := match p.val with | .flRow _ g | .flLate _ _ _ _ _ g _ => if p.live then some g else none | _ => none
  let next := s.cores[c].warpList.findSome? fun (w, x) => x.pending.findSome? fun p => (flGlyph p).map fun g => (w, p, g)
  match next with
  | none => s
  | some (w, p, g) =>
    let row : BitVec 4096 := packEl 32 128 4096 fun _ => BitVec.ofNat 32 poisonWord
    let s := s.modWarp c w fun y => { y with pending := y.pending.map fun q => if q == p then { q with val := .flRow row g } else q }
    match s.warp? c w with
    | none => s
    | some x =>
      match s.cores[c].block? x.bid with
      | none => s
      | some b => s.pushRecord b.part (dieOf c).val (warpRecord c b x 3 0x3000 g (BitVec.allOnes 64) 0)

/-- An error that a retry corrects, counted on its core (R443, counter 0x00F). -/
def State.softError (s : State) (c : CoreId) : State := s.modCore c fun k => k.bump 0x0F 1

/-- The first core of a die. -/
def dieCore (d : Nat) : CoreId := fin 320 (80 * d)
/-- The core whose counter counts a corrected error: of memory, the first core of its home die, and of the host's memory or another
package's, core 0; of an L2 line, the first core of its cluster (log 26). -/
def siteCore : ErrorSite → CoreId
  | .sector pa => dieCore (if homeOf pa < 4 then homeOf pa else 0)
  | .l2Line cl _ => coreOf cl 0
  | .matrixOp c _ => c
  | .madvRow c => c
  | .core c => c
  | .quillEntry c _ _ _ => c
  | .microprogram c _ => c
  | .table c => c

/-- A dictionary entry that cannot be read without error: rule 9 (R124), for the stroke that misses it. -/
def State.entryError (s : State) (c : CoreId) (w : WarpId) (slot : Fin 10) (index : Nat) : State :=
  match s.warp? c w with
  | none => s
  | some x =>
    match s.cores[c].block? x.bid with
    | none => s
    | some b =>
      if !awaitsFetch x || b.halted then s
      else
        match s.fetchStroke c x b with
        | (s, .miss sl ix k) =>
          if sl = slot.val ∧ ix = index ∧ s.faultsNow c b then s.takeFault c w 0x0109 (BitVec.ofNat 64 (defDetail sl ix k)) none else s
        | (s, _) => s

/-- A microprogram that cannot be read without error stays zero in both banks, with a record of kind 4 (R281): of a block
none of whose warps has fetched a stroke. -/
def State.programError (s : State) (c : CoreId) (n : Nat) : State :=
  match s.cores[c].blocks.find? fun b => b.usesFmicro with
  | none => s
  | some b =>
    let fresh := (s.cores[c].blockWarps b.bid).all fun x => !x.2.decoded && x.2.pc == b.kdesc.extractLsb' 224 32
    if !fresh || hdMicro b.header ≤ n then s
    else
      let s := s.modCore c fun k =>
        { k with banks := k.banks.map fun x => { x with programs := upd x.programs (fin 40 n) fun _ => 0 } }
      let va := BitVec.ofNat 64 (b.dictAddr + hdMicroOff b.header n)
      s.pushRecord b.part (dieOf c).val
        { kind := 4, cause := 0x3100, lcid := lcidOf c, node := b.nodeAddr, block := b.index
          detail := BitVec.ofNat 64 (64 * sectorOf ((s.peek b.part va).getD 0)) }

/-- A lasting error (R443 to R445): its resource retires, its data are poisoned, or its core is lost. -/
def State.lastingError (s : State) : ErrorSite → State
  | .sector pa =>
    let frame := frameOf pa
    let s := s.poisonSector (sectorOf pa)
    let s := if s.retiredFrames.contains frame then s else { s with retiredFrames := s.retiredFrames ++ [frame] }
    s.retireRecord (s.usersOf frame) 0 2 frame
  | .l2Line cl pa =>
    let nums := [2 * (pa / 128), 2 * (pa / 128) + 1]
    let hit := s.clusters[cl].l2.filter fun x => nums.contains x.num
    let s := nums.foldl (fun (s : State) n => s.modCluster cl (·.dropSector n)) s
    let s := (hit.filter fun x => x.marked != 0).foldl (fun (s : State) x => s.poisonSector x.num) s
    s.retireRecord (hit.map fun x => x.part) 0 1 (pa / 128)
  | .matrixOp c op => s.matrixError c op
  | .madvRow c => s.madvError c
  | .core c => s.loseCore c
  | .quillEntry c w slot index => s.entryError c w slot index
  | .microprogram c n => s.programError c n
  | .table c => s.loseCore c

/-- ERROR_RETRY (R443): a transient error is counted; a lasting one takes its course. -/
def execErrorRetry (site : ErrorSite) (lasting : Bool) (s : State) : Out :=
  if lasting then .next (s.lastingError site)
  else .next (s.softError (siteCore site))

/-- RETENTION_ENTRY (R446): only while no core of the cluster holds an eligible warp. -/
def execRetentionEntry (cl : ClusterId) (s : State) : Out :=
  if (clusterCores cl).any fun c => s.cores[c].holder.isSome || s.cores[c].standings.any (fun y => y.2.2.eligible) then .next s
  else .next (s.modCluster cl fun k => { k with retention := true })

/-- RETENTION_EXIT (R446): with a parity error every block of the cluster ends with Retention Loss, and the cluster is
reset. -/
def execRetentionExit (cl : ClusterId) (parityOk : Bool) (s : State) : Out :=
  if !s.clusters[cl].retention then .next s
  else if parityOk then .next (s.modCluster cl fun k => { k with retention := false })
  else
    let s := s.dropLease cl none
    let s := (clusterCores cl).foldl (fun (s : State) c =>
      let s := s.cores[c].blocks.foldl (fun (s : State) b => s.loseBlock c b 6 0x2100 cl.val) s
      (s.orphanFreeze c).modCore c fun k =>
        { Core.reset with retired := k.retired, lastPart := k.lastPart, ranges := k.ranges, sensor := k.sensor
                          thermal := k.thermal, current := k.current, tick := k.tick, reserved := k.reserved }) s
    .next (s.modCluster cl fun k => { Cluster.reset with tripped := k.tripped, pendingDiv := k.div != 4 || k.tripped, div := k.div })

end Sys2Proof.Machine
end

