-- ==== Sys2Proof/Machine/Commands.lean ====
section
/-! DEFINITION. The submission ring and its commands: SQ_TAIL, NOP, LOAD, KICK, UNLOAD and RING_ENTRY_INVALID
(spec/18_launch_scheduling.md R379 to R389, R404). -/

namespace Sys2Proof.Machine

/-- SQ_ERR with an entry refused (R380): count saturates. -/
def sqRefuse (err : BitVec 32) (cmd : Option Nat) : BitVec 32 :=
  let n := bitsN err 31 16
  BitVec.ofNat 32 (2 ^ 16 * min 0xFFFF (n + 1) + bitsN err 8 8 * 2 ^ 8 + cmd.getD (bitsN err 7 0))

/-- SQ_TAIL (R381): the entries up to the new tail take the privilege of the doorbell written. A partition in reset or
suspended ignores its doorbells (R377, R462), and one that is not enabled too, without an overrun (DESIGN CHOICE, log 51). -/
def execSqTail (p : PartId) (supervisor : Bool) (size : Nat) (value : BitVec 32) (s : State) : Out :=
  let q := s.parts[p]
  if size ≠ 4 ∨ !s.admits p then .next s
  else if (value - q.sqHead).toNat ≤ q.sqSize ∧ (value - q.sqTail).toNat ≤ q.sqSize then
    .next (s.modPart p fun q =>
      { q with sqTail := value, sqPriv := q.sqPriv ++ List.replicate (value - q.sqTail).toNat supervisor })
  else .next (s.modPart p fun q => { q with sqErr := q.sqErr ||| 0x100 })

/-- The entry that the firmware comes to: its 256 bits and its privilege (R379, R381, R382); none while its home refuses
the read, since the page migrates or has moved (R428, R430). -/
def State.ringEntry (s : State) (p : PartId) : Option (BitVec 256 × Bool) :=
  let q := s.parts[p]
  if !s.admits p || q.sqHead == q.sqTail || q.sqSize == 0 then none
  else
    let at_ := 4 * 2 ^ 50 + q.sqBase.toNat + 32 * (q.sqHead.toNat % q.sqSize)
    if s.refuses at_ then none else some (ofBytes 256 (s.homeRead at_ 32), q.sqPriv.headD false)
def sqCmd (e : BitVec 256) : Nat := bitsN e 7 0
def sqTag (e : BitVec 256) : Word := e.extractLsb' 128 64
def sqGraph (e : BitVec 256) : Word := e.extractLsb' 192 64
/-- An entry with a valid cmd and every reserved bit zero (R379, R382). -/
def sqValid (e : BitVec 256) : Bool := decide (sqCmd e < 4) && bitsN e 127 8 == 0 && bitsN e 197 192 == 0

/-- The head advances past the entry (R382). -/
def State.consume (s : State) (p : PartId) : State :=
  s.modPart p fun q => { q with sqHead := q.sqHead + 1, sqPriv := q.sqPriv.drop 1 }

/-- The head entry, when it is this command. -/
def State.command (s : State) (p : PartId) (cmd : Nat) : Option (BitVec 256 × Bool) :=
  match s.ringEntry p with
  | some (e, sup) => if sqValid e && sqCmd e == cmd then some (e, sup) else none
  | none => none

/-- NOP (R385). -/
def execNop (p : PartId) (s : State) : Out :=
  match s.command p 0 with
  | some _ => .next (s.consume p)
  | none => .next s

/-- RING_ENTRY_INVALID (R382). -/
def execRingEntryInvalid (p : PartId) (s : State) : Out :=
  match s.ringEntry p with
  | some (e, _) =>
    if sqValid e then .next s
    else .next ((s.modPart p fun q => { q with sqErr := sqRefuse q.sqErr (some (sqCmd e)) }).consume p)
  | none => .next s

/-- Graph codes (R386). -/
def gcBadHeader : Nat := 0x20
def gcState : Nat := 0x21
def gcLimit : Nat := 0x22
def gcPrivilege : Nat := 0x23

/-- A graph header (R383), and its checks but for the page of its status record. -/
def ghStatus (h : BitVec 512) : Word := h.extractLsb' 448 64
def ghNodes (h : BitVec 512) : Nat := bitsN h 447 416
def ghOk (h : BitVec 512) : Bool :=
  bitsN h 452 448 == 0 && decide (1 ≤ ghNodes h ∧ ghNodes h ≤ 65536) && bitsN h 415 384 == 0x52474A47 && bitsN h 383 0 == 0

/-- A graph that no record names yet: what a status record of it holds. Until a KICK its tag is that of the LOAD, a run that a LAUNCH begins
included (R384 names the last KICK; DESIGN CHOICE, log 51). -/
def Graph.blank (header status : Word) (nodes : Nat) (supervisor prio7 : Bool) (tag : Word) : Graph :=
  { header := header, state := gsNone, supervisor := supervisor, statusAddr := status, nodes := nodes, tag := tag, done := 0
    failed := 0, rejected := 0xFFFFFFFF, field := 0xFFFF, prio7 := prio7 }

/-- An entry ends with a status record, or, where that cannot be written, counts as refused (R386). -/
def State.endEntry (s : State) (p : PartId) (g : Graph) (code state : Nat) (tag : Word) : State :=
  match s.writeStatus p g code state tag with
  | (s, true) => s
  | (s, false) => s.modPart p fun q => { q with sqErr := sqRefuse q.sqErr none }

/-- An entry that is not accepted (R385): the status record of the graph, found through its header where the graph is not
loaded, receives the code, its state unchanged. -/
def State.refuseEntry (s : State) (p : PartId) (header : Word) (tag : Word) (code : Nat) : State :=
  match s.parts[p].graph? header with
  | some g => s.endEntry p g code g.state tag
  | none =>
    match s.devGet p 0 0 header 64 with
    | (s, none) => s.modPart p fun q => { q with sqErr := sqRefuse q.sqErr none }
    | (s, some bs) =>
      s.endEntry p (Graph.blank header (ghStatus (ofBytes 512 bs)) 0 false false tag) code gsNone tag

/-- The state of a graph in a partition. -/
def State.graphState (s : State) (p : PartId) (h : Word) : Nat := ((s.parts[p].graph? h).map fun g => g.state).getD gsNone
/-- GRAPH_PRIVILEGE (R386): a user entry names a graph of supervisor privilege. -/
def State.deniesGraph (s : State) (p : PartId) (h : Word) (supervisor : Bool) : Bool :=
  !supervisor && (s.parts[p].graph? h).any fun g => g.supervisor

/-- Validation at LOAD, in index order (R387): the first node that fails, what was read of it, its code and its field. -/
def State.validate (s : State) (p : PartId) (g : Graph) :
    List Nat → State × Option (Nat × Option NodeRead × Nat × Nat)
  | [] => (s, none)
  | i :: is =>
    match s.readNode p 0 (g.header + BitVec.ofNat 64 (64 + 64 * i)) with
    | (s, none) => (s, some (i, none, codeBadField, 0xFFFF))
    | (s, some r) =>
      match s.nodeFault p r g.nodes g.supervisor g.prio7 with
      | some (code, field) => (s, some (i, some r, code, field))
      | none => s.validate p g is

/-- LOAD's effect on an accepted entry (R385, R387). -/
def State.loadGraph (s : State) (p : PartId) (g : Graph) (tag : Word) : State :=
  match s.validate p g (List.range g.nodes) with
  | (s, none) =>
    let g := { g with state := gsIdle }
    (s.modPart p fun q => q.setGraph g).endEntry p g 0 gsIdle tag
  | (s, some (i, r, code, field)) =>
    let g := { g with state := gsRejected, rejected := BitVec.ofNat 32 i, field := BitVec.ofNat 16 field }
    let s := (s.modPart p fun q => q.setGraph g).rejectRecord p 0 (g.header + BitVec.ofNat 64 (64 + 64 * i)) r code field
    s.endEntry p g code gsRejected tag

/-- LOAD (R385 to R387). A header whose status_addr has a low bit set gets its GRAPH_BAD_HEADER record at that address, where it can be written
(DESIGN CHOICE, log 51). -/
def execLoad (p : PartId) (s : State) : Out :=
  s.unlessHeld <|
  match s.command p 1 with
  | none => .next s
  | some (e, sup) =>
    let h := sqGraph e
    let tag := sqTag e
    let st := s.graphState p h
    let live := (s.parts[p].graphs.filter fun g => g.state == gsIdle || g.state == gsRunning).length
    if s.deniesGraph p h sup then .next ((s.refuseEntry p h tag gcPrivilege).consume p)
    else if st = gsIdle ∨ st = gsRunning then .next ((s.refuseEntry p h tag gcState).consume p)
    else if 256 ≤ live then .next ((s.refuseEntry p h tag gcLimit).consume p)
    else
      match s.devGet p 0 0 h 64 with
      | (s, none) => .next ((s.modPart p fun q => { q with sqErr := sqRefuse q.sqErr none }).consume p)
      | (s, some bs) =>
        let hd : BitVec 512 := ofBytes 512 bs
        let g := Graph.blank h (ghStatus hd) (ghNodes hd) sup (s.parts[p].control.getLsbD 2) tag
        if ghOk hd && s.writable p (ghStatus hd) then .next ((s.loadGraph p g tag).consume p)
        else .next ((s.endEntry p g gcBadHeader st tag).consume p)

/-- KICK's effect (R385): the nodes whose pred_count is 0 become ready, in index order. A node whose
pred_count cannot be read is passed over, with the record of kind 2 that R508 gives the access (DEDUCED, log 51). -/
def State.kickNodes (s : State) (p : PartId) (h : Word) : List Nat → State
  | [] => s
  | i :: is =>
    let at_ : Word := h + BitVec.ofNat 64 (64 + 64 * i)
    match s.devGet p 0 at_ (predAt at_) 4 with
    | (s, some bs) => (if natOfBytes bs = 0 then (s.nodeReady p 0 h i).1 else s).kickNodes p h is
    | (s, none) => s.kickNodes p h is

/-- KICK (R385, R389). -/
def execKick (p : PartId) (s : State) : Out :=
  s.unlessHeld <|
  match s.command p 2 with
  | none => .next s
  | some (e, sup) =>
    let h := sqGraph e
    let tag := sqTag e
    if s.deniesGraph p h sup then .next ((s.refuseEntry p h tag gcPrivilege).consume p)
    else
      match s.parts[p].graph? h with
      | none => .next ((s.refuseEntry p h tag gcState).consume p)
      | some g =>
        if g.state ≠ gsIdle then .next ((s.refuseEntry p h tag gcState).consume p)
        else
          let g := { g with done := 0, failed := 0, rejected := 0xFFFFFFFF, field := 0xFFFF, tag := tag }
          let s := (s.modPart p fun q => q.setGraph g).kickNodes p h (List.range g.nodes)
          match s.parts[p].graph? h with
          | none => .next (s.consume p)
          | some g => .next (((s.endEntry p g 0 g.state tag).graphIdle p h).consume p).preempt

/-- UNLOAD (R385). -/
def execUnload (p : PartId) (s : State) : Out :=
  s.unlessHeld <|
  match s.command p 3 with
  | none => .next s
  | some (e, sup) =>
    let h := sqGraph e
    let tag := sqTag e
    if s.deniesGraph p h sup then .next ((s.refuseEntry p h tag gcPrivilege).consume p)
    else
      match s.parts[p].graph? h with
      | none => .next ((s.refuseEntry p h tag gcState).consume p)
      | some g =>
        if g.state = gsRunning then .next ((s.refuseEntry p h tag gcState).consume p)
        else
          let s := s.modPart p fun q => { q with graphs := q.graphs.filter fun x => x.header != h }
          .next ((s.endEntry p g 0 gsNone tag).consume p)

end Sys2Proof.Machine
end

