-- ==== Sys2Proof/Machine/Host.lean ====
section
/-! DEFINITION. What the host does to partitions and registers: PARTITION_ENABLE, PARTITION_RESET, PARTITION_RESET_DONE,
QOS_CHANGE, MSIX_UNMASK and HOST_REGISTER_WRITE (spec/17_partitions.md R369 to R378, spec/00_scope.md R6,
spec/21_power_sprint.md R469, R470, spec/23_links_firmware.md R493, R495). -/

namespace Sys2Proof.Machine

/-- The limits of a QoS record (R371, code QOS), and its reserved bits. -/
def qosLimits (q : BitVec 128) : Bool :=
  decide (bitsN q 63 56 ≤ bitsN q 55 48 ∧ bitsN q 72 64 ≤ 320 ∧ bitsN q 95 88 ≤ 40) && bitsN q 33 32 != 3
def qosReserved (q : BitVec 128) : Bool := bitsN q 87 73 == 0 && bitsN q 39 34 == 0 && bitsN q 31 2 == 0
/-- Bits [1:0] copy control[3:2] (R373). -/
def qosCopy (q : BitVec 128) (control : BitVec 32) : BitVec 128 :=
  (q &&& ~~~3) ||| (if control.getLsbD 2 then 2 else 0) ||| (if control.getLsbD 3 then 1 else 0)

/-- The physical ranges that the mapped pages of an area map to (R371). -/
def State.areaOf (s : State) (root base : Word) (size : Nat) : List (Nat × Nat) :=
  (pagePieces base size).flatMap fun (a, n) =>
    match s.walk root a with
    | .leaf e _ big => [(s.leafBase e + bitsN a (if big then 29 else 18) 0, n)]
    | _ => []
/-- Every page of an area is mapped with w (R371). -/
def State.areaMapped (s : State) (root base : Word) (size : Nat) : Bool :=
  (pagePieces base size).all fun (a, _) =>
    match s.walk root a with
    | .leaf e _ _ => e.getLsbD 4
    | _ => false
/-- What both areas of a partition map to. -/
def State.areas (s : State) (q : Partition) : List (Nat × Nat) :=
  s.areaOf q.ptRoot q.fqBase (64 * 2 ^ q.fqSize) ++ s.areaOf q.ptRoot q.saveBase q.saveSize

/-- The refusal reason of an enable (R371): the lowest code that applies. -/
def State.refusalOf (s : State) (p : PartId) (control : BitVec 32) : Nat :=
  let q := s.parts[p]
  let r := q.ptRoot
  let others := (List.finRange 16).filter fun i => i != p && s.parts[i].enabled
  let powerOk := (List.range 13).any fun i => q.sqSize == 2 ^ (i + 4)
  if bitsN control 31 4 ≠ 0 ∨ bitsN r 63 53 ≠ 0 ∨ bitsN r 50 40 ≠ 0 ∨ bitsN r 13 9 ≠ 0 ∨ bitsN r 7 1 ≠ 0 ∨ !powerOk ∨ q.fqSize < 4 ∨ 16 < q.fqSize ∨
      q.saveSize % 4096 ≠ 0 then 1
  else if bitsN q.fqBase 11 0 ≠ 0 ∨ bitsN q.saveBase 11 0 ≠ 0 ∨ bitsN q.sqBase 4 0 ≠ 0 then 2
  else if !s.tableHere r then 3
  else if (s.areas q).any fun (a, n) => others.any fun i => (s.areas s.parts[i]).any fun (b, m) => rangesMeet a n b m then 4
  else if 256 < ((others.map fun i => bitsN s.parts[i].qos 63 56).foldl (· + ·) (bitsN q.qos 63 56)) then 5
  else if !(qosLimits q.qos && qosReserved q.qos) then 6
  else if q.resetting then 7
  else if !(s.areaMapped r q.fqBase (64 * 2 ^ q.fqSize) && s.areaMapped r q.saveBase q.saveSize) then 8
  else 0

/-- A withdrawn level-7 grant makes queued level-7 launches run at level 6; their placed blocks keep level 7 (R375, R391). -/
def State.withdraw7 (s : State) (p : PartId) : State :=
  if s.parts[p].control.getLsbD 2 then s
  else (s.launches.filter fun l => l.part == p && l.queued && l.level == 7).foldl (fun (s : State) l => s.setLevel l 6) s

/-- PARTITION_ENABLE (R370, R371): a write of control. With enable set, a partition not yet enabled is checked and
enabled, or refused; an enabled one takes its grants; with enable clear it is disabled. One whose reset is in progress, enabled or
not, is checked and so refused with code 7 (R371, R376; of one enabled already, DESIGN CHOICE, log 49). -/
def execPartitionEnable (p : PartId) (control : BitVec 32) (s : State) : Out :=
  let q := s.parts[p]
  let set (on : Bool) (reason : Nat) : State :=
    let c := (control &&& 0xC) ||| (if on then 1 else 0)
    (s.modPart p fun q => { q with control := c, enabled := on, refusal := BitVec.ofNat 8 reason, qos := qosCopy q.qos c }).withdraw7 p
  if !control.getLsbD 0 then .next (set false 0)
  else if q.enabled && !q.resetting then .next (set true 0)
  else
    let r := s.refusalOf p control
    .next (set (r == 0) r)

/-- QOS_CHANGE (R373, R375): the record rewritten, its copies of control kept. A running partition's record keeps its
limits: a write that breaks them, or the shares of R374, is ignored (log 28). -/
def execQosChange (p : PartId) (record : BitVec 128) (s : State) : Out :=
  let q := s.parts[p]
  let share := ((List.finRange 16).filter fun i => i != p && s.parts[i].enabled).map fun i => bitsN s.parts[i].qos 63 56
  if q.enabled && (!qosLimits record || decide (256 < share.foldl (· + ·) (bitsN record 63 56))) then .next s
  else
    let r := if q.enabled then record &&& ~~~(0x0000000000FFFE00000000FCFFFFFFFC : BitVec 128) else record
    .next (s.modPart p fun q => { q with qos := qosCopy r q.control })

/-- PARTITION_RESET (R376, R377): steps 1 and 2. Admission stops, the vectors are masked, their pending bits and unsent
messages dropped; every core of the partition freezes. One already in progress absorbs it. -/
def execPartitionReset (p : PartId) (s : State) : Out :=
  if s.parts[p].resetting then .next s
  else
    .next (s.modPart p fun q => { q with resetting := true, intMask := 0xFFFFFFFF, intPend := 0, messages := [], freeze := none })

/-- Step 3 of R377: the blocks of a partition leave their cores; its leases end with cause 6 and no trap. -/
def State.releaseCores (s : State) (p : PartId) : State :=
  let s : State := { s with clusters := s.clusters.map fun (k : Cluster) =>
      match k.lease with
      | some l => if l.part = p then { k with lease := none, clkdiv := none, pendingDiv := true } else k
      | none => k }
  { s with
    cores := s.cores.map fun (k : Core) =>
      if k.blocks.any fun (b : Block) => b.part == p then (k.blocks.foldl (fun (k : Core) b => k.leave b.bid) k).bump 0x16 1 else k
    launches := s.launches.filter fun (l : Launch) => l.part != p
    requests := s.requests.filter fun (r : TlbRequest) => match r.op with
      | .tlbInvalidatePage q _ _ => q != p
      | .tlbInvalidatePartition q _ => q != p
      | .migratePage q _ _ => q != p
      | .setDirtyLog q _ _ => q != p
      | _ => true }

/-- Step 4: marked bytes written back, and every sector, TLB entry and decode-table entry of the partition dropped. -/
def State.cleanCaches (s : State) (p : PartId) : State :=
  { s with
    clusters := s.clusters.map fun k => { k with l2 := k.l2.filter (fun x => x.part != p), tlb := k.tlb.filter fun e => e.part != p }
    cores := s.cores.map fun k =>
      { k with tlb := k.tlb.filter (fun e => e.part != p), decode := k.decode.filter (fun d => d.part != p)
               reserved := k.reserved.filter fun r => s.launches.any fun l => l.lid == r.launch }
    walkCache := s.walkCache.filter fun x => x.1 != p }

/-- PARTITION_RESET_DONE (R377, R378): steps 3 to 5. It waits while a home refuses the partition's bytes, and for an access to a
package that the links report unreachable (R489). FSTAT returns to 0 here, and at no other placement of a partition (R367; DEDUCED,
log 45). -/
def execPartitionResetDone (p : PartId) (s : State) : Out :=
  if !s.parts[p].resetting || s.waitsFar p then .next s
  else
    let s := (s.releaseCores p).releaseAll p
    if s.unreleasedAll p then .next s
    else
      .next ((s.cleanCaches p).modPart p fun q =>
        { q with resetting := false, graphs := [], sqErr := 0, fqBase := 0, fqSize := 0, fqProd := 0, fqCons := 0, fqStat := 0
                 qos := qosCopy 0 q.control, fstat := 0, ftgt := 0
                 fsave := 0, intPend := 0, freeze := none, ctxStatus := 0, ctxCount := 0, ctxOp := 0, suspended := false, saved := [] })

/-- MSIX_UNMASK (R369): a pending vector is sent; while the partition is being reset none is (R377, R378). -/
def execMsixUnmask (p : PartId) (vector : Fin 32) (s : State) : Out :=
  let bit := BitVec.ofNat 32 (2 ^ vector.val)
  let pending := s.parts[p].intPend.getLsbD vector.val && !s.parts[p].resetting
  let s := s.modPart p fun q => { q with intMask := q.intMask &&& ~~~bit, intPend := q.intPend &&& ~~~bit }
  .next (if pending then { s with sent := s.sent ++ [.msix p vector.val] } else s)

/-- A register of `width` bytes at offset `base` after a write of `size` bytes at offset r: the bytes that the write names take its
value, the others stay; none where it names no byte of the register. -/
def regPut (old width base r size value : Nat) : Option Nat :=
  if r < base + width ∧ base < r + size then
    some (natOfBytes ((List.range width).map fun i =>
      if r ≤ base + i ∧ base + i < r + size then BitVec.ofNat 8 (value / 2 ^ (8 * (base + i - r))) else BitVec.ofNat 8 (old / 2 ^ (8 * i))))
  else none
/-- What a register takes of a write (R6): `f` of its new value, where the write names a byte of it. -/
def State.putReg (s : State) (old width base r size value : Nat) (f : Nat → State → State) : State :=
  match regPut old width base r size value with
  | some v => f v s
  | none => s

/-- A host's translation request (R417); reserved bits are ignored (R6), a reserved op does nothing (log 29). -/
def State.hostRequest (s : State) (p : PartId) (v : Word) : State :=
  let addr : Word := v &&& 0x000FFFFFFFFFFFC0
  let submit (op : Instr) : State := { s with requests := s.requests ++ [{ op := op, after := [] }] }
  match bitsN v 2 0 with
  | 0 => submit (.tlbInvalidatePage p addr .host)
  | 1 => submit (.tlbInvalidatePartition p .host)
  | 2 => submit (.migratePage p addr .host)
  | 3 => submit (.setDirtyLog p addr .host)
  | _ => s

/-- A write of control (R370, R376): bit 1 asks for a reset, and the rest is PARTITION_ENABLE's. -/
def State.writeEnable (s : State) (p : PartId) (control : BitVec 32) : State :=
  let s := nextOr s (if control.getLsbD 1 then execPartitionReset p s else .next s)
  nextOr s (execPartitionEnable p (control &&& ~~~2) s)

/-- The registers of a partition control block (R370, R417, R462). The translation request register takes a write of its 8 bytes
alone: what a narrower one does, the manual does not say, and here it does nothing (DESIGN CHOICE, log 29). -/
def State.writeControl (s : State) (p : PartId) (r size value : Nat) : State :=
  let q := s.parts[p]
  let put (old width base : Nat) (f : Nat → Partition → Partition) (s : State) : State :=
    s.putReg old width base r size value fun v s => s.modPart p (f v)
  let s := put q.ptRoot.toNat 8 0x08 (fun v q => { q with ptRoot := BitVec.ofNat 64 v }) s
  let s := put q.sqBase.toNat 8 0x10 (fun v q => { q with sqBase := BitVec.ofNat 64 v }) s
  let s := put q.sqSize 4 0x18 (fun v q => { q with sqSize := v }) s
  let s := put q.fqBase.toNat 8 0x20 (fun v q => { q with fqBase := BitVec.ofNat 64 v }) s
  let s := put q.fqSize 4 0x28 (fun v q => { q with fqSize := v }) s
  let s := put q.saveBase.toNat 8 0x30 (fun v q => { q with saveBase := BitVec.ofNat 64 v }) s
  let s := put q.saveSize 8 0x38 (fun v q => { q with saveSize := v }) s
  let s := s.putReg q.qos.toNat 16 0x40 r size value fun v s => nextOr s (execQosChange p (BitVec.ofNat 128 v) s)
  let s := s.putReg q.control.toNat 4 0x00 r size value fun v s => s.writeEnable p (BitVec.ofNat 32 v)
  let s := s.putReg 0 8 0x80 r size value fun v s =>
    match v % 8 with
    | 1 => nextOr s (execCtxctlSuspend p s)
    | 2 => nextOr s (execCtxctlResume p s)
    | _ => s
  if r = 0x90 ∧ size = 8 then s.hostRequest p (BitVec.ofNat 64 value) else s

/-- CELL and THERM (R469, R470): a write that breaks their order is ignored whole; the readings held are tested against what it sets. -/
def State.writeController (s : State) (r size value : Nat) : State :=
  let cell (s : State) (i : Fin 20) : State :=
    s.putReg s.cells[i].toNat 8 (0x200 + 8 * i.val) r size value fun v s =>
      let v : BitVec 64 := BitVec.ofNat 64 v
      if cellHi v ≤ cellLo v ∨ 1024 < cellHi v ∨ 1024 < cellLo v then s
      else
        let keep : BitVec 64 := 0x000007FF07FF0000
        let s := { s with cells := upd s.cells i fun x => (v &&& keep) ||| (x &&& ~~~keep) }
        s.setMelt i (s.cells[i].setWidth 11)
  let s := (List.finRange 20).foldl cell s
  s.putReg s.therm.toNat 8 0x300 r size value fun v s =>
    let t := { s with therm := BitVec.ofNat 64 (v % 2 ^ 48) }
    if t.tMig < t.tThr ∧ t.tThr < t.tTrip then t.retest else s

/-- Every core that breakpoint n of a partition has stopped goes on with its bundle (R486, R487). -/
def State.resumeBreak (s : State) (p : PartId) (n : Fin 8) : State :=
  ({ s with cores := s.cores.map fun (k : Core) =>
      if k.stopped = some (.breakpoint p n) then { k with stopped := none, breakSkip := true } else k } : State).preempt

/-- TRACE's writable fields (R484). -/
def traceFields : BitVec 256 := ~~~((0xFFFFFFFF : BitVec 256) <<< 96 ||| 0xFFFFFFFFFFFFFFFF)

/-- The debug page (R483, R484, R486): TRACE, whose fill clears `full` when it is written; breakpoints, whose hit bit is cleared by
writing 1 and whose resume bit resumes cores; range registers. -/
def State.writeDebug (s : State) (r size value : Nat) : State :=
  if r < 0x200 then
    let p : PartId := fin 16 (r / 32)
    let old := s.parts[p].trace
    s.putReg old.toNat 32 (32 * p.val) r size value fun v s =>
      let off := r % 32
      let full := if off < 20 ∧ 16 < off + size then 0 else old &&& trFull
      s.modPart p fun q => { q with trace := (BitVec.ofNat 256 v &&& traceFields) ||| full }
  else if r < 0x200 + 0x100 * 16 then
    let p : PartId := fin 16 ((r - 0x200) / 0x100)
    let n : Fin 8 := fin 8 (r % 0x100 / 32)
    let old := s.parts[p].breaks[n]
    s.putReg old.toNat 32 (0x200 + 0x100 * p.val + 32 * n.val) r size value fun v s =>
      let v : BitVec 256 := BitVec.ofNat 256 v
      let first := r % 32 == 0
      let hit := old.getLsbD 1 && !(first && value.testBit 1)
      let low : BitVec 256 := (if v.getLsbD 0 then 1 else 0) ||| (if hit then 2 else 0)
      let s := s.modPart p fun q =>
        { q with breaks := upd q.breaks n fun _ => (v &&& ~~~(0xFFFFFFFFFFFFFFFF : BitVec 256)) ||| low }
      if first && value.testBit 2 then s.resumeBreak p n else s
  else if 0x2000 ≤ r ∧ r < 0x2000 + 0x400 * 320 then
    let c : CoreId := fin 320 ((r - 0x2000) / 0x400)
    let i : Fin 16 := fin 16 (r % 0x400 / 16)
    if 256 ≤ r % 0x400 then s
    else
      s.putReg s.cores[c].ranges[i].toNat 16 (0x2000 + 0x400 * c.val + 16 * i.val) r size value fun v s =>
        s.modCore c fun k => { k with ranges := upd k.ranges i fun _ => BitVec.ofNat 128 (v % 2 ^ 101) }
  else s

/-- Codes of MB_STAT (R495), and MB_STAT with a code and a detail. -/
def mbBusy : Nat := 1
def mbStatus (code detail : Nat) : BitVec 32 := BitVec.ofNat 32 (code + 2 ^ 8 * detail)
def Firmware.code (f : Firmware) : Nat := bitsN f.mbStat 7 0

/-- The firmware mailbox (R495): an UPDATE begins with step 1 of R494, and FIRMWARE_UPDATE goes on with it; one written while
MB_STAT reads BUSY is ignored. -/
def State.writeMailbox (s : State) (r size value : Nat) : State :=
  let f := s.firmware
  let s := s.putReg f.mbAddr.toNat 8 0x08 r size value fun v s => { s with firmware := { s.firmware with mbAddr := BitVec.ofNat 64 v } }
  let s := s.putReg f.mbLen.toNat 4 0x10 r size value fun v s => { s with firmware := { s.firmware with mbLen := BitVec.ofNat 32 v } }
  s.putReg 0 4 0x00 r size value fun v s =>
    if v = 1 ∧ f.code ≠ mbBusy then { s with firmware := { s.firmware with mbStat := mbStatus mbBusy 1 } } else s

/-- A write within entry n of the MSI-X table (R369, R493): the message address in bytes 0 to 7, the data in 8 to 11, and the mask in
bit 0 of byte 12 (the layout of PCIe, PRESUMED, log 29). -/
def State.writeVector (s : State) (p : PartId) (n : Fin 32) (at_ size value : Nat) : State :=
  let s := s.putReg (s.parts[p].vectors[n]).toNat 12 0 at_ size value fun v s =>
    s.modPart p fun q => { q with vectors := upd q.vectors n fun _ => BitVec.ofNat 96 v }
  if 12 < at_ ∨ at_ + size ≤ 12 then s
  else if (value / 2 ^ (8 * (12 - at_))) % 2 = 1 then s.modPart p fun q => { q with intMask := q.intMask ||| BitVec.ofNat 32 (2 ^ n.val) }
  else nextOr s (execMsixUnmask p n s)

/-- A virtual function's BAR0 (R359, R380, R493): the two doorbell pages and the MSI-X table. SQ_HEAD is read-only (R6, R380): no register
gives a moved partition the head that R463 speaks of (log 61). -/
def State.writeFunction (s : State) (p : PartId) (r size value : Nat) : State :=
  if r = 0 ∨ r = 0x1000 then nextOr s (execSqTail p (r == 0x1000) size (BitVec.ofNat 32 value) s)
  else if 0x2000 ≤ r ∧ r < 0x2200 then s.writeVector p (fin 32 ((r - 0x2000) / 16)) (r % 16) size value
  else s

/-- HOST_REGISTER_WRITE (R6, R493, R495): a register of the package's window of the physical function's BAR0, or, from
2^32 + 2^16 × p on, of virtual function p's BAR0 (log 29). RO and reserved bits ignore it. -/
def execHostRegisterWrite (offset : Nat) (size : Nat) (value : BitVec 64) (s : State) : Out :=
  let v := value.toNat
  if offset < 0x10000 then .next (s.writeControl (fin 16 (offset / 0x1000)) (offset % 0x1000) size v)
  else if offset < 0x11000 then .next (s.writeController (offset - 0x10000) size v)
  else if 0x20000 ≤ offset ∧ offset < 0x21000 then .next (s.writeMailbox (offset - 0x20000) size v)
  else if 0x100000 ≤ offset ∧ offset < 0x160000 then .next (s.writeDebug (offset - 0x100000) size v)
  else if 2 ^ 32 ≤ offset ∧ offset < 2 ^ 32 + 2 ^ 20 then
    .next (s.writeFunction (fin 16 ((offset - 2 ^ 32) / 2 ^ 16)) (offset % 2 ^ 16) size v)
  else .next s

/-! ## The registers as the host reads them (R6): WO fields and reserved bits read zero -/

/-- Eight bytes of a partition control block (R370, R462). -/
def State.readControl (s : State) (p : PartId) (r : Nat) : Word :=
  let q := s.parts[p]
  match r with
  | 0x00 => q.control.setWidth 64 ||| (if q.enabled then (1 : Word) <<< 32 else 0) ||| (if q.resetting then (1 : Word) <<< 33 else 0) |||
      q.refusal.setWidth 64 <<< 40
  | 0x08 => q.ptRoot
  | 0x10 => q.sqBase
  | 0x18 => BitVec.ofNat 64 q.sqSize
  | 0x20 => q.fqBase
  | 0x28 => BitVec.ofNat 64 q.fqSize
  | 0x30 => q.saveBase
  | 0x38 => BitVec.ofNat 64 q.saveSize
  | 0x40 => q.qos.extractLsb' 0 64
  | 0x48 => q.qos.extractLsb' 64 64
  | 0x80 => q.ctxStatus.setWidth 64 <<< 8 ||| q.ctxCount.setWidth 64 <<< 32
  | _ => 0
/-- Eight bytes of the package controller page (R468 to R470). -/
def State.readController (s : State) (r : Nat) : Word :=
  if r < 0x140 then s.clkstat (fin 40 (r / 8))
  else if 0x200 ≤ r ∧ r < 0x2A0 then s.cells[fin 20 ((r - 0x200) / 8)] else if r = 0x300 then s.therm else 0
/-- Eight bytes of the firmware mailbox (R495, R507). -/
def State.readMailbox (s : State) (r : Nat) : Word :=
  let f := s.firmware
  match r with
  | 0x00 => f.mbStat.setWidth 64 <<< 32
  | 0x08 => f.mbAddr
  | 0x10 => f.mbLen.setWidth 64
  | 0x18 => f.svn.setWidth 64 ||| f.format.setWidth 64 <<< 32 ||| s.packageId.setWidth 64 <<< 48
  | _ => 0
/-- Eight bytes of the debug page (R483, R484, R486). -/
def State.readDebug (s : State) (r : Nat) : Word :=
  if r < 0x200 then (s.parts[fin 16 (r / 32)].trace).extractLsb' (8 * (r % 32)) 64
  else if r < 0x1200 then (s.parts[fin 16 ((r - 0x200) / 0x100)].breaks[fin 8 (r % 0x100 / 32)]).extractLsb' (8 * (r % 32)) 64
  else if 0x2000 ≤ r ∧ r < 0x2000 + 0x400 * 320 ∧ r % 0x400 < 256 then
    (s.cores[fin 320 ((r - 0x2000) / 0x400)].ranges[fin 16 (r % 0x400 / 16)]).extractLsb' (8 * (r % 16)) 64
  else 0
/-- Eight bytes of a virtual function's BAR0 (R380): the doorbell pages' registers, and the MSI-X table. -/
def State.readFunction (s : State) (p : PartId) (r : Nat) : Word :=
  let q := s.parts[p]
  if r = 0 ∨ r = 0x1000 then q.sqHead.setWidth 64 <<< 32
  else if r = 8 ∨ r = 0x1008 then q.sqErr.setWidth 64
  else if 0x2000 ≤ r ∧ r < 0x2200 then
    let n : Fin 32 := fin 32 ((r - 0x2000) / 16)
    if r % 16 = 0 then (q.vectors[n]).extractLsb' 0 64
    else if r % 16 = 8 then ((q.vectors[n]).extractLsb' 64 32).setWidth 64 ||| (if q.intMask.getLsbD n.val then (1 : Word) <<< 32 else 0)
    else 0
  else 0
/-- Eight bytes at an 8-byte aligned offset of the space that HOST_REGISTER_WRITE names. -/
def State.hostRead (s : State) (offset : Nat) : Word :=
  if offset < 0x10000 then s.readControl (fin 16 (offset / 0x1000)) (offset % 0x1000)
  else if offset < 0x11000 then s.readController (offset - 0x10000)
  else if 0x20000 ≤ offset ∧ offset < 0x21000 then s.readMailbox (offset - 0x20000)
  else if 0x100000 ≤ offset ∧ offset < 0x160000 then s.readDebug (offset - 0x100000)
  else if 2 ^ 32 ≤ offset ∧ offset < 2 ^ 32 + 2 ^ 20 then s.readFunction (fin 16 ((offset - 2 ^ 32) / 2 ^ 16)) (offset % 2 ^ 16)
  else 0

end Sys2Proof.Machine
end

