-- ==== Sys2Proof/Machine/Debug.lean ====
section
/-! DEFINITION. Samples, trace records and breakpoints: TRACE_FILL_WRITE, TRACE_SAMPLE, BREAKPOINT_HIT and
BREAKPOINT_RESUME (spec/22_debug_profiling.md R484 to R487). -/

namespace Sys2Proof.Machine

/-- A trace record of a partition, which is written, waits or is dropped as `sendTrace` says (R484). -/
def State.trace (s : State) (c : CoreId) (p : PartId) (bs : List Byte) : State :=
  State.sendTrace { s with heldTrace := s.heldTrace ++ [{ part := p, cluster := clusterOf c, bytes := bs }] } p

/-- The ends of a trace record (R485): wid, kind, lcid and time. -/
def traceTail (c : CoreId) (wid kind ns : Nat) : List Byte :=
  [BitVec.ofNat 8 wid, BitVec.ofNat 8 kind] ++ bytesOf 2 (BitVec.ofNat 16 (lcidOf c)) ++ bytesOf 4 (BitVec.ofNat 32 ns)
/-- The glyph address of a warp's next bundle. -/
def Warp.nextGlyph (x : Warp) : BitVec 32 := ((x.stroke[x.pos]?).map fun w => w.glyph).getD x.pc
/-- A record of a warp (R485). -/
def warpTrace (c : CoreId) (b : Block) (x : Warp) (kind ns : Nat) : List Byte :=
  bytesOf 8 b.nodeAddr ++ bytesOf 4 b.bx ++ bytesOf 2 b.by_ ++ bytesOf 2 b.bz ++ bytesOf 4 x.baraPhase ++
    bytesOf 4 x.nextGlyph ++ traceTail c x.wid kind ns
/-- A barrier-dump record: the barrier's 16 bytes in place of coordinates, phase and glyph (R486). -/
def barrierTrace (c : CoreId) (b : Block) (x : Warp) (bar : List Byte) (ns : Nat) : List Byte :=
  bytesOf 8 b.nodeAddr ++ bar ++ traceTail c x.wid 0x30 ns

/-- TRACE_FILL_WRITE (R484). -/
def execTraceFillWrite (p : PartId) (fill : BitVec 32) (s : State) : Out :=
  .next (s.modPart p fun q => { q with trace := trSetFill (q.trace &&& ~~~trFull) fill.toNat })

/-- The warp that a sample names, and its kind nibble: the holder, or the warp granted next; else the first in the
arbiter's order with the reason of the idle counters (R485, R480). -/
def Core.sampled (k : Core) : Option (WarpId × Nat) :=
  match k.holder, k.toGrant with
  | some w, _ => some (w, 0)
  | none, some w => some (w, 0)
  | none, none =>
    -- of the warps that can still be granted a stroke
    let live := k.standings.filter fun y =>
      (y.2.1.state == .boundary || y.2.1.state == .midStroke || y.2.1.state == .parked) &&
        (k.block? y.2.1.bid).any fun b => !b.halted
    (bestOf (live.map fun y => (y.1, y.2.1))).map fun y => (y.1, k.idleReason.val - 3)

/-- The sampling period of a core: that of the partition whose blocks it holds. -/
def State.samplePeriod (s : State) (c : CoreId) : Nat :=
  match s.cores[c].blocks.head? with
  | some b => trPeriod s.parts[b.part].trace
  | none => 0
/-- A core's sample is due (R484). -/
def State.sampleDue (s : State) (c : CoreId) : Bool := s.coreRuns c && s.samplePeriod c != 0 && s.cores[c].sampleIn == 0

/-- TRACE_SAMPLE (R484, R485). -/
def execTraceSample (c : CoreId) (s : State) : Out :=
  if !s.sampleDue c then .next s
  else
    let k := s.cores[c]
    let again (s : State) : State := s.modCore c fun k => { k with sampleIn := s.samplePeriod c }
    match k.sampled with
    | none => .next (again s)
    | some (w, why) =>
      match k.warps[w] with
      | none => .next (again s)
      | some x =>
        match k.block? x.bid with
        | none => .next (again s)
        | some b => .next ((again s).trace c b.part (warpTrace c b x (0x10 + why) s.ns))

/-- Whether a breakpoint matches the next bundle of a warp (R486). -/
def breakMatches (r : BitVec 256) (b : Block) (x : Warp) (glyph : BitVec 32) : Bool :=
  let any {n : Nat} (f v : BitVec n) : Bool := f == BitVec.allOnes n || f == v
  r.getLsbD 0 && r.extractLsb' 64 32 == glyph && r.extractLsb' 96 32 == b.dictId && any (r.extractLsb' 128 32) x.baraPhase &&
    any (r.extractLsb' 160 32) (BitVec.ofNat 32 b.index) && any (r.extractLsb' 192 64) b.nodeAddr

/-- The warp that comes to a bundle which breakpoint n of its partition matches: the core's holder, between bundles. -/
def State.breakAt (s : State) (c : CoreId) (n : Fin 8) : Option (WarpId × Warp × Block) :=
  let k := s.cores[c]
  if k.breakSkip || !s.coreRuns c || s.issue.any fun ix => ix.core == c then none
  else
    match k.holder with
    | none => none
    | some w =>
      match k.warps[w] with
      | none => none
      | some x =>
        match k.block? x.bid, x.stroke[x.pos]? with
        | some b, some cw => if breakMatches s.parts[b.part].breaks[n] b x cw.glyph then some (w, x, b) else none
        | _, _ => none

/-- The barriers that the last BARA of a block's warps names, each once, with the first such warp. -/
def Core.dumped (k : Core) (b : Block) : List (Nat × Warp) :=
  (k.blockWarps b.bid).foldl (fun acc (_, x) =>
    match x.baraAddr with
    | some a => if acc.any fun y => y.1 == a then acc else acc ++ [(a, x)]
    | none => acc) []

/-- BREAKPOINT_HIT (R486): the core stops before the bundle, and the records are written. -/
def execBreakpointHit (c : CoreId) (n : Fin 8) (s : State) : Out :=
  match s.breakAt c n with
  | none => .next s
  | some (_, x, b) =>
    let k := s.cores[c]
    let s := s.modPart b.part fun q => { q with breaks := upd q.breaks n fun r => r ||| 2 }
    let s := s.modCore c fun k => { k.bump 0x16 1 with stopped := some (.breakpoint b.part n) }
    let s := s.trace c b.part (warpTrace c b x 0x20 s.ns)
    .next ((k.dumped b).foldl (fun (s : State) (a, y) =>
      s.trace c b.part (barrierTrace c b y (k.ab.read (b.ab.base + a) 16) s.ns)) s)

/-- BREAKPOINT_RESUME (R486, R487): every core that this breakpoint has stopped goes on with that bundle. -/
def execBreakpointResume (p : PartId) (n : Fin 8) (s : State) : Out :=
  .next (s.resumeBreak p n)

end Sys2Proof.Machine
end

