-- ==== Sys2Proof/Machine/Firmware.lean ====
section
/-! DEFINITION. Links, firmware, boot and the root of trust: LINK_CRC_RETRY, FIRMWARE_UPDATE, FIRMWARE_TAKEOVER,
FIRMWARE_FAILOVER, PACKAGE_BOOT and the SPDM messages (spec/23_links_firmware.md R491, R494 to R499, R507,
spec/00_scope.md R10). -/

namespace Sys2Proof.Machine

/-- The partitions with work on the die that a link belongs to: those with blocks there (log 33). -/
def State.linkUsers (s : State) (link : Fin 32) : List PartId :=
  (allCores.filter fun c => (dieOf c).val == link.val / 8).flatMap fun c => s.cores[c].blocks.map fun b => b.part

/-- A link lane retired; a link of fewer than 4 live lanes is taken down (R491). -/
def State.dropLane (s : State) (link : Fin 32) (lane : Fin 8) : State :=
  let live := s.lanes[link] &&& ~~~BitVec.ofNat 8 (2 ^ lane.val)
  let up := decide (4 ≤ ((List.range 8).filter fun i => live.getLsbD i).length)
  { s with lanes := upd s.lanes link fun _ => if up then live else 0 }

/-- LINK_CRC_RETRY (R443, R491): a flit resent in order loses and repeats nothing, and is counted on the first core of the link's
die (log 26); one whose retry fails retires its lane, with resource code 3. Traffic goes on over the links that still have
lanes, where a route names them. -/
def execLinkCrcRetry (link : Fin 32) (lane : Fin 8) (lasting : Bool) (s : State) : Out :=
  if !s.lanes[link].getLsbD lane.val then .next s
  else if !lasting then .next (s.softError (dieCore (link.val / 8)))
  else .next ((s.dropLane link lane).retireRecord (s.linkUsers link) 0 3 (8 * link.val + lane.val))

/-- Codes of MB_STAT (R495). -/
def mbDone : Nat := 2
def mbVersion : Nat := 3
def mbAuth : Nat := 4
def mbSvn : Nat := 5
def mbBadRequest : Nat := 6
def mbNoStandby : Nat := 7

/-- Fields of an image's header (R497). -/
def imSvn (h : List Byte) : BitVec 32 := ofBytes 32 ((h.drop 4).take 4)
def imLength (h : List Byte) : Nat := natOfBytes ((h.drop 8).take 4)
def imDigest (h : List Byte) : List Byte := (h.drop 0x10).take 32
/-- Magic and zero field as R497 gives them, the signature good under a key, and the body's digest the header's. -/
def fwImageOk (key : Nat × Nat) (h body : List Byte) : Bool :=
  (h.take 4 == [0x47, 0x4A, 0x46, 0x57]) && natOfBytes ((h.drop 12).take 4) == 0 &&
    ecdsaOk key (h.take 0x30) (natOfBytes ((h.drop 0x30).take 32)) (natOfBytes ((h.drop 0x50).take 32)) &&
    sha256 body == imDigest h

/-- Bytes of host memory at a host bus address; beyond the host memory that a leaf can name, and in a frame that has moved, they read
zero (log 34). -/
def State.hostBytes (s : State) (a n : Nat) : List Byte :=
  if a + n ≤ 2 ^ 50 ∧ !s.refusesAny (4 * 2 ^ 50 + a) n then s.homeRead (4 * 2 ^ 50 + a) n else List.replicate n 0

/-- What an UPDATE comes to (R494, R495, R497): the code and detail of its refusal; 1 where the standby runs the image. -/
def State.updateCode (s : State) (im : FirmwareImage) (h body : List Byte) : Nat × Nat :=
  let f := s.firmware
  if bitsN f.mbAddr 11 0 ≠ 0 ∨ f.mbLen.toNat ≠ 0x70 + imLength h then (mbBadRequest, 0)
  else if !f.standbyOk then (mbNoStandby, 0)
  else if !fwImageOk Config.fusedKey h body then (mbAuth, 0)
  else if imSvn h < Config.fusedSvn then (mbSvn, Config.fusedSvn.toNat)
  else if !im.formatsRead.contains f.format then (mbVersion, f.format.toNat)
  else (mbBusy, 4)

/-- FIRMWARE_UPDATE (R494, R495): the image of MB_ADDR and MB_LEN in host memory is verified and booted. It goes on with an
update that MB_CMD has begun, or stands for the write that begins one; while a later step is in progress it is ignored. An image on a
copied line of a page that migrates is read after the notice (R428, R429). -/
def execFirmwareUpdate (im : FirmwareImage) (s : State) : Out :=
  let f := s.firmware
  if f.code = mbBusy ∧ f.mbStat ≠ mbStatus mbBusy 1 ∨ (s.physFrame (4 * 2 ^ 50 + f.mbAddr.toNat) f.mbLen.toNat).isSome then .next s
  else
    let h := s.hostBytes f.mbAddr.toNat 0x70
    let body := s.hostBytes (f.mbAddr.toNat + 0x70) (imLength h)
    let (code, detail) := s.updateCode im h body
    .next { s with firmware := { f with
      mbStat := mbStatus code detail
      pendingSvn := if code = mbBusy then some (imSvn h, im.formatWritten, ofBytes 256 (imDigest h).reverse) else none } }

/-- A measurement slot (1 to 5) extended with an image's digest (R498; the extension is PRESUMED, log 34). -/
def State.extend (s : State) (slot : Nat) (digest : BitVec 256) : State :=
  let i : Fin 5 := fin 5 (slot - 1)
  let big (x : BitVec 256) : List Byte := (bytesOf 32 x).reverse
  { s with measurements := upd s.measurements i fun m => ofBytes 256 (sha256 (big m ++ big digest)).reverse }

/-- The standby that has booted a new image takes over (R494, R495); the other complex boots it too. -/
def State.takeOver (s : State) : State :=
  match s.firmware.pendingSvn with
  | none => s
  | some (svn, format, digest) =>
    let s := { s with firmware := { s.firmware with
      mbStat := mbStatus mbDone 0
      svn := svn
      format := format
      standbySvn := svn
      standbyFormat := format
      pendingSvn := none } }
    (s.extend 2 digest).extend 3 digest

/-- FIRMWARE_TAKEOVER (R494): between ring entries, which this model consumes whole. -/
def execFirmwareTakeover (s : State) : Out := .next s.takeOver

/-- FIRMWARE_FAILOVER (R496): the standby goes on from the last committed state, with the image that it has booted. Every
ring entry commits whole here, so none is consumed twice. Without a healthy standby nothing takes over. -/
def execFirmwareFailover (s : State) : Out :=
  if !s.firmware.standbyOk then .next s
  else
    let s := s.takeOver
    .next { s with firmware := { s.firmware with
      svn := s.firmware.standbySvn, format := s.firmware.standbyFormat, standbyOk := false } }

/-- An image that may run (R497). -/
def storedOk (im : StoredImage) : Bool :=
  fwImageOk Config.fusedKey im.header im.body && decide (Config.fusedSvn ≤ imSvn im.header) && im.body.length == imLength im.header
/-- The digest of an image, as its slot is extended with it (R498). -/
def storedDigest (im : StoredImage) : BitVec 256 := ofBytes 256 (imDigest im.header).reverse
/-- This package's identifier (R507): 0 where no routing table names another package. -/
def bootId (inputs : BootInputs) : BitVec 11 :=
  if inputs.routes.all fun r => r.1 == inputs.packageId then 0 else inputs.packageId

/-- The five steps of boot passed: what they set (R499, R507). The slots are extended from zero; a standby image that may not run
leaves that complex unhealthy. -/
def State.booted (s : State) (inputs : BootInputs) : State :=
  let s := { s with
    failedStacks := inputs.failedStacks
    lanes := s.lanes.mapFinIdx fun i x hi => if inputs.failedLinks.contains ⟨i, hi⟩ then 0 else x
    packageId := bootId inputs
    routes := inputs.routes
    measurements := Vector.replicate 5 0
    firmware := { s.firmware with
      svn := imSvn inputs.active.header
      format := inputs.active.format
      standbySvn := imSvn inputs.standby.header
      standbyFormat := inputs.standby.format
      standbyOk := storedOk inputs.standby }
    bootStage := 5
    spdmReady := true }
  ((((s.extend 1 inputs.romDigest).extend 2 (storedDigest inputs.active)).extend 3 (storedDigest inputs.standby)).extend 4 inputs.configDigest
    ).extend 5 inputs.routesDigest

/-- PACKAGE_BOOT (R499, R507): the five steps. A failure at step 1, or at step 2 of an active image that may not run (R497), keeps
the package in reset; a stack that fails at step 3 is retired with its die's pages, and links that fail at step 4 stay down. -/
def execPackageBoot (inputs : BootInputs) (s : State) : Out :=
  if s.bootStage ≠ 0 || s.keptReset then .next s
  else if !inputs.rootOk || !storedOk inputs.active then .next { s with keptReset := true }
  else .next (s.booted inputs)

/-- An SPDM message answered by Zynzil, once the root of trust has booted. -/
def State.answer (s : State) (m : OutMsg) : State := if s.spdmReady then { s with sent := s.sent ++ [m] } else s
/-- The answer to a request that the negotiation must precede: an error before it (log 34). -/
def State.answerAfter (s : State) (m : OutMsg) : State := s.answer (if s.negotiated then m else .spdmError)
/-- The next signature of the device identity key (R498). -/
def State.sign (s : State) (message : List Byte) : List Byte := identitySignature s.sent.length message

/-- The digest of the certificate chain of slot 0. -/
def chainDigest : BitVec 256 := ofBytes 256 (sha256 Config.certChain).reverse

/-- GET_VERSION: SPDM 1.3 alone (R10). -/
def execGetVersion (s : State) : Out := .next (s.answer (.spdmVersion [0x13]))
/-- GET_CAPABILITIES: certificates, challenges and measurements; no secure session (R10). -/
def execGetCapabilities (s : State) : Out := .next (s.answer (.spdmCapabilities true true true))
/-- NEGOTIATE_ALGORITHMS: ECDSA on P-256 with SHA-256, where the requester offers both (R10); that ends the negotiation. -/
def execNegotiateAlgorithms (ecdsaP256 sha256 : Bool) (s : State) : Out :=
  .next { s.answer (.spdmAlgorithms (ecdsaP256 && sha256)) with negotiated := s.spdmReady && (s.negotiated || (ecdsaP256 && sha256)) }
/-- GET_DIGESTS: of slot 0 (R498). -/
def execGetDigests (s : State) : Out := .next (s.answerAfter (.spdmDigest chainDigest))
/-- GET_CERTIFICATE: a part of the chain of slot 0, and how much follows it (R498). -/
def execGetCertificate (slot : BitVec 8) (offset length : BitVec 16) (s : State) : Out :=
  let chain := Config.certChain
  if slot ≠ 0 ∨ chain.length ≤ offset.toNat then .next (s.answerAfter .spdmError)
  else
    let part := (chain.drop offset.toNat).take length.toNat
    .next (s.answerAfter (.spdmCertificate part (chain.length - offset.toNat - part.length)))
/-- CHALLENGE: the digest of slot 0 and a signature of the device identity key over the nonce (R498). -/
def execChallenge (slot : BitVec 8) (nonce : BitVec 256) (s : State) : Out :=
  if slot ≠ 0 then .next (s.answerAfter .spdmError)
  else .next (s.answerAfter (.spdmChallenge chainDigest (s.sign (bytesOf 32 nonce))))
/-- GET_MEASUREMENTS: the number of slots (index 0), one of slots 1 to 5, or all of them (0xFF), signed with the device identity key
(R498; the index values are SPDM's, and the signature is over the values answered, PRESUMED, log 34). -/
def execGetMeasurements (index : BitVec 8) (s : State) : Out :=
  let all : List (Nat × BitVec 256) := s.measurements.toList.mapIdx fun i m => (i + 1, m)
  let n := index.toNat
  let signed (l : List (Nat × BitVec 256)) : OutMsg :=
    .spdmMeasurements l (s.sign (l.flatMap fun x => BitVec.ofNat 8 x.1 :: (bytesOf 32 x.2).reverse))
  if n = 0 then .next (s.answerAfter (.spdmMeasurementCount 5))
  else if n = 255 then .next (s.answerAfter (signed all))
  else if n ≤ 5 then .next (s.answerAfter (signed (all.filter fun x => x.1 == n)))
  else .next (s.answerAfter .spdmError)

end Sys2Proof.Machine
end

