-- ==== Sys2Proof/Machine/Dispatch.lean ====
section
/-! DEFINITION. The one dispatch from an instruction to its meaning. -/

namespace Sys2Proof.Machine

/-- One instruction at a state. -/
def exec (i : Instr) (s : State) : Host.Outcome State Fault Refusal :=
  match i with
  | .bra f => Sys2Proof.Machine.execBra f s
  | .brc f => Sys2Proof.Machine.execBrc f s
  | .brcN f => Sys2Proof.Machine.execBrcN f s
  | .brdAny f => Sys2Proof.Machine.execBrdAny f s
  | .brdAll f => Sys2Proof.Machine.execBrdAll f s
  | .brdNone f => Sys2Proof.Machine.execBrdNone f s
  | .call f => Sys2Proof.Machine.execCall f s
  | .ret f => Sys2Proof.Machine.execRet f s
  | .loop f => Sys2Proof.Machine.execLoop f s
  | .mark f => Sys2Proof.Machine.execMark f s
  | .join f => Sys2Proof.Machine.execJoin f s
  | .exit f => Sys2Proof.Machine.execExit f s
  | .trap f => Sys2Proof.Machine.execTrap f s
  | .wait f => Sys2Proof.Machine.execWait f s
  | .waitt f => Sys2Proof.Machine.execWaitt f s
  | .barw f => Sys2Proof.Machine.execBarw f s
  | .bara f => Sys2Proof.Machine.execBara f s
  | .csync f => Sys2Proof.Machine.execCsync f s
  | .fence f => Sys2Proof.Machine.execFence f s
  | .grow f => Sys2Proof.Machine.execGrow f s
  | .shrink f => Sys2Proof.Machine.execShrink f s
  | .clkdiv f => Sys2Proof.Machine.execClkdiv f s
  | .gust f => Sys2Proof.Machine.execGust f s
  | .gustrel f => Sys2Proof.Machine.execGustrel f s
  | .rdcnt f => Sys2Proof.Machine.execRdcnt f s
  | .sysrd f => Sys2Proof.Machine.execSysrd f s
  | .syswr f => Sys2Proof.Machine.execSyswr f s
  | .intreq f => Sys2Proof.Machine.execIntreq f s
  | .dtinv f => Sys2Proof.Machine.execDtinv f s
  | .eret f => Sys2Proof.Machine.execEret f s
  | .freezeStop f => Sys2Proof.Machine.execFreezeStop f s
  | .freezeResume f => Sys2Proof.Machine.execFreezeResume f s
  | .freezeSave f => Sys2Proof.Machine.execFreezeSave f s
  | .sAdd f => Sys2Proof.Machine.execSAdd f s
  | .sSub f => Sys2Proof.Machine.execSSub f s
  | .sMul f => Sys2Proof.Machine.execSMul f s
  | .mulh f => Sys2Proof.Machine.execMulh f s
  | .sAnd f => Sys2Proof.Machine.execSAnd f s
  | .sOr f => Sys2Proof.Machine.execSOr f s
  | .sXor f => Sys2Proof.Machine.execSXor f s
  | .andn f => Sys2Proof.Machine.execAndn f s
  | .sShl f => Sys2Proof.Machine.execSShl f s
  | .sShr f => Sys2Proof.Machine.execSShr f s
  | .sSar f => Sys2Proof.Machine.execSSar f s
  | .rotl f => Sys2Proof.Machine.execRotl f s
  | .sMin f => Sys2Proof.Machine.execSMin f s
  | .sMax f => Sys2Proof.Machine.execSMax f s
  | .cmp f => Sys2Proof.Machine.execCmp f s
  | .plog f => Sys2Proof.Machine.execPlog f s
  | .sSel f => Sys2Proof.Machine.execSSel f s
  | .lea f => Sys2Proof.Machine.execLea f s
  | .bfx f => Sys2Proof.Machine.execBfx f s
  | .bfi f => Sys2Proof.Machine.execBfi f s
  | .clz f => Sys2Proof.Machine.execClz f s
  | .popc f => Sys2Proof.Machine.execPopc f s
  | .movv f => Sys2Proof.Machine.execMovv f s
  | .movq f => Sys2Proof.Machine.execMovq f s
  | .srd f => Sys2Proof.Machine.execSrd f s
  | .swr f => Sys2Proof.Machine.execSwr f s
  | .li f => Sys2Proof.Machine.execLi f s
  | .liS f => Sys2Proof.Machine.execLiS f s
  | .liHi f => Sys2Proof.Machine.execLiHi f s
  | .iadd sl f => Sys2Proof.Machine.execIadd sl f s
  | .isub sl f => Sys2Proof.Machine.execIsub sl f s
  | .imul sl f => Sys2Proof.Machine.execImul sl f s
  | .imad sl f => Sys2Proof.Machine.execImad sl f s
  | .imin sl f => Sys2Proof.Machine.execImin sl f s
  | .imax sl f => Sys2Proof.Machine.execImax sl f s
  | .iabs sl f => Sys2Proof.Machine.execIabs sl f s
  | .vAnd sl f => Sys2Proof.Machine.execVAnd sl f s
  | .vOr sl f => Sys2Proof.Machine.execVOr sl f s
  | .vXor sl f => Sys2Proof.Machine.execVXor sl f s
  | .vShl sl f => Sys2Proof.Machine.execVShl sl f s
  | .vShr sl f => Sys2Proof.Machine.execVShr sl f s
  | .vSar sl f => Sys2Proof.Machine.execVSar sl f s
  | .icmp sl f => Sys2Proof.Machine.execIcmp sl f s
  | .iaddImm sl f => Sys2Proof.Machine.execIaddImm sl f s
  | .isubImm sl f => Sys2Proof.Machine.execIsubImm sl f s
  | .imulImm sl f => Sys2Proof.Machine.execImulImm sl f s
  | .vAndImm sl f => Sys2Proof.Machine.execVAndImm sl f s
  | .vOrImm sl f => Sys2Proof.Machine.execVOrImm sl f s
  | .vXorImm sl f => Sys2Proof.Machine.execVXorImm sl f s
  | .vShlImm sl f => Sys2Proof.Machine.execVShlImm sl f s
  | .vShrImm sl f => Sys2Proof.Machine.execVShrImm sl f s
  | .vSarImm sl f => Sys2Proof.Machine.execVSarImm sl f s
  | .fadd sl f => Sys2Proof.Machine.execFadd sl f s
  | .fsub sl f => Sys2Proof.Machine.execFsub sl f s
  | .fmul sl f => Sys2Proof.Machine.execFmul sl f s
  | .ffma sl f => Sys2Proof.Machine.execFfma sl f s
  | .fmin sl f => Sys2Proof.Machine.execFmin sl f s
  | .fmax sl f => Sys2Proof.Machine.execFmax sl f s
  | .fcmp sl f => Sys2Proof.Machine.execFcmp sl f s
  | .fclass sl f => Sys2Proof.Machine.execFclass sl f s
  | .vSel sl f => Sys2Proof.Machine.execVSel sl f s
  | .mov sl f => Sys2Proof.Machine.execMov sl f s
  | .movImm sl f => Sys2Proof.Machine.execMovImm sl f s
  | .bcast sl f => Sys2Proof.Machine.execBcast sl f s
  | .qpop sl f => Sys2Proof.Machine.execQpop sl f s
  | .perm sl f => Sys2Proof.Machine.execPerm sl f s
  | .rowshUp sl f => Sys2Proof.Machine.execRowshUp sl f s
  | .rowshDown sl f => Sys2Proof.Machine.execRowshDown sl f s
  | .trans sl f => Sys2Proof.Machine.execTrans sl f s
  | .shape f => Sys2Proof.Machine.execShape f s
  | .cvt sl f => Sys2Proof.Machine.execCvt sl f s
  | .pcvt2 sl f => Sys2Proof.Machine.execPcvt2 sl f s
  | .pcvt4 sl f => Sys2Proof.Machine.execPcvt4 sl f s
  | .pcvt8 sl f => Sys2Proof.Machine.execPcvt8 sl f s
  | .vredAdd sl f => Sys2Proof.Machine.execVredAdd sl f s
  | .vredMax sl f => Sys2Proof.Machine.execVredMax sl f s
  | .rngu sl f => Sys2Proof.Machine.execRngu sl f s
  | .rngb sl f => Sys2Proof.Machine.execRngb sl f s
  | .kclr sl f => Sys2Proof.Machine.execKclr sl f s
  | .kacc sl f => Sys2Proof.Machine.execKacc sl f s
  | .kmac sl f => Sys2Proof.Machine.execKmac sl f s
  | .krd sl f => Sys2Proof.Machine.execKrd sl f s
  | .kscan sl f => Sys2Proof.Machine.execKscan sl f s
  | .exp2 f => Sys2Proof.Machine.execExp2 f s
  | .exp f => Sys2Proof.Machine.execExp f s
  | .log2 f => Sys2Proof.Machine.execLog2 f s
  | .rcp f => Sys2Proof.Machine.execRcp f s
  | .rsqrt f => Sys2Proof.Machine.execRsqrt f s
  | .sqrt f => Sys2Proof.Machine.execSqrt f s
  | .sin f => Sys2Proof.Machine.execSin f s
  | .cos f => Sys2Proof.Machine.execCos f s
  | .tanh f => Sys2Proof.Machine.execTanh f s
  | .sigm f => Sys2Proof.Machine.execSigm f s
  | .gelu f => Sys2Proof.Machine.execGelu f s
  | .mprg f => Sys2Proof.Machine.execMprg f s
  | .rstat f => Sys2Proof.Machine.execRstat f s
  | .smax f => Sys2Proof.Machine.execSmax f s
  | .smaxM f => Sys2Proof.Machine.execSmaxM f s
  | .rnormRms f => Sys2Proof.Machine.execRnormRms f s
  | .rnormLayer f => Sys2Proof.Machine.execRnormLayer f s
  | .tswap f => Sys2Proof.Machine.execTswap f s
  | .ldst f => Sys2Proof.Machine.execLdst f s
  | .mswap f => Sys2Proof.Machine.execMswap f s
  | .mcfgAcc f => Sys2Proof.Machine.execMcfgAcc f s
  | .mcfgFwd f => Sys2Proof.Machine.execMcfgFwd f s
  | .mloop f => Sys2Proof.Machine.execMloop f s
  | .madv f => Sys2Proof.Machine.execMadv f s
  | .mzero f => Sys2Proof.Machine.execMzero f s
  | .mcvt f => Sys2Proof.Machine.execMcvt f s
  | .ld f => Sys2Proof.Machine.execLd f s
  | .st f => Sys2Proof.Machine.execSt f s
  | .ldu f => Sys2Proof.Machine.execLdu f s
  | .stu f => Sys2Proof.Machine.execStu f s
  | .pf f => Sys2Proof.Machine.execPf f s
  | .ldb f => Sys2Proof.Machine.execLdb f s
  | .stb f => Sys2Proof.Machine.execStb f s
  | .aadd f => Sys2Proof.Machine.execAadd f s
  | .afadd f => Sys2Proof.Machine.execAfadd f s
  | .amin f => Sys2Proof.Machine.execAmin f s
  | .amax f => Sys2Proof.Machine.execAmax f s
  | .aand f => Sys2Proof.Machine.execAand f s
  | .aor f => Sys2Proof.Machine.execAor f s
  | .axor f => Sys2Proof.Machine.execAxor f s
  | .axchg f => Sys2Proof.Machine.execAxchg f s
  | .acas f => Sys2Proof.Machine.execAcas f s
  | .copy f => Sys2Proof.Machine.execCopy f s
  | .copyr f => Sys2Proof.Machine.execCopyr f s
  | .gath f => Sys2Proof.Machine.execGath f s
  | .resv f => Sys2Proof.Machine.execResv f s
  | .rels f => Sys2Proof.Machine.execRels f s
  | .tbld f => Sys2Proof.Machine.execTbld f s
  | .put f => Sys2Proof.Machine.execPut f s
  | .get f => Sys2Proof.Machine.execGet f s
  | .signalSet f => Sys2Proof.Machine.execSignalSet f s
  | .signalAdd f => Sys2Proof.Machine.execSignalAdd f s
  | .launch f => Sys2Proof.Machine.execLaunch f s
  | .hld f => Sys2Proof.Machine.execHld f s
  | .hst f => Sys2Proof.Machine.execHst f s
  | .hmov f => Sys2Proof.Machine.execHmov f s
  | .hbind f => Sys2Proof.Machine.execHbind f s
  | .hperm f => Sys2Proof.Machine.execHperm f s
  | .hbun f => Sys2Proof.Machine.execHbun f s
  | .hthr f => Sys2Proof.Machine.execHthr f s
  | .hclrc f => Sys2Proof.Machine.execHclrc f s
  | .hrand f => Sys2Proof.Machine.execHrand f s
  | .hdist f => Sys2Proof.Machine.execHdist f s
  | .htie f => Sys2Proof.Machine.execHtie f s
  | .hnear f => Sys2Proof.Machine.execHnear f s
  | .csyncRelease cl p node group => Sys2Proof.Machine.execCsyncRelease cl p node group s
  | .shrinkRelease c w => Sys2Proof.Machine.execShrinkRelease c w s
  | .tlbInvalidatePage p addr who => Sys2Proof.Machine.execTlbInvalidatePage p addr who s
  | .tlbInvalidatePartition p who => Sys2Proof.Machine.execTlbInvalidatePartition p who s
  | .migratePage p addr who => Sys2Proof.Machine.execMigratePage p addr who s
  | .setDirtyLog p addr who => Sys2Proof.Machine.execSetDirtyLog p addr who s
  | .ldstComplete c op => Sys2Proof.Machine.execLdstComplete c op s
  | .tileOpStart c => Sys2Proof.Machine.execTileOpStart c s
  | .tileOpComplete c rows => Sys2Proof.Machine.execTileOpComplete c rows s
  | .loadComplete c op lanes => Sys2Proof.Machine.execLoadComplete c op lanes s
  | .storeComplete c op lanes => Sys2Proof.Machine.execStoreComplete c op lanes s
  | .copyBegin c op => Sys2Proof.Machine.execCopyBegin c op s
  | .copyBytesLand c op n => Sys2Proof.Machine.execCopyBytesLand c op n s
  | .copyComplete c op => Sys2Proof.Machine.execCopyComplete c op s
  | .hAsyncComplete c op => Sys2Proof.Machine.execHAsyncComplete c op s
  | .exposedWriteLand c => Sys2Proof.Machine.execExposedWriteLand c s
  | .strokeFetch c w => Sys2Proof.Machine.execStrokeFetch c w s
  | .quillRefill c w slot index => Sys2Proof.Machine.execQuillRefill c w slot index s
  | .strokeGrant c => Sys2Proof.Machine.execStrokeGrant c s
  | .userTrapDelivery c w => Sys2Proof.Machine.execUserTrapDelivery c w s
  | .warpRetire c w => Sys2Proof.Machine.execWarpRetire c w s
  | .blockRetire c bid => Sys2Proof.Machine.execBlockRetire c bid s
  | .launchComplete l => Sys2Proof.Machine.execLaunchComplete l s
  | .blockClaim l d n => Sys2Proof.Machine.execBlockClaim l d n s
  | .blockPlace l d cores => Sys2Proof.Machine.execBlockPlace l d cores s
  | .ageingInterval l => Sys2Proof.Machine.execAgeingInterval l s
  | .warpAgeing c w => Sys2Proof.Machine.execWarpAgeing c w s
  | .victimResume p entry => Sys2Proof.Machine.execVictimResume p entry s
  | .pageWalk c w va => Sys2Proof.Machine.execPageWalk c w va s
  | .replay c w => Sys2Proof.Machine.execReplay c w s
  | .blockRestore p entry c => Sys2Proof.Machine.execBlockRestore p entry c s
  | .thermalMigration c bid target => Sys2Proof.Machine.execThermalMigration c bid target s
  | .errorRetry site lasting => Sys2Proof.Machine.execErrorRetry site lasting s
  | .coreLoss c => Sys2Proof.Machine.execCoreLoss c s
  | .leaseExpiry cl melt => Sys2Proof.Machine.execLeaseExpiry cl melt s
  | .divisorSwitch cl => Sys2Proof.Machine.execDivisorSwitch cl s
  | .partitionEnable p control => Sys2Proof.Machine.execPartitionEnable p control s
  | .partitionReset p => Sys2Proof.Machine.execPartitionReset p s
  | .qosChange p record => Sys2Proof.Machine.execQosChange p record s
  | .ctxctlSuspend p => Sys2Proof.Machine.execCtxctlSuspend p s
  | .ctxctlResume p => Sys2Proof.Machine.execCtxctlResume p s
  | .hostRegisterWrite offset size value => Sys2Proof.Machine.execHostRegisterWrite offset size value s
  | .sqTail p supervisor size value => Sys2Proof.Machine.execSqTail p supervisor size value s
  | .nop p => Sys2Proof.Machine.execNop p s
  | .load p => Sys2Proof.Machine.execLoad p s
  | .kick p => Sys2Proof.Machine.execKick p s
  | .unload p => Sys2Proof.Machine.execUnload p s
  | .ringEntryInvalid p => Sys2Proof.Machine.execRingEntryInvalid p s
  | .msixUnmask p vector => Sys2Proof.Machine.execMsixUnmask p vector s
  | .remoteAccessArrival p a => Sys2Proof.Machine.execRemoteAccessArrival p a s
  | .hostBridgeAccess p a => Sys2Proof.Machine.execHostBridgeAccess p a s
  | .remoteRequestTimeout c op => Sys2Proof.Machine.execRemoteRequestTimeout c op s
  | .traceSample c => Sys2Proof.Machine.execTraceSample c s
  | .breakpointHit c n => Sys2Proof.Machine.execBreakpointHit c n s
  | .migrationLineCopy m => Sys2Proof.Machine.execMigrationLineCopy m s
  | .freezeDone p => Sys2Proof.Machine.execFreezeDone p s
  | .partitionResetDone p => Sys2Proof.Machine.execPartitionResetDone p s
  | .ctxctlDone p => Sys2Proof.Machine.execCtxctlDone p s
  | .retentionEntry cl => Sys2Proof.Machine.execRetentionEntry cl s
  | .retentionExit cl parityOk => Sys2Proof.Machine.execRetentionExit cl parityOk s
  | .lullEntry cell melt => Sys2Proof.Machine.execLullEntry cell melt s
  | .lullExit cell melt => Sys2Proof.Machine.execLullExit cell melt s
  | .thermalThrottle c sensor => Sys2Proof.Machine.execThermalThrottle c sensor s
  | .clusterTrip c sensor => Sys2Proof.Machine.execClusterTrip c sensor s
  | .tripEnd cl sensors => Sys2Proof.Machine.execTripEnd cl sensors s
  | .currentLevelUpdate watts cores => Sys2Proof.Machine.execCurrentLevelUpdate watts cores s
  | .droopStretch cl => Sys2Proof.Machine.execDroopStretch cl s
  | .ballastStart drop => Sys2Proof.Machine.execBallastStart drop s
  | .l2Eviction cl sector => Sys2Proof.Machine.execL2Eviction cl sector s
  | .linkCrcRetry link lane lasting => Sys2Proof.Machine.execLinkCrcRetry link lane lasting s
  | .firmwareUpdate image => Sys2Proof.Machine.execFirmwareUpdate image s
  | .packageBoot inputs => Sys2Proof.Machine.execPackageBoot inputs s
  | .negotiateAlgorithms ecdsaP256 sha256 => Sys2Proof.Machine.execNegotiateAlgorithms ecdsaP256 sha256 s
  | .getCertificate slot offset length => Sys2Proof.Machine.execGetCertificate slot offset length s
  | .challenge slot nonce => Sys2Proof.Machine.execChallenge slot nonce s
  | .getMeasurements index => Sys2Proof.Machine.execGetMeasurements index s
  | .traceFillWrite p fill => Sys2Proof.Machine.execTraceFillWrite p fill s
  | .breakpointResume p n => Sys2Proof.Machine.execBreakpointResume p n s
  | .throttleRelease c sensor => Sys2Proof.Machine.execThrottleRelease c sensor s
  | .hostCompletionTimeout n => Sys2Proof.Machine.execHostCompletionTimeout n s
  | .ballastRampEnd => Sys2Proof.Machine.execBallastRampEnd s
  | .firmwareTakeover => Sys2Proof.Machine.execFirmwareTakeover s
  | .firmwareFailover => Sys2Proof.Machine.execFirmwareFailover s
  | .getVersion => Sys2Proof.Machine.execGetVersion s
  | .getCapabilities => Sys2Proof.Machine.execGetCapabilities s
  | .getDigests => Sys2Proof.Machine.execGetDigests s

end Sys2Proof.Machine
end

