-- ==== Sys2Proof/Machine/Schedule.lean ====
section
/-! DEFINITION. What happens next: the bundle in issue, the agenda, and, where neither names an event, the model's own
choice among what the hardware could do now (DESIGN CHOICE, log 8): each list below names events in the order in which they
are tried, and the first that changes the package is taken; else the core that is furthest behind runs a core bundle. -/

namespace Sys2Proof.Machine

/-- The first slot, from number n on, that the bundle in issue has an operation in. -/
def Cword.nextSlot (w : Cword) (n : Nat) : Option (Fin 9 × Slot) :=
  (List.finRange 9).findSome? fun i =>
    if i.val < n || isIdle w.slots[i] then none else (Slot.ofNum i.val).map fun sl => (i, sl)

/-- The bundle in issue goes on by one operation, or ends, and its core bundle with it (R24, R25, R129). -/
def State.runIssue (s : State) (ix : Issue) : Out :=
  match ix.word.nextSlot ix.slot with
  | none => .next ((s.commit ix).coreBundle ix.core s.cores[ix.core].standings)
  | some (i, sl) =>
    match decode sl ix.word.slots[i] with
    | .error _ => .fault .illFormedField
    | .ok x => exec x { s with issue := some { ix with slot := i.val + 1 } }

/-- What a partition has to do. -/
def State.partEvents (s : State) (p : PartId) : List Instr :=
  let q := s.parts[p]
  (if q.freeze.isSome then [.freezeDone p] else []) ++ (if q.ctxStatus == 1 then [.ctxctlDone p] else []) ++
    (if q.resetting then [.partitionResetDone p] else []) ++
    (match s.ringEntry p with
      | none => []
      | some (e, _) =>
        if !sqValid e then [.ringEntryInvalid p]
        else match sqCmd e with | 0 => [.nop p] | 1 => [.load p] | 2 => [.kick p] | _ => [.unload p]) ++
    q.saved.map fun x => .victimResume p x.entry

/-- The claim, then the placement, of a co-resident launch: as one plan of all its blocks has it (R22). -/
def State.residentEvents (s : State) (l : Launch) : List Instr :=
  match s.placeAll l with
  | none => []
  | some (_, pairs) =>
    let rest := pairs.drop l.next
    match rest with
    | (_, c) :: _ =>
      let here := (rest.takeWhile fun y => dieOf y.2 == dieOf c).length
      let n := min 16 here
      [.blockClaim l.lid (dieOf c) (if ndCosched l.node then (if n < 16 then 8 else 16) else n)]
    | [] => (pairs.take 1).map fun y => .blockPlace l.lid (dieOf y.2) (pairs.map fun z => z.2)

/-- The claim, or the placement, of a launch's next blocks on a die (R20, R392). -/
def State.launchEvents (s : State) (l : Launch) (d : DieId) : List Instr :=
  if !s.placeable l d then []
  else if l.claims[d] = [] then [.blockClaim l.lid d (if ndCosched l.node then 8 else 1)]
  else
    match s.unitPlan l [d] (l.unitOn d) with
    | some pairs => [.blockPlace l.lid d (pairs.map fun y => y.2)]
    | none => []

/-- What the launches and the dispatchers have to do. -/
def State.dispatchEvents (s : State) : List Instr :=
  s.launches.flatMap fun l =>
    (if l.finished then [.launchComplete l.lid] else []) ++
      (if l.queued && l.level == 7 then [.blockPlace l.lid 0 []] else []) ++
      (if l.queued && decide (l.since + s.parts[l.part].ageingTicks ≤ s.time) then [.ageingInterval l.lid] else []) ++
      (if !l.queued then []
       else if ndCoresident l.node then s.residentEvents l
       else l.dies.flatMap fun d => s.launchEvents l d)

/-- The groups of blocks that a core's blocks belong to (R40). -/
def State.groupEvents (s : State) (c : CoreId) : List Instr :=
  s.cores[c].blocks.filterMap fun b => b.group.map fun g => .csyncRelease (clusterOf c) b.part b.nodeAddr g

/-- What a warp has to do at its boundary: traps, releases, its retirement, and its next stroke's fetch. -/
def State.warpEvents (s : State) (c : CoreId) (w : WarpId) (x : Warp) : List Instr :=
  [.userTrapDelivery c w, .shrinkRelease c w, .warpRetire c w, .replay c w, .warpAgeing c w] ++
    (match s.cores[c].block? x.bid with
      | none => []
      | some b =>
        if !awaitsFetch x || b.halted then []
        else match s.fetchStroke c x b with
          | (_, .miss sl ix _) => [.quillRefill c w (fin 10 sl) ix]
          | _ => [.strokeFetch c w])

/-- The end of an operation that no route leads to (R489). -/
def State.farEvents (s : State) (c : CoreId) : List Instr :=
  s.cores[c].ops.filterMap fun o => (s.cores[c].block? o.bid).bind fun b =>
    if (s.opFar c b o).any s.noRoute then some (.remoteRequestTimeout c o.id) else none

/-- How an outstanding operation goes on. -/
def opEvents (c : CoreId) (o : AsyncOp) : List Instr :=
  match o.kind with
  | .mem _ => [.loadComplete c o.id (BitVec.allOnes 64), .storeComplete c o.id (BitVec.allOnes 64)]
  | .ldb _ _ _ _ _ => [.loadComplete c o.id (BitVec.allOnes 64)]
  | .stb _ _ _ _ => [.storeComplete c o.id (BitVec.allOnes 64)]
  | .copy t => [.copyBegin c o.id, .copyBytesLand c o.id t.unlanded, .copyComplete c o.id]
  | .tbld _ _ _ => [.copyComplete c o.id]
  | .signal _ _ _ => [.copyComplete c o.id]
  | .launch _ => [.copyComplete c o.id]
  | .ldst _ _ _ _ => [.ldstComplete c o.id]
  | .tile t => [.tileOpStart c, .tileOpComplete c t.rows]
  | _ => [.hAsyncComplete c o.id]

/-- What a core has to do between bundles; its asynchronous operations go on between strokes, and while it is stopped (R486). -/
def State.coreEvents (s : State) (c : CoreId) : List Instr :=
  let k := s.cores[c]
  if k.blocks.isEmpty then []
  else
    (if k.holder.isSome && s.coreRuns c then [] else s.farEvents c ++ k.ops.flatMap (opEvents c)) ++ s.groupEvents c ++ k.warpList.flatMap (fun y => s.warpEvents c y.1 y.2) ++
      k.blocks.map (fun b => .blockRetire c b.bid) ++
      k.blocks.filterMap (fun b => b.moveTo.map fun t => .thermalMigration c b.bid t) ++ (List.finRange 8).map (fun n => .breakpointHit c n) ++
      [.traceSample c, .strokeGrant c]

/-- What a cluster has to do. -/
def State.clusterEvents (s : State) (cl : ClusterId) : List Instr :=
  let k := s.clusters[cl]
  (match k.lease with
    | some l =>
      -- what the holder's core does on the clock of the expiry is decided with it (R477)
      if l.ends ≤ s.cores[l.core].tick ∨ (l.ends ≤ s.time ∧ !s.coreRuns l.core) then
        [.leaseExpiry cl (s.cells[cellOf cl].extractLsb' 0 11)]
      else []
    | none => []) ++ (if k.pendingDiv then [.divisorSwitch cl] else [])

/-- Everything that could happen next, in the order in which it is tried. -/
def State.events (s : State) : List Instr :=
  s.requests.map (fun r => r.op) ++ (List.finRange 16).flatMap s.partEvents ++
    (if s.firmware.pendingSvn.isSome then [.firmwareTakeover] else []) ++ s.dispatchEvents ++
    (match s.ballast with | r :: _ => if r.1 + rampTicks ≤ s.time then [.ballastRampEnd] else [] | [] => []) ++
    (List.finRange 40).flatMap s.clusterEvents ++ allCores.flatMap s.coreEvents ++
    (s.migrations.map fun m => .migrationLineCopy m.mid) ++
    -- what the bridge sends again after a notice (R429)
    (s.heldHost.filter fun h => h.ready).map fun h => .hostBridgeAccess h.part h.access

/-- The first of some events that changes the package, or stops the model. -/
def State.firstEvent (s : State) : List Instr → Option Out
  | [] => none
  | e :: es =>
    match exec e s with
    | .next t => if t = s then s.firstEvent es else some (.next t)
    | o => some o

/-- The core that runs the next core bundle: of those that run, one that is furthest behind. -/
def State.nextCore (s : State) : Option CoreId :=
  (allCores.filter fun c => s.coreRuns c).foldl (fun best c =>
    match best with
    | none => some c
    | some b => if s.cores[c].tick < s.cores[b].tick then some c else some b) none

/-- A core bundle: the holder's next bundle comes to issue, or none issues (R24). -/
def State.runCore (s : State) (c : CoreId) : Out :=
  match s.cores[c].holder with
  | some w => .next (s.beginBundle c w)
  | none => exec (.exposedWriteLand c) s

/-- The model's own choice of what happens next. -/
def State.schedule (s : State) : Out :=
  match s.firstEvent s.events with
  | some o => o
  | none =>
    match s.nextCore with
    | some c => s.runCore c
    | none => .next s

/-- The package with what a first bundle needs, holding one field in slot number n: a supervisor block of one warp on core
0 with every register allotted and every lane present. -/
def State.withBundle (s : State) (n : Nat) (f : Field) : State :=
  let kdesc : BitVec 512 := BitVec.ofNat 512 (128 * 2 ^ 168 + 64 * 2 ^ 176 + 16 * 2 ^ 184 + 4 * 2 ^ 192 + 4 * 2 ^ 200 + 31 * 2 ^ 208 +
    0xFFFFFFFF * 2 ^ 256)
  let word : Cword := { glyph := 0, slots := Vector.ofFn fun i => if i.val = n then f else 0, g := 0 }
  let b : Block :=
    { bid := s.nextId, part := 0, launch := 0, nodeAddr := 0, node := 0, kdesc := kdesc, header := 0, headerOk := true, index := 0
      bx := 0, by_ := 0, bz := 0, warps := [0], wb := ⟨0, Config.wbBytes⟩, ab := ⟨0, Config.abBytes⟩, cb := ⟨0, Config.cbBytes⟩
      halted := false, group := none, broken := false, microWait := none, restoring := false
      level7 := false, moveTo := none }
  let x : Warp :=
    { Warp.blank with
      bid := s.nextId, q := Vector.replicate 8 (BitVec.allOnes 64), dmask := BitVec.allOnes 64, curV := 128, curH := 16
      curC := 4, curK := 4, stroke := [word], decoded := true, state := .midStroke }
  { s.modCore 0 fun k =>
      { k with blocks := [b], warps := upd (Vector.replicate 8 none) 0 fun _ => some x, holder := some 0, stopped := none
               retired := false } with
    nextId := s.nextId + 1
    issue := some { core := 0, warp := 0, word := word, slot := 0, draws := 0, writes := [], ops := [], ends := [] } }

end Sys2Proof.Machine
end

