-- ==== Sys2Proof/Machine/Step.lean ====
section
/-! DEFINITION. The step of the package (log 8), and a bundle placed where the next step looks for one. -/

namespace Sys2Proof.Machine

/-- One step: the bundle in issue goes on; else the agenda's first event; else what the model's own schedule chooses. A package that
its boot keeps in reset does nothing (R499). -/
def step (s : State) : Host.Outcome State Fault Refusal :=
  if s.keptReset then .next s
  else
  match s.issue with
  | some ix => s.runIssue ix
  | none =>
    match s.agenda with
    | i :: rest => exec i { s with agenda := rest }
    | [] => s.schedule

/-- The package with the instruction of an opcode-table word in issue as the first bundle of core 0's warp 0 (log 6). -/
def State.withFetchWord (s : State) (_nbits w : Nat) : State :=
  s.withBundle (w / 2 ^ 48 % 16) (BitVec.ofNat 48 (w % 2 ^ 48))

end Sys2Proof.Machine
end

