-- ==== Sys2Proof/Safety.lean ====
section
/-! DEFINITION. What counts as a safe run: no step stops the model; and the invariant that every step keeps. -/

namespace Sys2Proof.Machine

/-- The next n steps stop at no fault and at no refusal. -/
def State.safeFor : Nat → State → Bool
  | 0, _ => true
  | n + 1, s =>
    match step s with
    | .next t => t.safeFor n
    | _ => false

/-- No run from this state stops the model. -/
def State.Safe (s : State) : Prop := ∀ n, s.safeFor n = true

/-- The typed buffers of a core are in the canonical form of a memory. -/
def Core.memWf (k : Core) : Bool := k.wb.wf && k.ab.wf && k.cb.wf

/-- The homes and every core's typed buffers are in the canonical form of a memory. -/
def State.memWf (s : State) : Bool := s.mem.wf && s.cores.toList.all Core.memWf

end Sys2Proof.Machine
end

