-- ==== Sys2Proof/WellFormed.lean ====
section
/-! DEFINITION. Well-formed instructions: every reserved field zero and every field value legal (R142 to R153). -/

namespace Sys2Proof

/-- Every check of the instruction's row holds (R142). An event has no check and is well formed. -/
def Instr.wellFormed (i : Instr) : Bool := i.checks.all (·.ok)

end Sys2Proof
end

