-- ==== Sys2Proof/Certificates/Slice0/Obligations.lean ====
section
/-! DEFINITION. The statements for the provers. -/

namespace Sys2Proof.Claims

open Sys2Proof.Machine

/-- The opcodes that R144 to R153 define for a slot. -/
def definedOpcodes : Slot → List Nat
  | .k => (List.range' 0x01 10) ++ (List.range' 0x10 6) ++ (List.range' 0x18 6) ++ (List.range' 0x30 4)
  | .s => (List.range' 0x01 26) ++ [0x28]
  | .va => vOpcodes ++ [0x46]
  | .vb => vOpcodes
  | .f => (List.range' 0x01 11) ++ [0x10, 0x18, 0x19, 0x1A, 0x1F]
  | .m => List.range' 0x01 7
  | .l => (List.range' 0x01 5) ++ [0x08, 0x09] ++ (List.range' 0x10 9)
  | .x => (List.range' 0x01 6) ++ (List.range' 0x08 4)
  | .h => (List.range' 0x01 11) ++ [0x10]
where
  vOpcodes : List Nat :=
    (List.range' 0x01 14) ++ (List.range' 0x11 3) ++ (List.range' 0x18 6) ++ (List.range' 0x30 8) ++ (List.range' 0x40 6) ++
      [0x47] ++ (List.range' 0x50 4) ++ (List.range' 0x58 4) ++ (List.range' 0x60 5)

/-- The effects of an S operation: one exposed write of latency 1 to `sD`, which lands only where its condition holds. -/
def scalarOut (c : Ctx) (f : R3) (v : Word) : Effects :=
  { writes := [{ left := 1, live := c.holds f.pred, flags := 0, val := .scalar (fin 64 f.d.toNat) v }] }
/-- The same for a predicate. -/
def predOut (c : Ctx) (f : R3) (v : Bool) : Effects :=
  { writes := [{ left := 1, live := c.holds f.pred, flags := 0, val := .pred (fin 16 f.d.toNat) v }] }
/-- The second source of R183: zext(c) when i is 1, else register b. -/
def secondSource (c : Ctx) (f : R3) : Word :=
  if f.variant.getLsbD 0 then BitVec.ofNat 64 f.c.toNat else c.w.sreg f.b.toNat

/-- The special registers of R53 by index, with their widths. -/
def specialValue (c : Ctx) (i : Nat) : Option Word :=
  let w := c.w
  [(0x00, w.lc.toNat), (0x01, w.vrb.toNat), (0x02, w.shape.toNat), (0x03, w.fpc.toNat), (0x04, w.tie.toNat),
   (0x05, w.rngk.toNat % 2 ^ 64), (0x06, w.rngk.toNat / 2 ^ 64), (0x07, w.rngc.toNat), (0x08, w.wid), (0x09, c.b.bx.toNat),
   (0x0A, c.b.by_.toNat), (0x0B, c.b.bz.toNat), (0x0C, lcidOf c.core), (0x0D, (c.s.gst c.core w).toNat), (0x0E, w.ocnt.toNat),
   (0x0F, w.dmask.toNat), (0x10, w.allocWord.toNat), (0x11, w.sp.toNat), (0x12, w.p.toNat)].lookup i |>.map (BitVec.ofNat 64)
/-- The indices of R53 that SWR may write. -/
def writableSpecials : List Nat := [0, 1, 2, 3, 4, 5, 6, 7, 0x11, 0x12]

/-- A w-bit number read as signed. -/
def signedOf (w x : Nat) : Int := if x < 2 ^ (w - 1) then x else x - 2 ^ w
/-- A number read as unsigned or signed (R198). -/
def numOf (u : Bool) (w x : Nat) : Int := if u then x else signedOf w x
/-- An exact integer result reduced modulo 2^w, or clamped first (R198). -/
def narrow (sat u : Bool) (w : Nat) (x : Int) : Nat :=
  let y := if !sat then x else if u then max 0 (min (2 ^ w - 1) x) else max (-2 ^ (w - 1)) (min (2 ^ (w - 1) - 1) x)
  (y % 2 ^ w).toNat
/-- Element e, w bits wide, of a vector source operand code (R192). -/
def source (c : Ctx) (sl : VSlot) (w : Nat) (code : BitVec 8) (e : Nat) : Nat :=
  let n := code.toNat
  if n < 0x80 then ((c.w.vreg n).extractLsb' (w * e) w).toNat
  else if n < 0xC0 then (c.w.sreg (n - 0x80)).toNat % 2 ^ w
  else if n = 0xC0 then
    (if c.b.usesM then (c.k.fl.extractLsb' ((match sl with | .va => 0 | .vb => 2048) + w * e) w).toNat else 0)
  else if n = 0xC1 then 0
  else if n = 0xC2 then 2 ^ w - 1
  else e * w / 32 % 2 ^ w
/-- Element e of `vN`. -/
def element (c : Ctx) (w n e : Nat) : Nat := ((c.w.vreg n).extractLsb' (w * e) w).toNat

/-- The operation completes with `draws` random steps and exactly one exposed write, of latency `lat` to `vD` as bound at
issue, of the lanes that were active at issue: element e, where its lane is active, is `val e`; a flag of the write is one
that some element of an active lane sets (R192, R194, R195). -/
def VectorResult (s : State) (c : Ctx) (i : Instr) (pred : BitVec 5) (draws lat d w : Nat) (val : Nat → Nat)
    (flags : Nat → Flags) : Prop :=
  ∃ (img : VReg) (fl : Flags),
    exec i s = .next (c.give
      { draws := draws
        writes := [{ left := lat, live := true, flags := fl, val := .vec (c.w.bind d) img (c.active pred) }] }) ∧
    (∀ e, e < 2048 / w → (c.active pred).getLsbD (e * w / 32) = true →
      (img.extractLsb' (w * e) w).toNat = val e % 2 ^ w) ∧
    ∀ b, fl.getLsbD b = true ↔
      ∃ e, e < 2048 / w ∧ (c.active pred).getLsbD (e * w / 32) = true ∧ (flags e).getLsbD b = true
/-- The same for a compare into lane mask `qD`: bit l of an active lane is the condition of the lane's lowest elements. -/
def MaskResult (s : State) (c : Ctx) (i : Instr) (pred : BitVec 5) (lat d : Nat) (cond : Nat → Bool)
    (flags : Nat → Flags) : Prop :=
  ∃ (m : Mask) (fl : Flags),
    exec i s = .next (c.give
      { writes := [{ left := lat, live := true, flags := fl, val := .laneMask (fin 8 d) m (c.active pred) }] }) ∧
    (∀ l, l < 64 → (c.active pred).getLsbD l = true → m.getLsbD l = cond l) ∧
    ∀ b, fl.getLsbD b = true ↔ ∃ l, l < 64 ∧ (c.active pred).getLsbD l = true ∧ (flags l).getLsbD b = true
/-- No flag. -/
def noFlag : Nat → Flags := fun _ => 0
/-- The value of an encoding of a floating format under the flush of R81. -/
def valueOf (c : Ctx) (k : Fmt) (code : Nat) : FVal := k.decode c.w.ftz code
/-- A floating result formed under R80 to R83 in the issue's mode, with the flags of forming it and of the operation. -/
def formed (c : Ctx) (k : Fmt) (r : FVal × Flags) : Nat × Flags :=
  let o := k.ofVal c.w.mode.plain 0 c.w.ftz r.1
  (o.1, r.2 ||| o.2)
/-- A shape fault or another precise fault of the operation's bundle. -/
def faultOut (s : State) (c : Ctx) (cause : Nat) (detail : Word) : Out :=
  .next (s.takeFault c.core c.wid cause detail (some c.ix.word.glyph))

/-- The 16 random bits of element j of lane l at the first step that an operation of the bundle draws (R101, R102). -/
def randomBits (c : Ctx) (l j : Nat) : Nat :=
  ((mix c.w.rngk (c.w.rngc + BitVec.ofNat 64 c.ix.draws) l).extractLsb' (16 * (j % 4)) 16).toNat
/-- As `VectorResult`, for the `regs` registers from `vD`: each is one exposed write of the same latency (R194). -/
def GroupResult (s : State) (c : Ctx) (i : Instr) (pred : BitVec 5) (draws lat d w regs : Nat) (val : Nat → Nat → Nat)
    (flags : Nat → Nat → Flags) : Prop :=
  ∃ (img : Nat → VReg) (fl : Nat → Flags),
    exec i s = .next (c.give
      { draws := draws
        writes := (List.range regs).map fun g =>
          { left := lat, live := true, flags := fl g, val := .vec (c.w.bind (d + g)) (img g) (c.active pred) } }) ∧
    ∀ g, g < regs →
      (∀ e, e < 2048 / w → (c.active pred).getLsbD (e * w / 32) = true →
        ((img g).extractLsb' (w * e) w).toNat = val g e % 2 ^ w) ∧
      ∀ b, (fl g).getLsbD b = true ↔
        ∃ e, e < 2048 / w ∧ (c.active pred).getLsbD (e * w / 32) = true ∧ (flags g e).getLsbD b = true
/-- The active elements, at width w, of the row of the view that element e stands in, of rows of `cols` (R56). -/
def rowOf (act : Mask) (w cols e : Nat) : List Nat :=
  (List.range (2048 / w)).filter fun i => decide (i / cols = e / cols) && act.getLsbD (i * w / 32)
/-- A binary32 word read by the F unit: a subnormal is zero of its sign (R103). -/
def fSource (x : Nat) : FVal := Fmt.b32.decode true x
/-- An element-wise function of F: latency 10, the canonical NaN for a NaN with `nv` for a signalling one (R80, R104, R105),
and otherwise what `ok` says of the source's value, the result and its flags. -/
def FunctionResult (s : State) (c : Ctx) (i : Instr) (f : FR) (ok : FVal → Nat → Flags → Prop) : Prop :=
  ∃ (val : Nat → Nat) (flags : Nat → Flags), VectorResult s c i f.pred 0 10 f.d.toNat 32 val flags ∧
    ∀ l, l < 64 →
      let x := fSource (element c 32 f.a.toNat l)
      (x.isNan = true → val l = 0x7FC00000 ∧ flags l = if x.isSnan then flNv else 0) ∧
      (x.isNan = false → ok x (val l) (flags l))
/-- m * 2^e as a value. -/
def real (neg : Bool) (m : Nat) (e : Int) : FVal := .fin neg m e
/-- What a finite value is worth; 0 for the others. -/
def worth : FVal → ℚ
  | .fin neg m e => (if neg then -1 else 1) * (m : ℚ) * 2 ^ e
  | _ => 0
/-- A finite value of a sign and a worth. -/
def Finite (v : FVal) (neg : Bool) (x : ℚ) : Prop := ∃ m e, v = .fin neg m e ∧ worth v = x
/-- The numbers of p significant bits; with a least exponent `lo`, none finer than the spacing below 2^lo (R82, R89). -/
def OnGrid (p : Nat) (lo : Option Int) (z : ℚ) : Prop :=
  ∃ m q : Int, m.natAbs ≤ 2 ^ p ∧ (∀ l, lo = some l → l + 1 - p ≤ q) ∧ z = (m : ℚ) * 2 ^ q
/-- y is x rounded to them under a mode (R82), with the random bits r under stochastic rounding (R84): of two equally near the one
that is an even multiple of what lies between them. -/
def RoundedTo (p : Nat) (lo : Option Int) (mode : Mode) (r : Nat) (x y : ℚ) : Prop :=
  let on := OnGrid p lo
  on y ∧ (on x → y = x) ∧ match mode with
  | .nearest => ∀ z, on z → z = y ∨ |x - y| < |x - z| ∨ (|x - y| = |x - z| ∧ ∃ i : Int, y = 2 * i * (z - y))
  | .zero => |y| ≤ |x| ∧ 0 ≤ x * y ∧ ∀ z, on z → |z| ≤ |x| → |z| ≤ |y|
  | .up => x ≤ y ∧ ∀ z, on z → x ≤ z → y ≤ z
  | .down => y ≤ x ∧ ∀ z, on z → z ≤ x → z ≤ y
  | .stochastic => 0 ≤ x * y ∧ ∃ a b, 0 ≤ a ∧ a ≤ |x| ∧ |x| ≤ b ∧ on a ∧ on b ∧ (∀ z, on z → z ≤ a ∨ b ≤ z) ∧
      (a < b → |y| = if (r : Int) < ⌊(|x| - a) / (b - a) * 2 ^ 16⌋ then b else a)
/-- Significant bits, least exponent and the exponent above the largest of a wide format (R79). -/
def wideShape : Fmt → Nat × Int × Int
  | .b32 => (24, -126, 128) | .b16 => (11, -14, 16) | _ => (8, -126, 128)
/-- Whether an overflow is infinite under a mode (R83). -/
def overInf (mode : Mode) (neg : Bool) : Bool :=
  match mode with
  | .nearest => true | .stochastic => true | .zero => false | .up => !neg | .down => neg
/-- The word and flags that a wide format gives a number x that is not 0 (R81 to R83): it overflows when x, rounded with an
unbounded exponent, is above the largest finite value, and is tiny when that lies below the least normal. -/
def WideResult (k : Fmt) (mode : Mode) (r : Nat) (ftz : Bool) (x : ℚ) (o : Nat × Flags) : Prop :=
  let (p, lo, hi) := wideShape k
  let neg : Bool := decide (x < 0)
  let half := 2 ^ (8 * k.bytes - 1)
  let sign := if neg then half else 0
  ∃ y z, RoundedTo p (some lo) mode r x y ∧ RoundedTo p none mode r x z ∧
    if (2 ^ p - 1 : ℚ) * 2 ^ (hi - p) < |z| then
      o = (sign + (half - 2 ^ (p - 1)) - (if overInf mode neg then 0 else 1), flOf ||| flNx)
    else if ftz = true ∧ |z| < 2 ^ lo then o = (sign, flUf ||| flNx)
    else Finite (k.decode false o.1) neg y ∧ o.2 = if y = x then 0 else if |z| < 2 ^ lo then flNx ||| flUf else flNx
/-- The code and flags that a P3109 format of precision p gives a number x that is not 0 (R89). -/
def SmallResult (signed finite : Bool) (p : Nat) (mode : Mode) (r : Nat) (sat : Bool) (x : ℚ) (o : Nat × Flags) : Prop :=
  let k := Fmt.p8 signed finite p
  let lo : Int := 1 - 2 ^ ((if signed then 7 else 8) - p)
  let neg : Bool := decide (x < 0)
  let top := (if signed then 0x7F else 0xFF) - (if signed && finite then 0 else if signed || finite then 1 else 2)
  let minus := if neg then 0x80 else 0
  let nan := if signed then 0x80 else 0xFF
  ∃ y z, RoundedTo p (some lo) mode r x y ∧ RoundedTo p none mode r x z ∧
    let base : Flags := if y = x then 0 else if |z| < 2 ^ lo then flNx ||| flUf else flNx
    if y = 0 then o = (0, base)
    else if neg = true ∧ signed = false then o = (if sat then 0 else nan, base ||| flNv)
    else if worth (k.decode false top) < |y| then
      o = (if sat || !overInf mode neg then minus + top else if finite then nan else minus + top + 1, base ||| flOf ||| flNx)
    else Finite (k.decode false o.1) neg y ∧ o.2 = base
/-- The code and flags that INT8 (signed) or UINT8 gives a number below 2^63 (R85). -/
def IntegerResult (signed : Bool) (mode : Mode) (r : Nat) (x : ℚ) (o : Nat × Flags) : Prop :=
  ∃ y : Int, RoundedTo 64 (some 63) mode r x y ∧
    let z := if signed then max (-128) (min 127 y) else max 0 (min 255 y)
    o = ((z % 256).toNat, (if (y : ℚ) = x then 0 else flNx) ||| if z = y then 0 else flNv)
/-- A binary32 word of the F unit for a number: rounded to nearest even, a zero of its sign below 2^-126, an infinity beyond the
largest (R103, R282). -/
def FunctionWord (x : ℚ) (w : Nat) : Prop :=
  ∃ y, RoundedTo 24 (some (-126)) .nearest 0 x y ∧
    if |y| < 2 ^ (-126 : Int) then w % 2 ^ 31 = 0 ∧ w < 2 ^ 32 ∧ (x ≠ 0 → (w = 2 ^ 31 ↔ x < 0))
    else if 2 ^ (128 : Int) ≤ |y| then w = if x < 0 then 0xFF800000 else 0x7F800000
    else Finite (Fmt.b32.decode false w) (decide (x < 0)) y
/-- A word differs by at most n units from a real number, in the last place of that number's binary32 exponent, where this is
within the normal range (R104). -/
def WithinUlps (n : Nat) (w : Nat) (x : ℝ) : Prop :=
  ∀ k : Int, -125 ≤ k → k ≤ 126 → 2 ^ k ≤ |x| → |x| < 2 ^ (k + 1) →
    ∃ neg y, Finite (Fmt.b32.decode false w) neg y ∧ |(y : ℝ) - x| ≤ n * 2 ^ (k - 23)
/-- +0 or -0, and an infinity, as words. -/
def zeroWord (neg : Bool) : Nat := if neg then 0x80000000 else 0
def infWord (neg : Bool) : Nat := if neg then 0xFF800000 else 0x7F800000

/-- The package after the end of a bundle of context `c` whose slots gave the end effect `e` and nothing else. -/
def endOf (s : State) (c : Ctx) (e : EndEffect) : State :=
  let ix := { c.ix with draws := 0, writes := [], ops := [], ends := [e] }
  State.commit { s with issue := some ix } ix
/-- A bundle that ends its stroke. -/
def lastBundle (c : Ctx) : Prop := c.w.stroke.length ≤ c.w.pos + 1
/-- `vrb` at the end of a bundle: it falls by 1 modulo 32 where bit 4 of g, rot, is set (R111). -/
def turned (c : Ctx) (n : Nat) : BitVec 5 := BitVec.ofNat 5 (if c.ix.word.g.getLsbD 4 then n + 31 else n)
/-- A warp after a bundle: after the last of its stroke at a boundary, its next stroke at `next_glyph`, else at the next (R23, R27). -/
def afterBundle (c : Ctx) : Warp :=
  let y := { c.w with vrb := turned c c.w.vrb.toNat }
  if c.w.stroke.length ≤ c.w.pos + 1 then { y with pc := y.next, stroke := [], pos := 0, decoded := false, state := .boundary }
  else { y with pos := c.w.pos + 1, state := .midStroke }
/-- The warp that the core and the slot of a bundle name holds a lease. -/
def leaseOf (c : Ctx) (l : Lease) : Prop := l.core = c.core ∧ l.warp = c.wid ∧ l.bid = c.w.bid

/-- The first of a list of checks that fails, with its cause and detail (R129, R263). -/
def firstFault : List (Bool × Nat × Word) → Option (Nat × Word)
  | [] => none
  | (ok, cause, detail) :: rest => if ok then firstFault rest else some (cause, detail)
/-- The operation takes the fault of its first failing check and completes with its effects when none fails. -/
def CheckedResult (s : State) (c : Ctx) (i : Instr) (checks : List (Bool × Nat × Word)) (e : Effects) : Prop :=
  match firstFault checks with
  | some (cause, detail) => exec i s = faultOut s c cause detail
  | none => exec i s = .next (c.give e)
/-- An asynchronous operation started on a path and in a class (R28), with its field as encoded. -/
def started (cls : OpClass) (path : Path) (field : Field) (k : OpKind) (ends : List EndEffect) : Effects :=
  { ops := [{ cls := cls, path := path, field := field, kind := k }], ends := ends }
/-- The field that encodes an operation. -/
def fieldOf (i : Instr) : Field := ((encode i).map (·.2)).getD 0
/-- A number as an address or a detail. -/
def at_ (n : Nat) : Word := BitVec.ofNat 64 n

/-- The checks of R235 and R237 on a copy's tensor record r at AB window address a: its alignment and window, then the shape
checks 1 to 4; `ok1` is what the form adds to the first. -/
def copyShape (c : Ctx) (a : Nat) (r : BitVec 512) (fromB toB : Word) (ok1 : Bool) : List (Bool × Nat × Word) :=
  let e := 2 ^ bitsN r 1 0
  let stride (i : Nat) : Bool := shExt r i ≤ 1 || shFromS r i % e == 0 && shToS r i % e == 0
  let spans (st : Nat → Nat) : Bool :=
    let span1 := shExt r 0 * e
    let span2 := if 1 < shExt r 1 then shExt r 1 * st 1 else span1
    let span3 := if 1 < shExt r 2 then shExt r 2 * st 2 else span2
    (shExt r 1 ≤ 1 || span1 ≤ st 1) && (shExt r 2 ≤ 1 || span2 ≤ st 2) && (shExt r 3 ≤ 1 || span3 ≤ st 3)
  [(a % 64 == 0, 0x0800, at_ a), (decide (a + 64 ≤ c.b.ab.size), 0x0A00, at_ a),
   (bitsN r 15 6 == 0 && ok1, 0x0C01, at_ a), (fromB.toNat % e == 0 && toB.toNat % e == 0, 0x0C02, at_ a),
   (stride 1 && stride 2 && stride 3, 0x0C03, at_ a), (spans (shFromS r) && spans (shToS r), 0x0C04, at_ a)]
/-- The checks that a copy of some extent makes after those: its signal, its barrier, a gather's index list and the windows of its
local sides (R238, R241, R242, R248). -/
def copyRest (c : Ctx) (r : BitVec 512) (fromB toB : Word) (gath hasBarrier : Bool) (barrier list : Nat) (signal : Word) :
    List (Bool × Nat × Word) :=
  let e := 2 ^ bitsN r 1 0
  let last (st : Nat → Nat) : Nat :=
    (shExt r 0 - 1) * e + (shExt r 1 - 1) * st 1 + (shExt r 2 - 1) * st 2 + (shExt r 3 - 1) * st 3 + e
  let inWindow (space : Nat) (base : Word) (n : Nat) : Bool := match space with
    | 1 => base.toNat + n ≤ c.b.wb.size | 2 => base.toNat + n ≤ c.b.ab.size | 3 => base.toNat + n ≤ c.b.cb.size | _ => true
  [(signal.toNat % 8 == 0, 0x0800, signal), (!hasBarrier || decide (barrier + 16 ≤ c.b.ab.size), 0x0A00, at_ barrier),
   (barrier % 16 == 0, 0x0E00, at_ barrier), (list % 4 == 0, 0x0800, at_ list),
   (!gath || decide (list + 4 * shExt r 1 ≤ c.b.ab.size), 0x0A00, at_ list),
   (gath || inWindow (bitsN r 3 2) fromB (last (shFromS r)), 0x0A00, fromB),
   (inWindow (bitsN r 5 4) toB (last (shToS r)), 0x0A00, toB)]
/-- How many elements a record names. -/
def copyCount (r : BitVec 512) : Nat := shExt r 0 * shExt r 1 * shExt r 2 * shExt r 3

/-- An element of a range as the matrix engine reads it: its code's value times the scale of its block, NaN under scale 0xFF
(R92, R94). -/
def matElement (k : Fmt) (ftz : Bool) (scale : Option Nat) (code : Nat) : FVal :=
  match scale, k.decode ftz code with
  | none, v => v
  | some e, .fin n m x => if e = 0xFF then .nan false else .fin n m (x + e - 127)
  | some e, v => if e = 0xFF then .nan false else v
/-- A slice of pairs comes to a binary32 word, with `nv` for a NaN that it makes and `of` (R95, R96). -/
def SliceSum (ftz : Bool) (ps : List (FVal × FVal)) (o : Nat × Flags) : Prop :=
  let source : Prop := ∃ p ∈ ps, p.1.isNan = true ∨ p.2.isNan = true
  let infinite (neg : Bool) : Prop := ∃ p ∈ ps, (p.1.isInf = true ∨ p.2.isInf = true) ∧ (p.1.isNeg ^^ p.2.isNeg) = neg
  let made : Prop := (infinite true ∧ infinite false) ∨
    ∃ p ∈ ps, (p.1.isInf = true ∧ p.2.isZero = true) ∨ (p.1.isZero = true ∧ p.2.isInf = true)
  let sum : ℚ := (ps.map fun p => worth p.1 * worth p.2).sum
  (source → o = (0x7FC00000, 0)) ∧ (¬source → made → o = (0x7FC00000, flNv)) ∧
  (¬source → ¬made → ∀ neg, infinite neg → o = (infWord neg, 0)) ∧
  (¬source → ¬made → (∀ neg, ¬infinite neg) → (sum = 0 → o = (0, 0)) ∧
    (sum ≠ 0 → ∃ fl, WideResult .b32 .nearest 0 ftz sum (o.1, fl) ∧ o.2 = fl &&& flOf))
/-- What column n of the plane makes of the activation row at AB window address x under a configuration (R95, R253 to R255): an
INT32 sum modulo 2^32, or a slice sum. -/
def RowSum (cf : BitVec 160) (ftz : Bool) (plane : Plane) (ab : Memory) (window x : Nat) (ka kw : Fmt) (n : Nat)
    (o : Nat × Flags) : Prop :=
  let e := ka.bytes
  let count := 64 / e
  let code (k : Nat) : Nat := ab.num (window + x + k * e) e
  let weight (k : Nat) : Nat := natOfBytes ((List.range e).map fun i => plane.data.extractLsb' (8 * (64 * n + k * e + i)) 8)
  let int (k : Fmt) (code : Nat) : Int := if k = .i8 then signedOf 8 code else code
  let aScale (k : Nat) : Option Nat := if cf.getLsbD 12 = false then none else
    some (ab.get (window + bitsN cf 82 63 + ((x - bitsN cf 42 23) / e + k) / (8 * 2 ^ bitsN cf 14 13))).toNat
  let wScale (k : Nat) : Option Nat := if cf.getLsbD 1 = false then none else
    some (plane.scales.extractLsb' (8 * ((n * count + k) / (8 * 2 ^ bitsN cf 3 2))) 8).toNat
  if ka.isInt = true then
    o = ((((List.range count).map fun k => int ka (code k) * int kw (weight k)).sum % 2 ^ 32).toNat, 0)
  else SliceSum ftz ((List.range count).map fun k => (matElement ka ftz (aScale k) (code k), matElement kw ftz (wScale k) (weight k))) o

/-- Replacing one element of a vector. -/
def put {α : Type} {n : Nat} (v : Vector α n) (i : Fin n) (x : α) : Vector α n := v.set i.val x i.isLt
/-- The warp of slot w of core c in the package s is x, of the block b, which is not being restored. -/
def Stands (s : State) (c : CoreId) (w : WarpId) (x : Warp) (b : Block) : Prop :=
  s.warp? c w = some x ∧ s.cores[c].block? x.bid = some b ∧ b.restoring = false

/-- The byte at a physical address as a partition's accesses see it through a cluster's slice: the slice's copy where it is
the partition's own and holds the byte, the marked byte of another partition's copy (which is written back first, R309), or the
home's. -/
def seen (s : State) (cl : ClusterId) (p : PartId) (pa : Nat) : Byte :=
  match s.clusters[cl].sector? (pa / 64) with
  | none => s.mem.get pa
  | some x =>
    if (if x.part = p then x.valid else x.marked).getLsbD (pa % 64) then x.data.extractLsb' (8 * (pa % 64)) 8
    else s.mem.get pa
/-- An n-byte number seen so. -/
def seenNum (s : State) (cl : ClusterId) (p : PartId) (pa n : Nat) : Nat :=
  natOfBytes ((List.range n).map fun i => seen s cl p (pa + i))
/-- The byte at a physical address as its home has it once the slice has written back what it has marked. -/
def homeByte (s : State) (cl : ClusterId) (pa : Nat) : Byte :=
  match s.clusters[cl].sector? (pa / 64) with
  | none => s.mem.get pa
  | some x => if x.marked.getLsbD (pa % 64) then x.data.extractLsb' (8 * (pa % 64)) 8 else s.mem.get pa
/-- No page migrates, none has moved and no sector is poisoned: no home refuses and no read is poisoned. -/
def Calm (s : State) : Prop :=
  s.migrations = [] ∧ s.movedFrames = [] ∧ s.poisonSectors = [] ∧ s.mem.wf = true ∧ s.devWaits = false
/-- Nothing is cached in any slice either, and the partition logs no page: homes hold every byte. -/
def Quiet (s : State) (p : PartId) : Prop :=
  Calm s ∧ (∀ cl : ClusterId, s.clusters[cl].l2 = []) ∧ s.parts[p].dirty = none
/-- The operation is the core's only one, of this warp, and nothing holds it back. -/
def Alone (s : State) (c : CoreId) (w : WarpId) (x : Warp) (b : Block) (o : AsyncOp) : Prop :=
  Stands s c w x b ∧ s.cores[c].ops = [o] ∧ o.warp = w ∧ o.bid = x.bid ∧ o.waits = [] ∧ o.fault = none ∧ x.fences = [] ∧
    s.parts[b.part].messages = []
/-- A level-one TLB entry of the warp's block serves an address, and its page was written before (R412). -/
def Served (s : State) (c : CoreId) (x : Warp) (b : Block) (va : Word) (e : TlbEntry) : Prop :=
  va.toNat < 2 ^ 52 ∧ e.dirty = true ∧
    s.cores[c].tlb.find? (fun e => e.owner == x.bid && e.part == b.part && e.vpage == va.toNat / 2 ^ 19) = some e
/-- The new value of an integer atomic of w bits: the old value, the operand and, for ACAS, the swap value (R231). -/
def atomicRule (op : AtomicOp) (signed : Bool) (w old v swap : Nat) : Option Nat :=
  match op with
  | .add => some ((old + v) % 2 ^ w)
  | .min => some (if numOf (!signed) w v < numOf (!signed) w old then v else old)
  | .max => some (if numOf (!signed) w old < numOf (!signed) w v then v else old)
  | .and => some (old &&& v)
  | .or => some (old ||| v)
  | .xor => some (old ^^^ v)
  | .xchg => some v
  | .cas => some (if old = v then swap else old)
  | .fadd => none
/-- A device access of a partition reaches a physical address: its page is mapped with what the access needs, with the
accessed bit, and for a write the dirty bit, already set (R409, R410, R508). -/
def Mapped (s : State) (p : PartId) (va : Word) (need : Need) (pa : Nat) : Prop :=
  ∃ e a big, s.walk s.parts[p].ptRoot va = .leaf e a big ∧ permits e need = true ∧ e.getLsbD 6 = true ∧
    (need.w = true → e.getLsbD 7 = true) ∧ pa = s.leafBase e + va.toNat % (if big then 2 ^ 30 else 2 ^ 19)
/-- The memory with some bytes written at an address: every other byte is as it was. -/
def Wrote (m m' : Memory) (pa : Nat) (bs : List Byte) : Prop :=
  ∀ q, m'.get q = if pa ≤ q ∧ q < pa + bs.length then bs.getD (q - pa) 0 else m.get q
/-- The bytes of a number, lowest first (R4). -/
def leBytes (n x : Nat) : List Byte := (List.range n).map fun i => BitVec.ofNat 8 (x / 2 ^ (8 * i))

/-- The n-byte number at an offset of a list of bytes. -/
def numAt (bs : List Byte) (off n : Nat) : Nat := natOfBytes ((bs.drop off).take n)
/-- Where section i of a context image lies, and its length (R452). -/
def sectionAt (img : List Byte) (i : Nat) : Nat := numAt img (0x40 + 8 * i) 4
def sectionLen (img : List Byte) (i : Nat) : Nat := numAt img (0x44 + 8 * i) 4
/-- Where the state of the image's warp j lies: each takes 4,096 bytes and its vector registers (R453, R454). -/
def warpAt (img : List Byte) : Nat → Nat
  | 0 => sectionAt img 0
  | j + 1 => warpAt img j + 0x1000 + 256 * (numAt img (warpAt img j + 0x18) 8 % 2 ^ 13)
/-- A field of the allotment of warp j (R63, R454), and what the warps before it hold of it. -/
def allotOf (img : List Byte) (lo n j : Nat) : Nat := numAt img (warpAt img j + 0x18) 8 / 2 ^ lo % 2 ^ n
def allotBefore (img : List Byte) (lo n j : Nat) : Nat := ((List.range j).map (allotOf img lo n)).sum
/-- Where entry i of the replay buffer at an offset lies: a head of 16 bytes and its value, padded to 16 (R453, R455). -/
def entryAt (img : List Byte) (buffer : Nat) : Nat → Nat
  | 0 => buffer + 16
  | i + 1 => entryAt img buffer i + 16 + (numAt img (entryAt img buffer i + 4) 4 + 15) / 16 * 16
/-- Where the replay buffer of warp j lies. -/
def bufferAt (img : List Byte) : Nat → Nat
  | 0 => sectionAt img 1
  | j + 1 => entryAt img (bufferAt img j) (numAt img (bufferAt img j) 4)
/-- The section of a buffer's window and the word of the header that gives its units (R452, R453). -/
def windowSection : Buf → Nat × Nat
  | .wb => (10, 0x30) | .ab => (11, 0x32) | .cb => (12, 0x34)
/-- An image of a partition's block in the form of R452 to R455, whose needs one core meets (R17). -/
def SoundImage (img : List Byte) (p : PartId) : Prop :=
  let n := numAt img 0x0D 1
  let total (lo n' : Nat) : Nat := allotBefore img lo n' n
  numAt img 0 4 = 0x58434A47 ∧ numAt img 4 2 = 1 ∧ numAt img 0x0C 1 = p.val ∧ 1 ≤ n ∧ n ≤ 8 ∧
  (∀ i, i < 13 → sectionAt img i + sectionLen img i ≤ img.length) ∧ warpAt img n ≤ sectionAt img 0 + sectionLen img 0 ∧
  bufferAt img n ≤ sectionAt img 1 + sectionLen img 1 ∧
  (∀ j, j < n → allotOf img 0 13 j ≤ 128 ∧ allotOf img 13 5 j ≤ 16 ∧ allotOf img 18 3 j ≤ 4 ∧ allotOf img 21 3 j ≤ 4 ∧
    ∀ i, i < numAt img (bufferAt img j) 4 → let e := entryAt img (bufferAt img j) i
      1 ≤ numAt img e 1 ∧ numAt img e 1 ≤ 9 ∧ (numAt img e 1 = 2 → numAt img (e + 2) 2 < 24) ∧
        numAt img (e + 4) 4 = [0, 8, 1, 8, 256, 1024, 1025, 82, 512, 8].getD (numAt img e 1) 0) ∧
  total 0 13 ≤ 512 ∧ total 13 5 ≤ 64 ∧ total 18 3 ≤ 8 ∧
  96 * total 21 3 ≤ sectionLen img 3 ∧ 1024 * total 13 5 ≤ sectionLen img 4 ∧ 8192 * total 18 3 ≤ sectionLen img 5 ∧
  (∀ buf, sectionLen img (windowSection buf).1 = 256 * numAt img (windowSection buf).2 2) ∧
  256 * numAt img 0x30 2 ≤ Config.wbBytes ∧ 256 * numAt img 0x32 2 ≤ Config.abBytes ∧ 256 * numAt img 0x34 2 ≤ Config.cbBytes
/-- A warp holds what an image has of its warp j: its place, its registers and its pending writes (R453 to R455); `halted` tells
whether its block is. -/
def WarpHolds (img : List Byte) (halted : Bool) (j : Nat) (y : Warp) : Prop :=
  let r (a n : Nat) : Nat := numAt img (warpAt img j + a) n
  let section_ (i a n : Nat) : Nat := numAt img (sectionAt img i + a) n
  let code := r 5 1
  y.pc.toNat = r 0 4 ∧ y.wid = r 6 1 ∧ (code = 0 ∨ code = 4 → y.state = .boundary ∧ y.pos = 0) ∧
  (code = 1 → r 4 1 ≠ 0 → y.state = .midStroke ∧ y.pos = r 4 1) ∧ (code = 2 → y.state = .exited) ∧
  (code = 3 → y.pos = r 4 1 ∧ y.state = if halted then .halted else if r 4 1 = 0 then .boundary else .midStroke) ∧
  y.dmask.toNat = r 8 8 ∧ y.loads = r 0x10 8 % 64 ∧ y.stores = r 0x10 8 / 2 ^ 6 % 64 ∧ y.copies = r 0x10 8 / 2 ^ 12 % 64 ∧
  y.tiles = r 0x10 8 / 2 ^ 18 % 64 ∧ y.curV = allotOf img 0 13 j ∧ y.curH = allotOf img 13 5 j ∧ y.curC = allotOf img 18 3 j ∧
  y.curK = allotOf img 21 3 j ∧ y.tokens.toNat = r 0x20 8 ∧ y.lc.toNat = r 0x28 4 ∧ y.vrb.toNat = r 0x30 1 % 32 ∧
  y.shape.toNat = r 0x38 8 % 64 ∧ (r 0x40 8 % 8 ≤ 4 → y.fpc.toNat = r 0x40 8 / 2 ^ 32 * 2 ^ 32 + r 0x40 8 % 2 ^ 10) ∧
  y.tie.toNat = r 0x48 8 % 8 ∧ y.rngk.toNat = r 0x50 16 ∧ y.rngc.toNat = r 0x60 8 ∧ y.p.toNat = r 0x68 2 ∧ y.sp.toNat = r 0x70 1 ∧
  y.epc.toNat = r 0xC8 4 ∧ y.ecause.toNat = r 0xD0 8 ∧ y.einfo.toNat = r 0xD8 8 ∧ y.handler = (r 0xC0 8).testBit 5 ∧
  (∀ i : Fin 8, y.q[i].toNat = r (0x78 + 8 * i.val) 8 ∧ y.resv[i].toNat = r (0x300 + 16 * i.val) 16) ∧
  (∀ i : Fin 64, y.s[i].toNat = r (0x100 + 8 * i.val) 8) ∧
  (∀ i : Fin 128, i.val < y.curV → y.v[i].toNat = r (0x1000 + 256 * i.val) 256) ∧
  (y.dstack.length = min 16 (r 7 1) ∧ ∀ i e, y.dstack.reverse[i]? = some e → let a := 0x380 + 32 * i
    e.rejoin.toNat = r a 4 ∧ e.otherPc.toNat = r (a + 4) 4 ∧ e.saved.toNat = r (a + 8) 8 ∧ e.otherMask.toNat = r (a + 16) 8 ∧
      e.pending = decide (r (a + 24) 1 % 2 = 1)) ∧
  (∀ i : Fin 4, i.val < y.curK → let a := 96 * (allotBefore img 21 3 j + i.val)
    y.ka[i].val.toNat = section_ 3 a 80 ∧ y.ka[i].kind.toNat = section_ 3 (a + 80) 1 % 4) ∧
  (∀ i : Fin 16, i.val < y.curH → y.h[i].toNat = section_ 4 (1024 * (allotBefore img 13 5 j + i.val)) 1024) ∧
  (∀ i : Fin 4, i.val < y.curC → y.c[i].toNat = section_ 5 (8192 * (allotBefore img 18 3 j + i.val)) 8192) ∧
  y.pending.length = numAt img (bufferAt img j) 4 ∧
  ∀ i q, y.pending[i]? = some q → let e := entryAt img (bufferAt img j) i
    let kind := numAt img e 1
    let n := numAt img (e + 2) 2
    let mask := at_ (numAt img (e + 8) 8)
    let v (n : Nat) : Nat := numAt img (e + 16) n
    q.left = numAt img (e + 1) 1 ∧ q.live = (mask != 0) ∧ (kind = 1 → q.val = .scalar (fin 64 n) (at_ (v 8))) ∧
    (kind = 2 → q.val = if n < 16 then .pred (fin 16 n) (decide (v 1 % 2 = 1)) else .stage (fin 8 (n - 16)) (decide (v 1 % 2 = 1))) ∧
    (kind = 3 → q.val = .laneMask (fin 8 n) (at_ (v 8)) mask) ∧
    (kind = 4 → q.val = .vec (fin 128 n) (BitVec.ofNat 2048 (v 256)) mask) ∧
    (kind = 5 → q.val = .hyper (fin 16 n) (BitVec.ofNat 8192 (v 1024))) ∧ (kind = 9 → q.val = .special n (at_ (v 8)))
/-- A block stands on a core with what an image has of it: its warps, its windows byte for byte, the planes, tags, configuration and
`fl` of a block that uses the matrix array, and the F store of one that loads it and waits for no microprogram (R451 to R459). -/
def BlockHolds (img : List Byte) (k : Core) (b : Block) : Prop :=
  let section_ (i a n : Nat) : Nat := numAt img (sectionAt img i + a) n
  b.restoring = true ∧ b.index = numAt img 0x18 4 ∧ b.halted = ((numAt img 7 1).testBit 2 && decide (numAt img 6 1 ≠ 2)) ∧
  b.warps.length = numAt img 0x0D 1 ∧ b.warps.Nodup ∧
  (∀ j w, b.warps[j]? = some w → ∃ y : Warp, k.warps[w] = some y ∧ y.bid = b.bid ∧ WarpHolds img b.halted j y) ∧
  (∀ buf, (b.window buf).size = sectionLen img (windowSection buf).1 ∧ ∀ i, i < (b.window buf).size →
    ((k.buf buf).get ((b.window buf).base + i)).toNat = section_ (windowSection buf).1 i 1) ∧
  (b.usesM = true → 0x4BC0 ≤ sectionLen img 8 → k.config.toNat = section_ 8 0x4808 24 % 2 ^ 160 ∧ k.fl.toNat = section_ 8 0x4820 512 ∧
    k.active.val = section_ 8 0x4804 1 % 2 ∧ ∀ m : Fin 2, k.planes[m].data.toNat = section_ 8 (0x2400 * m.val) 0x2000 ∧
      k.planes[m].scales.toNat = section_ 8 (0x2400 * m.val + 0x2000) 0x400 ∧ k.planes[m].tag.toNat = section_ 8 (0x4800 + 2 * m.val) 2) ∧
  (b.usesFmicro = true → b.microWait = none → 0x6810 ≤ sectionLen img 9 → k.bank.val = section_ 9 0x6800 1 % 2 ∧ ∀ m : Fin 2,
    (∀ i : Fin 40, k.banks[m].programs[i].toNat = section_ 9 (0x3400 * m.val + 128 * i.val) 128) ∧
    ∀ i : Fin 8, k.banks[m].tables[i].toNat = section_ 9 (0x3400 * m.val + 0x1400 + 1024 * i.val) 1024)
/-- A core with no block, in use, to which nothing is closed, and which its partition's cap admits (R17, R69, R373, R393, R445, R446). -/
def Vacant (s : State) (p : PartId) (c : CoreId) : Prop :=
  let k := s.cores[c]
  k.blocks = [] ∧ (∀ w : WarpId, k.warps[w] = none) ∧ k.ops = [] ∧ k.acted = [] ∧ k.retired = false ∧ k.reserved = [] ∧
    s.clusters[clusterOf c].retention = false ∧ (∀ r, k.lastPart = some r → r = p) ∧ (∀ buf, (k.buf buf).wf = true) ∧
    let cap := bitsN s.parts[p].qos 72 64
    ((List.finRange 320).filter fun d : CoreId => s.cores[d].blocks.any fun b => b.part == p).length < (if cap = 0 then 320 else cap)
/-- A warp moved with its block stands as it stood: its place, its registers and its allotment (R454, R465). -/
def SameWarp (x y : Warp) : Prop :=
  y.pc = x.pc ∧ y.wid = x.wid ∧ y.state = x.state ∧ y.pos = x.pos ∧ y.dmask = x.dmask ∧ y.dstack = x.dstack ∧ y.tokens = x.tokens ∧
  y.lc = x.lc ∧ y.vrb = x.vrb ∧ y.shape = x.shape ∧ y.fpc = x.fpc ∧ y.rngk = x.rngk ∧ y.rngc = x.rngc ∧ y.p = x.p ∧ y.sp = x.sp ∧
  y.q = x.q ∧ y.s = x.s ∧ y.resv = x.resv ∧ y.curV = x.curV ∧ y.curH = x.curH ∧ y.curC = x.curC ∧ y.curK = x.curK ∧
  (∀ i : Fin 128, i.val < x.curV → y.v[i] = x.v[i]) ∧ (∀ i : Fin 16, i.val < x.curH → y.h[i] = x.h[i]) ∧
  (∀ i : Fin 4, i.val < x.curC → y.c[i] = x.c[i]) ∧ ∀ i : Fin 4, i.val < x.curK → y.ka[i] = x.ka[i]

/-- The number in n bits of the code, from the bit `start` on, and one bit of it (R119). -/
def codeBits (byte : Nat → Byte) (start n : Nat) : Nat :=
  ((List.range n).map fun i => if (byte ((start + i) / 8)).getLsbD ((start + i) % 8) then 2 ^ i else 0).sum
def codeBit (byte : Nat → Byte) (at_ : Nat) : Bool := (byte (at_ / 8)).getLsbD (at_ % 8)
/-- The holes of a slot table entry, each with its lowest bit and its width, 0 of one that is absent (R118). -/
def holesOf (e : BitVec 64) : (Nat × Nat) × (Nat × Nat) :=
  let width (code : Nat) : Nat := [0, 8, 16, 32].getD code 0
  ((bitsN e 63 58, width (bitsN e 57 56)), (bitsN e 55 50, width (bitsN e 49 48)))
/-- The glyph at an offset of the code is a bundle: its header, the index of each present slot at its width and then the holes' values,
in slot order, hole 0 first; each present slot is the field of its entry with its holes so filled, the others are idle; g is the G
entry that the header names; `last` is its stroke-end flag and `after` the offset behind it (R116, R118 to R120). -/
def GlyphAt (byte : Nat → Byte) (header : BitVec 2048) (entry : Nat → Nat → Option (BitVec 64)) (off : Nat) (cw : Cword)
    (last : Bool) (after : Nat) : Prop :=
  let bit := codeBit byte
  let width (i : Nat) : Nat := bitsN header (8 * (0x1A + i) + 7) (8 * (0x1A + i))
  let here (i : Nat) : Bool := bit (8 * off + 1 + i)
  let before (f : Nat → Nat) (i : Nat) : Nat := (((List.range i).filter here).map f).sum
  ∃ (e : Nat → BitVec 64) (g : BitVec 64),
    let fills (i : Nat) : Nat := (holesOf (e i)).1.2 + (holesOf (e i)).2.2
    let stream := 8 * off + 16
    entry 9 (codeBits byte (8 * off + 10) 6) = some g ∧ cw.g = g.extractLsb' 0 16 ∧ cw.glyph = BitVec.ofNat 32 off ∧
    last = bit (8 * off) ∧ after = off + 2 + (before width 9 + before fills 9 + 7) / 8 ∧
    ∀ i : Fin 9, (here i.val = false → cw.slots[i] = 0) ∧ (here i.val = true →
      entry i.val (codeBits byte (stream + before width i.val) (width i.val)) = some (e i.val) ∧
      ∀ k, k < 48 → cw.slots[i].getLsbD k =
        let (p0, n0) := (holesOf (e i.val)).1
        let (p1, n1) := (holesOf (e i.val)).2
        let values := stream + before width 9 + before fills i.val
        if p0 ≤ k ∧ k < p0 + n0 then bit (values + (k - p0)) else if p1 ≤ k ∧ k < p1 + n1 then bit (values + n0 + (k - p1))
        else (e i.val).getLsbD k)

/-- The operations of a warp's decoded stroke. -/
def strokeOps (x : Warp) : List Instr := (x.stroke.flatMap (·.ops)).map (·.2)
/-- The block raises its line of the cluster's sync line: each of its warps stands at CSYNC or is done, and one stands there (R40). -/
def RaisesLine (k : Core) (b : Block) : Prop :=
  b.group ≠ none ∧ (∀ y ∈ k.blockWarps b.bid, y.2.csync ≠ none ∨ y.2.state = .exited ∨ y.2.state = .retired) ∧
    ∃ y ∈ k.blockWarps b.bid, y.2.csync ≠ none
/-- A warp at its boundary meets what R395 asks of it but for its head wait and the occupancy of F and M: its stroke is decoded, its
boundary drained, nothing holds it or its block (R163, R224, R440, R451, R464), its asynchronous operations fit its counters (R28), no
bank that a copy locks stands in the way of an MADV and no TBLD in that of a TSWAP (R72, R247), nothing that a fence of an earlier
stroke orders before an MADV is outstanding (R171), and CSYNC does not hold the core (R40). -/
def AtRest (k : Core) (x : Warp) (b : Block) : Prop :=
  x.state = .boundary ∧ x.decoded = true ∧ x.pending = [] ∧ x.shrink = none ∧ x.records = [] ∧ x.held = [] ∧ x.withheld = 0 ∧
  x.fetchFault = none ∧ x.csync = none ∧ b.halted = false ∧ b.restoring = false ∧ b.microWait = none ∧ b.moveTo = none ∧
  (x.traps = [] ∨ (x.trapTaken = true ∧ ∀ t ∈ x.traps, t.kind = 1)) ∧
  (∀ cls, x.count cls + ((strokeOps x).filter fun i => asyncClass i == some cls).length ≤ 63) ∧
  (∀ f, .madv f ∈ strokeOps x → (∀ o ∈ k.ops, ∀ u, o.kind = .copy u → u.begun = true → u.locks = []) ∧
    ∀ f ∈ x.fences, f.after.getLsbD 2 = false) ∧
  (∀ f, .tswap f ∈ strokeOps x → ∀ o ∈ k.ops, ∀ bank r data, o.kind ≠ .tbld bank r data) ∧
  ∀ y ∈ k.blocks, ¬RaisesLine k y
/-- F and M are free at each use that the stroke makes of them (R132, R270; of M at any use, log 21). -/
def Unoccupied (k : Core) (x : Warp) : Prop :=
  let loops : Prop := ∃ o ∈ k.ops, ∃ u, o.kind = .tile u ∧ u.kind = .mloop
  let held := (k.ops.filter fun o => match o.kind with | .tile _ => true | _ => false).length
  let adds := ((strokeOps x).filter fun i => match i with | .mloop _ | .mzero _ | .mcvt _ => true | _ => false).length
  (∀ n cw i, x.stroke[n]? = some cw → (Slot.f, i) ∈ cw.ops → k.fBusy ≤ n) ∧
  (∀ f, .mswap f ∈ strokeOps x → ¬loops ∧ ∀ o ∈ k.ops, ∀ r a n bad, o.kind ≠ .ldst r a n bad) ∧
  (∀ f, .madv f ∈ strokeOps x → ¬loops) ∧ (held + adds ≤ 4)
/-- The head wait of a warp's stroke is satisfied: WAIT's four counters stand at or below its allowances, none of WAITT's enabled
tokens is pending, the barrier's phase count differs from BARW's scalar (R30, R35, R37, R167). -/
def HeadOver (k : Core) (x : Warp) (b : Block) : Prop :=
  (∀ f, x.headOp = some (.wait f) →
    x.loads ≤ f.load.toNat ∧ x.stores ≤ f.store.toNat ∧ x.copies ≤ f.copy.toNat ∧ x.tiles ≤ f.tile.toNat) ∧
  (∀ f, x.headOp = some (.waitt f) →
    ∀ i t, (i, t) ∈ [(0, f.t0), (1, f.t1), (2, f.t2), (3, f.t3)] → f.enable.getLsbD i = true → x.tokens.getLsbD t.toNat = false) ∧
  ∀ f, x.headOp = some (.barw f) →
    k.ab.num (b.ab.base + (x.sreg f.addr.toNat).toNat + f.off.toNat + 8) 4 ≠ (x.sreg f.phase.toNat).toNat % 2 ^ 32
/-- What a BARW at the head of a warp's stroke raises: a Pending Read Fault for a pending scalar, the phase's first (log 41), a
Buffer Range Fault, a Barrier Fault, in this order (R167). -/
def barwRaises (x : Warp) (b : Block) : Option (Nat × Word) :=
  match x.headOp with
  | some (.barw f) =>
    let a := (x.sreg f.addr.toNat).toNat + f.off.toNat
    firstFault [(!x.tokens.getLsbD f.phase.toNat, 0x0600, at_ f.phase.toNat), (!x.tokens.getLsbD f.addr.toNat, 0x0600, at_ f.addr.toNat),
      (decide (a + 16 ≤ b.ab.size), 0x0A00, at_ a), (a % 16 == 0, 0x0E00, at_ a)]
  | _ => none

end Sys2Proof.Claims

open Sys2Proof Sys2Proof.Machine Sys2Proof.Claims

/-- Words that the spec writes out, one of each slot family, decode to the operations they stand for: RDCNT, GUST, FENCE,
FREEZE and SYSWR of K; CMP and LI of S; FADD, IADD_IMM, PCVT4 and KRD of VA; EXP2 and SMAX_M of F; LDST, MCFG_FWD and MADV
of M; LD of L; LAUNCH of X; and HBIND of H laid out by R112. -/
def Obligations.SpecExampleWordsDecode : Prop :=
  decode .k 0x1D0100000002 = .ok (.rdcnt { variant := 0, d := 4, a := 0, b := 0, rsv := 0, imm := 2 }) ∧
  decode .k 0x1B0248000000 = .ok (.gust { variant := 0, d := 9, a := 8, b := 0, rsv := 0, imm := 0 }) ∧
  decode .k 0x150000000822 = .ok (.fence { variant := 0, d := 0, a := 0, b := 0, rsv := 0, imm := 0x0822 }) ∧
  decode .k 0x330000000003 = .ok (.freezeSave { variant := 0, d := 0, a := 0, b := 0, rsv := 0, imm := 3 }) ∧
  decode .k 0x310005000041 = .ok (.syswr { variant := 0, d := 0, a := 5, b := 0, rsv := 0, imm := 0x41 }) ∧
  decode .s 0x0FB02081800A = .ok (.cmp { variant := 0xB, pred := 0, d := 0x41, a := 3, b := 0, c := 10 }) ∧
  decode .s 0x280A492AAAB0 = .ok (.li { variant := 0, d := 10, imm := 0x492AAAB0 }) ∧
  decode .va 0x330004008108 = .ok (.ffma .va { variant := 0, pred := 0, d := 8, a := 1, b := 2, c := 8 }) ∧
  decode .va 0x11110506FFFD = .ok (.iaddImm .va { variant := 1, pred := 2, d := 5, a := 6, imm := 0xFFFD }) ∧
  decode .va 0x529028100D80 =
    .ok (.pcvt4 .va { sat := 1, fin := 0, blk := 1, pred := 0, d := 40, a := 8, sc := 3, tgt := 0x0C, src := 0 }) ∧
  decode .va 0x63200A000001 = .ok (.krd .va { variant := 2, pred := 0, d := 0x14, a := 0, b := 0, c := 1 }) ∧
  decode .f 0x010005060000 = .ok (.exp2 { variant := 0, pred := 0, d := 5, a := 3, b := 0, rsv := 0, n := 0 }) ∧
  decode .f 0x191014204800 = .ok (.smaxM { variant := 1, pred := 0, d := 20, a := 16, b := 18, rsv := 0, n := 0 }) ∧
  decode .m 0x010200004000 = .ok (.ldst { variant := 0, ra := 1, sa := 0, sb := 0, rsv := 0, imm := 0x4000 }) ∧
  decode .m 0x03104A2C0000 = .ok (.mcfgFwd { variant := 1, ra := 0, rb := 1, sa := 10, sb := 11, imm := 0 }) ∧
  decode .m 0x05000C000040 = .ok (.madv { variant := 0, ra := 0, rb := 0, sa := 12, sb := 0, imm := 0x40 }) ∧
  decode .l 0x01200C082810 = .ok (.ld { variant := 2, pred := 0, d := 12, a := 4, base := 5, imm := 16 }) ∧
  decode .x 0x0B000E300000 =
    .ok (.launch { variant := 0, pred := 0, tok := 7, sa := 6, sb := 0, sc := 0, ra := 0, rsv := 0 }) ∧
  decode .h 0x040000644000 = .ok (.hbind { variant := 0, pred := 0, s := 0, hd := 3, ha := 2, hb := 2, imm := 0 })

/-- Decoding an encoded well-formed operation gives it back, for every slot operation and every value of its fields. -/
def Obligations.DecodeOfEncodeIsTheOperation : Prop :=
  ∀ (i : Instr) (sl : Slot) (w : Field), i.wellFormed = true → encode i = some (sl, w) → decode sl w = .ok i

/-- A field that decodes is the encoding of what it decodes to, bit for bit, and that operation is well formed: no two
fields of a slot decode to one operation. A field is refused as undefined exactly when the map of R144 to R153 defines no row
of its slot for its opcode; SHAPE stands in VA only. -/
def Obligations.DecodeIsExactlyTheMap : Prop :=
  (∀ (i : Instr) (sl : Slot) (w : Field), decode sl w = .ok i → encode i = some (sl, w) ∧ i.wellFormed = true) ∧
  ∀ (sl : Slot) (w : Field), decode sl w = .error .undefinedOpcode ↔ (opcodeOf w).toNat ∉ definedOpcodes sl

/-- The inverted "true" predicate select is reserved: no field of a slot that carries a predicate decodes with it (every
slot but K and M, and LI of S). -/
def Obligations.InvertedTruePredicateIsRefused : Prop :=
  ∀ (i : Instr) (sl : Slot) (w : Field), decode sl w = .ok i → sl ≠ .k → sl ≠ .m → ¬(sl = .s ∧ opcodeOf w = 0x28) →
    w.extractLsb' 31 5 ≠ 0x10

/-- A step with a bundle in issue runs the next filled slot of it: the slots before it are idle, its field decodes to i, and
the step is exec of i at the state whose bundle has moved past that slot. With no filled slot left the bundle ends and a core
bundle passes. With no bundle in issue a step runs the agenda's first event; with an empty agenda and no event that changes
the package, the core furthest behind comes to its holder's next bundle. A package that its boot keeps in reset does nothing. That one bundle of the
package issues at a time, which event and which core come next, and the idle step of a package kept in reset are the model's own
schedule (log 8, DESIGN CHOICE); the spec fixes what each core's bundles do (R24, R25). -/
def Obligations.StepRunsTheDecodedOperation : Prop :=
  (∀ s : State, s.keptReset = true → step s = .next s) ∧
  (∀ (s : State) (ix : Issue) (n : Fin 9) (sl : Slot) (i : Instr), s.keptReset = false → s.issue = some ix → ix.slot ≤ n.val →
    (∀ m : Fin 9, ix.slot ≤ m.val → m.val < n.val → opcodeOf ix.word.slots[m] = 0) → opcodeOf ix.word.slots[n] ≠ 0 →
    Slot.ofNum n.val = some sl → decode sl ix.word.slots[n] = .ok i →
    step s = exec i { s with issue := some { ix with slot := n.val + 1 } }) ∧
  (∀ (s : State) (ix : Issue), s.keptReset = false → s.issue = some ix →
    (∀ m : Fin 9, ix.slot ≤ m.val → opcodeOf ix.word.slots[m] = 0) →
    step s = .next ((s.commit ix).coreBundle ix.core s.cores[ix.core].standings)) ∧
  (∀ (s : State) (i : Instr) (rest : List Instr), s.keptReset = false → s.issue = none → s.agenda = i :: rest →
    step s = exec i { s with agenda := rest }) ∧
  (∀ (s : State) (c : CoreId) (w : WarpId), s.keptReset = false → s.issue = none → s.agenda = [] → s.firstEvent s.events = none →
    s.nextCore = some c → s.cores[c].holder = some w → step s = .next (s.beginBundle c w))

/-- The sums, products and logic of R184 complete: with a bundle in issue, each makes exactly one exposed write of latency 1
to `sD`, of a + b, a - b, a * b and the high half of a * b (signed, or unsigned with `.u`) on whole numbers reduced modulo
2^64, or of the bitwise AND, OR, XOR and AND NOT; it lands only where the slot's condition holds. -/
def Obligations.ScalarSumsProductsAndLogic : Prop :=
  ∀ (s : State) (c : Ctx) (f : R3), s.ctx? = some c →
    let a := c.w.sreg f.a.toNat
    let b := secondSource c f
    exec (.sAdd f) s = .next (c.give (scalarOut c f (BitVec.ofNat 64 (a.toNat + b.toNat)))) ∧
    exec (.sSub f) s = .next (c.give (scalarOut c f (BitVec.ofInt 64 ((a.toNat : Int) - b.toNat)))) ∧
    exec (.sMul f) s = .next (c.give (scalarOut c f (BitVec.ofNat 64 (a.toNat * b.toNat)))) ∧
    exec (.mulh f) s = .next (c.give (scalarOut c f
      (if f.variant.getLsbD 1 then BitVec.ofNat 64 (a.toNat * b.toNat / 2 ^ 64)
       else BitVec.ofInt 64 (a.toInt * b.toInt / 2 ^ 64)))) ∧
    exec (.sAnd f) s = .next (c.give (scalarOut c f (a &&& b))) ∧
    exec (.sOr f) s = .next (c.give (scalarOut c f (a ||| b))) ∧
    exec (.sXor f) s = .next (c.give (scalarOut c f (a ^^^ b))) ∧
    exec (.andn f) s = .next (c.give (scalarOut c f (a &&& ~~~b)))

/-- The two-source operations of R184, opcodes 0x01 to 0x0E in the order of R145, `.u` for MULH, MIN and MAX alone, complete with one
exposed write to `sD` (of latency 1, as every S result): a + b, a - b, the low half of a * b and its high half (signed, or unsigned
with `.u`), AND, OR, XOR and AND NOT; with n = b[5:0], a * 2^n modulo 2^64; a / 2^n, unsigned; the signed a divided by 2^n and
rounded down; bit i of the rotation is bit (i + 64 - n) mod 64 of a; and the lesser or greater of a and b, signed unless `.u`. -/
def Obligations.ScalarShiftsAndExtremes : Prop :=
  ∀ (s : State) (c : Ctx) (f : R3), s.ctx? = some c →
    let a := c.w.sreg f.a.toNat
    let b := secondSource c f
    let n := b.toNat % 64
    let less (x y : Word) : Prop := if f.variant.getLsbD 1 then x.toNat < y.toNat else x.toInt < y.toInt
    (∀ (i : Instr) (k : Nat) (w : Field), decode .s w = .ok i →
      ((i, k) ∈ [(Instr.sAdd f, 0x01), (.sSub f, 0x02), (.sMul f, 0x03), (.sAnd f, 0x05), (.sOr f, 0x06), (.sXor f, 0x07),
        (.andn f, 0x08), (.sShl f, 0x09), (.sShr f, 0x0A), (.sSar f, 0x0B), (.rotl f, 0x0C)] →
        (opcodeOf w).toNat = k ∧ f.variant.getLsbD 1 = false) ∧
      ((i, k) ∈ [(Instr.mulh f, 0x04), (.sMin f, 0x0D), (.sMax f, 0x0E)] → (opcodeOf w).toNat = k)) ∧
    exec (.sAdd f) s = .next (c.give (scalarOut c f (a + b))) ∧
    exec (.sSub f) s = .next (c.give (scalarOut c f (a - b))) ∧
    exec (.sMul f) s = .next (c.give (scalarOut c f (BitVec.ofNat 64 (a.toNat * b.toNat)))) ∧
    exec (.mulh f) s = .next (c.give (scalarOut c f
      (if f.variant.getLsbD 1 then BitVec.ofNat 64 (a.toNat * b.toNat / 2 ^ 64)
       else BitVec.ofInt 64 (a.toInt * b.toInt / 2 ^ 64)))) ∧
    exec (.sAnd f) s = .next (c.give (scalarOut c f (a &&& b))) ∧
    exec (.sOr f) s = .next (c.give (scalarOut c f (a ||| b))) ∧
    exec (.sXor f) s = .next (c.give (scalarOut c f (a ^^^ b))) ∧
    exec (.andn f) s = .next (c.give (scalarOut c f (a &&& ~~~b))) ∧
    exec (.sShl f) s = .next (c.give (scalarOut c f (BitVec.ofNat 64 (a.toNat * 2 ^ n)))) ∧
    exec (.sShr f) s = .next (c.give (scalarOut c f (BitVec.ofNat 64 (a.toNat / 2 ^ n)))) ∧
    exec (.sSar f) s = .next (c.give (scalarOut c f (BitVec.ofInt 64 (a.toInt / 2 ^ n)))) ∧
    (∃ r : Word, exec (.rotl f) s = .next (c.give (scalarOut c f r)) ∧
      ∀ i, i < 64 → r.getLsbD i = a.getLsbD ((i + 64 - n) % 64)) ∧
    (∃ r : Word, exec (.sMin f) s = .next (c.give (scalarOut c f r)) ∧ (r = a ∨ r = b) ∧ ¬less a r ∧ ¬less b r) ∧
    (∃ r : Word, exec (.sMax f) s = .next (c.give (scalarOut c f r)) ∧ (r = a ∨ r = b) ∧ ¬less r a ∧ ¬less r b)

/-- CMP, PLOG, SEL and LEA complete with one exposed write: the predicate of a cond b (eq, ne, lt, le; signed unless `.u`);
bit 2 pA + pB of the truth table; a where pN is 1, else b; and a + b * 2^sh modulo 2^64. -/
def Obligations.ComparesSelectsAndAddresses : Prop :=
  ∀ (s : State) (c : Ctx) (f : R3), s.ctx? = some c →
    let a := c.w.sreg f.a.toNat
    let b := c.w.sreg f.b.toNat
    let b2 := secondSource c f
    let num (x : Word) : Int := if f.variant.getLsbD 1 then x.toNat else x.toInt
    let cond : Prop := match bitsN f.variant 3 2 with
      | 0 => a = b2
      | 1 => a ≠ b2
      | 2 => num a < num b2
      | _ => num a ≤ num b2
    (∃ v : Bool, exec (.cmp f) s = .next (c.give (predOut c f v)) ∧ (v = true ↔ cond)) ∧
    exec (.plog f) s = .next (c.give (predOut c f
      (f.variant.getLsbD (2 * (c.w.preg f.a.toNat).toNat + (c.w.preg f.b.toNat).toNat)))) ∧
    exec (.sSel f) s = .next (c.give (scalarOut c f (if c.w.preg f.c.toNat then a else b))) ∧
    exec (.lea f) s = .next (c.give (scalarOut c f (BitVec.ofNat 64 (a.toNat + b.toNat * 2 ^ f.c.toNat))))

/-- BFX and BFI of a width of at least 1, CLZ and POPC complete with one exposed write to `sD`. With pos = b[5:0] and n = min(w, 64 - pos): BFX gives bits
pos to pos + n - 1 of a, zero-extended with `.u`, else extended with bit pos + n - 1 of a; BFI gives d with those bits taken
from the low n bits of a; CLZ counts the bits above the highest 1; POPC counts the 1 bits. -/
def Obligations.BitFieldsAndCounts : Prop :=
  ∀ (s : State) (c : Ctx) (f : R3), s.ctx? = some c →
    let a := c.w.sreg f.a.toNat
    let d := c.w.sreg f.d.toNat
    let pos := (c.w.sreg f.b.toNat).toNat % 64
    let n := min f.c.toNat (64 - pos)
    (1 ≤ f.c.toNat → ∃ r : Word, exec (.bfx f) s = .next (c.give (scalarOut c f r)) ∧
      ∀ i, i < 64 → r.getLsbD i =
        if i < n then a.getLsbD (pos + i) else !f.variant.getLsbD 1 && a.getLsbD (pos + n - 1)) ∧
    (1 ≤ f.c.toNat → ∃ r : Word, exec (.bfi f) s = .next (c.give (scalarOut c f r)) ∧
      ∀ i, i < 64 → r.getLsbD i = if pos ≤ i ∧ i < pos + n then a.getLsbD (i - pos) else d.getLsbD i) ∧
    (∃ r : Word, exec (.clz f) s = .next (c.give (scalarOut c f r)) ∧ r.toNat ≤ 64 ∧
      (∀ i, 64 - r.toNat ≤ i → i < 64 → a.getLsbD i = false) ∧ (r.toNat < 64 → a.getLsbD (63 - r.toNat) = true)) ∧
    (∃ r : Word, exec (.popc f) s = .next (c.give (scalarOut c f r)) ∧
      r.toNat = ((List.range 64).filter fun i => a.getLsbD i).length)

/-- MOVV, MOVQ and the three forms of LI complete with one exposed write of latency 1. MOVV gives the 32 bits that the lane
holds of a register, of `fl`, or the lane's number; MOVQ copies 64 bits between a scalar and a lane mask, the whole mask
written; LI zero-extends, LI.s sign-extends, and LI.hi replaces bits [63:32] and keeps bits [31:0]; LI takes no condition. -/
def Obligations.ScalarMovesAndImmediates : Prop :=
  (∀ (s : State) (c : Ctx) (f : R3), s.ctx? = some c →
    (f.a.toNat < 0x80 → exec (.movv f) s = .next (c.give (scalarOut c f
      (BitVec.ofNat 64 ((c.w.vreg f.a.toNat).toNat / 2 ^ (32 * f.c.toNat) % 2 ^ 32))))) ∧
    (f.a = 0xC0 → c.b.usesM → exec (.movv f) s = .next (c.give (scalarOut c f
      (BitVec.ofNat 64 (c.k.fl.toNat % 2 ^ 2048 / 2 ^ (32 * f.c.toNat) % 2 ^ 32))))) ∧
    (f.a = 0xC0 → c.b.usesM = false → exec (.movv f) s = .next (c.give (scalarOut c f 0))) ∧
    (f.a = 0xC3 → exec (.movv f) s = .next (c.give (scalarOut c f (BitVec.ofNat 64 f.c.toNat)))) ∧
    (isS f.d → exec (.movq f) s = .next (c.give (scalarOut c f (c.w.qreg f.a.toNat)))) ∧
    (isQ f.d → exec (.movq f) s = .next (c.give
      { writes := [{ left := 1, live := c.holds f.pred, flags := 0,
                     val := .laneMask (fin 8 f.d.toNat) (c.w.sreg f.a.toNat) (BitVec.allOnes 64) }] }))) ∧
  (∀ (s : State) (c : Ctx) (f : SI), s.ctx? = some c →
    let out (v : Word) : Effects := { writes := [{ left := 1, live := true, flags := 0, val := .scalar (fin 64 f.d.toNat) v }] }
    exec (.li f) s = .next (c.give (out (BitVec.ofNat 64 f.imm.toNat))) ∧
    exec (.liS f) s = .next (c.give (out (BitVec.ofInt 64 f.imm.toInt))) ∧
    exec (.liHi f) s = .next (c.give (out
      (BitVec.ofNat 64 (2 ^ 32 * f.imm.toNat + (c.w.sreg f.d.toNat).toNat % 2 ^ 32)))))

/-- SRD and SWR. Where their condition does not hold they change nothing: SRD's write lands without effect and SWR has none.
Where it holds, SRD makes one exposed write of the special register of R53 that its index names, zero-extended; SWR of an
index that R53 lets it write takes effect at the end of the bundle. An index that the table does not name, and an SWR of a
read-only one, takes a Privilege Fault (cause 0x0500, detail opcode and index); an SWR of an invalid view to `shape` takes a
Shape Fault (0x0C10, detail the present `shape`). -/
def Obligations.SpecialRegisterReadsAndWrites : Prop :=
  ∀ (s : State) (c : Ctx) (f : R3), s.ctx? = some c →
    let i := f.b.toNat
    let v := c.w.sreg f.a.toNat
    let fault (cause : Nat) (detail : Word) : Out :=
      .next (s.takeFault c.core c.wid cause detail (some c.ix.word.glyph))
    (c.holds f.pred = false → exec (.srd f) s = .next (c.give (scalarOut c f 0)) ∧ exec (.swr f) s = .next (c.give {})) ∧
    (c.holds f.pred = true →
      (∀ x, specialValue c i = some x → exec (.srd f) s = .next (c.give (scalarOut c f x))) ∧
      (specialValue c i = none → exec (.srd f) s = fault 0x0500 (BitVec.ofNat 64 (0x19 + 256 * i))) ∧
      (i ∈ writableSpecials → (i = 2 → shapeOk (v &&& 0x3F) = true) →
        exec (.swr f) s = .next (c.give { ends := [.swr i v] })) ∧
      (i ∉ writableSpecials → exec (.swr f) s = fault 0x0500 (BitVec.ofNat 64 (0x1A + 256 * i))) ∧
      (i = 2 → shapeOk (v &&& 0x3F) = false → exec (.swr f) s = fault 0x0C10 c.w.shape))

/-- IADD, ISUB, IMUL, IMIN, IMAX, IABS and IMAD, and the immediate forms of the first three, complete in VA and VB with one
write of latency 2 and no flag. At width w of `shape.esize`, each element of an active lane takes the exact whole number
a + b, a - b, a * b, the lesser, the greater, |a|, or a * b + c, of elements read as signed (as unsigned under `.u` where it
exists), reduced modulo 2^w, or clamped to the range under `.sat`; an immediate is sext(imm16) cut to w bits. -/
def Obligations.IntegerElementArithmetic : Prop :=
  ∀ (s : State) (c : Ctx) (sl : VSlot), s.ctx? = some c →
    let w := c.w.ebits
    (∀ f : R3,
      let sat := f.variant.getLsbD 0
      let u := f.variant.getLsbD 1
      let a (e : Nat) := source c sl w f.a e
      let b (e : Nat) := source c sl w f.b e
      let n (u : Bool) (x : Nat) : Int := numOf u w x
      let result (i : Instr) (val : Nat → Nat) : Prop := VectorResult s c i f.pred 0 2 f.d.toNat w val noFlag
      result (.iadd sl f) (fun e => narrow sat false w (n false (a e) + n false (b e))) ∧
      result (.isub sl f) (fun e => narrow sat false w (n false (a e) - n false (b e))) ∧
      result (.imul sl f) (fun e => narrow sat u w (n u (a e) * n u (b e))) ∧
      result (.imad sl f) (fun e => narrow sat u w (n u (a e) * n u (b e) + n u (element c w f.c.toNat e))) ∧
      result (.imin sl f) (fun e => narrow false u w (min (n u (a e)) (n u (b e)))) ∧
      result (.imax sl f) (fun e => narrow false u w (max (n u (a e)) (n u (b e)))) ∧
      result (.iabs sl f) (fun e => narrow sat false w |n false (a e)|)) ∧
    ∀ f : VI,
      let sat := f.variant.getLsbD 0
      let u := f.variant.getLsbD 1
      let a (e : Nat) := source c sl w f.a e
      let b : Nat := (f.imm.toInt % 2 ^ w).toNat
      let n (u : Bool) (x : Nat) : Int := numOf u w x
      let result (i : Instr) (val : Nat → Nat) : Prop := VectorResult s c i f.pred 0 2 f.d.toNat w val noFlag
      result (.iaddImm sl f) (fun e => narrow sat false w (n false (a e) + n false b)) ∧
      result (.isubImm sl f) (fun e => narrow sat false w (n false (a e) - n false b)) ∧
      result (.imulImm sl f) (fun e => narrow sat u w (n u (a e) * n u b))

/-- AND, OR, XOR, SHL, SHR and SAR of the vector slots, and their immediate forms, complete with one write of latency 2 and
no flag: bit j of an element of an active lane is the AND, OR or XOR of the sources' bits j; with n the unsigned element of
b, SHL gives bit j - n of a where n ≤ j and else 0, SHR bit j + n, or 0 beyond the element, and SAR bit j + n, or the sign
beyond it. An immediate is zext(imm16) cut to w bits. -/
def Obligations.LogicAndShiftElements : Prop :=
  ∀ (s : State) (c : Ctx) (sl : VSlot), s.ctx? = some c →
    let w := c.w.ebits
    let good (i : Instr) (pred : BitVec 5) (d : Nat) (bit : Nat → Nat → Bool) : Prop :=
      ∃ val, VectorResult s c i pred 0 2 d w val noFlag ∧
        ∀ e j, e < 2048 / w → j < w → (val e % 2 ^ w).testBit j = bit e j
    (∀ f : R3,
      let a (e : Nat) := source c sl w f.a e
      let b (e : Nat) := source c sl w f.b e
      let result (i : Instr) (bit : Nat → Nat → Bool) : Prop := good i f.pred f.d.toNat bit
      result (.vAnd sl f) (fun e j => (a e).testBit j && (b e).testBit j) ∧
      result (.vOr sl f) (fun e j => (a e).testBit j || (b e).testBit j) ∧
      result (.vXor sl f) (fun e j => (a e).testBit j ^^ (b e).testBit j) ∧
      result (.vShl sl f) (fun e j => decide (b e ≤ j) && (a e).testBit (j - b e)) ∧
      result (.vShr sl f) (fun e j => decide (j + b e < w) && (a e).testBit (j + b e)) ∧
      result (.vSar sl f) (fun e j => (a e).testBit (min (j + b e) (w - 1)))) ∧
    ∀ f : VI,
      let a (e : Nat) := source c sl w f.a e
      let b : Nat := f.imm.toNat % 2 ^ w
      let result (i : Instr) (bit : Nat → Nat → Bool) : Prop := good i f.pred f.d.toNat bit
      result (.vAndImm sl f) (fun e j => (a e).testBit j && b.testBit j) ∧
      result (.vOrImm sl f) (fun e j => (a e).testBit j || b.testBit j) ∧
      result (.vXorImm sl f) (fun e j => (a e).testBit j ^^ b.testBit j) ∧
      result (.vShlImm sl f) (fun e j => decide (b ≤ j) && (a e).testBit (j - b)) ∧
      result (.vShrImm sl f) (fun e j => decide (j + b < w) && (a e).testBit (j + b)) ∧
      result (.vSarImm sl f) (fun e j => (a e).testBit (min (j + b) (w - 1)))

/-- ICMP (opcode 0x0E, its conditions 0 to 5 and u in variant [37]) and FCMP (0x36, conditions 0 to 6 and fmt in [37:36]) name `q1` to
`q7` in d and complete with one write of latency 2 or 4 to lane mask `qD`: bit l of an active lane is the condition of
the lane's lowest elements of a and b. ICMP compares signed, or unsigned under `.u`, and sets no flag. Under FCMP a NaN makes
`ne` and `uo` true and every other condition false, the zeros are equal, and `nv` is set for a signalling NaN, and for any
NaN under `lt`, `le`, `gt` and `ge`. -/
def Obligations.ComparesIntoLaneMasks : Prop :=
  ∀ (s : State) (c : Ctx) (sl : VSlot) (f : R3), s.ctx? = some c →
    let cond (n : Nat) (eq lt gt : Bool) : Bool := match n with
      | 0 => eq | 1 => !eq | 2 => lt | 3 => lt || eq | 4 => gt | _ => gt || eq
    (∀ w : Field, (decode sl.slot w = .ok (.icmp sl f) →
        (opcodeOf w).toNat = 0x0E ∧ 1 ≤ f.d.toNat ∧ f.d.toNat ≤ 7 ∧ f.c.toNat ≤ 5 ∧ f.variant &&& 0xD = 0) ∧
      (decode sl.slot w = .ok (.fcmp sl f) →
        (opcodeOf w).toNat = 0x36 ∧ 1 ≤ f.d.toNat ∧ f.d.toNat ≤ 7 ∧ f.c.toNat ≤ 6 ∧ f.variant.toNat ≤ 2)) ∧
    (bitsN f.c 2 0 ≤ 5 →
      let w := c.w.ebits
      let x (l : Nat) : Int := numOf (f.variant.getLsbD 1) w (source c sl w f.a (l * (32 / w)))
      let y (l : Nat) : Int := numOf (f.variant.getLsbD 1) w (source c sl w f.b (l * (32 / w)))
      MaskResult s c (.icmp sl f) f.pred 2 f.d.toNat
        (fun l => cond (bitsN f.c 2 0) (decide (x l = y l)) (decide (x l < y l)) (decide (y l < x l))) noFlag) ∧
    (bitsN f.c 2 0 ≤ 6 →
      let k := fmtOf f.variant
      let w := 8 * k.bytes
      let n := bitsN f.c 2 0
      let x (l : Nat) : FVal := valueOf c k (source c sl w f.a (l * (32 / w)))
      let y (l : Nat) : FVal := valueOf c k (source c sl w f.b (l * (32 / w)))
      let nan (l : Nat) : Bool := (x l).isNan || (y l).isNan
      MaskResult s c (.fcmp sl f) f.pred 4 f.d.toNat
        (fun l => if nan l then n == 1 || n == 6
          else n != 6 && cond n (!(x l).lt (y l) && !(y l).lt (x l)) ((x l).lt (y l)) ((y l).lt (x l)))
        (fun l => if (x l).isSnan || (y l).isSnan || (nan l && decide (2 ≤ n ∧ n ≤ 5)) then flNv else 0))

/-- FADD, FSUB, FMUL, FFMA, FMIN, FMAX and FCLASS complete with one write of latency 4. At the width of fmt, each element of
an active lane takes the exact sum, difference, product or a * b + c of its source values, rounded once into fmt with the
issue's mode and flush; FMIN and FMAX take the lesser or greater value, -0 below +0, the other of one NaN, the canonical NaN
of two; FCLASS sets one bit by the class of the encoding and no flag. The flags are those of the active lanes' elements. Of finite
operands the sum and the product are worth exactly their sum and product, a zero sum being +0 but toward -infinity (of like-signed
zeros too: DEDUCED, log 15); a NaN, infinities of both signs in a sum and zero times infinity in a product give NaN; and a number that is not 0
takes a wide format's word by R81 to R83. -/
def Obligations.FloatingElements : Prop :=
  (∀ (s : State) (c : Ctx) (sl : VSlot) (f : R3), s.ctx? = some c →
    let k := fmtOf f.variant
    let w := 8 * k.bytes
    let m := c.w.mode.plain
    let a (e : Nat) := valueOf c k (source c sl w f.a e)
    let b (e : Nat) := valueOf c k (source c sl w f.b e)
    let z (e : Nat) := valueOf c k (element c w f.c.toNat e)
    let result (i : Instr) (r : Nat → Nat × Flags) : Prop :=
      VectorResult s c i f.pred 0 4 f.d.toNat w (fun e => (r e).1) (fun e => (r e).2)
    let nv (x y : FVal) : Flags := if x.isSnan || y.isSnan then flNv else 0
    let below (x y : FVal) : Bool := x.lt y || (x.isZero && y.isZero && x.isNeg && !y.isNeg)
    let pick (x y other : FVal) : FVal := if x.isNan && y.isNan then .nan false else if x.isNan then y else if y.isNan then x else other
    result (.fadd sl f) (fun e => formed c k ((a e).add m (b e))) ∧
    result (.fsub sl f) (fun e => formed c k ((a e).add m (b e).negate)) ∧
    result (.fmul sl f) (fun e => formed c k ((a e).mul (b e))) ∧
    result (.ffma sl f) (fun e =>
      let p := (a e).mul (b e)
      let q := p.1.add m (z e)
      formed c k (q.1, p.2 ||| q.2)) ∧
    result (.fmin sl f) (fun e => formed c k
      (pick (a e) (b e) (if below (a e) (b e) then a e else b e), nv (a e) (b e))) ∧
    result (.fmax sl f) (fun e => formed c k
      (pick (a e) (b e) (if below (a e) (b e) then b e else a e), nv (a e) (b e))) ∧
    ∃ cls : Nat → Nat, result (.fclass sl f) (fun e => (2 ^ cls e, 0)) ∧
      ∀ e, e < 2048 / w → cls e = match k.decode false (source c sl w f.a e) with
        | .inf true => 0
        | .fin true 0 _ => 3
        | .fin false 0 _ => 4
        | .fin true x q => if ltPow x q 1 (1 - k.bias) then 2 else 1
        | .fin false x q => if ltPow x q 1 (1 - k.bias) then 5 else 6
        | .inf false => 7
        | .nan true => 8
        | .nan false => 9) ∧
  (∀ (m : Mode) (x y : FVal),
    let sum := x.add m y
    let product := x.mul y
    let nv : Flags := if x.isSnan || y.isSnan then flNv else 0
    (x.isNan || y.isNan → sum = (.nan false, nv) ∧ product = (.nan false, nv)) ∧
    (∀ u v, x = .inf u → y = .inf v → sum = (if u = v then (.inf u, 0) else (.nan false, flNv)) ∧ product = (.inf (u != v), 0)) ∧
    (∀ u n k e, x = .inf u → y = .fin n k e → sum = (.inf u, 0) ∧ y.add m x = (.inf u, 0) ∧
      product = (if k = 0 then (.nan false, flNv) else (.inf (u != n), 0)) ∧ y.mul x = product) ∧
    ∀ u k e n l g, x = .fin u k e → y = .fin n l g → sum.2 = 0 ∧ product.2 = 0 ∧
      Finite product.1 (u != n) (worth x * worth y) ∧
      Finite sum.1 (if worth x + worth y = 0 then decide (m = .down) else decide (worth x + worth y < 0)) (worth x + worth y)) ∧
  ∀ (k : Fmt) (m : Mode) (ftz neg : Bool) (n : Nat) (e : Int), k = .b32 ∨ k = .b16 ∨ k = .bf16 → m ≠ .stochastic →
    (k.ofVal m 0 ftz (.fin neg 0 e)).2 = 0 ∧ Finite (k.decode false (k.ofVal m 0 ftz (.fin neg 0 e)).1) neg 0 ∧
    (n ≠ 0 → WideResult k m 0 ftz (worth (.fin neg n e)) (k.ofVal m 0 ftz (.fin neg n e)))

/-- SEL, MOV, MOV of an immediate, BCAST and QPOP complete with one write of latency 2 and no flag. Lane l of the result is
lane l of a or, where bit l of `qC` is 0, of b; lane l of a; elements of sext(imm16) cut to w bits; lane c of a, active or
not; and, at every element of lane l, how many bits of `qC` below l are 1. -/
def Obligations.MovesSelectionsAndCounts : Prop :=
  ∀ (s : State) (c : Ctx) (sl : VSlot), s.ctx? = some c →
    let w := c.w.ebits
    (∀ f : R3,
      let lane (code : BitVec 8) (l : Nat) : Nat := ((c.vop sl w code).extractLsb' (32 * l) 32).toNat
      let result (i : Instr) (w : Nat) (val : Nat → Nat) : Prop := VectorResult s c i f.pred 0 2 f.d.toNat w val noFlag
      result (.vSel sl f) 32 (fun l => if (c.w.qreg f.c.toNat).getLsbD l then lane f.a l else lane f.b l) ∧
      result (.mov sl f) 32 (fun l => lane f.a l) ∧
      result (.bcast sl f) 32 (fun _ => lane f.a f.c.toNat) ∧
      result (.qpop sl f) w (fun e => ((List.range (e * w / 32)).filter fun i => (c.w.qreg f.c.toNat).getLsbD i).length)) ∧
    (∀ (code : BitVec 8) (e : Nat), e < 2048 / w → ((c.vop sl w code).extractLsb' (w * e) w).toNat = source c sl w code e) ∧
    ∀ f : VI, ∃ img : VReg,
      VectorResult s c (.movImm sl f) f.pred 0 2 f.d.toNat 32 (fun l => (img.extractLsb' (32 * l) 32).toNat) noFlag ∧
      ∀ e, e < 2048 / w → (img.extractLsb' (w * e) w).toNat = (f.imm.toInt % 2 ^ w).toNat

/-- PERM, ROWSH and TRANS complete with one write of latency 3 and no flag, and read active and inactive lanes alike. With n
elements in r rows of cols: element e is element (b_e mod n) of a; element e + c cols of a, or 0 at or beyond n; element
e - c cols of a, or 0 below 0; and, for e = j r + i, element i cols + j of a. ROWSH with an active lane raises a Shape Fault
(0x0C10, detail `shape`) when c is not below r. SHAPE, when its condition holds, sets `shape` at the end of its bundle to a
view that R55 allows and raises that fault for any other; when it does not hold, it does nothing. -/
def Obligations.RearrangementsAndShape : Prop :=
  ∀ (s : State) (c : Ctx) (sl : VSlot), s.ctx? = some c →
    let w := c.w.ebits
    let n := 2048 / w
    let r := 2 ^ bitsN c.w.shape 5 2
    let cols := n / r
    (∀ f : R3,
      let a (e : Nat) := source c sl w f.a e
      let result (i : Instr) (val : Nat → Nat) : Prop := VectorResult s c i f.pred 0 3 f.d.toNat w val noFlag
      let k := f.c.toNat * cols
      result (.perm sl f) (fun e => a (source c sl w f.b e % n)) ∧
      (f.c.toNat < r ∨ c.active f.pred = 0 → result (.rowshUp sl f) (fun e => if n ≤ e + k then 0 else a (e + k))) ∧
      (f.c.toNat < r ∨ c.active f.pred = 0 → result (.rowshDown sl f) (fun e => if e < k then 0 else a (e - k))) ∧
      (r ≤ f.c.toNat → c.active f.pred ≠ 0 →
        exec (.rowshUp sl f) s = faultOut s c 0x0C10 c.w.shape ∧ exec (.rowshDown sl f) s = faultOut s c 0x0C10 c.w.shape) ∧
      (cols * r = n → result (.trans sl f) (fun e => a (e % r * cols + e / r)))) ∧
    ∀ f : VI,
      let rows := bitsN f.imm 5 2
      let esize := bitsN f.imm 1 0
      let legal : Prop := f.imm.toNat < 64 ∧ ((esize = 0 ∧ rows ≤ 6) ∨ (esize = 1 ∧ rows ≤ 7) ∨ (esize = 2 ∧ rows ≤ 8))
      (c.holds f.pred = false → exec (.shape f) s = .next (c.give {})) ∧
      (c.holds f.pred = true → legal → exec (.shape f) s = .next (c.give { ends := [.setShape (f.imm.extractLsb' 0 6)] })) ∧
      (c.holds f.pred = true → ¬legal → exec (.shape f) s = faultOut s c 0x0C10 c.w.shape)

/-- CVT and PCVT2, PCVT4 and PCVT8 complete with writes of latency 4, drawing one random step under stochastic rounding only.
CVT converts E = 256 / max(ws, wt) elements and writes zero beyond them. PCVTn converts n wide registers against
m = n * (256 / wide bytes) / 256 narrow ones: element j of the group is read from register a + j div es, element j mod es,
and lands in register d + j div ed; the scale byte s of its block divides it when narrowing and multiplies it when widening
by 2^(s - 127), and 0xFF gives the target's NaN with no flag. The activity of the target's lane decides. A number that is not 0
converts by R81 to R84 into a wide format, by R89 into a P3109 one and by R85 into an integer; a zero keeps its sign in a wide format
and is 0 in the others, a NaN gives the format's own with `nv` where it signals, and an infinity its own or, where the target has none,
the largest finite value or a NaN with `nv`; an integer takes 0 for a NaN and its bound for an infinity, with `nv`. (A tie of precision 1 and a
stochastic result below the least normal of a wide format are the model's readings, logs 14 and 19, and are not stated; nor is nx of
an infinity or a NaN converted to an integer, log 40.) -/
def Obligations.ConversionsOfElements : Prop :=
  (∀ (s : State) (c : Ctx) (sl : VSlot) (f : VC) (src tgt : Fmt), s.ctx? = some c →
    Fmt.ofSel f.src.toNat (f.fin == 1) = some src → Fmt.ofSel f.tgt.toNat (f.fin == 1) = some tgt →
    let ws := src.bytes
    let wt := tgt.bytes
    let mode := c.w.mode
    let sat := f.sat == 1
    let stochastic : Bool := decide (mode = .stochastic)
    let draws := if stochastic then 1 else 0
    let rnd (l j : Nat) : Nat := if stochastic then randomBits c l j else 0
    let cvt (j : Nat) : Nat × Flags :=
      if j < 256 / max ws wt then
        tgt.convert mode (rnd (j * (8 * wt) / 32) (j % (4 / wt))) c.w.ftz sat (valueOf c src (element c (8 * ws) f.a.toNat j))
      else (0, 0)
    VectorResult s c (.cvt sl f) f.pred draws 4 f.d.toNat (8 * wt) (fun j => (cvt j).1) (fun j => (cvt j).2) ∧
    ∀ n i, (n = 2 ∧ i = Instr.pcvt2 sl f) ∨ (n = 4 ∧ i = Instr.pcvt4 sl f) ∨ (n = 8 ∧ i = Instr.pcvt8 sl f) →
      tgt.isP8 ≠ src.isP8 → src.isInt = false → tgt.isInt = false →
      let wide := if tgt.isP8 then ws else wt
      let regs := n * (256 / wide) / (256 / wt)
      let one (g i : Nat) : Nat × Flags :=
        let j := g * (256 / wt) + i
        let scale := element c 8 f.sc.toNat (j / (8 * 2 ^ f.blk.toNat))
        let x := valueOf c src (element c (8 * ws) (f.a.toNat + j / (256 / ws)) (j % (256 / ws)))
        if scale = 0xFF then (tgt.nanCode, 0)
        else tgt.convert mode (rnd (i * (8 * wt) / 32) (g * (4 / wt) + i % (4 / wt))) c.w.ftz sat
          (x.scale (if tgt.isP8 then 127 - scale else scale - 127))
      GroupResult s c i f.pred draws 4 f.d.toNat (8 * wt) regs (fun g i => (one g i).1) (fun g i => (one g i).2)) ∧
  ∀ (m : Mode) (r : Nat) (ftz sat neg : Bool) (n : Nat) (e : Int), n ≠ 0 → r < 2 ^ 16 →
    let v : FVal := .fin neg n e
    let x := worth v
    (∀ k, k = .b32 ∨ k = .b16 ∨ k = .bf16 → m ≠ .stochastic ∨ 2 ^ (wideShape k).2.1 ≤ |x| →
      WideResult k m r ftz x (k.convert m r ftz sat v)) ∧
    (∀ signed finite p, 2 ≤ p → p ≤ 7 → SmallResult signed finite p m r sat x ((Fmt.p8 signed finite p).convert m r ftz sat v)) ∧
    (|x| < 2 ^ (63 : Nat) → IntegerResult true m r x (Fmt.i8.convert m r ftz sat v) ∧
      IntegerResult false m r x (Fmt.u8.convert m r ftz sat v)) ∧
    (∀ k : Fmt, k = .b32 ∨ k = .b16 ∨ k = .bf16 →
      let half := 2 ^ (8 * k.bytes - 1)
      let sign := if neg then half else 0
      k.convert m r ftz sat (.fin neg 0 e) = (sign, 0) ∧
      k.convert m r ftz sat (.inf neg) = (sign + (half - 2 ^ ((wideShape k).1 - 1)), 0) ∧
      k.convert m r ftz sat (.nan neg) = (half - 2 ^ ((wideShape k).1 - 2), if neg then flNv else 0)) ∧
    (∀ signed finite p, 1 ≤ p → p ≤ 7 →
      let k := Fmt.p8 signed finite p
      let nan := if signed then 0x80 else 0xFF
      k.convert m r ftz sat (.fin neg 0 e) = (0, 0) ∧ k.convert m r ftz sat (.nan neg) = (nan, if neg then flNv else 0) ∧
      k.convert m r ftz sat (.inf neg) =
        if finite = true ∧ sat = false then (nan, flNv)
        else if signed then ((if neg then 0xFF else 0x7F), 0) else if neg then (0, flNv) else (0xFE, 0)) ∧
    (∀ (k : Fmt) (v' : FVal), k = .i8 ∨ k = .u8 → (v' = .nan neg → ∃ fl : Flags, k.convert m r ftz sat v' = (0, fl) ∧ fl.getLsbD 4 = true) ∧
      (v' = .inf neg → ∃ fl : Flags, fl.getLsbD 4 = true ∧
        k.convert m r ftz sat v' = (if k = .i8 then (if neg then 0x80 else 0x7F) else if neg then 0 else 0xFF, fl)) ∧
      (v' = .fin neg 0 e → k.convert m r ftz sat v' = (0, 0)))

/-- VRED and KSCAN. Where a lane is active and fmt's width is not that of `shape.esize` (for KSCAN, where that is not 32),
they take a Shape Fault (0x0C10, detail `shape`). Otherwise they complete: VRED with latency 4 gives every active element of
a row the exact sum of the row's active elements rounded once, or their greatest value (NaN if any is NaN, -0 below +0);
KSCAN with latency 6 gives active element j of a row the sum of the row's elements 0 to j, exact and rounded once, where
inactive elements count as +0. Their flags are those of the active elements' results. A sum of finite values is worth exactly their
sum, a zero being +0 but toward -infinity (whatever the signs of its zeros, for VRED.add and KSCAN alike: log 15, DEDUCED); any NaN gives NaN, with nv for a signalling one, and infinities of both signs with no NaN give
NaN with nv (DEDUCED, log 40, where NaNs stand beside them; that KSCAN faults only with an active lane is log 40 too). -/
def Obligations.RowReductionsAndPrefixSums : Prop :=
  (∀ (s : State) (c : Ctx) (sl : VSlot) (f : R3), s.ctx? = some c → bitsN c.w.shape 5 2 ≤ 6 + bitsN c.w.shape 1 0 →
    let k := fmtOf f.variant
    let w := 8 * k.bytes
    let act := c.active f.pred
    let rows := 2 ^ bitsN c.w.shape 5 2
    let cols := 2048 / w / rows
    let vals (e : Nat) : List FVal := (rowOf act w cols e).map fun i => valueOf c k (source c sl w f.a i)
    (act = 0 ∨ w = c.w.ebits →
      VectorResult s c (.vredAdd sl f) f.pred 0 4 f.d.toNat w
        (fun e => (formed c k (exactSum c.w.mode.plain (vals e))).1)
        (fun e => (formed c k (exactSum c.w.mode.plain (vals e))).2) ∧
      VectorResult s c (.vredMax sl f) f.pred 0 4 f.d.toNat w
        (fun e => (formed c k (maxVal (vals e))).1) (fun e => (formed c k (maxVal (vals e))).2)) ∧
    (act ≠ 0 → w ≠ c.w.ebits →
      exec (.vredAdd sl f) s = faultOut s c 0x0C10 c.w.shape ∧ exec (.vredMax sl f) s = faultOut s c 0x0C10 c.w.shape) ∧
    (act = 0 ∨ c.w.ebits = 32 →
      let cols := 64 / rows
      let upTo (e : Nat) : List FVal := (List.range (e % cols + 1)).map fun j =>
        let i := e / cols * cols + j
        if act.getLsbD i then valueOf c .b32 (source c sl 32 f.a i) else real false 0 0
      VectorResult s c (.kscan sl f) f.pred 0 6 f.d.toNat 32
        (fun e => (formed c .b32 (exactSum c.w.mode.plain (upTo e))).1)
        (fun e => (formed c .b32 (exactSum c.w.mode.plain (upTo e))).2)) ∧
    (act ≠ 0 → c.w.ebits ≠ 32 → exec (.kscan sl f) s = faultOut s c 0x0C10 c.w.shape)) ∧
  ∀ (m : Mode) (vs : List FVal),
    let sum := exactSum m vs
    let total := (vs.map worth).sum
    let signals := vs.any (·.isSnan)
    let below (x y : FVal) : Prop := x.lt y = true ∨ (x.isZero = true ∧ y.isZero = true ∧ x.isNeg = true ∧ y.isNeg = false)
    (vs.any (·.isNan) = true → sum = (.nan false, if signals then flNv else 0) ∧ maxVal vs = (.nan false, if signals then flNv else 0)) ∧
    (vs.any (·.isNan) = false →
      (.inf false ∈ vs → .inf true ∈ vs → sum = (.nan false, flNv)) ∧
      (∀ neg, .inf neg ∈ vs → .inf (!neg) ∉ vs → sum = (.inf neg, 0)) ∧
      (vs.any (·.isInf) = false → vs ≠ [] → sum.2 = 0 ∧
        Finite sum.1 (if total = 0 then decide (m = .down) else decide (total < 0)) total) ∧
      (vs ≠ [] → (maxVal vs).1 ∈ vs ∧ (maxVal vs).2 = 0 ∧ ∀ v ∈ vs, ¬below (maxVal vs).1 v))

/-- RNGU and RNGB draw one step and complete with latency 3 and no flag: RNGU gives lane l the low 32 bits of its word z of
that step; RNGB gives all ones where bits(z, 63, 40) * 2^-24 is below the lane's binary32 value p, and 0 otherwise and for a
NaN. KCLR, KACC, KMAC and KRD complete too: KCLR clears its accumulator in 2 bundles where some lane is active; KACC and KMAC
add in 2 bundles the exact sum of the active elements, or of their products; KRD draws one step under `.rs` only and gives
every active element, in 6 bundles, the accumulator rounded once in its own mode, with that rounding's flags. An accumulator of
kind 0 is worth its whole number times 2^-320, and an addend on that grid that 640 bits hold is taken exactly (R97). The nv of a sum with
NaNs and infinities of both signs is the model's reading (log 40). -/
def Obligations.RandomNumbersAndAccumulators : Prop :=
  (∀ (s : State) (c : Ctx) (sl : VSlot) (f : R3), s.ctx? = some c →
    let act := c.active f.pred
    let z (l : Nat) : Word := mix c.w.rngk (c.w.rngc + BitVec.ofNat 64 c.ix.draws) l
    let k := fmtOf f.variant
    let w := 8 * k.bytes
    let a (e : Nat) : FVal := valueOf c k (source c sl w f.a e)
    let b (e : Nat) : FVal := valueOf c k (source c sl w f.b e)
    let es := (List.range (2048 / w)).filter fun e => act.getLsbD (e * w / 32)
    let added (i : Instr) (el : Nat → FVal × Flags) : Prop := ∃ fl : Flags,
      let sum := exactSum .nearest (es.map fun e => (el e).1)
      exec i s =
        .next (c.give { writes := [{ left := 2, live := true, flags := fl, val := .kadd (fin 4 f.c.toNat) (Kulisch.ofVal sum.1) act }] }) ∧
      ∀ n, fl.getLsbD n = true ↔ sum.2.getLsbD n = true ∨ ∃ e ∈ es, (el e).2.getLsbD n = true
    VectorResult s c (.rngu sl f) f.pred 1 3 f.d.toNat 32 (fun l => (z l).toNat) noFlag ∧
    VectorResult s c (.rngb sl f) f.pred 1 3 f.d.toNat 32 (fun l =>
      let p := valueOf c .b32 (source c sl 32 f.a l)
      if !p.isNan && (real false (bitsN (z l) 63 40) (-24)).lt p then 0xFFFFFFFF else 0) noFlag ∧
    exec (.kclr sl f) s = .next (c.give { writes := [{ left := 2, live := act != 0, flags := 0, val := .kclr (fin 4 f.c.toNat) act }] }) ∧
    added (.kacc sl f) (fun e => (a e, 0)) ∧
    added (.kmac sl f) (fun e => (a e).mul (b e)) ∧
    let mode : Mode := match f.a.toNat with | 1 => .zero | 2 => .up | 3 => .down | 4 => .stochastic | _ => .nearest
    let r := if mode = .stochastic then randomBits c 0 0 else 0
    let o := k.ofVal mode r c.w.ftz (c.w.kreg f.c.toNat).value
    VectorResult s c (.krd sl f) f.pred (if mode = .stochastic then 1 else 0) 6 f.d.toNat w (fun _ => o.1) (fun _ => o.2)) ∧
  (∀ k : Kulisch, (k.kind = 0 → Finite k.value (decide (k.val.toInt < 0)) (k.val.toInt * 2 ^ (-320 : Int))) ∧
    (k.kind = 1 → k.value = .inf false) ∧ (k.kind = 2 → k.value = .inf true) ∧ (k.kind = 3 → k.value.isNan = true)) ∧
  ∀ (neg : Bool) (m : Nat) (e g : Int), let v : FVal := .fin neg m e
    worth v = (g : ℚ) * 2 ^ (-320 : Int) → -2 ^ 639 ≤ g → g < 2 ^ 639 → Kulisch.ofVal v = ⟨BitVec.ofInt 640 g, 0⟩

/-- The element-wise functions of F and MPRG complete with latency 10. A NaN source gives the canonical NaN, with `nv` for a
signalling one; every fixed result of R104 is delivered exactly with the flags of R105 (+infinity for EXP2 from 128 on and for EXP from
88.75 on among them; that of an EXP below 88.75 whose result passes 2^128 is not stated): `nv` for an invalid source, `dz` for LOG2,
RCP and RSQRT of a zero, none otherwise; and RCP, RSQRT and SQRT of a number otherwise lie within their ulp of R104 (the bounds
of the transcendental functions are not stated here). MPRG runs its program of the active bank on each active lane; a program with an
ill-formed step gives the canonical NaN and sets `nv`, and each step does to finite operands what R283 gives, every real result rounded
once (that table entries are read unflushed, and that RANGE forms r from k before the clamp, are the model's readings, log 40). -/
def Obligations.ElementFunctionsOfF : Prop :=
  (∀ (s : State) (c : Ctx) (f : FR), s.ctx? = some c →
    let below (x : FVal) (m : Nat) (e : Int) (neg : Bool) : Bool := x.lt (real neg m e)
    let minus (x : FVal) : Bool := x.isNeg && !x.isZero
    FunctionResult s c (.exp2 f) f (fun x y fl => fl = 0 ∧ (below x 127 0 true = true → y = 0) ∧
      (below x 128 0 false = false → y = infWord false) ∧
      ∀ n : Int, -126 ≤ n → n ≤ 127 → x.eq (real (decide (n < 0)) n.natAbs 0) = true → y = (n + 127).toNat * 2 ^ 23) ∧
    FunctionResult s c (.exp f) f (fun x y fl => fl = 0 ∧ (below x 88 0 true = true → y = 0) ∧
      (below x 355 (-2) false = false → y = infWord false)) ∧
    FunctionResult s c (.log2 f) f (fun x y fl =>
      (x.isZero = true → y = infWord true ∧ fl = flDz) ∧ (minus x = true → y = 0x7FC00000 ∧ fl = flNv) ∧
      (x = .inf false → y = infWord false ∧ fl = 0) ∧ (x.isZero = false → minus x = false → fl = 0) ∧
      ∀ k : Int, x.eq (real false 1 k) = true →
        (Fmt.b32.decode false y).eq (real (decide (k < 0)) k.natAbs 0) = true) ∧
    FunctionResult s c (.rcp f) f (fun x y fl =>
      (x.isZero = true → y = infWord x.isNeg ∧ fl = flDz) ∧ (x.isZero = false → fl = 0) ∧
      (below x 1 126 false = false ∨ below x.negate 1 126 false = false → y = zeroWord x.isNeg) ∧
      (x.isZero = false → x.isInf = false → WithinUlps 1 y (1 / (worth x : ℝ)))) ∧
    FunctionResult s c (.rsqrt f) f (fun x y fl =>
      (x.isZero = true → y = infWord x.isNeg ∧ fl = flDz) ∧ (minus x = true → y = 0x7FC00000 ∧ fl = flNv) ∧
      (x = .inf false → y = 0 ∧ fl = 0) ∧ (x.isZero = false → minus x = false → fl = 0 ∧
        (x.isInf = false → WithinUlps 1 y (1 / Real.sqrt (worth x))))) ∧
    FunctionResult s c (.sqrt f) f (fun x y fl =>
      (x.isZero = true → y = zeroWord x.isNeg) ∧ (minus x = true → y = 0x7FC00000 ∧ fl = flNv) ∧
      (x = .inf false → y = infWord false) ∧ (minus x = false → fl = 0 ∧ (x.isInf = false → WithinUlps 1 y (Real.sqrt (worth x))))) ∧
    FunctionResult s c (.sin f) f (fun x y fl =>
      let out := x.isInf || (real false 1 16).lt x || x.lt (real true 1 16)
      (out = true → y = 0x7FC00000 ∧ fl = flNv) ∧ (out = false → fl = 0) ∧ (x.isZero = true → y = zeroWord x.isNeg)) ∧
    FunctionResult s c (.cos f) f (fun x y fl =>
      let out := x.isInf || (real false 1 16).lt x || x.lt (real true 1 16)
      (out = true → y = 0x7FC00000 ∧ fl = flNv) ∧ (out = false → fl = 0)) ∧
    FunctionResult s c (.tanh f) f (fun x y fl => fl = 0 ∧ (x.isZero = true → y = zeroWord x.isNeg) ∧
      (below x 9 0 false = false ∨ below x.negate 9 0 false = false → y = zeroWord x.isNeg + 0x3F800000)) ∧
    FunctionResult s c (.sigm f) f (fun x y fl => fl = 0 ∧ (below x 88 0 true = true → y = 0) ∧
      (below x 17 0 false = false → y = 0x3F800000)) ∧
    FunctionResult s c (.gelu f) f (fun x y fl => fl = 0 ∧ (below x.negate 10 0 false = false → y = 0x80000000) ∧
      (below x 10 0 false = false → y = (Fmt.b32.ofVal .nearest 0 true x).1)) ∧
    let steps := microSteps ((c.k.banks[c.k.bank]).program f.n.toNat)
    let run (l : Nat) : Nat × Flags :=
      if steps.any microBad then (0x7FC00000, flNv)
      else microRun c.k.banks[c.k.bank] steps (element c 32 f.a.toNat l) (element c 32 f.b.toNat l)
    VectorResult s c (.mprg f) f.pred 0 10 f.d.toNat 32 (fun l => (run l).1) (fun l => (run l).2)) ∧
  ∀ (t : FBank) (m : Micro) (step : Nat) (nv ny : Bool) (v y : ℚ),
    let field (hi lo : Nat) : Nat := step / 2 ^ lo % 2 ^ (hi + 1 - lo)
    let scaled (x : Nat) : Int := signedOf 8 x
    let z := m.step t step
    let entry (n j : Nat) (x : ℚ) : Prop := ∃ neg, Finite (Fmt.b32.decode false (BitVec.toNat (t.tables[fin 8 n].extractLsb' (32 * j) 32))) neg x
    let clamp (k : Int) : Int := max (-2 ^ 31) (min (2 ^ 31 - 1) k)
    let source (code : Nat) : Prop := Finite (m.src code) nv v
    Finite (m.src 2) ny y →
    (field 31 28 = 1 → source (field 24 23) →
      (field 26 25 < 2 → ∃ k : Int, let x := v * 2 ^ scaled (field 22 15)
        (if field 26 25 = 1 then k = ⌊x⌋ else |x - k| ≤ 1 / 2 ∧ (|x - k| = 1 / 2 → k % 2 = 0)) ∧
        z = { m with k := clamp k, r := z.r } ∧ FunctionWord (x - k) z.r) ∧
      (field 26 25 = 2 → (v = 0 → z = { m with k := 0, r := 0 }) ∧
        ∀ k : Int, 2 ^ k ≤ |v| → |v| < 2 ^ (k + 1) → z = { m with k := clamp k, r := z.r } ∧ FunctionWord (|v| / 2 ^ k) z.r)) ∧
    (field 31 28 = 2 → source (field 23 22) → ∀ x, entry (field 26 24) (max 0 (min 255 ⌊v * 256⌋)).toNat x →
      z = { m with y := z.y } ∧ FunctionWord x z.y) ∧
    (field 31 28 = 3 → source (field 23 22) → ∀ x, entry (field 26 24) (field 21 14) x →
      z = { m with y := z.y } ∧ FunctionWord (y * v + x) z.y) ∧
    (field 31 28 = 4 → (field 26 26 = 0 → z = { m with y := z.y } ∧ FunctionWord (y * 2 ^ (m.k + scaled (field 23 16))) z.y) ∧
      (field 26 26 = 1 → source (field 25 24) → z = { m with y := z.y } ∧ FunctionWord (y * v * 2 ^ scaled (field 23 16)) z.y)) ∧
    (field 31 28 = 5 → ∀ lo hi, entry (field 26 24) (field 23 16) lo → entry (field 26 24) (field 15 8) hi →
      z = { m with y := z.y } ∧ FunctionWord (min (max y lo) hi) z.y) ∧
    (field 31 28 = 6 → source (field 23 22) → field 26 24 ≤ 4 →
      let holds : Prop := (field 26 24 = 0 ∧ v < 0) ∨ (field 26 24 = 1 ∧ v = 0) ∨ (field 26 24 = 4 ∧ 0 < v)
      (¬holds → z = m) ∧
      (holds → ∀ x, (if field 21 21 = 1 then entry (field 18 16) (field 15 8) x else ∃ neg, Finite (m.src (field 20 19)) neg x) →
        z = { m with y := z.y } ∧ FunctionWord x z.y)) ∧
    (field 31 28 = 7 → source (field 26 25) →
      (v = 0 → z = { m with y := infWord nv }) ∧
      ∀ (e f g : Int), 2 ^ e ≤ |v| → |v| < 2 ^ (e + 1) → f = ⌊(|v| / 2 ^ e - 1) * 256⌋ →
        RoundedTo 64 (some 63) .nearest 0 ((1024 / (513 + 2 * f) - 1) * 256) g →
        z = { m with y := z.y } ∧ FunctionWord ((if v < 0 then -1 else 1) * (1 + (min 255 g : Int) / 256) * 2 ^ (-e - 1)) z.y)

/-- RSTAT, SMAX and RNORM. In a view of 32-bit elements with 1 to 32 rows, or with no lane active, they complete with writes of
latency 24: RSTAT gives each active position its row's greatest value in `vD` and the row's exact sum, rounded once, in
`vD + 1`; SMAX gives the first case of R107 that applies, with the row flag of an empty row, and else +0 outside U and where
the source is -infinity, and within 3 ulp of 1 / |U| where U holds one value throughout (the bound where exponentials differ is not
stated here); RNORM gives the canonical NaN where the row holds a NaN or an infinity or the position's scale or bias is NaN, and
z s + bias within 4 ulp for z of R280 where they are numbers, a product or sum with an infinity as R80 has it, with `nv` for a signalling
or infinite source of the row, a signalling scale or bias, and a NaN made of none. In any other view with a lane active each takes a Shape Fault. TSWAP switches the bank at the end of its bundle
where the block declares its programs, and takes a Privilege Fault otherwise. -/
def Obligations.RowFunctionsOfF : Prop :=
  ∀ (s : State) (c : Ctx) (f : FR), s.ctx? = some c →
    let act := c.active f.pred
    let rows := bitsN c.w.shape 5 2
    let good : Bool := c.w.ebits == 32 && decide (rows ≤ 5)
    let cols := 64 / 2 ^ rows
    let word (n l : Nat) : Nat := let x := element c 32 n l; if x / 2 ^ 23 % 256 = 0 then x / 2 ^ 31 * 2 ^ 31 else x
    let a (l : Nat) : FVal := fSource (word f.a.toNat l)
    let row (l : Nat) : List Nat := rowOf act 32 cols l
    let rounded (v : FVal) : Nat := (Fmt.b32.ofVal .nearest 0 true v).1
    let recip (n : Nat) : Nat := (Fmt.b32.encodeWide .nearest 0 true false 1 n 0).1
    let lane (i : Instr) (regs : Nat) (val : Nat → Nat → Nat → Prop) (flag : Nat → Nat → Prop) : Prop :=
      ∃ (img : Nat → VReg) (fl : Flags),
        exec i s = .next (c.give { writes := (List.range regs).map fun g =>
          { left := 24, live := true, flags := if g = 0 then fl else 0, val := .vec (c.w.bind (f.d.toNat + g)) (img g) act } }) ∧
        (∀ g l, g < regs → l < 64 → act.getLsbD l = true → val g l ((img g).extractLsb' (32 * l) 32).toNat) ∧
        ∀ n, fl.getLsbD n = true ↔ ∃ l, l < 64 ∧ act.getLsbD l = true ∧ flag l n
    let soft (masked : Bool) (l y : Nat) : Prop :=
      let u := (row l).filter fun j => !masked || element c 32 f.b.toNat j == 0
      let tops := u.filter fun j => word f.a.toNat j == 0x7F800000
      if u = [] then y = 0
      else if u.any fun j => (a j).isNan then y = 0x7FC00000
      else if tops ≠ [] then y = if l ∈ tops then recip tops.length else 0
      else if u.all fun j => word f.a.toNat j == 0xFF800000 then y = if l ∈ u then recip u.length else 0
      else (l ∉ u → y = 0) ∧ (word f.a.toNat l = 0xFF800000 → y = 0) ∧
        (l ∈ u → (∀ j ∈ u, word f.a.toNat j = word f.a.toNat l) → WithinUlps 3 y (1 / (u.length : ℝ)))
    let softFlag (masked : Bool) (l n : Nat) : Prop :=
      let u := (row l).filter fun j => !masked || element c 32 f.b.toNat j == 0
      if u = [] then l / cols < 32 ∧ n = 32 + l / cols else n = 4 ∧ ∃ j ∈ u, (a j).isSnan = true
    let scale (l : Nat) : FVal := fSource (word f.b.toNat l)
    let bias (l : Nat) : FVal := fSource (word (f.b.toNat + 1) l)
    let wild (l : Nat) : Prop := ∃ j ∈ row l, (a j).isNan = true ∨ (a j).isInf = true
    let x (j : Nat) : ℝ := (worth (a j) : ℝ)
    let mean (l : Nat) : ℝ := ((row l).map x).sum / (row l).length
    let off (layer : Bool) (l j : Nat) : ℝ := if layer then x j - mean l else x j
    let q (layer : Bool) (l : Nat) : ℝ := ((row l).map fun j => off layer l j ^ 2).sum / (row l).length
    let z (layer : Bool) (l : Nat) : ℝ := if q layer l = 0 then 0 else off layer l l / Real.sqrt (q layer l)
    let minus (v : FVal) : ℝ := if v.isNeg then -1 else 1
    let made (layer : Bool) (l : Nat) : Prop := (scale l).isInf = true ∧
      (z layer l = 0 ∨ ((bias l).isInf = true ∧ z layer l * minus (scale l) * minus (bias l) < 0))
    let norm (layer : Bool) (l y : Nat) : Prop :=
      let s := scale l
      let b := bias l
      if wild l ∨ s.isNan = true ∨ b.isNan = true ∨ made layer l then y = 0x7FC00000
      else if s.isInf = true then y = infWord (decide (z layer l * minus s < 0))
      else if b.isInf = true then y = infWord b.isNeg
      else WithinUlps 4 y (z layer l * worth s + worth b)
    let normFlag (layer : Bool) (l n : Nat) : Prop := n = 4 ∧ ∃ j ∈ row l,
      (a j).isSnan = true ∨ (a j).isInf = true ∨ (scale j).isSnan = true ∨ (bias j).isSnan = true ∨
      (¬wild j ∧ (scale j).isNan = false ∧ (bias j).isNan = false ∧ made layer j)
    ((act = 0 ∨ good = true) →
      lane (.rstat f) 2
        (fun g l y => y = rounded (if g = 0 then (maxVal ((row l).map a)).1 else (exactSum .nearest ((row l).map a)).1))
        (fun l n => (maxVal ((row l).map a)).2.getLsbD n = true ∨ (exactSum .nearest ((row l).map a)).2.getLsbD n = true) ∧
      lane (.smax f) 1 (fun _ l y => soft false l y) (softFlag false) ∧
      lane (.smaxM f) 1 (fun _ l y => soft true l y) (softFlag true) ∧
      lane (.rnormRms f) 1 (fun _ l y => norm false l y) (normFlag false) ∧
      lane (.rnormLayer f) 1 (fun _ l y => norm true l y) (normFlag true)) ∧
    (act ≠ 0 → good = false → ∀ i, i = Instr.rstat f ∨ i = .smax f ∨ i = .smaxM f ∨ i = .rnormRms f ∨ i = .rnormLayer f →
      exec i s = faultOut s c 0x0C10 c.w.shape) ∧
    (c.b.usesFmicro = true → exec (.tswap f) s = .next (c.give { ends := [.tswap] })) ∧
    (c.b.usesFmicro = false → exec (.tswap f) s = faultOut s c 0x0500 0x1F)

/-- The transfers of control complete: BRA, RET and LOOP always, BRC where its predicate is 1 (0 for `.n`), BRD where some,
every or no lane of live = dmask AND q0 is in q[cond], give the bundle's end a next_pc of the target, or of bits(s[a], 31, 0);
a branch not taken gives it nothing; CALL also writes next_glyph to `s63` with latency 1. -/
def Obligations.BranchesCallsAndReturns : Prop :=
  ∀ (s : State) (c : Ctx), s.ctx? = some c →
    (∀ f : KB,
      let go : Effects := { ends := [.setPc f.target] }
      let live := c.w.dmask &&& c.w.qreg 0
      let inMask (l : Nat) : Bool := (c.w.qreg f.cond.toNat).getLsbD l
      let p := c.w.preg f.cond.toNat
      exec (.bra f) s = .next (c.give go) ∧
      exec (.brc f) s = .next (c.give (if p then go else {})) ∧
      exec (.brcN f) s = .next (c.give (if p then {} else go)) ∧
      (∀ any : Bool, (any = true ↔ ∃ l, l < 64 ∧ live.getLsbD l = true ∧ inMask l = true) →
        exec (.brdAny f) s = .next (c.give (if any then go else {})) ∧
        exec (.brdNone f) s = .next (c.give (if any then {} else go))) ∧
      (∀ all : Bool, (all = true ↔ ∀ l, l < 64 → live.getLsbD l = true → inMask l = true) →
        exec (.brdAll f) s = .next (c.give (if all then go else {}))) ∧
      exec (.call f) s = .next (c.give
        { writes := [{ left := 1, live := true, flags := 0, val := .scalar 63 (BitVec.ofNat 64 c.w.next.toNat) }]
          ends := [.setPc f.target] }) ∧
      exec (.loop f) s = .next (c.give { ends := [.loop f.target] })) ∧
    ∀ f : KR, exec (.ret f) s =
      .next (c.give { ends := [.setPc (BitVec.ofNat 32 ((c.w.sreg f.a.toNat).toNat % 2 ^ 32))] })

/-- What a control operation does at the end of the last bundle of a stroke. The warp stands at a boundary with the next
stroke at next_glyph but for a transfer's target; vrb falls by 1 modulo 32 where the bundle's g sets rot (R111). LOOP: lc falls by 1
unless it is 0, sp shifts up with sp0 := (old lc was not 0), vrb falls by 1 modulo 32, once beside rot too, and next_pc is the target
when some sp is 1. MARK pushes and takes the path that R31 gives;
JOIN takes the pending path or pops; neither puts a lane into `dmask` that the entry or mask did not have. ERET resumes at
EPC with PSTAT[5] cleared. EXIT of a warp that holds no lease ends it and no lease. Every other register of the warp is unchanged. -/
def Obligations.ControlTakesEffectAtTheBundleEnd : Prop :=
  ∀ (s : State) (c : Ctx), s.ctx? = some c → lastBundle c →
    let w := afterBundle c
    let warpAfter (e : EndEffect) (x : Warp) : Prop := (endOf s c e).warp? c.core c.wid = some x
    (∀ t, warpAfter (.setPc t) { w with pc := t }) ∧
    (∀ t, ∃ sp : BitVec 8, (∀ i, i < 8 → sp.getLsbD i = if i = 0 then c.w.lc != 0 else c.w.sp.getLsbD (i - 1)) ∧
      warpAfter (.loop t)
        { w with lc := BitVec.ofNat 32 (c.w.lc.toNat - 1), sp := sp, vrb := BitVec.ofNat 5 (c.w.vrb.toNat + 31)
                 pc := if sp = 0 then c.w.next else t }) ∧
    (∀ n other rejoin,
      let taken := c.w.dmask &&& c.w.q[n]
      let rest := c.w.dmask &&& ~~~c.w.q[n]
      let entry (pending : Bool) : DivEntry :=
        { rejoin := rejoin, saved := c.w.dmask, otherPc := other, otherMask := rest, pending := pending }
      (taken = 0 → warpAfter (.mark n other rejoin)
        { w with dstack := entry false :: c.w.dstack, dmask := rest, pc := other }) ∧
      (taken ≠ 0 → warpAfter (.mark n other rejoin)
        { w with dstack := entry (rest != 0) :: c.w.dstack, dmask := taken })) ∧
    (∀ top under, c.w.dstack = top :: under →
      (top.pending = true → warpAfter .join
        { w with dstack := { top with pending := false } :: under, dmask := top.otherMask, pc := top.otherPc }) ∧
      (top.pending = false → warpAfter .join { w with dstack := under, dmask := top.saved, pc := top.rejoin })) ∧
    (∀ code, warpAfter (.trap code) { w with traps := c.w.traps ++ [⟨0, code⟩] }) ∧
    warpAfter .eret { w with pc := BitVec.ofNat 32 (c.w.epc.toNat % 2 ^ 32), handler := false } ∧
    ((∀ l, s.clusters[clusterOf c.core].lease = some l → ¬leaseOf c l) →
      warpAfter .exit { w with state := .exited } ∧ (endOf s c .exit).clusters = s.clusters)

/-- MARK, JOIN, EXIT, TRAP, FENCE, GUSTREL and the head waits complete. MARK with 16 entries on the divergence stack and JOIN
with none take a Divergence Stack Fault (0x0D01, 0x0D02, detail the depth); otherwise each gives its effect to the bundle's
end, with the offsets of MARK from bits [31:0] of its scalars. The head waits issue as no-ops. -/
def Obligations.DivergenceExitTrapsAndFences : Prop :=
  ∀ (s : State) (c : Ctx), s.ctx? = some c →
    let depth := c.w.dstack.length
    let ends (e : EndEffect) : Out := .next (c.give { ends := [e] })
    let low (x : Word) : BitVec 32 := BitVec.ofNat 32 (x.toNat % 2 ^ 32)
    (∀ f : KR,
      (depth < 16 → exec (.mark f) s =
        ends (.mark (fin 8 f.imm.toNat) (low (c.w.sreg f.a.toNat)) (low (c.w.sreg f.b.toNat)))) ∧
      (16 ≤ depth → exec (.mark f) s = faultOut s c 0x0D01 (BitVec.ofNat 64 depth)) ∧
      exec (.trap f) s = ends (.trap f.imm.toNat) ∧
      exec (.fence f) s = ends (.fence (BitVec.ofNat 5 (f.imm.toNat % 32)) (BitVec.ofNat 5 (f.imm.toNat / 32 % 32))
        (f.imm.toNat / 1024 % 8)) ∧
      exec (.gustrel f) s = ends .gustrel) ∧
    (∀ f : KB,
      (depth ≠ 0 → exec (.join f) s = ends .join) ∧
      (depth = 0 → exec (.join f) s = faultOut s c 0x0D02 0) ∧
      exec (.exit f) s = ends .exit) ∧
    (∀ f, exec (.wait f) s = .next (c.give {})) ∧ (∀ f, exec (.waitt f) s = .next (c.give {})) ∧
    ∀ f, exec (.barw f) s = .next (c.give {})

/-- BARA and CSYNC. A BARA whose 16 bytes leave the AB window takes a Buffer Range Fault (0x0A00); one that is unaligned, names
2^31 bytes or more, finds an expected count of 0 or a full one, or would take the pending-byte counter out of range takes a
Barrier Fault (0x0E00), detail the window address. Otherwise it completes: `sD` receives the phase with latency 1, and once the
core bundle has ended the barrier has one arrival more and its pending bytes raised by s[b]; where that makes the arrivals the
expected count with 0 bytes pending, the phase rises by 1 modulo 2^32 and the arrivals are 0. CSYNC writes 2 where there is no
co-scheduled group and waits at the bundle's end otherwise. -/
def Obligations.BarriersAndClusterSync : Prop :=
  ∀ (s : State) (c : Ctx) (f : KR), s.ctx? = some c →
    let a := (c.w.sreg f.a.toNat).toNat + f.imm.toNat
    let n := (c.w.sreg f.b.toNat).toNat
    let pa := c.b.ab.base + a
    let field (i : Nat) : Nat := c.k.ab.num (pa + 4 * i) 4
    let pending : Int := if field 3 < 2 ^ 31 then field 3 else field 3 - 2 ^ 32
    let write (v : Word) : Pending := { left := 1, live := true, flags := 0, val := .scalar (fin 64 f.d.toNat) v }
    (c.b.ab.size < a + 16 → exec (.bara f) s = faultOut s c 0x0A00 (BitVec.ofNat 64 a)) ∧
    (a + 16 ≤ c.b.ab.size →
      let bad : Prop := a % 16 ≠ 0 ∨ 2 ^ 31 ≤ n ∨ field 0 = 0 ∨ field 0 ≤ field 1 ∨ 2 ^ 31 ≤ pending + n
      (bad → exec (.bara f) s = faultOut s c 0x0E00 (BitVec.ofNat 64 a)) ∧
      (¬bad → exec (.bara f) s =
          .next (c.give { writes := [write (BitVec.ofNat 64 (field 2))], ends := [.bara a n] }) ∧
        (lastBundle c → c.k.ab.wf = true → c.k.acted = [] →
          let t := ((endOf s c (.bara a n)).tickCore c.core).cores[c.core].ab
          let done : Prop := field 1 + 1 = field 0 ∧ pending + n = 0
          t.num pa 4 = field 0 ∧
          (done → t.num (pa + 4) 4 = 0 ∧ t.num (pa + 8) 4 = (field 2 + 1) % 2 ^ 32) ∧
          (¬done → t.num (pa + 4) 4 = field 1 + 1 ∧ t.num (pa + 8) 4 = field 2) ∧
          t.num (pa + 12) 4 = ((pending + n) % 2 ^ 32).toNat ∧
          ∀ x, x < pa ∨ pa + 16 ≤ x → t.get x = c.k.ab.get x))) ∧
    (c.b.group = none → exec (.csync f) s = .next (c.give { writes := [write 2] })) ∧
    (c.b.group ≠ none → exec (.csync f) s = .next (c.give { ends := [.csync (fin 64 f.d.toNat)] }))

/-- GROW and SHRINK complete: their predicate lands with latency 1 and is 1 exactly when every class stays within 0 and the
descriptor's maximum and, for GROW, the core's pools of 512 vector registers, 64 hypervectors and 8 banks hold the amounts;
only then does the end of the bundle change the allotment. CLKDIV completes where the launch and the partition permit it and
takes a Privilege Fault (0x0500, opcode 0x1A) otherwise. GUST of 0 microseconds grants 0; else it is refused with cause 4
under a lease or before the end of the bundle in which another core gives one back, 1 in a lull or trip, 2 at the partition's cap,
3 without headroom (the mean of ten averages of power; both as log 46 has them), in that order; else it grants min(s[a], 2^32 - 1, gust_us). RDCNT writes the counter its index names: an event counter, a cell of the
lane-cycle record (bin 0 to 16, slot 0 to 8, class 0 to 4), the sensor, a field of the heat-store cell or the time, and 0 for an
index that the tables do not define, cells of the record that R483 gives no meaning among them. -/
def Obligations.AllotmentsClockGustAndCounters : Prop :=
  ∀ (s : State) (c : Ctx) (f : KR), s.ctx? = some c →
    let v := 8 * bitsN f.imm 4 0
    let h := bitsN f.imm 9 5
    let cc := bitsN f.imm 12 10
    let k := bitsN f.imm 15 13
    let used (g : Warp → Nat) : Nat := (((List.finRange 8).filterMap fun w => c.k.warps[w]).map g).foldl (· + ·) 0
    let change (grow : Bool) : AllotChange := { grow := grow, pred := fin 16 f.d.toNat, v := v, h := h, c := cc, k := k }
    let answer (grow ok : Bool) : Out := .next (c.give
      { writes := [{ left := 1, live := true, flags := 0, val := .pred (fin 16 f.d.toNat) ok }]
        ends := if ok then [.allot (change grow)] else [] })
    let fits : Prop := c.w.curV + v ≤ c.b.maxV ∧ c.w.curH + h ≤ c.b.maxH ∧ c.w.curC + cc ≤ c.b.maxC ∧ c.w.curK + k ≤ c.b.maxK
    let free : Prop := used (·.curV) + v ≤ 512 ∧ used (·.curH) + h ≤ 64 ∧ used (·.curC) + cc ≤ 8 ∧ c.w.curK + k ≤ 4
    let holds : Prop := v ≤ c.w.curV ∧ h ≤ c.w.curH ∧ cc ≤ c.w.curC ∧ k ≤ c.w.curK
    let p := s.parts[c.b.part]
    let cluster := s.clusters[clusterOf c.core]
    let result (x : Nat) (e : List EndEffect) : Out := .next (c.give
      { writes := [{ left := 1, live := true, flags := 0, val := .scalar (fin 64 f.d.toNat) (BitVec.ofNat 64 x) }], ends := e })
    (fits ∧ free → exec (.grow f) s = answer true true) ∧ (¬(fits ∧ free) → exec (.grow f) s = answer true false) ∧
    (holds → exec (.shrink f) s = answer false true) ∧ (¬holds → exec (.shrink f) s = answer false false) ∧
    (c.b.clockOk = true → p.control.getLsbD 3 = true →
      exec (.clkdiv f) s = .next (c.give { ends := [.clkdiv (f.imm.toNat % 16)] })) ∧
    (¬(c.b.clockOk = true ∧ p.control.getLsbD 3 = true) → exec (.clkdiv f) s = faultOut s c 0x0500 0x1A) ∧
    (let us := (c.w.sreg f.a.toNat).toNat
     let capped : Prop := p.gustUs = 0 ∨ p.gustClusters ≤ s.leasesOf c.b.part
     let lull : Prop := s.lull (clusterOf c.core) = true ∨ cluster.tripped = true
     let average : Nat := ((List.range 10).map fun i => s.powerLog.getD (10 * i) 0).foldl (· + ·) 0
     let beyond : Prop := 10 * 3800 < average + 10 * 35 * (s.leases + 1)
     let freedNow : Prop := ∃ ends other, cluster.freed = some (ends, other) ∧ c.k.tick < ends ∧ other ≠ c.core
     (us = 0 → exec (.gust f) s = result 0 []) ∧
     (us ≠ 0 → cluster.lease.isSome = true ∨ freedNow → exec (.gust f) s = result 0 [.gustRefuse 4]) ∧
     (us ≠ 0 → cluster.lease = none → ¬freedNow →
       (lull → exec (.gust f) s = result 0 [.gustRefuse 1]) ∧
       (¬lull → capped → exec (.gust f) s = result 0 [.gustRefuse 2]) ∧
       (¬lull → ¬capped → beyond → exec (.gust f) s = result 0 [.gustRefuse 3]) ∧
       (¬lull → ¬capped → ¬beyond →
         exec (.gust f) s = result (min (min us 0xFFFFFFFF) p.gustUs) [.gustGrant (min (min us 0xFFFFFFFF) p.gustUs)]))) ∧
    ∃ x : Word, exec (.rdcnt f) s = result x.toNat [] ∧
      (∀ i : Fin 23, f.imm.toNat = i.val → x = c.k.counters[i]) ∧
      (f.imm = 0x1000 → x.toInt = c.k.sensor.toInt) ∧
      (∀ n : Fin 3, f.imm.toNat = 0x1001 + n.val →
        x.toNat = (s.cells[cellOf (clusterOf c.core)]).toNat / 2 ^ (16 * n.val) % 2 ^ 11) ∧
      (f.imm = 0x2000 → x = BitVec.ofNat 64 (s.time / 18)) ∧
      (∀ bin slot cls, bin ≤ 16 → slot ≤ 8 → cls ≤ 4 → f.imm.toNat = 0x400 + 128 * bin + 8 * slot + cls →
        x = (c.k.laneCycles.lookup f.imm.toNat).getD 0) ∧
      (0x400 ≤ f.imm.toNat → f.imm.toNat < 0x1000 →
        8 < f.imm.toNat / 8 % 16 ∨ 4 < f.imm.toNat % 8 ∨ 0xC80 ≤ f.imm.toNat → x = 0) ∧
      (23 ≤ f.imm.toNat ∧ f.imm.toNat < 0x400 → x = 0) ∧
      (0x2000 < f.imm.toNat ∨ (0x1003 < f.imm.toNat ∧ f.imm.toNat < 0x2000) → x = 0)

/-- The privileged operations. In a kernel that is not a supervisor's each takes the fault of filter rule 5 (0x0105), at which its
decoding ends (that it does so at issue too is the model's, log 41). In a supervisor kernel SYSRD writes with latency 1 the system register that its index names, the read of
FQPROD being an acquire; SYSWR, INTREQ and DTINV of an admitted index and value take effect at the bundle's end; ERET takes
effect there inside a handler; FREEZE gives its request to it. Any other index, a vector outside 4 to 31, and ERET outside a
handler take a Privilege Fault (0x0500) whose detail is the slot opcode and the index. -/
def Obligations.PrivilegedOperations : Prop :=
  ∀ (s : State) (c : Ctx) (f : KR) (e : KB), s.ctx? = some c →
    let p := s.parts[c.b.part]
    let i := f.imm.toNat
    let v := c.w.sreg f.a.toNat
    let pstat : Nat := c.b.part.val + 16 + if c.w.handler then 32 else 0
    let table : List (Nat × Nat) :=
      [(0x00, pstat), (0x01, c.w.epc.toNat), (0x02, c.w.ecause.toNat), (0x03, c.w.einfo.toNat), (0x10, p.fqBase.toNat),
       (0x11, p.fqSize), (0x12, p.fqProd.toNat), (0x13, p.fqCons.toNat), (0x14, p.fqStat.toNat), (0x20, 0),
       (0x21, p.intPend.toNat), (0x30, p.ftgt.toNat), (0x31, p.fstat.toNat), (0x32, p.fsave.toNat), (0x40, 0), (0x41, 0),
       (0x50, p.qos.toNat % 2 ^ 64), (0x51, p.qos.toNat / 2 ^ 64)]
    let admitted : Prop := i ∈ [0x01, 0x13, 0x14, 0x30, 0x32, 0x40] ∨ (i = 0x20 ∧ 4 ≤ v.toNat % 32) ∨
      (i = 0x41 ∧ v.toNat < 2 ^ 52 ∧ v.toNat / 8 % 8 = 0 ∧ v.toNat % 8 < 4)
    (c.b.supervisor = false → ∀ x : Instr, x = .sysrd f ∨ x = .syswr f ∨ x = .intreq f ∨ x = .dtinv f ∨ x = .eret e ∨
        x = .freezeStop f ∨ x = .freezeResume f ∨ x = .freezeSave f → exec x s = faultOut s c 0x0105 0) ∧
    (c.b.supervisor = true →
      (∀ n x, (n, x) ∈ table → i = n → exec (.sysrd f) s = .next (c.give
        { writes := [{ left := 1, live := true, flags := 0, val := .scalar (fin 64 f.d.toNat) (BitVec.ofNat 64 x) }]
          ends := if n = 0x12 then [.acquire] else [] })) ∧
      (i ∉ table.map (·.1) → exec (.sysrd f) s = faultOut s c 0x0500 (BitVec.ofNat 64 (0x30 + 256 * i))) ∧
      (∀ x : Instr, x = .syswr f ∨ x = .intreq f ∨ x = .dtinv f →
        (admitted → exec x s = .next (c.give { ends := [.syswr i v] })) ∧
        (¬admitted → exec x s = faultOut s c 0x0500 (BitVec.ofNat 64 (0x31 + 256 * i)))) ∧
      (c.w.handler = true → exec (.eret e) s = .next (c.give { ends := [.eret] })) ∧
      (c.w.handler = false → exec (.eret e) s = faultOut s c 0x0500 0x32) ∧
      exec (.freezeStop f) s = .next (c.give { ends := [.freeze 1] }) ∧
      exec (.freezeResume f) s = .next (c.give { ends := [.freeze 2] }) ∧
      exec (.freezeSave f) s = .next (c.give { ends := [.freeze 3] }))

/-- LDST, MZERO, MLOOP, MCVT and MADV make the checks of R258 and R263 to R268 in the order given (Alignment, Buffer Range,
Reservation, Shape) and take the first fault. When all pass they complete: LDST, MZERO, MLOOP and MCVT are queued in the tile
class with what they latch; MADV writes 128 words to `fl` with latency 6: the slice sums of its row, with `nv` and `of` of any (a sum
with a NaN among its sources sets no `nv` beside a NaN that it makes: log 40, DEDUCED), or the canonical NaN from a poisoned plane; the row that a fence of its warp holds back is latched and read later (log 57). MLOOP and
MCVT of no row make no check and complete at once (log 16). MSWAP exchanges the planes, and MCFG, whose record checks come after its
alignment checks (one of two unequal groups names record A, log 41), replaces the configuration, at the end of the bundle. -/
def Obligations.MatrixOperationsAtIssue : Prop :=
  ∀ (s : State) (c : Ctx), s.ctx? = some c →
    let cf := c.k.config
    let plane := c.k.planes[c.k.active]
    let tagFor (fmt blk : Nat) (scaled : Bool) : Bool :=
      plane.tag.getLsbD 0 && plane.tag.toNat / 2 ^ 8 == fmt && bitsN plane.tag 7 6 == blk && plane.tag.getLsbD 5 == scaled
    let matches_ := tagFor (bitsN cf 11 4) (bitsN cf 3 2) (cf.getLsbD 1)
    let stationary (r : BitVec 128) : Bool := rvValid r && !rvAb r && rvLayout r == 1
    let latched (k : TileKind) (r : BitVec 128) (x y rows : Nat) : OpKind := .tile
      { kind := k, config := cf, record := r, start := x, start2 := y, rows := rows, done := 0
        rm := BitVec.ofNat 3 (c.w.fpc.toNat % 8), ftz := c.w.fpc.getLsbD 3, rngk := c.w.rngk
        rngc := c.w.rngc + BitVec.ofNat 64 c.ix.draws, begun := false, flags := 0, poisoned := [] }
    let within (x step : Int) (n len : Nat) (lo size : Int) : Bool :=
      (List.range n).all fun i => decide (lo ≤ x + i * step ∧ x + i * step + len ≤ lo + size)
    (∀ f : ML,
      let w := (c.w.sreg f.sa.toNat).toNat + f.imm.toNat
      let r := c.w.resv[fin 8 f.ra.toNat]
      CheckedResult s c (.ldst f)
        [(w % 64 == 0, 0x0800, at_ w), (decide (w + 8192 ≤ c.b.wb.size), 0x0A00, at_ w),
         (stationary r && matGroup (rvFmt r) != 0 && w == rvBase r, 0x0B00, at_ f.ra.toNat)]
        (started .tile .m (fieldOf (.ldst f)) (.ldst r w (1 - c.k.active) false) [])) ∧
    (∀ f : ML,
      let n := (c.w.sreg f.sa.toNat).toNat
      let ab : Int := (c.w.sreg f.sb.toNat).toNat
      let cb : Int := bitsN cf 138 121 + f.imm.toNat
      let abStep := signedOf 20 (bitsN cf 102 83)
      let cbStep := signedOf 18 (bitsN cf 120 103)
      let ok1 := decide (ab % 64 = 0)
      let ok2 := decide (cb % 512 = 0)
      let ok3 := within ab abStep n 64 0 c.b.ab.size
      let ok4 := within cb cbStep n 512 0 c.b.cb.size
      let ok5 := within ab abStep n 64 (bitsN cf 42 23) (bitsN cf 62 43 + 1)
      (n = 0 → exec (.mloop f) s = .next (c.give { ends := [.tileNone] })) ∧
      (n ≠ 0 → ∃ d3 d4, CheckedResult s c (.mloop f)
        [(ok1, 0x0800, BitVec.ofInt 64 ab), (ok2, 0x0800, BitVec.ofInt 64 cb), (ok3, 0x0A00, d3), (ok4, 0x0A00, d4),
         (cf.getLsbD 140 && !cf.getLsbD 139, 0x0B01, 0), (matches_, 0x0B02, 0), (ok5, 0x0B00, 0),
         (decide (n ≤ 65535), 0x0C11, at_ n)]
        (started .tile .m (fieldOf (.mloop f)) (latched .mloop 0 ab.toNat cb.toNat n) []))) ∧
    (∀ f : MR,
      exec (.mswap f) s = .next (c.give { ends := [.mswap] }) ∧
      (let a := (c.w.sreg f.sa.toNat).toNat
       CheckedResult s c (.mzero f)
        [(a % 512 == 0, 0x0800, at_ a), (decide (a + 512 * f.imm.toNat ≤ c.b.cb.size), 0x0A00, at_ a)]
        (started .tile .m (fieldOf (.mzero f)) (latched .mzero 0 a 0 f.imm.toNat) [])) ∧
      (let x := (c.w.sreg f.sa.toNat).toNat + f.imm.toNat
       let poisoned := plane.tag.getLsbD 4
       let held : Prop := ∃ g ∈ c.w.fences, g.after.getLsbD 2 = true
       let presents (fl : Flags) (v : WriteVal) : Prop := CheckedResult s c (.madv f)
        [(x % 64 == 0, 0x0800, at_ x), (decide (x + 64 ≤ c.b.ab.size), 0x0A00, at_ x),
         (cf.getLsbD 140 && cf.getLsbD 139, 0x0B01, 0), (matches_, 0x0B02, 0),
         (decide (bitsN cf 42 23 ≤ x ∧ x + 64 ≤ bitsN cf 42 23 + (bitsN cf 62 43 + 1)), 0x0B00, 0)]
        { writes := [{ left := 6, live := true, flags := fl, val := v }], ends := if poisoned then [.matrixError] else [] }
       (poisoned = true → ∃ row, presents 0 (.flRow row c.ix.word.glyph) ∧
         ∀ n, n < 128 → (row.extractLsb' (32 * n) 32).toNat = 0x7FC00000) ∧
       (poisoned = false → held → ∃ past, presents 0 (.flLate x cf plane (c.w.fpc.getLsbD 3) past c.ix.word.glyph 0) ∧
         ∀ id, id ∈ past ↔ ∃ o ∈ c.k.ops, o.id = id ∧ o.warp = c.wid ∧ o.stroke = c.w.strokes ∧ o.cls = .copy) ∧
       (poisoned = false → ¬held → ∃ row fl, presents fl (.flRow row c.ix.word.glyph) ∧
         ∀ ka kw, Fmt.ofCode (bitsN cf 22 15) = some ka → Fmt.ofCode (bitsN cf 11 4) = some kw → ∃ fs : Nat → Flags,
           (∀ n, n < 128 → RowSum cf (c.w.fpc.getLsbD 3) plane c.k.ab c.b.ab.base x ka kw n
             ((row.extractLsb' (32 * n) 32).toNat, fs n)) ∧
           ∀ b, fl.getLsbD b = true ↔ ∃ n, n < 128 ∧ (fs n).getLsbD b = true)) ∧
      (let r := c.w.resv[fin 8 f.ra.toNat]
       let a := (c.w.sreg f.sa.toNat).toNat
       let n := (c.w.sreg f.sb.toNat).toNat
       let wt := codeBytes (rvFmt r)
       let off := f.imm.toNat
       let lo := rvBase r + off
       let scale0 := rvScaleOff r + off / wt / rvBlk r
       let target : Bool := rvValid r && rvAb r && rvLayout r == 0 && (match Fmt.ofCode (rvFmt r) with
         | some k => k.isP8 || !rvScaled r
         | none => false)
       (n = 0 → exec (.mcvt f) s = .next (c.give { ends := [.tileNone] })) ∧
       (n ≠ 0 → CheckedResult s c (.mcvt f)
        [(a % 512 == 0, 0x0800, at_ a), (off % (128 * wt) == 0, 0x0800, at_ off),
         (decide (a + 512 * n ≤ c.b.cb.size), 0x0A00, at_ a), (decide (lo + 128 * wt * n ≤ c.b.ab.size), 0x0A00, at_ lo),
         (!rvScaled r || decide (scale0 + 128 * n / rvBlk r ≤ c.b.ab.size), 0x0A00, at_ scale0),
         (target && decide (off + 128 * wt * n ≤ rvLen r), 0x0B00, at_ f.ra.toNat)]
        { started .tile .m (fieldOf (.mcvt f)) (latched .mcvt r a lo n) [] with
          draws := if c.w.mode = .stochastic then n else 0 })) ∧
      ∀ fwd : Bool,
        let a := c.w.resv[fin 8 f.ra.toNat]
        let r := c.w.resv[fin 8 f.rb.toNat]
        let ab := (c.w.sreg f.sa.toNat).toNat % 2 ^ 20
        let cb := (c.w.sreg f.sb.toNat).toNat % 2 ^ 18
        let int (x : BitVec 128) : Bool := matGroup (rvFmt x) == 2
        ∃ config : BitVec 160, CheckedResult s c (if fwd then .mcfgFwd f else .mcfgAcc f)
          [(ab % 64 == 0, 0x0800, at_ ab), (cb % 512 == 0, 0x0800, at_ cb), (f.imm.toNat % 512 == 0, 0x0800, at_ f.imm.toNat),
           (rvValid a && rvAb a && rvLayout a == 0, 0x0B00, at_ f.ra.toNat), (stationary r, 0x0B00, at_ f.rb.toNat),
           (matGroup (rvFmt a) != 0 && matGroup (rvFmt a) == matGroup (rvFmt r) && !(int a && rvScaled a), 0x0B00,
            at_ f.ra.toNat),
           (!(int r && rvScaled r), 0x0B00, at_ f.rb.toNat)]
          { ends := [.mcfg config] } ∧
          config.getLsbD 140 = true ∧ config.getLsbD 139 = fwd ∧ bitsN config 138 121 = f.imm.toNat ∧
          bitsN config 120 103 = cb ∧ bitsN config 102 83 = ab ∧ bitsN config 82 63 = rvScaleOff a ∧
          bitsN config 62 43 + 1 = rvLen a ∧ bitsN config 42 23 = rvBase a ∧ bitsN config 22 15 = rvFmt a ∧
          bitsN config 14 13 = bitsN a 39 38 ∧ config.getLsbD 12 = rvScaled a ∧ bitsN config 11 4 = rvFmt r ∧
          bitsN config 3 2 = bitsN r 39 38 ∧ config.getLsbD 1 = rvScaled r)

/-- The global accesses of L complete: a load, store or atomic is started in its class with the lanes that were active, each
lane's address wrap64(s[base] + off + imm), its operand words captured and its destinations bound at issue; LDU and STU take
the one address s[base] + imm, STU performed only when lane 0 is active. When an active lane's address is no multiple of the
width, the first such lane's address is the detail of an Alignment Fault (0x0800) (that of an STU whose lane 0 is inactive is the
model's reading, log 40). PF raises no fault and prefetches only with
an active lane. -/
def Obligations.GlobalAccessesAtIssue : Prop :=
  ∀ (s : State) (c : Ctx) (f : LA), s.ctx? = some c →
    let act := c.active f.pred
    let base := c.w.sreg f.base.toNat
    let imm : Word := BitVec.ofInt 64 f.imm.toInt
    let lane (imm : Word) (l : Nat) : Word := base + BitVec.ofInt 64 (signedOf 32 (element c 32 f.a.toNat l)) + imm
    let regs (width : Nat) : Nat := if width ≤ 4 then 1 else width / 4
    let dests (width : Nat) : List (Fin 128) := (List.range (regs width)).map fun i => c.w.bind (f.d.toNat + i)
    let holds (d : Vector (BitVec 256) 64) (words : Nat) : Prop := ∀ l : Fin 64, ∀ i, i < 8 →
      (d[l].extractLsb' (32 * i) 32).toNat = if i < words then element c 32 (f.d.toNat + i) l.val else 0
    let starts (i : Instr) (cls : OpClass) (kind : MemKind) (width words : Nat) (uniform : Bool) (lanes : Mask)
        (addr : Nat → Word) (dst : List (Fin 128)) : Prop :=
      (∀ l : Fin 64, act.getLsbD l.val = true → (addr l.val).toNat % width ≠ 0 →
        (∀ m : Fin 64, m < l → act.getLsbD m.val = true → (addr m.val).toNat % width = 0) →
        exec i s = faultOut s c 0x0800 (addr l.val)) ∧
      ((∀ l : Fin 64, act.getLsbD l.val = true → (addr l.val).toNat % width = 0) →
        ∃ a : MemAccess, exec i s = .next (c.give (started cls .l (fieldOf i) (.mem a) [])) ∧ a.kind = kind ∧
          a.width = width ∧ a.uniform = uniform ∧ a.left = lanes ∧ (∀ l : Fin 64, a.addrs[l] = addr l.val) ∧
          a.dests = dst ∧ holds a.data words)
    let w := 2 ^ f.variant.toNat
    let aw := if f.variant.getLsbD 0 then 8 else 4
    let order := bitsN f.imm 7 6
    let atomic (i : Instr) (op : AtomicOp) (width words : Nat) : Prop :=
      starts i .load (.atomic op (f.variant.getLsbD 1) (bitsN f.imm 10 8) (order % 2 == 1) (decide (2 ≤ order))) width words
        false act (lane 0) (dests width)
    (f.variant.toNat ≤ 5 →
      starts (.ld f) .load .load w 0 false act (lane imm) (dests w) ∧
      starts (.st f) .store .store w (regs w) false act (lane imm) [] ∧
      starts (.ldu f) .load .load w 0 true act (fun _ => base + imm) (dests w) ∧
      starts (.stu f) .store .store w (regs w) false (act &&& 1) (fun _ => base + imm) []) ∧
    (act = 0 → exec (.pf f) s = .next (c.give {})) ∧
    (act ≠ 0 → exec (.pf f) s = .next (c.give { ends := [.prefetch (base + imm)] })) ∧
    (∀ i op, (i, op) ∈ [(Instr.aadd f, AtomicOp.add), (.afadd f, .fadd), (.amin f, .min), (.amax f, .max), (.aand f, .and),
        (.aor f, .or), (.axor f, .xor), (.axchg f, .xchg)] → atomic i op aw (regs aw)) ∧
    (f.variant.toNat ≤ 2 → atomic (.acas f) .cas (4 * 2 ^ f.variant.toNat) (2 * regs (4 * 2 ^ f.variant.toNat)))

/-- LDB and STB with an active lane check, in order, that a = bits(s[base], 31, 0) + imm modulo 2^32 is a multiple of 4
(0x0800), that 256 bytes from it lie in the buffer's window (0x0A00), and, for an LDB of CB without `.nf`, that no active lane's
row is poisoned (0x0F00, detail the first such row); then they start with the active lanes, a poisoned lane of an `.nf` load
marked. With no active lane they start at once. -/
def Obligations.TypedBufferAccessesAtIssue : Prop :=
  ∀ (s : State) (c : Ctx) (f : LT), s.ctx? = some c →
    let act := c.active f.pred
    let a := ((c.w.sreg f.base.toNat).toNat + f.imm.toNat) % 2 ^ 32
    let buf : Buf := if f.buf = 0 then .wb else if f.buf = 1 then .ab else .cb
    let size := (match buf with | .wb => c.b.wb | .ab => c.b.ab | .cb => c.b.cb).size
    let row (l : Nat) : Nat := (a + 4 * l) / 512 * 512
    let poisoned (l : Nat) : Bool := act.getLsbD l && buf == .cb && c.k.poison.contains (c.b.cb.base + row l)
    let load (p : Mask) : Effects :=
      started .load .l (fieldOf (.ldb f)) (.ldb buf a act (c.w.bind f.d.toNat) p) []
    (act = 0 → exec (.ldb f) s = .next (c.give (load 0)) ∧
      exec (.stb f) s = .next (c.give (started .store .l (fieldOf (.stb f)) (.stb buf a 0 0) []))) ∧
    (act ≠ 0 →
      CheckedResult s c (.stb f) [(a % 4 == 0, 0x0800, at_ a), (decide (a + 256 ≤ size), 0x0A00, at_ a)]
        (started .store .l (fieldOf (.stb f)) (.stb buf a act (c.w.vreg f.d.toNat)) []) ∧
      (a % 4 ≠ 0 → exec (.ldb f) s = faultOut s c 0x0800 (at_ a)) ∧
      (a % 4 = 0 → size < a + 256 → exec (.ldb f) s = faultOut s c 0x0A00 (at_ a)) ∧
      (a % 4 = 0 → a + 256 ≤ size →
        (f.variant.getLsbD 0 = false → ∀ l, l < 64 → poisoned l = true → (∀ m, m < l → poisoned m = false) →
          exec (.ldb f) s = faultOut s c 0x0F00 (at_ (row l))) ∧
        (f.variant.getLsbD 0 = true ∨ (∀ l, l < 64 → poisoned l = false) →
          ∃ p : Mask, exec (.ldb f) s = .next (c.give (load p)) ∧ ∀ l, l < 64 → p.getLsbD l = poisoned l)))

/-- COPY, COPYR, GATH, PUT and GET whose condition holds read the 64-byte record at AB window address s[sa] and make the checks of
R235 and R237 in order: alignment and window of the record, then the shape checks 1 to 4 (0x0C01 to 0x0C04). A record with an
extent of 0 that passes them completes: DONE is written to its token at the bundle's end, and nothing else is checked. Any other
record goes on to the alignment of a PUT's signal, window and alignment of the barrier, alignment and window of a gather's index
list and the windows of both local sides (the order among these is the model's, log 41). The first check that fails is the fault;
when all hold, the operation completes its issue: it starts in the copy class with its token pending, and locks the banks of AB that its
target's rows touch (R72; a gather from AB reads every bank of the window, log 35). A window fault's detail is the side's base (log 41).
When the condition does not hold nothing happens. -/
def Obligations.CopiesAtIssue : Prop :=
  ∀ (s : State) (c : Ctx) (f : XD), s.ctx? = some c →
    let a := (c.w.sreg f.sa.toNat).toNat
    let r : BitVec 512 := BitVec.ofNat 512 (c.k.ab.num (c.b.ab.base + a) 64)
    let sb := c.w.sreg f.sb.toNat
    let e := 2 ^ bitsN r 1 0
    let token (x : EndEffect) : List EndEffect := if f.tok = 0 then [] else [x]
    let touches (space : Nat) (base : Word) (st : Nat → Nat) (n : Nat) : Prop := space = 2 ∧ ∃ i1 i2 i3 j,
      i1 < shExt r 1 ∧ i2 < shExt r 2 ∧ i3 < shExt r 3 ∧ j < shExt r 0 * e ∧
      n = (c.b.ab.base + base.toNat + i1 * st 1 + i2 * st 2 + i3 * st 3 + j) / 32768
    let copy (i : Instr) (kind : CopyKind) (fromB toB : Word) (ok1 : Bool) (bar : BitVec 6) : Prop :=
      let barrier : Nat := if bar = 0 then 0 else (c.w.sreg bar.toNat).toNat
      let gath := kind == .gath
      let list : Nat := if gath then sb.toNat else 0
      let signal : Word := if kind = .put ∧ f.sc ≠ 0 then c.w.sreg f.sc.toNat else 0
      let count := copyCount r
      let shape := copyShape c a r fromB toB ok1
      let all := shape ++ copyRest c r fromB toB gath (bar != 0) barrier list signal
      (c.holds f.pred = false → exec i s = .next (c.give {})) ∧
      (c.holds f.pred = true → ∀ cause detail,
        firstFault (if count = 0 then shape else all) = some (cause, detail) → exec i s = faultOut s c cause detail) ∧
      (c.holds f.pred = true → count = 0 → (∀ x ∈ shape, x.1 = true) →
        exec i s = .next (c.give { ends := token (.tokenDone (fin 64 f.tok.toNat) 0) })) ∧
      (c.holds f.pred = true → count ≠ 0 → (∀ x ∈ all, x.1 = true) → ∃ t : CopyOp,
        exec i s = .next (c.give (started .copy .x (fieldOf i) (.copy t) (token (.token (fin 64 f.tok.toNat))))) ∧
        t.kind = kind ∧ t.shape = r ∧ t.fromBase = fromB ∧ t.toBase = toB ∧ t.list = list ∧
        t.barrier = (if bar = 0 then none else some barrier) ∧
        t.signal = (if kind = .put ∧ f.sc ≠ 0 then some signal else none) ∧
        t.cursor = 0 ∧ t.quarantine = [] ∧ t.begun = false ∧ t.stopped = false ∧ t.status = 0 ∧
        (∀ n, n ∈ t.locks ↔ touches (bitsN r 5 4) toB (shToS r) n) ∧
        (gath = false → ∀ n, n ∈ t.rbanks ↔ touches (bitsN r 3 2) fromB (shFromS r) n) ∧
        (gath = true → ∀ n, n ∈ t.rbanks ↔ (∃ i, i < 4 * shExt r 1 ∧ n = (c.b.ab.base + list + i) / 32768) ∨
          (bitsN r 3 2 = 2 ∧ ∃ i, i < c.b.ab.size ∧ n = (c.b.ab.base + i) / 32768)))
    copy (.copy f) .copy (shFrom r) (shTo r) true f.sb ∧
    copy (.copyr f) (.copyr f.variant.toNat) (shFrom r) (shTo r) (e == if f.variant = 1 then 2 else 4) f.sb ∧
    copy (.gath f) .gath (shFrom r) (shTo r) (shExt r 2 == 1 && shExt r 3 == 1) f.sc ∧
    copy (.put f) .put (shFrom r) sb (bitsN r 5 4 == 0) 0 ∧
    copy (.get f) .get sb (shTo r) (bitsN r 3 2 == 0) 0

/-- RESV, RELS, TBLD, SIGNAL and LAUNCH whose condition holds complete, each after its checks: RESV takes a Reservation Fault
(0x0B00) for a record that R75 forbids and else writes it at the bundle's end; RELS clears valid there; TBLD needs uses_fmicro
(0x0500, opcode 6) and then a multiple of 4 (in that order: log 41), writes BAD_SELECTOR and the selector to the token for a selector outside tables 0 to 7
and programs 24 to 63, and else loads the bank inactive at issue; SIGNAL needs a multiple of 8, and LAUNCH of 64. Each but RESV
and RELS starts in the copy class with its token pending. When the condition does not hold nothing happens. -/
def Obligations.ReservationsTablesSignalsAndLaunches : Prop :=
  ∀ (s : State) (c : Ctx) (f : XD), s.ctx? = some c →
    let a := c.w.sreg f.sa.toNat
    let v := c.w.sreg f.sb.toNat
    let r : BitVec 128 := BitVec.ofNat 128 (a.toNat + 2 ^ 64 * v.toNat)
    let token (x : EndEffect) : List EndEffect := if f.tok = 0 then [] else [x]
    let pending := token (.token (fin 64 f.tok.toNat))
    let selector : Bool := decide (v.toNat < 8) || (decide (280 ≤ v.toNat) && decide (v.toNat < 320))
    let size := (if rvAb r then c.b.ab else c.b.wb).size
    let elems := ceilDiv (bitsN r 87 68 + 1) (codeBytes (rvFmt r))
    let scales := ceilDiv elems (8 * 2 ^ bitsN r 39 38)
    let len := bitsN r 87 68 + 1
    let base := bitsN r 67 48
    let soff := bitsN r 107 88
    let hv := bitsN r 47 40 == 0x70
    let valid : Bool :=
      bitsN r 127 108 == 0 && bitsN r 33 1 == 0 && ((Fmt.ofCode (bitsN r 47 40)).isSome || hv) && bitsN r 37 36 != 3 &&
      decide (base + len ≤ size) &&
      (!r.getLsbD 34 || (decide (soff + scales ≤ size) && decide (soff + scales ≤ base ∨ base + len ≤ soff))) &&
      (!hv || (!r.getLsbD 35 && bitsN r 37 36 == 2 && !r.getLsbD 34 && bitsN r 39 38 == 0 && len % 1024 == 0 &&
        decide (len ≤ 1024 * 1024))) &&
      (hv || bitsN r 37 36 != 2) && (bitsN r 37 36 != 1 || len == 8192)
    (c.holds f.pred = false → ∀ i, i = Instr.resv f ∨ i = .rels f ∨ i = .tbld f ∨ i = .signalSet f ∨ i = .signalAdd f ∨
      i = .launch f → exec i s = .next (c.give {})) ∧
    (c.holds f.pred = true →
      CheckedResult s c (.resv f) [(valid, 0x0B00, at_ f.ra.toNat)] { ends := [.resv (fin 8 f.ra.toNat) r] } ∧
      exec (.rels f) s = .next (c.give { ends := [.rels (fin 8 f.ra.toNat)] }) ∧
      CheckedResult s c (.tbld f) [(c.b.usesFmicro, 0x0500, 0x06), (a.toNat % 4 == 0, 0x0800, a)]
        (if selector then
          started .copy .x (fieldOf (.tbld f)) (.tbld (1 - c.k.bank) (BitVec.ofNat 9 v.toNat) a) pending
         else { ends := token (.tokenDone (fin 64 f.tok.toNat) (BitVec.ofNat 64 (5 + 2 ^ 32 * (v.toNat % 2 ^ 32)))) }) ∧
      CheckedResult s c (.signalSet f) [(a.toNat % 8 == 0, 0x0800, a)]
        (started .copy .x (fieldOf (.signalSet f)) (.signal false a v) pending) ∧
      CheckedResult s c (.signalAdd f) [(a.toNat % 8 == 0, 0x0800, a)]
        (started .copy .x (fieldOf (.signalAdd f)) (.signal true a v) pending) ∧
      CheckedResult s c (.launch f) [(a.toNat % 64 == 0, 0x0800, a)]
        (started .copy .x (fieldOf (.launch f)) (.launch a) pending))

/-- The H operations complete. HMOV, HBIND and HPERM write `hD` with latency 2: bit i of `hA`, its XOR with bit i of `hB`, or
bit (i + 8192 - n) mod 8192 of `hA`; HBUN adds w for 1 bits and -w for 0 bits to its bank in 3 bundles; HTHR writes in 3 the
signs of the bank's counters, a 0 counter as `tie` says, drawing two steps in mode 1 only; HDIST writes in 6 how many bits
differ. Without its condition an exposed write lands without effect and draws nothing. HLD and HST check that
A = wrap32(s + imm) is a multiple of 64 and that 1,024 bytes from it lie in AB, HNEAR that its record is valid and of format
HV; they, HCLRC, HRAND (two steps) and HTIE start asynchronously when their condition holds and else do nothing. -/
def Obligations.HypervectorOperations : Prop :=
  ∀ (s : State) (c : Ctx), s.ctx? = some c →
    let bit (h : HReg) (i : Nat) : Bool := h.getLsbD i
    let image (i : Nat) : Bool :=
      (mix c.w.rngk (c.w.rngc + BitVec.ofNat 64 (c.ix.draws + i / 4096)) (i / 64 % 64)).getLsbD (i % 64)
    (∀ f : HR,
      let on := c.holds f.pred
      let ha := c.w.hreg f.ha.toNat
      let hb := c.w.hreg f.hb.toNat
      let bank := bitsN f.imm 1 0
      let counter (i : Nat) : Int := ((c.w.bank bank).extractLsb' (8 * i) 8).toInt
      let exposed (i : Instr) (lat : Nat) (v : WriteVal) : Prop :=
        exec i s = .next (c.give { writes := [{ left := lat, live := on, flags := 0, val := v }] })
      let hyper (i : Instr) (b : Nat → Bool) : Prop :=
        ∃ v : HReg, exposed i 2 (.hyper (fin 16 f.hd.toNat) v) ∧ ∀ n, n < 8192 → v.getLsbD n = b n
      let async (i : Instr) (e : Effects) : Prop := exec i s = .next (c.give (if on then e else {}))
      let a := ((c.w.sreg f.s.toNat).toNat + f.imm.toNat) % 2 ^ 32
      let mode := bitsN c.w.tie 1 0
      let checks : List (Bool × Nat × Word) := [(a % 64 == 0, 0x0800, at_ a), (decide (a + 1024 ≤ c.b.ab.size), 0x0A00, at_ a)]
      hyper (.hmov f) (bit ha) ∧
      hyper (.hbind f) (fun i => bit ha i ^^ bit hb i) ∧
      hyper (.hperm f) (fun i => bit ha ((i + 8192 - f.imm.toNat) % 8192)) ∧
      exposed (.hbun f) 3 (.hbun (fin 4 (bitsN f.imm 5 4)) ha (bitsN f.imm 3 0)) ∧
      exposed (.hdist f) 6 (.scalar (fin 64 f.s.toNat)
        (BitVec.ofNat 64 ((List.range 8192).filter fun i => bit ha i != bit hb i).length)) ∧
      (∃ v : HReg,
        exec (.hthr f) s = .next (c.give
          { draws := if on ∧ mode = 1 then 2 else 0
            writes := [{ left := 3, live := on, flags := 0, val := .hyper (fin 16 f.hd.toNat) v }] }) ∧
        (on = true → ∀ i, i < 8192 → v.getLsbD i =
          if 0 < counter i then true else if counter i < 0 then false
          else match mode with
            | 0 => bit (c.w.hreg 15) i
            | 1 => image i
            | 2 => false
            | _ => decide (i % 2 = 1) ^^ c.w.tie.getLsbD 2)) ∧
      (on = false → exec (.hld f) s = .next (c.give {}) ∧ exec (.hst f) s = .next (c.give {})) ∧
      (on = true →
        CheckedResult s c (.hld f) checks (started .load .h (fieldOf (.hld f)) (.hld a (fin 16 f.hd.toNat)) []) ∧
        CheckedResult s c (.hst f) checks (started .store .h (fieldOf (.hst f)) (.hst a ha) [])) ∧
      async (.hclrc f) (started .store .h (fieldOf (.hclrc f)) (.hclrc (fin 4 bank)) []) ∧
      (∃ v : HReg, async (.hrand f) { started .load .h (fieldOf (.hrand f)) (.hrand (fin 16 f.hd.toNat) v) [] with draws := 2 } ∧
        ∀ i, i < 8192 → v.getLsbD i = image i) ∧
      async (.htie f) (started .load .h (fieldOf (.htie f))
        (.htie (fin 64 f.s.toNat) ((List.range 8192).filter fun i => decide (counter i = 0)).length)
        (if f.s = 0 then [] else [.token (fin 64 f.s.toNat)]))) ∧
    ∀ f : HQ,
      let r := c.w.resv[fin 8 f.ra.toNat]
      let token (t : BitVec 6) : List EndEffect := if t = 0 then [] else [.token (fin 64 t.toNat)]
      (c.holds f.pred = false → exec (.hnear f) s = .next (c.give {})) ∧
      (c.holds f.pred = true →
        CheckedResult s c (.hnear f) [(r.getLsbD 0 && bitsN r 47 40 == 0x70, 0x0B00, at_ f.ra.toNat)]
          (started .load .h (fieldOf (.hnear f)) (.hnear (fin 64 f.tok.toNat) (fin 64 f.sd.toNat) (c.w.hreg f.h.toNat) r)
            (token f.tok ++ token f.sd)))

/-- One core bundle brings every pending exposed write one bundle nearer; with one bundle left it lands, and the warp is otherwise
unchanged (R25, R26, R49, R59, R194): its flags join `fpc`; a scalar, but not `s0`, a predicate, a stage predicate, a hypervector, a
special register takes the value; the lanes or mask bits that were active at issue take the result and the others keep what the
register holds; an accumulator is cleared, or takes its sum with the addend, NaN and infinite kinds as R98 has them. A write whose
condition did not hold lands without any effect. Of several writes each does as it would alone, those that land together in the
order of issue. No row that a fence holds back is among them (log 57). -/
def Obligations.ExposedWritesLandInTheirBundle : Prop :=
  ∀ (k : Core) (w : WarpId) (x : Warp) (b : Block) (p : Pending),
    k.warps[w] = some x → k.block? x.bid = some b → b.restoring = false → (∀ q ∈ x.pending, q.val.late = false) →
    let after : Option Warp := (k.advanceWarp w).warps[w]
    let y := { x with pending := [], fpc := x.fpc ||| p.flags }
    let with_ (ps : List Pending) : Core := k.modWarp w fun z => { z with pending := ps }
    (x.pending = [] → after = some x) ∧
    (∀ rest, x.pending = p :: rest →
      (p.left ≤ 1 → k.advanceWarp w =
        (((with_ [p]).advanceWarp w).modWarp w fun z => { z with pending := rest }).advanceWarp w) ∧
      (2 ≤ p.left → k.advanceWarp w =
        ((with_ rest).advanceWarp w).modWarp w fun z => { z with pending := { p with left := p.left - 1 } :: z.pending })) ∧
    (x.pending = [p] →
    (2 ≤ p.left → after = some { x with pending := [{ p with left := p.left - 1 }] }) ∧
    (p.left ≤ 1 → p.live = false → after = some { x with pending := [] }) ∧
    (p.left ≤ 1 → p.live = true →
      (∀ n v, p.val = .scalar n v → after = some { y with s := if n = 0 then x.s else put x.s n v }) ∧
      (∀ n v, p.val = .pred n v → ∃ q : BitVec 16, after = some { y with p := q } ∧
        ∀ i, i < 16 → q.getLsbD i = if i = n.val then v else x.p.getLsbD i) ∧
      (∀ n v lanes, p.val = .laneMask n v lanes → ∃ q : Mask, after = some { y with q := put x.q n q } ∧
        ∀ l, l < 64 → q.getLsbD l = if lanes.getLsbD l then v.getLsbD l else x.q[n].getLsbD l) ∧
      (∀ n v lanes, p.val = .vec n v lanes → ∃ r : VReg, after = some { y with v := put x.v n r } ∧
        ∀ l, l < 64 → r.extractLsb' (32 * l) 32 = if lanes.getLsbD l then v.extractLsb' (32 * l) 32 else x.v[n].extractLsb' (32 * l) 32) ∧
      (∀ n v, p.val = .hyper n v → after = some { y with h := put x.h n v }) ∧
      (∀ n img weight, p.val = .hbun n img weight → ∃ r : Bank, after = some { y with c := put x.c n r } ∧
        ∀ i, i < 8192 → weight < 16 → ((r.extractLsb' (8 * i) 8).toInt =
          max (-127) (min 127 ((x.c[n].extractLsb' (8 * i) 8).toInt + if img.getLsbD i then (weight : Int) else -weight)))) ∧
      (∀ n m, p.val = .kclr n m → after = some { y with ka := put x.ka n ⟨0, 0⟩ }) ∧
      (∀ n a m, p.val = .kadd n a m → a.kind = 0 → x.ka[n].kind = 0 →
        let sum := x.ka[n].val.toInt + a.val.toInt
        (-2 ^ 639 ≤ sum → sum < 2 ^ 639 →
          ∃ r : Kulisch, after = some { y with ka := put x.ka n r } ∧ r.kind = 0 ∧ r.val.toInt = sum) ∧
        (sum < -2 ^ 639 ∨ 2 ^ 639 ≤ sum →
          after = some { y with fpc := y.fpc ||| 0x200, ka := put x.ka n ⟨0, if sum < 0 then 2 else 1⟩ })) ∧
      (∀ n a m, p.val = .kadd n a m → a.kind ≠ 0 ∨ x.ka[n].kind ≠ 0 →
        let old := x.ka[n].kind
        let opposite : Prop := (old = 1 ∧ a.kind = 2) ∨ (old = 2 ∧ a.kind = 1)
        ∃ r : Kulisch, (¬opposite → after = some { y with ka := put x.ka n r }) ∧
          (opposite → after = some { y with fpc := y.fpc ||| flNv, ka := put x.ka n r }) ∧
          (old = 3 ∨ a.kind = 3 ∨ opposite → r.kind = 3) ∧
          (old ≠ 3 → a.kind ≠ 3 → ¬opposite → r.kind = if old = 0 then a.kind else old)) ∧
      (∀ n v, p.val = .stage n v → ∃ q : BitVec 8, after = some { y with sp := q } ∧
        ∀ i, i < 8 → q.getLsbD i = if i = n.val then v else x.sp.getLsbD i) ∧
      (∀ i v, p.val = .special i v → after = some (y.setSpecial i v)) ∧
      ∀ v glyph, p.val = .flRow v glyph → after = some y ∧ (k.advanceWarp w).fl = v))

/-- The end of a bundle. vrb falls by 1 modulo 32 where its g sets rot, after what a SWR of the bundle writes there (R111). Its exposed
writes join the warp's pending ones (a row that a fence keeps from being read gets a number there, log 57), its draws advance rngc, and its
asynchronous operations stand on the core in order, each counted in its class and waiting for what the warp's fences name on its path;
a copy that nothing stands before begins at once. Each other end effect, alone: SWR writes the bits that its register holds (rm above
4 stored as 0); SHAPE sets the view; RESV writes its record and RELS clears its valid bit; a token is marked pending; MSWAP, MCFG and
TSWAP change the matrix engine and the F store; GROW raises the allotment, what is gained reading zero and vrb becoming 0 where the
vectors come to 128, and SHRINK is left to the boundary; CLKDIV sets the cluster's request unless a lease or a trip is in force. A
granted GUST begins its lease and a refused one leaves its cause; GUSTREL ends the holder's with cause 7, or 5 where it expires by the
bundle's end, and the holder's EXIT with cause 7, or 5 where it has expired on an earlier clock (R161, R477; log 46 has the clock). SYSWR
writes EPC, FQCONS, FQSTAT, FTGT and FSAVE (which bits: log 45); INTREQ sends its vector, or waits for the warp's operations and rows; DTINV drops the dictionary's entries on every core (and what slices hold from before, log 20); a translation
request is queued after the warp's writes. FREEZE stops its target or answers a code (one while BUSY: log 45). A FENCE waits for the operations
of its first set, unread rows among them, and with none acts at once (log 43). CSYNC waits for its group; PF fills no TLB; MADV's error
writes a record of kind 3. The warp is otherwise as it stood. -/
def Obligations.OtherEffectsOfTheBundleEnd : Prop :=
  ∀ (s : State) (c : Ctx), s.ctx? = some c →
    let w := afterBundle c
    let warpAfter (e : EndEffect) (x : Warp) : Prop := (endOf s c e).warp? c.core c.wid = some x
    let core (e : EndEffect) : Core := (endOf s c e).cores[c.core]
    let low (n : Nat) (v : Word) : BitVec n := BitVec.ofNat n (v.toNat % 2 ^ n)
    (∀ v, warpAfter (.swr 0 v) { w with lc := low 32 v } ∧ warpAfter (.swr 1 v) { w with vrb := turned c v.toNat } ∧
      warpAfter (.swr 2 v) { w with shape := BitVec.ofNat 64 (v.toNat % 64) } ∧
      (∃ f : Word, warpAfter (.swr 3 v) { w with fpc := f } ∧
        ∀ i, i < 64 → f.getLsbD i = if i < 3 then v.getLsbD i && decide (bitsN v 2 0 ≤ 4)
          else decide (i < 10 ∨ 32 ≤ i) && v.getLsbD i) ∧
      warpAfter (.swr 4 v) { w with tie := BitVec.ofNat 64 (v.toNat % 8) } ∧
      warpAfter (.swr 5 v) { w with rngk := BitVec.ofNat 128 (c.w.rngk.toNat / 2 ^ 64 * 2 ^ 64 + v.toNat) } ∧
      warpAfter (.swr 6 v) { w with rngk := BitVec.ofNat 128 (v.toNat * 2 ^ 64 + c.w.rngk.toNat % 2 ^ 64) } ∧
      warpAfter (.swr 7 v) { w with rngc := v } ∧ warpAfter (.swr 0x11 v) { w with sp := low 8 v } ∧
      warpAfter (.swr 0x12 v) { w with p := low 16 v }) ∧
    (∀ v, warpAfter (.setShape v) { w with shape := BitVec.ofNat 64 v.toNat }) ∧
    (∀ n r, warpAfter (.resv n r) { w with resv := put c.w.resv n r }) ∧
    (∀ n, ∃ r : BitVec 128, warpAfter (.rels n) { w with resv := put c.w.resv n r } ∧
      ∀ i, i < 128 → r.getLsbD i = (decide (i ≠ 0) && c.w.resv[n].getLsbD i)) ∧
    (∀ n : Fin 64, ∃ t : Word, warpAfter (.token n) { w with tokens := t } ∧
      ∀ i, i < 64 → t.getLsbD i = (decide (i = n.val) || c.w.tokens.getLsbD i)) ∧
    (∀ (n : Fin 64) (v : Word), n ≠ 0 → warpAfter (.tokenDone n v) { w with s := put c.w.s n v }) ∧
    ((core .mswap).active ≠ c.k.active ∧ (core .mswap).planes = c.k.planes ∧ warpAfter .mswap w) ∧
    (∀ cf, (core (.mcfg cf)).config = cf ∧ warpAfter (.mcfg cf) w) ∧
    ((core .tswap).bank ≠ c.k.bank ∧ (core .tswap).banks = c.k.banks ∧ warpAfter .tswap w) ∧
    (∀ a : AllotChange, a.grow = false → warpAfter (.allot a) { w with shrink := some a }) ∧
    (∀ a : AllotChange, a.grow = true → ∃ x : Warp, warpAfter (.allot a) x ∧
      x = { w with
        v := x.v, h := x.h, c := x.c, ka := x.ka, curV := c.w.curV + a.v, curH := c.w.curH + a.h, curC := c.w.curC + a.c
        curK := c.w.curK + a.k, vrb := if c.w.curV < 128 ∧ c.w.curV + a.v = 128 then 0 else w.vrb } ∧
      (∀ n : Fin 128, x.v[n] = if c.w.curV ≤ n.val ∧ n.val < c.w.curV + a.v then 0 else c.w.v[n]) ∧
      (∀ n : Fin 16, x.h[n] = if c.w.curH ≤ n.val ∧ n.val < c.w.curH + a.h then 0 else c.w.h[n]) ∧
      (∀ n : Fin 4, x.c[n] = if c.w.curC ≤ n.val ∧ n.val < c.w.curC + a.c then 0 else c.w.c[n]) ∧
      ∀ n : Fin 4, x.ka[n] = if c.w.curK ≤ n.val ∧ n.val < c.w.curK + a.k then ⟨0, 0⟩ else c.w.ka[n]) ∧
    (∀ n, let cl := clusterOf c.core
      let held : Bool := (s.clusters[cl].lease).isSome || s.clusters[cl].tripped
      (endOf s c (.clkdiv n)).clusters[cl].clkdiv = if held then s.clusters[cl].clkdiv else some n) ∧
    (∀ cause, warpAfter (.gustRefuse cause) { w with gstCause := BitVec.ofNat 4 cause }) ∧
    (let p := c.b.part
     let q := s.parts[p]
     let cl := clusterOf c.core
     let period := 2 * s.clusters[cl].div * [1, 2, 4].getD (max c.k.thermal c.k.current) 4
     let part (e : EndEffect) (y : Partition) : Prop := (endOf s c e).parts[p] = y
     let mine (o : AsyncOp) : Prop := o ∈ c.k.ops ∧ o.warp = c.wid
     let row (id : Nat) : Prop := ∃ q ∈ c.w.pending, ∃ x cf pl z past g, q.val = .flLate x cf pl z past g id
     let unread : Bool := c.w.pending.any fun q => q.val.late
     let uncached : Prop := Calm s ∧ ∀ cl : ClusterId, s.clusters[cl].l2 = []
     (∀ (d : Nat) (ps : List Pending) (ns : List NewOp),
       let ix := { c.ix with draws := d, writes := ps, ops := ns, ends := [] }
       let t := State.commit { s with issue := some ix } ix
       let count (cls : OpClass) : Nat := (ns.filter fun n => n.cls == cls).length
       t.warp? c.core c.wid = some { w with
         pending := c.w.pending ++ ps.map fun q => { q with val := match q.val with
           | .flLate x cf pl z past g _ => .flLate x cf pl z past g (s.nextId + ns.length)
           | v => v }
         rngc := c.w.rngc + BitVec.ofNat 64 d, loads := c.w.loads + count .load
         stores := c.w.stores + count .store, copies := c.w.copies + count .copy, tiles := c.w.tiles + count .tile } ∧
       t.nextId = s.nextId + ns.length + (if ps.any fun q => q.val.late then 1 else 0) ∧ t.issue = none ∧ ∃ news : List AsyncOp, t.cores[c.core].ops = c.k.ops ++ news ∧
         news.length = ns.length ∧ ∀ (i : Nat) (n : NewOp) (o : AsyncOp), ns[i]? = some n → news[i]? = some o →
           o = { o with
             id := s.nextId + i, warp := c.wid, bid := c.w.bid, cls := n.cls, path := n.path, glyph := c.ix.word.glyph
             field := n.field, sent := s.time, fault := none, wiped := [], stroke := c.w.strokes } ∧
           (∀ f ∈ c.w.fences, f.after.getLsbD (match n.path with | .l => 0 | .x => 1 | .m => 2 | .h => 3) = true →
             ∀ id ∈ f.ids, id ∈ o.waits) ∧
           ((∀ u, n.kind ≠ .copy u) → o.kind = n.kind) ∧
           ∀ u, n.kind = .copy u → ∃ begun after, o.kind = .copy { u with begun := begun, after := after } ∧
             (c.w.fences = [] → ns = [n] → (∀ a ∈ c.k.ops, ∀ v, a.kind ≠ .copy v) → begun = true)) ∧
     (∀ v, warpAfter (.syswr 0x01 v) { w with epc := at_ (v.toNat % 2 ^ 32) } ∧
       (∀ i ∈ [0x13, 0x14, 0x30, 0x32], warpAfter (.syswr i v) w) ∧ part (.syswr 0x13 v) { q with fqCons := low 32 v } ∧
       (∃ stat : Word, part (.syswr 0x14 v) { q with fqStat := stat } ∧
         ∀ i, i < 64 → stat.getLsbD i = (q.fqStat.getLsbD i && !(decide (i < 2) && v.getLsbD i))) ∧
       part (.syswr 0x30 v) { q with ftgt := at_ (v.toNat % 512) } ∧
       part (.syswr 0x32 v) { q with fsave := at_ (v.toNat / 4096 * 4096) }) ∧
     (∀ v, q.messages = [] → uncached →
       let n := v.toNat % 32
       let t := endOf s c (.syswr 0x20 v)
       ((∀ o, ¬mine o) → unread = false →
         (q.resetting = true → t.parts[p] = q ∧ t.sent = s.sent) ∧
         (q.resetting = false → q.intMask.getLsbD n = true → t.sent = s.sent ∧ ∃ bits : BitVec 32, t.parts[p] = { q with intPend := bits } ∧
           ∀ i, i < 32 → bits.getLsbD i = (decide (i = n) || q.intPend.getLsbD i)) ∧
         (q.resetting = false → q.intMask.getLsbD n = false → t.parts[p] = q ∧ t.sent = s.sent ++ [.msix p n])) ∧
       ((∃ o, mine o) ∨ unread = true → t.sent = s.sent ∧ ∃ ids, t.parts[p] = { q with messages := [(n, c.core, ids)] } ∧
         ∀ id, id ∈ ids ↔ row id ∨ ∃ o, mine o ∧ o.id = id)) ∧
     (∀ v, let t := endOf s c (.syswr 0x40 v)
       (∀ (d : CoreId) (e : DecodeEntry), e ∈ t.cores[d].decode ↔
         e ∈ s.cores[d].decode ∧ ¬(e.part = p ∧ e.dictId = low 32 v)) ∧
       ∀ (d : ClusterId), ∀ y ∈ t.clusters[d].l2, y.part = p → y.num / 2 ^ 44 ≠ d.val / 10 → y.valid &&& ~~~y.marked = 0) ∧
     (∀ (v : Word) (k : Fin 4), v.toNat % 8 = k.val → v.toNat < 2 ^ 52 →
       let addr := at_ (v.toNat / 64 * 64)
       let who : Requester := .warp c.core c.wid
       let op : Instr := match k with
         | 0 => .tlbInvalidatePage p addr who
         | 1 => .tlbInvalidatePartition p who
         | 2 => .migratePage p addr who
         | 3 => .setDirtyLog p addr who
       warpAfter (.syswr 0x41 v) { w with withheld := c.w.withheld + 1 } ∧ ∃ ids,
         (endOf s c (.syswr 0x41 v)).requests = s.requests ++ [{ op := op, after := ids }] ∧
         ∀ id, id ∈ ids ↔ ∃ o, mine o ∧ o.kind.writes = true ∧ o.id = id) ∧
     (∀ op, 1 ≤ op → op ≤ 3 →
       let answers (code : BitVec 4) : Prop := part (.freeze op) { q with fstat := code } ∧ warpAfter (.freeze op) w ∧
         ∀ d : CoreId, d ≠ c.core → (endOf s c (.freeze op)).cores[d] = s.cores[d]
       (q.freeze.isSome = true → answers 7) ∧
       (q.freeze = none → (∀ t : CoreId, lcidOf t ≠ q.ftgt.toNat) → answers 3) ∧
       ∀ t : CoreId, q.freeze = none → lcidOf t = q.ftgt.toNat →
         let k := s.cores[t]
         let here : Prop := ∃ b ∈ k.blocks, b.part = p
         (t = c.core → answers 4) ∧ (t ≠ c.core → ¬here → answers 3) ∧
         (t ≠ c.core → here → (op = 1 → k.stopped.isSome = true → answers 6) ∧ (op = 2 → k.stopped = none → answers 6) ∧
           ((op = 1 → k.stopped = none) → (op = 2 → k.stopped.isSome = true) → warpAfter (.freeze op) w ∧
             part (.freeze op) { q with fstat := 1, freeze := some { op := op, target := t, was := k.stopped.isSome } } ∧
             (op = 2 → (endOf s c (.freeze op)).cores[t] = k) ∧
             (op ≠ 2 → (endOf s c (.freeze op)).cores[t] = { k with
               stopped := some (k.stopped.getD .freeze), counters := put k.counters 0x16 (k.counters[0x16] + 1) })))) ∧
     (∀ (a b : BitVec 5) (scope : Nat), c.w.fences = [] →
       let names (o : AsyncOp) : Prop := mine o ∧ a.getLsbD (match o.path with | .l => 0 | .x => 1 | .m => 2 | .h => 3) = true
       let wide (m : BitVec 5) : Bool := decide (3 ≤ scope) && (m.getLsbD 0 || m.getLsbD 1)
       let reads : Bool := a.getLsbD 2 && unread
       ((∃ o, names o) ∨ reads = true → ∃ ids, warpAfter (.fence a b scope)
           { w with fences := [{ after := b, ids := ids, writeBack := wide a, invalidate := wide b }] } ∧
         ∀ id, id ∈ ids ↔ (a.getLsbD 2 = true ∧ row id) ∨ ∃ o, names o ∧ o.id = id) ∧
       ((∀ o, ¬names o) → reads = false → Calm s → let t := endOf s c (.fence a b scope)
         warpAfter (.fence a b scope) w ∧
         (wide a = true → (s.clusters[cl].l2.map (·.num)).Nodup → ∀ y ∈ s.clusters[cl].l2, y.part = p → ∀ i, i < 64 →
           y.marked.getLsbD i = true → t.mem.get (64 * y.num + i) = y.data.extractLsb' (8 * i) 8) ∧
         (wide a = true → (s.clusters[cl].l2.map (·.num)).Nodup → ∀ y ∈ t.clusters[cl].l2, y.part = p → y.marked = 0) ∧
         (wide b = true → ∀ y ∈ t.clusters[cl].l2, y.part = p → y.num / 2 ^ 44 ≠ cl.val / 10 → y.valid &&& ~~~y.marked = 0))) ∧
     (∀ us, warpAfter (.gustGrant us) { w with gstHolder := true, gstCause := 0 } ∧
       (endOf s c (.gustGrant us)).clusters[cl] = { s.clusters[cl] with
         lease := some { part := p, core := c.core, warp := c.wid, bid := c.w.bid, ends := s.time + 18000 * us }
         clkdiv := none, pendingDiv := true }) ∧
     (∀ l, s.clusters[cl].lease = some l →
       let clock := c.k.tick + period
       let ended (e : EndEffect) (at_ : Nat) (x : Warp) : Prop := warpAfter e x ∧ (endOf s c e).clusters[cl] =
         { s.clusters[cl] with lease := none, clkdiv := none, pendingDiv := true, freed := some (at_, c.core) }
       let back : Warp := { w with gstHolder := false, gstCause := 7 }
       let expired : Warp := { w with
         gstHolder := false, gstCause := 5
         traps := if bitsN c.b.kdesc 287 256 ≠ 0xFFFFFFFF ∧ bitsN c.b.kdesc 183 176 = 64 then c.w.traps ++ [⟨1, 5⟩] else c.w.traps }
       (¬leaseOf c l → (endOf s c .gustrel).clusters[cl] = s.clusters[cl] ∧ warpAfter .gustrel w) ∧
       (leaseOf c l →
         (clock < l.ends → ended .gustrel clock back) ∧ (l.ends ≤ clock → ended .gustrel l.ends expired) ∧
         (clock ≤ l.ends → ended .exit clock { back with state := .exited }) ∧
         (l.ends < clock → ended .exit l.ends { expired with state := .exited }))) ∧
     (s.clusters[cl].lease = none → warpAfter .gustrel w ∧ (endOf s c .gustrel).clusters[cl] = s.clusters[cl]) ∧
     (∀ d, warpAfter (.csync d) { w with csync := some d }) ∧
     (∀ va, let t := endOf s c (.prefetch va)
       warpAfter (.prefetch va) w ∧ t.cores[c.core].counters[0x0D] = c.k.counters[0x0D] + 1 ∧ t.cores[c.core].tlb = c.k.tlb ∧
       t.clusters[cl].tlb = s.clusters[cl].tlb ∧ (uncached → t.mem = s.mem)) ∧
     (∀ slot pa, slot = q.fqBase + BitVec.ofNat 64 (64 * (q.fqProd.toNat % 2 ^ q.fqSize)) →
       (q.fqProd - q.fqCons).toNat < 2 ^ q.fqSize → Quiet s p → slot.toNat % 64 = 0 → Mapped s p slot Need.write pa →
       let t := endOf s c .matrixError
       warpAfter .matrixError w ∧ t.parts[p].fqProd = q.fqProd + 1 ∧ Wrote s.mem t.mem pa
         (leBytes 1 3 ++ leBytes 1 c.w.wid ++ leBytes 2 0x3000 ++ leBytes 2 (lcidOf c.core) ++ leBytes 2 0 ++
           leBytes 8 c.b.nodeAddr.toNat ++ leBytes 4 c.b.index ++ leBytes 4 c.ix.word.glyph.toNat ++ leBytes 8 (2 ^ 64 - 1) ++
           leBytes 8 0 ++ leBytes 4 c.w.baraPhase.toNat ++ leBytes 4 0 ++ leBytes 8 (s.time / 18) ++ leBytes 8 0)) ∧
     (warpAfter .tileNone w ∧ (core .tileNone).counters[0x14] = c.k.counters[0x14] + 1) ∧
     (∀ y ∈ (endOf s c .acquire).clusters[cl].l2, y.part = p → y.num / 2 ^ 44 ≠ cl.val / 10 → y.valid &&& ~~~y.marked = 0))

/-- Taking a fault that is precise at bundle issue (glyph the faulting one) or at stroke start (none) in a supervisor kernel
that has a trap vector, outside a handler: ECAUSE takes the cause and EINFO the record's Detail (the model's reading, log 41), EPC the faulting glyph or the stroke's first
glyph, PSTAT[5] becomes 1, and the trap of kind 2 falls due; the bundle in issue is discarded. Delivered at the boundary, it
puts (2 << 16) OR ECAUSE into `s62` and EPC into `s63`, and the next stroke is fetched from trap_off. Any other fault, and any
inside a handler, halts the block. -/
def Obligations.SupervisorFaultEntersTheHandler : Prop :=
  ∀ (s : State) (c : CoreId) (w : WarpId) (x : Warp) (b : Block) (cause : Nat) (detail : Word) (glyph : Option (BitVec 32)),
    s.warp? c w = some x → s.cores[c].block? x.bid = some b →
    let t := s.takeFault c w cause detail glyph
    (b.supervisor = true → b.hasTrap = true → x.handler = false →
      let at_ := match glyph with | some g => g | none => x.pc
      let y : Warp := { x with
        ecause := BitVec.ofNat 64 cause, einfo := detail, epc := BitVec.ofNat 64 at_.toNat, handler := true, pc := at_,
        stroke := [], pos := 0, decoded := false, state := .boundary, traps := ⟨2, cause⟩ :: x.traps }
      t.warp? c w = some y ∧ t.issue = none ∧ t.mem = s.mem ∧ t.parts = s.parts ∧ t.clusters = s.clusters ∧
      t.cores[c].holder ≠ some w ∧
      (∀ d : CoreId, d ≠ c → t.cores[d] = s.cores[d]) ∧
      (∀ v : WarpId, v ≠ w → t.warp? c v = s.warp? c v) ∧
      ∃ z : Warp, (t.deliverTrap c w).warp? c w = some z ∧ z.traps = x.traps ∧ z.pc = b.trapOff ∧
        z.sreg 62 = BitVec.ofNat 64 (2 * 2 ^ 16 + cause) ∧ z.sreg 63 = BitVec.ofNat 64 at_.toNat ∧
        z = { y with traps := x.traps, pc := b.trapOff, trapTaken := true, s := put (put x.s 62 (z.sreg 62)) 63 (z.sreg 63) }) ∧
    (b.supervisor = false ∨ b.hasTrap = false ∨ x.handler = true →
      ∃ y b', t.warp? c w = some y ∧ y.state = .halted ∧ t.cores[c].block? x.bid = some b' ∧ b'.halted = true)

/-- Any other fault, and a fault inside a handler, halts the warp's block: the faulting warp stops with its program counter as
its precision states, no sibling and no other core's register changes, the core's holder is no longer that warp, and the
block's operations and pending writes stay to finish. A lease of the block ends with cause 7 and no trap (R477), another's stands; a
co-scheduled group is broken for every block of it (R41). The 64-byte record of kind 1 that names the warp is written at slot FQPROD
mod 2^FQSIZE, and FQPROD rises by 1, when the ring has room and the slot's page is mapped with w; when the ring is full, or the
page is not mapped or lacks w, FQPROD stays, the drop count rises, saturating, and FQSTAT[0], or FQSTAT[1], becomes 1. -/
def Obligations.OtherFaultsHaltTheBlock : Prop :=
  ∀ (s : State) (c : CoreId) (w : WarpId) (x : Warp) (b : Block) (cause : Nat) (detail : Word) (glyph : Option (BitVec 32)),
    s.warp? c w = some x → s.cores[c].block? x.bid = some b →
    (b.supervisor = false ∨ b.hasTrap = false ∨ x.handler = true) →
    let t := s.takeFault c w cause detail glyph
    let k := s.clusters[clusterOf c]
    let own : Bool := k.lease.any fun l => decide (l.core = c ∧ l.bid = x.bid)
    let held (v : WarpId) (y : Warp) : Warp :=
      if own = true ∧ y.bid = x.bid ∧ (k.lease.map (·.warp)) = some v then { y with gstHolder := false, gstCause := 7 } else y
    let breaks (y : Block) : Block := if b.group.isSome = true ∧ y.launch = b.launch ∧ y.group = b.group then { y with broken := true } else y
    t.warp? c w = some { held w x with state := .halted } ∧
    (∃ b', t.cores[c].block? x.bid = some b' ∧ b' = { breaks b with halted := true }) ∧
    t.cores[c].ops = s.cores[c].ops ∧ t.cores[c].holder ≠ some w ∧
    (∀ v : WarpId, v ≠ w → t.warp? c v = (s.warp? c v).map (held v)) ∧
    (∀ d : CoreId, d ≠ c → t.cores[d] = { s.cores[d] with blocks := s.cores[d].blocks.map breaks }) ∧
    t.clusters[clusterOf c] = (if own then { k with lease := none, clkdiv := none, pendingDiv := true } else k) ∧
    (t.parts[b.part].fqProd = s.parts[b.part].fqProd + 1 ∨
      (t.parts[b.part].fqProd = s.parts[b.part].fqProd ∧ t.parts[b.part].fqStat.toNat % 4 ≠ 0)) ∧
    let q := s.parts[b.part]
    let slot : Word := q.fqBase + BitVec.ofNat 64 (64 * (q.fqProd.toNat % 2 ^ q.fqSize))
    let full : Prop := 2 ^ q.fqSize ≤ (q.fqProd - q.fqCons).toNat
    let at_ := match glyph with | some g => g | none => x.pc
    let dropped (bit : Nat) : Prop := t.mem = s.mem ∧ ∃ stat : Word,
      t.parts[b.part] = { q with fqStat := stat, saved := t.parts[b.part].saved } ∧ (b.group = none → t.parts[b.part].saved = q.saved) ∧
      bitsN stat 63 32 = min (2 ^ 32 - 1) (bitsN q.fqStat 63 32 + 1) ∧
      ∀ i, i < 2 → stat.getLsbD i = (decide (i = bit) || q.fqStat.getLsbD i)
    (∀ pa, ¬full → Quiet s b.part → slot.toNat % 64 = 0 → Mapped s b.part slot Need.write pa →
      t.parts[b.part].fqProd = q.fqProd + 1 ∧
      Wrote s.mem t.mem pa
        (leBytes 1 1 ++ leBytes 1 x.wid ++ leBytes 2 cause ++ leBytes 2 (lcidOf c) ++ leBytes 2 0 ++ leBytes 8 b.nodeAddr.toNat ++
          leBytes 4 b.index ++ leBytes 4 at_.toNat ++ leBytes 8 detail.toNat ++ leBytes 8 0 ++ leBytes 4 x.baraPhase.toNat ++
          leBytes 4 0 ++ leBytes 8 (s.time / 18) ++ leBytes 8 0)) ∧
    (full → dropped 0) ∧
    (¬full → slot.toNat % 64 = 0 → s.migrations = [] → s.walk s.parts[b.part].ptRoot slot = .fault ∨
      (∃ e a big, s.walk s.parts[b.part].ptRoot slot = .leaf e a big ∧ e.getLsbD 4 = false) → dropped 1)

/-- A trap that is due at a boundary is delivered there, a stroke decoded there being dropped (log 58): it puts (kind << 16) OR code into `s62` and the offset of the next stroke into `s63`, sets
next_pc to trap_off and leaves `dmask`, the divergence stack, the allotment and every other register; a TRAP goes before a
lease's trap, which waits for a boundary at which no other trap is delivered (log 58). Without a trap vector the block halts; a block
that a thermal move takes is frozen. -/
def Obligations.TrapDelivery : Prop :=
  ∀ (s : State) (c : CoreId) (w : WarpId) (x : Warp) (b : Block),
    s.warp? c w = some x → s.cores[c].block? x.bid = some b → s.coreRuns c = true → s.cores[c].holder ≠ some w →
    x.state = .boundary → b.halted = false → b.restoring = false → b.moveTo = none → x.pending = [] → x.csync = none →
    (∀ k code rest, x.traps = ⟨k, code⟩ :: rest → (∀ t ∈ rest, k ≤ 1 ∧ t.kind = 1) →
      (k = 1 → x.trapTaken = true → exec (.userTrapDelivery c w) s = .next s) ∧
      (k ≠ 1 ∨ x.trapTaken = false → b.hasTrap = true → ∃ t, exec (.userTrapDelivery c w) s = .next t ∧
        t.warp? c w = some { x with
          traps := rest, pc := b.trapOff, stroke := [], pos := 0, decoded := false, trapTaken := true,
          s := put (put x.s 62 (BitVec.ofNat 64 (k * 2 ^ 16 + code))) 63 (BitVec.ofNat 64 x.pc.toNat) } ∧
        t.mem = s.mem ∧ t.clusters = s.clusters ∧ t.parts = s.parts ∧ (∀ d : CoreId, d ≠ c → t.cores[d] = s.cores[d])) ∧
      (k ≠ 1 ∨ x.trapTaken = false → b.hasTrap = false → s.cores[c].holder = none → ∃ t y, exec (.userTrapDelivery c w) s = .next t ∧ t.warp? c w = some y ∧ y.state = .halted)) ∧
    (x.traps = [] → exec (.userTrapDelivery c w) s = .next s)

/-- What a slot operation can do when it answers a next state: its operation's effects join the bundle in issue and nothing
else of the package changes, or its fault is taken and no slot of its bundle takes effect. Every slot operation answers a
next state when a bundle is in issue, and stops with noBundle, the model's name for a call that no run makes (log 56), when none
is. -/
def Obligations.SlotOperationsChangeOnlyTheirBundle : Prop :=
  ∀ (s : State) (i : Instr) (sl : Slot) (w : Field), encode i = some (sl, w) →
    (∀ c, s.ctx? = some c →
      (∃ e : Effects, exec i s = .next (c.give e)) ∨
      (∃ cause detail, exec i s = .next (s.takeFault c.core c.wid cause detail (some c.ix.word.glyph)))) ∧
    (s.ctx? = none → exec i s = .fault .noBundle) ∧
    (∀ c (e : Effects), s.ctx? = some c → { c.give e with issue := s.issue } = s)

/-- A global access lands, where the core's TLB serves its address, the slice has a place left and no home is one that no route
leads to (R489). A load or an atomic writes the value before it to the lane's 32 bits of its destinations, every other lane and
register as before, and the load counter falls; LDU writes it to every lane of its mask. A store, and an atomic below die scope,
changes exactly the bytes at the address as the slice sees them; an atomic of die scope or wider acts on the home's, with what the
slice has marked, and leaves no copy in the slice; a load changes no byte. AFADD is binary32's sum to nearest even with subnormals.
Of two lanes that name one address, the lower goes first: a store leaves the higher lane's data, an atomic acts twice, and an event
that names the higher lane alone does nothing. The operation completes. REPLAY does for a resolved record's lanes what LOAD_COMPLETE
does. -/
def Obligations.GlobalAccessesLand : Prop :=
  ∀ (s : State) (c : CoreId) (w : WarpId) (x : Warp) (b : Block) (o : AsyncOp) (a m : MemAccess) (l : Fin 64) (e : TlbEntry) (j : Nat),
    Alone s c w x b o → Calm s → x.held = [] → o.kind = .mem a → j ≤ 5 → m.width = 2 ^ j → m.left.getLsbD l.val = true →
    (∀ k : Fin 64, k < l → m.left.getLsbD k.val = false) → m.dests.Nodup →
    (m.uniform = true → ∀ k : Fin 64, m.addrs[k] = m.addrs[l]) → m.addrs[l].toNat % m.width = 0 → Served s c x b m.addrs[l] e →
    s.clusters[clusterOf c].l2.length + 64 ≤ 65536 →
    let p := b.part
    let cl := clusterOf c
    let pa := s.leafBase e.leaf + m.addrs[l].toNat % 2 ^ 19
    s.noRoute pa = false →
    let n := m.width
    let old := seenNum s cl p pa n
    let data (k : Fin 64) : Nat := m.data[k].toNat
    let landed (v : Fin 64 → Nat) (t : State) : Prop := ∃ y : Warp, t.warp? c w = some y ∧ t.cores[c].ops = [] ∧
      y = { x with records := [], loads := x.loads - 1, v := y.v } ∧ (∀ d, d ∉ m.dests → y.v[d] = x.v[d]) ∧
      ∀ i d (k : Fin 64), m.dests[i]? = some d → (y.v[d].extractLsb' (32 * k.val) 32).toNat =
        if m.left.getLsbD k.val = true then v k / 2 ^ (32 * i) % 2 ^ 32 else (x.v[d].extractLsb' (32 * k.val) 32).toNat
    let byte (v q : Nat) : Byte := BitVec.ofNat 8 (v / 2 ^ (8 * (q - pa)))
    let same (t : State) : Prop := ∀ q, seen t cl p q = seen s cl p q
    let stored (t : State) (v : Nat) : Prop := ∀ q, seen t cl p q = if pa ≤ q ∧ q < pa + n then byte v q else seen s cl p q
    let reads := e.leaf.getLsbD 3
    let writes := e.leaf.getLsbD 4
    let plain := x.records = [] ∧ a = m
    let recorded (r : ReplayRecord) : Prop := x.records = [r] ∧ r.resolved = true ∧ r.opId = o.id ∧ r.access = m ∧
      a = { m with left := 0 } ∧ s.cores[c].holder ≠ some w ∧ b.halted = false
    let rule (op : AtomicOp) (signed : Bool) (old v : Nat) : Option Nat :=
      if op = .fadd ∧ n = 4 then
        some (Fmt.b32.ofVal .nearest 0 false ((Fmt.b32.decode false old).add .nearest (Fmt.b32.decode false (v % 2 ^ 32))).1).1
      else atomicRule op signed (8 * n) old (v % 2 ^ (8 * n)) (v / 2 ^ (8 * n) % 2 ^ (8 * n))
    (m.uniform = true ∨ m.left = BitVec.ofNat 64 (2 ^ l.val) →
      (m.kind = .load → reads = true → o.cls = .load →
        (plain → ∀ lanes : Mask, lanes.getLsbD l.val = true →
          ∃ t, exec (.loadComplete c o.id lanes) s = .next t ∧ landed (fun _ => old) t ∧ same t) ∧
        (∀ r, recorded r → ∃ t, exec (.replay c w) s = .next t ∧ landed (fun _ => old) t ∧ same t)) ∧
      (m.kind = .store → writes = true → o.cls = .store → plain → ∀ lanes : Mask, lanes.getLsbD l.val = true →
        ∃ t, exec (.storeComplete c o.id lanes) s = .next t ∧ t.warp? c w = some { x with stores := x.stores - 1 } ∧
          t.cores[c].ops = [] ∧ stored t (data l)) ∧
      (∀ op signed scope acq rel, m.kind = .atomic op signed scope acq rel → m.uniform = false → reads = true → writes = true →
        o.cls = .load → plain → ∀ lanes : Mask, lanes.getLsbD l.val = true →
        (scope < 3 → ∀ new, rule op signed old (data l) = some new →
          ∃ t, exec (.loadComplete c o.id lanes) s = .next t ∧ landed (fun _ => old) t ∧ stored t new) ∧
        (3 ≤ scope → (s.clusters[cl].l2.map (·.num)).Nodup → (∀ y ∈ s.clusters[cl].l2, y.marked &&& ~~~y.valid = 0) →
          let old := natOfBytes ((List.range n).map fun i => homeByte s cl (pa + i))
          ∀ new, rule op signed old (data l) = some new → ∃ t, exec (.loadComplete c o.id lanes) s = .next t ∧
            landed (fun _ => old) t ∧ (∀ q, pa ≤ q → q < pa + n → t.mem.get q = byte new q) ∧
            (acq = false → ∀ q, seen t cl p q =
              if pa ≤ q ∧ q < pa + n then byte new q else if q / 64 = pa / 64 then homeByte s cl q else seen s cl p q)))) ∧
    ∀ k : Fin 64, l < k → m.uniform = false → m.left = BitVec.ofNat 64 (2 ^ l.val + 2 ^ k.val) → m.addrs[k] = m.addrs[l] → plain →
      ∀ lanes : Mask, lanes.getLsbD k.val = true →
      (m.kind = .store → writes = true → o.cls = .store →
        (lanes.getLsbD l.val = true → ∃ t, exec (.storeComplete c o.id lanes) s = .next t ∧
          t.warp? c w = some { x with stores := x.stores - 1 } ∧ t.cores[c].ops = [] ∧ stored t (data k)) ∧
        (lanes.getLsbD l.val = false → exec (.storeComplete c o.id lanes) s = .next s)) ∧
      (∀ op signed scope acq rel, m.kind = .atomic op signed scope acq rel → scope < 3 → reads = true → writes = true → o.cls = .load →
        (∀ new last, rule op signed old (data l) = some new → rule op signed new (data k) = some last → lanes.getLsbD l.val = true →
          ∃ t, exec (.loadComplete c o.id lanes) s = .next t ∧ landed (fun i => if i = l then old else new) t ∧ stored t last) ∧
        (lanes.getLsbD l.val = false → exec (.loadComplete c o.id lanes) s = .next s))

/-- A walk serves a load's miss: a mapped page's leaf is installed in the cluster's TLB with its accessed bit set at its home,
every other byte of memory and the warp unchanged. Where the walk meets no valid leaf the load's lanes of the page are put in a
replay record of sub-cause 1 with the first lane's address, and nothing else of the warp changes. -/
def Obligations.PageWalkServesAMiss : Prop :=
  ∀ (s : State) (c : CoreId) (w : WarpId) (x : Warp) (b : Block) (o : AsyncOp) (a : MemAccess) (va : Word),
    Alone s c w x b o → Calm s → va.toNat < 2 ^ 52 → s.walkCache = [] → x.records = [] → x.held = [] →
    x.taken.count o.stroke < 2 →
    o.kind = .mem a → a.kind = .load → a.uniform = false →
    (∀ e ∈ s.cores[c].tlb ++ s.clusters[clusterOf c].tlb, e.vpage ≠ va.toNat / 2 ^ 19) →
    let here (l : Fin 64) : Bool := a.left.getLsbD l.val && a.addrs[l].toNat / 2 ^ 19 == va.toNat / 2 ^ 19
    (∃ l, here l = true) →
    (∀ leaf at_, s.walk s.parts[b.part].ptRoot va = .leaf leaf at_ false → leaf.getLsbD 3 = true →
      ∃ t e, exec (.pageWalk c w va) s = .next t ∧ t.warp? c w = some x ∧
        findTlb t.clusters[clusterOf c].tlb b.part (va.toNat / 2 ^ 19) = some e ∧ e.leaf = leaf ∧
        ∀ q, t.mem.get q = if q = at_ then s.mem.get q ||| 0x40 else s.mem.get q) ∧
    (s.walk s.parts[b.part].ptRoot va = .fault →
      ∃ t r, exec (.pageWalk c w va) s = .next t ∧ t.warp? c w = some { x with records := [r], taken := x.taken ++ [o.stroke] } ∧
        r.opId = o.id ∧ r.subCause = 1 ∧ r.resolved = false ∧ r.glyph = o.glyph ∧ r.access = { a with left := r.access.left } ∧
        (∀ l : Fin 64, r.access.left.getLsbD l.val = here l) ∧
        ∀ l : Fin 64, here l = true → (∀ k : Fin 64, k < l → here k = false) → r.firstVa = a.addrs[l])

/-- A core's only outstanding operation completes, and its class counter falls: LDB lands its active lanes (the canonical NaN in
a poisoned one), and waits while the core bundle that goes on has changed its bytes of AB, which it gives as the bundle before left them
(R78); STB stores its lanes and nothing else of its buffer; LDST fills its plane, scales and tag; a tile operation starts, and
MZERO clears its rows and their poison marks. The last row of an MLOOP adds its slice sums to its CB row, and of an MCVT converts its
CB row into AB, scaled blocks each with its scale; their flags join `fpc`, and no other byte of CB or AB changes; a row that meets a
poisoned plane is marked and stays. HLD, HST, HCLRC and HRAND move their vectors; HTIE and HNEAR write their tokens, HNEAR the
lowest row of least distance within twice the threshold and that distance, or all ones. That HLD, HST and HNEAR read or land all their
bytes at the one instant of completion is the model's (log 54), and so is `nv` of a slice sum (log 40). -/
def Obligations.BuffersAndEnginesComplete : Prop :=
  ∀ (s : State) (c : CoreId) (w : WarpId) (x : Warp) (b : Block) (o : AsyncOp), Alone s c w x b o →
    let k := s.cores[c]
    let ends (i : Instr) (y : Warp) (q : Core → Prop) : Prop := ∃ t, exec i s = .next t ∧
      t.warp? c w = some (y.modCount o.cls (· - 1)) ∧ t.cores[c].ops = [] ∧ t.mem = s.mem ∧ q t.cores[c]
    let done (n : Nat) (v : Word) (y : Warp) : Warp :=
      if n = 0 then y else { y with s := put y.s (fin 64 n) v, tokens := y.tokens &&& ~~~(BitVec.ofNat 64 (2 ^ n)) }
    let bytesAt {n : Nat} (v : BitVec n) (count : Nat) (m : Memory) (at_ : Nat) : Prop :=
      ∀ i, i < count → v.extractLsb' (8 * i) 8 = m.get (at_ + i)
    k.wb.wf = true → k.ab.wf = true → k.cb.wf = true →
    (∀ buf a ls d p, o.kind = .ldb buf a ls d p → o.cls = .load → ∀ m,
      ((buf = .ab → k.written = [] ∧ k.acted = []) → ∃ r : VReg,
        ends (.loadComplete c o.id m) { x with v := put x.v d r } (fun _ => True) ∧
        ∀ l, l < 64 → (r.extractLsb' (32 * l) 32).toNat =
          if !ls.getLsbD l then (x.v[d].extractLsb' (32 * l) 32).toNat else if p.getLsbD l then 0x7FC00000
          else (k.buf buf).num ((b.window buf).base + a + 4 * l) 4) ∧
      (buf = .ab → s.coreRuns c = true → (∃ y ∈ k.written, 0 < y.2 ∧ y.1 < b.ab.base + a + 256 ∧ b.ab.base + a < y.1 + y.2) →
        exec (.loadComplete c o.id m) s = .next s)) ∧
    (∀ buf a ls v, o.kind = .stb buf a ls v → o.cls = .store → ∀ m, ends (.storeComplete c o.id m) x fun k' =>
      ∀ q, let n := q - ((b.window buf).base + a)
        (k'.buf buf).get q = if (b.window buf).base + a ≤ q ∧ n < 256 ∧ ls.getLsbD (n / 4) = true
          then v.extractLsb' (8 * n) 8 else (k.buf buf).get q) ∧
    (∀ r a n poisoned, o.kind = .ldst r a n poisoned → ends (.ldstComplete c o.id) x fun k' =>
      bytesAt k'.planes[n].data 8192 k.wb (b.wb.base + a) ∧ bitsN k'.planes[n].tag 15 8 = bitsN r 47 40 ∧
      (r.getLsbD 34 = true →
        bytesAt k'.planes[n].scales (8192 / codeBytes (bitsN r 47 40) / (8 * 2 ^ bitsN r 39 38)) k.wb (b.wb.base + bitsN r 107 88)) ∧
      bitsN k'.planes[n].tag 7 6 = bitsN r 39 38 ∧ k'.planes[n].tag.getLsbD 5 = r.getLsbD 34 ∧ k'.planes[n].tag.getLsbD 0 = true ∧ k'.planes[n].tag.getLsbD 4 = poisoned ∧ ∀ m : Fin 2, m ≠ n → k'.planes[m] = k.planes[m]) ∧
    (∀ t, o.kind = .tile t → t.begun = false → ∃ u, exec (.tileOpStart c) s = .next u ∧ u.warp? c w = some x ∧
      u.cores[c].ops = [{ o with kind := .tile { t with begun := true } }]) ∧
    (∀ t n, o.kind = .tile t → t.begun = true → t.kind = .mzero → t.done = 0 → t.flags = 0 → t.poisoned = [] → t.rows ≤ n →
      ends (.tileOpComplete c n) x fun k' =>
        Wrote k.cb k'.cb (b.cb.base + t.start) (List.replicate (512 * t.rows) 0) ∧
        ∀ r, r ∈ k'.poison ↔ r ∈ k.poison ∧ ∀ i, i < t.rows → r ≠ b.cb.base + t.start + 512 * i) ∧
    (∀ t n, o.kind = .tile t → t.begun = true → t.done + 1 = t.rows → t.poisoned = [] → 1 ≤ n →
      let cf := t.config
      let words (vals : Nat → Nat) (e : Nat) : List Byte := (List.range 128).flatMap fun i => leBytes e (vals i)
      let completes (fs : Nat → Flags) (q : Core → Prop) : Prop := ∃ fl : Flags,
        ends (.tileOpComplete c n) { x with fpc := x.fpc ||| (t.flags ||| fl) } q ∧
        ∀ i, fl.getLsbD i = true ↔ ∃ n, n < 128 ∧ (fs n).getLsbD i = true
      (t.kind = .mloop →
        let plane := k.planes[k.active]
        let abRow := ((t.start : Int) + signedOf 20 (bitsN cf 102 83) * t.done).toNat
        let at_ := b.cb.base + ((t.start2 : Int) + signedOf 18 (bitsN cf 120 103) * t.done).toNat
        let acc (i : Nat) : Nat := k.cb.num (at_ + 4 * i) 4
        (plane.tag.getLsbD 4 = true → ∃ u, exec (.tileOpComplete c n) s = .next u ∧ u.cores[c].ops = [] ∧ u.cores[c].cb = k.cb ∧
          ∀ r, r ∈ u.cores[c].poison ↔ r ∈ k.poison ∨ r = at_) ∧
        (plane.tag.getLsbD 4 = false → ∀ ka kw, Fmt.ofCode (bitsN cf 22 15) = some ka → Fmt.ofCode (bitsN cf 11 4) = some kw →
          ∃ (vals : Nat → Nat) (fs : Nat → Flags), completes fs (fun k' => Wrote k.cb k'.cb at_ (words vals 4)) ∧
            ∀ i, i < 128 → ∃ sum f, RowSum cf t.ftz plane k.ab b.ab.base abRow ka kw i (sum, f) ∧
              let x := Fmt.b32.decode false (acc i)
              let y := Fmt.b32.decode false sum
              let r := (x.add .nearest y).1
              let w := Fmt.b32.ofVal .nearest 0 t.ftz r
              if ka.isInt = true then vals i = (acc i + sum) % 2 ^ 32 ∧ fs i = 0
              else vals i = w.1 ∧ fs i = f ||| (w.2 &&& flOf) |||
                if r.isNan = true ∧ x.isNan = false ∧ y.isNan = false then flNv else 0)) ∧
      (t.kind = .mcvt → ∀ f, Fmt.ofCode (bitsN t.record 47 40) = some f →
        let at_ := b.cb.base + t.start + 512 * t.done
        let out := b.ab.base + t.start2 + t.done * 128 * f.bytes
        let bad : Prop := at_ ∈ k.poison
        let mode := Mode.ofCode t.rm.toNat
        let code (i : Nat) : Nat := k.cb.num (at_ + 4 * i) 4
        let src (i : Nat) (v : FVal) : Prop := (bad → v = .nan false) ∧ (¬bad → v = Fmt.b32.decode t.ftz (code i))
        let bits (i : Nat) : Nat := if mode = .stochastic then
          ((mix t.rngk (t.rngc + BitVec.ofNat 64 t.done) (i % 64)).extractLsb' (16 * (i / 64)) 16).toNat else 0
        let made (i : Nat) (v : FVal) : Nat × Flags := f.convert mode (bits i) t.ftz true v
        (f.isInt = true → ∃ vals fs, completes fs (fun k' => Wrote k.ab k'.ab out (words vals 1)) ∧ ∀ i, i < 128 →
          let v := signedOf 32 (code i)
          let z := if f = .i8 then max (-128) (min 127 v) else max 0 (min 255 v)
          (bad → vals i = 0 ∧ fs i = flNv) ∧ (¬bad → vals i = (z % 256).toNat ∧ fs i = if z = v then 0 else flNv)) ∧
        (f.isInt = false → t.record.getLsbD 34 = false → ∃ vals fs,
          completes fs (fun k' => Wrote k.ab k'.ab out (words vals f.bytes)) ∧ ∀ i v, i < 128 → src i v → (vals i, fs i) = made i v) ∧
        (f.isP8 = true → t.record.getLsbD 34 = true →
          let blk := 8 * 2 ^ bitsN t.record 39 38
          let scaleAt := b.ab.base + bitsN t.record 107 88 + (t.start2 - bitsN t.record 67 48 + t.done * 128) / blk
          ∃ (vals : Nat → Nat) (fs : Nat → Flags) (scale : Nat → Nat) (m : Memory), Wrote k.ab m out (words vals 1) ∧
            completes fs (fun k' => Wrote m k'.ab scaleAt ((List.range (128 / blk)).map fun j => BitVec.ofNat 8 (scale j))) ∧
            ∀ j, j < 128 / blk →
              let inside (i : Nat) (v : FVal) : Prop := i < 128 ∧ i / blk = j ∧ src i v
              let finite : Prop := ∀ i v, inside i v → v.isNan = false ∧ v.isInf = false
              (¬finite → scale j = 0xFF ∧ ∀ i v, inside i v → vals i = 0 ∧ fs i = if v.isSnan then flNv else 0) ∧
              (finite → (∀ i v, inside i v → worth v = 0) → scale j = 0x7F ∧ ∀ i v, inside i v → vals i = 0 ∧ fs i = 0) ∧
              ∀ (top : ℚ) (p q : Int), finite → top ≠ 0 → (∀ i v, inside i v → |worth v| ≤ top) →
                (∃ i v, inside i v ∧ |worth v| = top) → 2 ^ p ≤ top → top < 2 ^ (p + 1) →
                2 ^ q ≤ worth (f.decode false f.maxCode) → worth (f.decode false f.maxCode) < 2 ^ (q + 1) →
                (scale j : Int) = max 0 (min 254 (p - q + 127)) ∧
                ∀ i neg y z, inside i (.fin neg y z) → (vals i, fs i) = made i (.fin neg y (z + (127 - (scale j : Int))))))) ∧
    (∀ a d, o.kind = .hld a d → ∃ v : HReg, bytesAt v 1024 k.ab (b.ab.base + a) ∧
      ends (.hAsyncComplete c o.id) { x with h := put x.h d v } fun _ => True) ∧
    (∀ a v, o.kind = .hst a v → ends (.hAsyncComplete c o.id) x fun k' =>
      Wrote k.ab k'.ab (b.ab.base + a) ((List.range 1024).map fun i => v.extractLsb' (8 * i) 8)) ∧
    (∀ n, o.kind = .hclrc n → ends (.hAsyncComplete c o.id) { x with c := put x.c n 0 } fun _ => True) ∧
    (∀ d v, o.kind = .hrand d v → ends (.hAsyncComplete c o.id) { x with h := put x.h d v } fun _ => True) ∧
    (∀ d n, o.kind = .htie d n → ends (.hAsyncComplete c o.id) (done d.val (at_ n) x) fun _ => True) ∧
    (∀ tok dist q r, o.kind = .hnear tok dist q r →
      let bit (i n : Nat) : Bool := (k.wb.get (b.wb.base + bitsN r 67 48 + 1024 * i + n / 8)).getLsbD (n % 8)
      let apart (i : Nat) : Nat := ((List.range 8192).filter fun n => q.getLsbD n != bit i n).length
      let rows := (bitsN r 87 68 + 1) / 1024
      let near (i : Nat) : Prop := i < rows ∧ (bitsN o.field 11 0 = 0 ∨ apart i ≤ 2 * bitsN o.field 11 0)
      ∃ best d, ends (.hAsyncComplete c o.id) (done dist.val (at_ d) (done tok.val (at_ best) x)) (fun _ => True) ∧
        ((∃ i, near i) → near best ∧ d = apart best ∧ ∀ i, near i → d < apart i ∨ (d = apart i ∧ best ≤ i)) ∧
        ((∀ i, ¬near i) → best = 0xFFFFFFFF ∧ d = 0xFFFFFFFF))

/-- The X path goes on. A copy that nothing blocks takes its locks while no stroke that holds an MADV is in issue. The next element in
index order moves (the model's order, log 5): read from its buffer, from memory as the slice sees it, for GET from its home, for GATH
at the row that its index names; landed in its buffer, through the slice, or for PUT at its home, on whichever package that is (log
13); COPYR lands its sum or maximum with what stands there, at the home for global memory. No other byte of the target changes, and
each byte is due to be subtracted from the copy's barrier when the core bundle ends, the barrier tested after; an element that would take
the counter out of its range ends the copy as BARRIER instead, over any earlier status, with the bytes of the whole elements left (landing
and counting by whole elements, and that BARRIER stands over another status, are log 9). A row of GATH outside its window is not written, and counts. A copy whose
elements have landed completes, its token holding its status and detail, a PUT's signal being 1 higher by then. SIGNAL adds or sets its
word. TBLD fills its table or program. LAUNCH answers as R250 has it: of a node in no loaded graph 0x103, of one that cannot be read
0x104, of a supervisor's for a user warp 0x11, of one with pred_count 0 0x102; else pred_count falls by 1, and at 0 the node is
validated and queued. A PUT to a package that does not answer ends after 50 ms as unreachable (status 3) with the bytes it has not
moved, and one to a package that no route leads to ends so at once. -/
def Obligations.CopiesMoveAndComplete : Prop :=
  ∀ (s : State) (c : CoreId) (w : WarpId) (x : Warp) (b : Block) (o : AsyncOp), Alone s c w x b o →
    let k := s.cores[c]
    let cl := clusterOf c
    let p := b.part
    let n := bitsN o.field 30 25
    let token (status detail : Nat) : Warp :=
      let y := if n = 0 then x
        else { x with s := put x.s (fin 64 n) (at_ (status + 2 ^ 32 * (detail % 2 ^ 32)))
                      tokens := x.tokens &&& ~~~(BitVec.ofNat 64 (2 ^ n)) }
      y.modCount o.cls (· - 1)
    let ends (u : State) (status detail : Nat) : Prop := u.warp? c w = some (token status detail) ∧ u.cores[c].ops = []
    let goes (va : Word) (need : Need) (pa : Nat) : Prop := s.noRoute pa = false ∧
      ((va.getLsbD 63 = true ∧ va.extractLsb' 52 11 ≠ s.packageId ∧ pa = remotePa va p) ∨
        ((va.getLsbD 63 = true ∧ va.extractLsb' 52 11 = s.packageId ∨ va.toNat < 2 ^ 52) ∧
          ∃ e, Served s c x b (va &&& 0x000FFFFFFFFFFFFF) e ∧ permits e.leaf need = true ∧
            pa = s.leafBase e.leaf + va.toNat % 2 ^ 19))
    let near (va : Word) (need : Need) (pa : Nat) : Prop := s.noRoute pa = false ∧
      ∃ e, Served s c x b va e ∧ permits e.leaf need = true ∧ pa = s.leafBase e.leaf + va.toNat % 2 ^ 19
    let field (pa i : Nat) : Nat := k.ab.num (pa + 4 * i) 4
    (∀ t, o.kind = .copy t → t.begun = false → t.locks = [] ∨ k.holder = none →
      ∃ u, exec (.copyBegin c o.id) s = .next u ∧ u.warp? c w = some x ∧
      u.cores[c].ops = [{ o with kind := .copy { t with begun := true } }]) ∧
    (∀ t, o.kind = .copy t → t.begun = true → t.stopped = false → t.quarantine = [] → t.signal = none → t.cursor < shCount t.shape →
      k.acted = [] → Calm s → s.clusters[cl].l2.length + 64 ≤ 65536 → (∀ buf, (k.buf buf).wf = true) →
      let e := shE t.shape
      let from_ := spaceBuf (shFromSpace t.shape)
      let into_ := spaceBuf (shToSpace t.shape)
      let row := t.cursor / shExt t.shape 0
      let index := k.ab.num (b.ab.base + t.list + 4 * row) 4
      let source := t.fromBase.toNat + if t.kind = .gath then index * shFromS t.shape 1 + t.cursor % shExt t.shape 0 * e
        else shReadOff t.shape t.cursor
      let target := t.toBase + BitVec.ofNat 64 (shWriteOff t.shape t.cursor)
      let outside : Prop := t.kind = .gath ∧ ∃ buf, from_ = some buf ∧
        (b.window buf).size < t.fromBase.toNat + index * shFromS t.shape 1 + shExt t.shape 0 * e
      let room : Prop := ∀ a, t.barrier = some a → -2 ^ 31 ≤ signedOf 32 (field (b.ab.base + a) 3) - e
      let lands (u : State) (t' : CopyOp) : Prop := exec (.copyBytesLand c o.id 1) s = .next u ∧ u.warp? c w = some x ∧
        (∃ cs, u.cores[c].ops = [{ o with kind := .copy t', counts := o.counts ++ cs }]) ∧
        u.cores[c].acted = match t.barrier with | none => [] | some a => [(b.ab.base + a, e)]
      let moved (u : State) : Prop := lands u { t with cursor := t.cursor + 1 }
      let still (u : State) (but : Option Buf) : Prop := ∀ buf, some buf ≠ but → u.cores[c].buf buf = k.buf buf
      let max32 (old new : Nat) : Nat :=
        let y := Fmt.b32.decode false old
        let z := Fmt.b32.decode false new
        if y.isNan || z.isNan then 0x7FC00000 else if y.lt z || (y.isZero && z.isZero && y.isNeg && !z.isNeg) then new else old
      let sum (f : Fmt) (old new : Nat) : Nat := (f.ofVal .nearest 0 false ((f.decode false old).add .nearest (f.decode false new)).1).1
      let made (old new : Nat) : Nat := match t.kind with
        | .copyr op => if op = 0 then sum .b32 old new else if op = 1 then sum .bf16 old new else max32 old new
        | _ => new
      let held (buf : Buf) : Nat := (k.buf buf).num ((b.window buf).base + source) e
      let copies : Prop := t.kind ≠ .put ∧ t.kind ≠ .get
      (¬room → from_.isSome = true → into_.isSome = true → ∃ u, exec (.copyBytesLand c o.id 1) s = .next u ∧ u.warp? c w = some x ∧
        u.cores[c].ops = [{ o with kind := .copy { t with stopped := true, status := 1, detail := (shCount t.shape - t.cursor) * e } }] ∧
        u.cores[c].acted = [] ∧ still u none ∧ u.mem = s.mem) ∧
      (room → outside → t.status = 0 → into_.isSome = true → ∃ u,
        lands u { t with cursor := t.cursor + 1, status := 4, detail := row } ∧ still u none ∧ u.mem = s.mem) ∧
      (room → copies → ¬outside → ∀ f i, from_ = some f → into_ = some i →
        let at_ := (b.window i).base + target.toNat
        ∃ u, moved u ∧ still u (some i) ∧ u.mem = s.mem ∧
          Wrote (k.buf i) (u.cores[c].buf i) at_ (leBytes e (made ((k.buf i).num at_ e) (held f)))) ∧
      (room → copies → ∀ i pa, source % e = 0 → from_ = none → into_ = some i → near (BitVec.ofNat 64 source) Need.read pa →
        let at_ := (b.window i).base + target.toNat
        ∃ u, moved u ∧ still u (some i) ∧
          Wrote (k.buf i) (u.cores[c].buf i) at_ (leBytes e (made ((k.buf i).num at_ e) (seenNum s cl p pa e)))) ∧
      (room → copies → ¬outside → ∀ f pa, target.toNat % e = 0 → from_ = some f → into_ = none →
        ((∀ op, t.kind ≠ .copyr op) → near target Need.write pa → ∃ u, moved u ∧ still u none ∧ ∀ q, seen u cl p q =
          if pa ≤ q ∧ q < pa + e then BitVec.ofNat 8 (held f / 2 ^ (8 * (q - pa))) else seen s cl p q) ∧
        (∀ op, t.kind = .copyr op → near target Need.both pa → ∃ u, moved u ∧ still u none ∧
          let old := natOfBytes ((List.range e).map fun i => homeByte s cl (pa + i))
          ∀ q, pa ≤ q → q < pa + e → u.mem.get q = BitVec.ofNat 8 (made old (held f) / 2 ^ (8 * (q - pa))))) ∧
      (t.kind = .put → t.barrier = none → ∀ f pa, from_ = some f → into_ = none → goes target Need.write pa →
        ∃ u, moved u ∧ still u none ∧ Wrote s.mem u.mem pa (leBytes e (held f))) ∧
      (t.kind = .get → t.barrier = none → ∀ i pa, from_ = none → into_ = some i → goes (BitVec.ofNat 64 source) Need.read pa →
        ∃ u, moved u ∧ still u (some i) ∧ u.mem = s.mem ∧
          Wrote (k.buf i) (u.cores[c].buf i) ((b.window i).base + target.toNat) (s.mem.read pa e))) ∧
    (∀ a m, k.acted = [(b.ab.base + a, m)] → k.ab.wf = true →
      let pa := b.ab.base + a
      let pending := signedOf 32 (field pa 3)
      (-2 ^ 31 : Int) ≤ pending - m →
      let ab := (s.tickCore c).cores[c].ab
      let done : Prop := field pa 1 = field pa 0 ∧ pending - m = 0
      ab.num pa 4 = field pa 0 ∧ ab.num (pa + 12) 4 = ((pending - m) % 2 ^ 32).toNat ∧
      (done → ab.num (pa + 4) 4 = 0 ∧ ab.num (pa + 8) 4 = (field pa 2 + 1) % 2 ^ 32) ∧
      (¬done → ab.num (pa + 4) 4 = field pa 1 ∧ ab.num (pa + 8) 4 = field pa 2) ∧
      ∀ q, q < pa ∨ pa + 16 ≤ q → ab.get q = k.ab.get q) ∧
    (∀ t, o.kind = .copy t → t.begun = true → t.stopped = true ∨ (t.quarantine = [] ∧ shCount t.shape ≤ t.cursor) →
      (t.signal = none → ∃ u, exec (.copyComplete c o.id) s = .next u ∧ ends u t.status t.detail ∧ u.mem = s.mem) ∧
      (∀ va pa, t.signal = some va → t.after = [] → t.status ≠ 3 → Quiet s p → goes va Need.both pa →
        ∃ u, exec (.copyComplete c o.id) s = .next u ∧ ends u t.status t.detail ∧
          Wrote s.mem u.mem pa (leBytes 8 ((s.mem.num pa 8 + 1) % 2 ^ 64)))) ∧
    (∀ add va v pa, o.kind = .signal add va v → Quiet s p → goes va Need.both pa → ∃ u, exec (.copyComplete c o.id) s = .next u ∧
      u.warp? c w = some (x.modCount o.cls (· - 1)) ∧ u.cores[c].ops = [] ∧
      Wrote s.mem u.mem pa (leBytes 8 (if add = true then (s.mem.num pa 8 + v.toNat) % 2 ^ 64 else v.toNat))) ∧
    (∀ bank sel va pa, o.kind = .tbld bank sel va → Quiet s p → near va Need.read pa → va.toNat % 4 = 0 →
      let program := sel.getLsbD 8
      va.toNat % 2 ^ 19 + (if program then 128 else 1024) ≤ 2 ^ 19 →
      ∃ u y, exec (.copyComplete c o.id) s = .next u ∧ ends u 0 0 ∧ u.mem = s.mem ∧ u.cores[c].banks = put k.banks bank y ∧
        (program = true → 280 ≤ sel.toNat → sel.toNat < 320 → y.tables = k.banks[bank].tables ∧
          (∀ m : Fin 40, m.val ≠ sel.toNat - 280 → y.programs[m] = k.banks[bank].programs[m]) ∧
          ∀ i, i < 32 → (y.programs[fin 40 (sel.toNat - 280)].extractLsb' (32 * i) 32).toNat = s.mem.num (pa + 4 * i) 4) ∧
        (program = false → sel.toNat < 8 → y.programs = k.banks[bank].programs ∧
          (∀ m : Fin 8, m.val ≠ sel.toNat → y.tables[m] = k.banks[bank].tables[m]) ∧
          ∀ i, i < 256 → (y.tables[fin 8 sel.toNat].extractLsb' (32 * i) 32).toNat = s.mem.num (pa + 4 * i) 4)) ∧
    (∀ node, o.kind = .launch node → Quiet s p → s.parts[p].resetting = false → s.parts[p].suspended = false →
      let answers (status detail : Nat) (m : Memory) : Prop :=
        ∃ u, exec (.copyComplete c o.id) s = .next u ∧ ends u status detail ∧ u.mem = m
      (s.parts[p].graphs = [] → answers 0x103 0 s.mem) ∧
      ∀ g i, s.parts[p].graphs = [g] → g.state = 1 ∨ g.state = 2 → i < g.nodes → node.toNat = g.header.toNat + 64 + 64 * i → node.toNat % 64 = 0 →
        (s.walk s.parts[p].ptRoot node = .fault → ∃ u, exec (.copyComplete c o.id) s = .next u ∧ ends u 0x104 0) ∧
        ∀ pa, Mapped s p node Need.execWrite pa →
          let pred := s.mem.num (pa + 36) 4
          let barred : Prop := b.supervisor = false ∧ (s.mem.num pa 64).testBit 162 = true
          (barred → answers 0x11 0 s.mem) ∧ (¬barred → pred = 0 → answers 0x102 0 s.mem) ∧
          (¬barred → pred ≠ 0 → ∀ m : Memory, m.wf = true → Wrote s.mem m (pa + 36) (leBytes 4 (pred - 1)) →
            (pred ≠ 1 → answers 0x100 (pred - 1) m) ∧
            (pred = 1 → ∀ r, let v : State := { s with mem := m }
              v.readNode p (dieOf c).val node = (v, some r) →
              (∀ code off, v.nodeFault p r g.nodes g.supervisor g.prio7 = some (code, off) →
                ∃ u, exec (.copyComplete c o.id) s = .next u ∧ ends u code 0 ∧ u.launches = s.launches) ∧
              (v.nodeFault p r g.nodes g.supervisor g.prio7 = none → bitsN r.node 154 152 < 7 → ∃ u l,
                exec (.copyComplete c o.id) s = .next u ∧ ends u 0x101 0 ∧ u.mem = m ∧ u.launches = s.launches ++ [l] ∧
                l.node = r.node ∧ l.nodeAddr = node ∧ l.part = p ∧ l.graph = g.header ∧ l.level = bitsN r.node 154 152 ∧
                l.queued = true ∧ l.next = 0 ∧ l.resident = 0 ∧ ∀ d : DieId, l.claims[d] = [])))) ∧
    (∀ t, o.kind = .copy t → t.kind = .put → shToSpace t.shape = 0 → t.signal = none → t.quarantine = [] → t.stopped = false →
      t.cursor < shCount t.shape → t.begun = true → s.migrations = [] → s.clusters[cl].l2.length + 64 ≤ 65536 →
      let package := (t.target t.cursor).extractLsb' 52 11
      let routed : Prop := ∃ link, (package, link) ∈ s.routes ∧ s.lanes[link] ≠ 0
      (t.target t.cursor).getLsbD 63 = true → package ≠ s.packageId →
      ∃ u, exec (.remoteRequestTimeout c o.id) s = .next u ∧
        u.warp? c w = some (token 3 ((shCount t.shape - t.cursor) * shE t.shape)) ∧ u.mem = s.mem ∧
        (routed → shFromSpace t.shape ≠ 0 → o.sent + 900000000 ≤ u.time) ∧ (¬routed → u.time = s.time))

/-- While the cluster's slice can take what is read through it (log 55): a stroke whose bytes and entries are at hand is put in the stroke buffer with the offset after it, the warp otherwise as it
was; it has 1 to 24 bundles, every field of each is idle or an operation whose register names lie below the descriptor's
limits, privileged only in a supervisor kernel, transfers of control stand in the last bundle and head waits in the first. Of a
stroke fetched whole, whose glyphs lie on a page that the core's TLB serves for execution, each bundle is the one that its glyph encodes,
with the entries that the decode tables hold, the first at the warp's offset, each at the offset behind the one before, the last alone
with the stroke-end flag (R119, R120). The refill of a missing entry that the filter passes installs it, and the glyphs before the miss join the stroke buffer, filtered
alike. What the buffer holds from before is taken as filtered. -/
def Obligations.StrokesAreFetchedAndFiltered : Prop :=
  ∀ (s u : State) (c : CoreId) (w : WarpId) (x : Warp) (b : Block),
    s.warp? c w = some x → s.cores[c].block? x.bid = some b → awaitsFetch x = true → b.halted = false →
    s.sliceStuck (clusterOf c) = false →
    let sound (cw : Cword) : Prop := ∀ (i : Fin 9) sl, Slot.ofNum i.val = some sl →
      opcodeOf cw.slots[i] = 0 ∨ ∃ op, decode sl cw.slots[i] = .ok op ∧ (∀ r ∈ names op, r.n < b.maxOf r.cls) ∧
        (isPrivileged op = true → b.supervisor = true)
    (∀ cw ∈ x.stroke, sound cw) →
    (∀ words next, s.fetchStroke c x b = (u, .ok (words, next)) →
      (∃ t, exec (.strokeFetch c w) s = .next t ∧
        t.warp? c w = some { x with stroke := words, decoded := true, next := BitVec.ofNat 32 next } ∧
        (∀ v : WarpId, v ≠ w → t.warp? c v = s.warp? c v) ∧ ∀ d : CoreId, d ≠ c → t.cores[d] = s.cores[d]) ∧
      1 ≤ words.length ∧ words.length ≤ 24 ∧
      ∀ n cw, words[n]? = some cw → ∀ (i : Fin 9) sl, Slot.ofNum i.val = some sl →
        opcodeOf cw.slots[i] = 0 ∨
        ∃ op, decode sl cw.slots[i] = .ok op ∧ (∀ r ∈ names op, r.n < b.maxOf r.cls) ∧
          (isPrivileged op = true → b.supervisor = true) ∧ (isTransfer op = true → n + 1 = words.length) ∧
          (isHeadWait op = true → n = 0)) ∧
    (∀ words next e, s.fetchStroke c x b = (u, .ok (words, next)) → x.stroke = [] → Calm s →
      s.clusters[clusterOf c].l2.length + 64 ≤ 65536 →
      let base := bitsN b.kdesc 63 0
      let from_ := base + x.pc.toNat
      from_ < 2 ^ 52 → from_ % 2 ^ 19 + 24 * 88 ≤ 2 ^ 19 → Served s c x b (at_ from_) e → permits e.leaf Need.exec = true →
      (∀ i, i < 9 → bitsN b.header (8 * (0x1A + i) + 7) (8 * (0x1A + i)) ≤ 12) → (∀ d ∈ s.cores[c].decode, holesOk d.entry = true) →
      ∃ off : Nat → Nat, off 0 = x.pc.toNat ∧ off words.length = next ∧ ∀ n cw, words[n]? = some cw →
        GlyphAt (fun i => seen s (clusterOf c) b.part (s.leafBase e.leaf + (base + i) % 2 ^ 19)) b.header
          (fun i ix => s.cores[c].entry? b.part b i ix) (off n) cw (decide (n + 1 = words.length)) (off (n + 1))) ∧
    (∀ slot index k v bs, s.fetchStroke c x b = (u, .miss slot.val index k) →
      u.codeRead c b (entryAddr b slot.val index) (if slot.val = 9 then 2 else 8) = (v, .inl bs) → v.poisonSectors = [] →
      installRule b slot.val (ofBytes 64 bs) = none → v.cores[c].entry? b.part b slot.val index = none →
      ∃ t held next, exec (.quillRefill c w slot index) s = .next t ∧
        t.warp? c w = some { x with stroke := x.stroke ++ held, next := next } ∧ (∀ cw ∈ held, sound cw) ∧
        t.cores[c].entry? b.part b slot.val index = some (ofBytes 64 bs))

/-- The arbiter. A warp at its boundary is eligible when its stroke is decoded, its boundary drained, its counts fit, nothing withholds
its stroke and its head wait is satisfied (R395; R30, R37 and R167 say when). With no warp holding the core, none restored in
mid-stroke and none withheld by the occupancy of F or M alone, the eligible warp of the highest priority, then longest eligible, then
of the lowest slot takes the core, its stroke in issue, its level its launch's and its waiting gone; the model's own notes of grants
and of what withheld each warp follow (log 36), and of no other warp anything else changes. An eligible warp that is not granted counts
the core bundle. A warp that waits for nothing but its BARW takes the fault of its first check that fails, instead of waiting and
without being granted, that of the lowest slot first (the order of the slots, and of the two scalars, is log 41). With no eligible
warp, no fence of the core's warps still to act and no row still to be read, a core bundle passes without issue: every pending write
of every warp comes one bundle nearer, the core-bundle counter rises by one and the core's time, counted in halves of a 9 GHz period
(the model's unit, log 46), by twice the divisor (R466) times the level's clocks. -/
def Obligations.TheArbiterGrantsOrABundlePasses : Prop :=
  ∀ (s : State) (c : CoreId),
    let k := s.cores[c]
    let stands (w : WarpId) (x : Warp) (b : Block) : Prop := s.warp? c w = some x ∧ k.block? x.bid = some b
    let may (w : WarpId) (x : Warp) (b : Block) : Prop := stands w x b ∧ AtRest k x b ∧ Unoccupied k x
    let eligible (w : WarpId) (x : Warp) : Prop := ∃ b, may w x b ∧ HeadOver k x b
    let since (x : Warp) : Nat := x.eligibleSince.getD 0
    k.arrived = [] → (∀ w x, s.warp? c w = some x →
      x.state ≠ .midStroke ∧ (x.state = .boundary → x.pos = 0) ∧ ∀ t ∈ x.traps, t.kind ≤ 2) →
    (∀ w x, k.holder ≠ some w → eligible w x → ∃ y, (s.coreBundle c k.standings).warp? c w = some y ∧ y.eligibleSince = some (since x + 1)) ∧
    (s.coreRuns c = true → k.holder = none → k.first = none → k.sticky = [] → (∀ b ∈ k.blocks, b.restoring = false) →
    (∀ w x b, stands w x b → AtRest k x b → HeadOver k x b → Unoccupied k x) →
    (∀ w x b, eligible w x → stands w x b → (∀ v y b', may v y b' → barwRaises y b' = none) →
      (∀ v y, eligible v y → v ≠ w →
        y.level < x.level ∨ (y.level = x.level ∧ since y < since x) ∨ (y.level = x.level ∧ since y = since x ∧ w < v)) →
      ∃ t, exec (.strokeGrant c) s = .next t ∧ t.cores[c].holder = some w ∧
        t.warp? c w = some
          { x with eligibleSince := none, level := s.levelOf b, waited := 0, trapTaken := false, state := .midStroke, barred := false
                   strokes := x.strokes + 1
                   taken := x.taken.filter fun n => k.ops.any fun o => o.warp == w && o.stroke == n } ∧
        (∀ v : WarpId, v ≠ w → t.warp? c v =
          (s.warp? c v).map fun y => if (k.block? y.bid).isSome then { y with barred := false } else y) ∧ t.mem = s.mem ∧ t.clusters = s.clusters ∧ t.parts = s.parts) ∧
    (∀ w x b cause detail, may w x b → barwRaises x b = some (cause, detail) → (∀ v y b', may v y b' → v < w → barwRaises y b' = none) →
      exec (.strokeGrant c) s = .next (s.takeFault c w cause detail none)) ∧
    ((∀ w x, ¬eligible w x) → (∀ w x, s.warp? c w = some x → x.fences = []) → k.rowUnread = false →
      ∃ t, exec (.exposedWriteLand c) s = .next t ∧ t.cores[c].holder = none ∧ t.mem = s.mem ∧
        t.cores[c].counters[0] = k.counters[0] + 1 ∧
        t.cores[c].tick = k.tick + 2 * s.clusters[clusterOf c].div * [1, 2, 4].getD (max k.thermal k.current) 4 ∧
        (∀ w x, s.warp? c w = some x → (∀ q ∈ x.pending, 2 ≤ q.left) → (k.block? x.bid).isSome = true → ∃ y : Warp, t.warp? c w = some y ∧
          y = { x with pending := x.pending.map (fun q => { q with left := q.left - 1 })
                       eligibleSince := y.eligibleSince, waited := y.waited }) ∧
        ∀ d : CoreId, d ≠ c → t.cores[d] = s.cores[d]))

/-- At a boundary with nothing pending: SHRINK_RELEASE lowers the allotment, and where it ends the rotation leaves every vector
name its value; an exited warp retires; a warp that has waited an ageing interval rises one level, not above 6. CSYNC_RELEASE:
when each of a group's eight blocks has its warp at CSYNC, every one gets 0, or 1 in a broken group, in its destination and goes on
first, ordered after what the eight blocks did before (R42), which the model keeps as a fence (after 0x0F) over every operation of
theirs still outstanding, loads among them, whatever barriers they name (log 57, DEDUCED); while one has not come and the group is
whole, nothing changes. -/
def Obligations.WarpsAtTheirBoundaries : Prop :=
  (∀ (s : State) (c : CoreId) (w : WarpId) (x : Warp), s.warp? c w = some x → x.pending = [] →
    (∀ a, x.shrink = some a → x.state = .boundary → s.cores[c].ops = [] → x.records = [] → x.held = [] → x.curV ≤ 128 → ∃ t y, exec (.shrinkRelease c w) s = .next t ∧
      t.warp? c w = some y ∧ y = { x with v := y.v, shrink := none, curV := x.curV - a.v, curH := x.curH - a.h, curC := x.curC - a.c, curK := x.curK - a.k } ∧
      ∀ n : Fin 128, n.val < x.curV - a.v → y.vreg n.val = x.vreg n.val) ∧
    (x.state = .exited → ∃ t, exec (.warpRetire c w) s = .next t ∧ t.warp? c w = some { x with state := .retired } ∧
      ∀ v : WarpId, v ≠ w → t.warp? c v = s.warp? c v) ∧
    (∀ b, s.cores[c].block? x.bid = some b →
      let a := bitsN s.parts[b.part].qos 47 40
      let n := 18000 * min 65535 ((a % 16 + 1) * 2 ^ (a / 16))
      (n ≤ x.waited → x.level < 6 → ∃ t, exec (.warpAgeing c w) s = .next t ∧
        t.warp? c w = some { x with level := x.level + 1, waited := x.waited - n }) ∧
      (x.waited < n ∨ 6 ≤ x.level → exec (.warpAgeing c w) s = .next s))) ∧
  (∀ (s : State) (cl : ClusterId) (p : PartId) (node : Word) (g : Nat) (bl : Fin 8 → Block) (wid : Fin 8 → WarpId) (x : Fin 8 → Warp),
    s.parts[p].saved = [] →
    (∀ i : Fin 8, s.cores[coreOf cl i].blocks = [bl i] ∧ (bl i).part = p ∧ (bl i).nodeAddr = node ∧ (bl i).group = some g ∧
      (bl i).warps = [wid i] ∧ (x i).bid = (bl i).bid ∧ s.warp? (coreOf cl i) (wid i) = some (x i) ∧ (x i).state = .boundary) →
    let broken : Prop := ∃ i, (bl i).broken = true
    (∀ d : Fin 8 → Fin 64, (∀ i, (x i).csync = some (d i)) →
      ∃ t, exec (.csyncRelease cl p node g) s = .next t ∧ ∀ i : Fin 8, ∃ (v : Word) (fs : List Fence),
        (broken → v = 1) ∧ (¬broken → v = 0) ∧
        t.warp? (coreOf cl i) (wid i) =
          some { x i with csync := none, s := if d i = 0 then (x i).s else put (x i).s (d i) v, fences := (x i).fences ++ fs } ∧
        ((∀ j : Fin 8, (∀ o ∈ s.cores[coreOf cl j].ops, o.warp ≠ wid j) ∧ ∀ f ∈ (x j).fences, f.ids = []) → fs = []) ∧
        (∀ j : Fin 8, ∀ o ∈ s.cores[coreOf cl j].ops, o.warp = wid j →
          ∃ f ∈ fs, o.id ∈ f.ids ∧ f.after = 0x0F) ∧
        t.cores[coreOf cl i].first = some (wid i)) ∧
    (¬broken → (∃ i, (x i).csync = none) → exec (.csyncRelease cl p node g) s = .next s))

/-- The dispatchers: a claim takes the launch's next indices below its count for a die; a claimed block goes to a core with room,
with its coordinates, its warps in the room's slots at entry_off with s1 the arguments, q0 and dmask their lanes, the node's
allotment and every other register zero; a block whose warps have all retired leaves with its warps and is counted; an ageing
interval raises a waiting launch by a level to the queue's back; a finished launch leaves with its completion record written; where it
has a successor, that one's pred_count then falls by one, and a graph with no launch left becomes IDLE with its status record written
(R43, R389, R390). Blocks placed together, the eight of a cluster's group (R21) or all of a co-resident launch (R22), go each to its own
core, with its index, where each core has room, core_cap bounds nothing and no image is saved. -/
def Obligations.LaunchesArePlacedAndComplete : Prop :=
  ∀ (s : State) (x : Launch), s.launches = [x] →
    let q := s.parts[x.part]
    q.enabled = true → q.resetting = false → q.suspended = false →
    let count := bitsN x.node 95 64
    let admits (d : DieId) : Prop := bitsN x.node 219 216 = 0 ∨ x.node.getLsbD (216 + d.val) = true
    let cosched := x.node.getLsbD 160
    (∀ d n, x.queued = true → admits d → x.next < count → (if cosched then n = 8 ∨ n = 16 else 1 ≤ n ∧ n ≤ 16) →
      ∃ t y, exec (.blockClaim x.lid d n) s = .next t ∧ t = { s with launches := [y] } ∧
        y = { x with next := x.next + n, claims := put x.claims d y.claims[d] } ∧
        ∀ i, i ∈ y.claims[d] ↔ i ∈ x.claims[d] ∨ (x.next ≤ i ∧ i < x.next + n ∧ i < count)) ∧
    (∀ c r i rest, x.queued = true → cosched = false → x.node.getLsbD 161 = false → x.kdesc.getLsbD 210 = false →
      x.claims[dieOf c] = i :: rest → i ∉ rest → s.canPlace x c = some r →
      ∃ t b y, exec (.blockPlace x.lid (dieOf c) [c]) s = .next t ∧ t.cores[c].blocks = s.cores[c].blocks ++ [b] ∧ t.launches = [y] ∧
        y.resident = x.resident + 1 ∧ y.next = x.next ∧ y.claims[dieOf c] = rest ∧
        b.index = i ∧ b.nodeAddr = x.nodeAddr ∧ b.launch = x.lid ∧ b.part = x.part ∧ b.halted = false ∧ b.warps = r.slots ∧
        (bitsN x.node 111 96 = 0 → b.bx.toNat = i % 2 ^ 32 ∧ b.by_ = 0 ∧ b.bz = 0) ∧
        (let vx := bitsN x.node 111 96
         let vy := bitsN x.node 127 112
         vx ≠ 0 → b.bx.toNat = i % vx ∧ b.by_.toNat = i / vx % vy % 2 ^ 16 ∧ b.bz.toNat = i / (vx * vy) % 2 ^ 16) ∧
        (∀ j w, r.slots[j]? = some w → t.warp? c w = some
          (let n := bitsN x.node 277 272
           let lanes : Mask := if n ≠ 0 ∧ j + 1 = bitsN x.node 147 144 then BitVec.ofNat 64 (2 ^ n - 1) else BitVec.allOnes 64
           { Warp.blank with
             bid := b.bid, wid := j, s := put Warp.blank.s 1 (x.node.extractLsb' 384 64), q := put Warp.blank.q 0 lanes
             dmask := lanes, curV := bitsN x.node 191 176, curH := bitsN x.node 199 192, curC := bitsN x.node 207 200
             curK := bitsN x.node 215 208, pc := x.kdesc.extractLsb' 224 32, level := x.level })) ∧
        ∀ w, w ∉ r.slots → t.warp? c w = s.warp? c w) ∧
    (∀ (d : DieId) (cores : List CoreId) (idx : List Nat), x.queued = true → x.kdesc.getLsbD 210 = false → bitsN q.qos 72 64 = 0 →
      (∀ r : PartId, s.parts[r].saved = []) → cores ≠ [] → cores.Nodup → idx.length = cores.length →
      (∀ c ∈ cores, (s.canPlace x c).isSome = true) →
      let at_ (i : Nat) (c : CoreId) : Prop := ∃ j : Nat, idx[j]? = some i ∧ cores[j]? = some c
      (x.node.getLsbD 161 = true → idx = List.range count) →
      (x.node.getLsbD 161 = false → idx = x.claims[d].take cores.length ∧ ∀ c ∈ cores, dieOf c = d) →
      (∀ i c, at_ i c → i ∈ x.claims[dieOf c]) →
      (cosched = true → idx.length % 8 = 0 ∧ ∀ i c, at_ i c → i % 8 = c.val % 8 ∧ ∀ i' c', at_ i' c' → i' / 8 = i / 8 → clusterOf c' = clusterOf c) →
      ∃ t y, exec (.blockPlace x.lid d cores) s = .next t ∧ t.launches = [y] ∧ y.resident = x.resident + cores.length ∧ y.next = x.next ∧
        (∀ e : DieId, y.claims[e] = x.claims[e].filter fun i => !idx.contains i) ∧
        ∀ i c, at_ i c → ∃ b, t.cores[c].blocks = s.cores[c].blocks ++ [b] ∧ b.index = i ∧ b.launch = x.lid ∧ b.part = x.part ∧
          b.nodeAddr = x.nodeAddr ∧ b.halted = false ∧ b.group = if cosched then some (i / 8) else none) ∧
    (∀ c b, s.cores[c].block? b.bid = some b → b.part = x.part → b.launch = x.lid → b.halted = false → b.restoring = false →
      (∀ y ∈ s.cores[c].blockWarps b.bid, y.2.state = .retired ∧ y.2.loads = 0 ∧ y.2.stores = 0 ∧ y.2.copies = 0 ∧ y.2.tiles = 0 ∧
        y.2.tokens = 0 ∧ y.2.withheld = 0) → (∀ o ∈ s.cores[c].ops, o.bid ≠ b.bid) →
      ∃ t, exec (.blockRetire c b.bid) s = .next t ∧ t.cores[c].block? b.bid = none ∧
        t.launches = [{ x with resident := x.resident - 1, retired := x.retired + 1 }] ∧
        ∀ w y, s.warp? c w = some y → t.warp? c w = if y.bid = b.bid then none else some y) ∧
    (let a := bitsN q.qos 47 40
     let due := x.since + 18000 * min 65535 ((a % 16 + 1) * 2 ^ (a / 16))
     x.queued = true → (∀ d, admits d → x.placedOn.getLsbD d.val = true) → x.level < 6 →
      ∃ t, exec (.ageingInterval x.lid) s = .next t ∧ due ≤ t.time ∧
        t.launches = [{ x with level := x.level + 1, since := due, order := s.nextId, placedOn := 0 }]) ∧
    (∀ pa, Quiet s x.part → q.graphs = [] → count ≤ x.next → (∀ d : DieId, x.claims[d] = []) → x.resident = 0 → x.saved = 0 →
      x.queued = false → bitsN x.node 452 448 = 0 → Mapped s x.part (x.node.extractLsb' 448 64) Need.write pa →
      ∃ t, exec (.launchComplete x.lid) s = .next t ∧ t.launches = [] ∧
        Wrote s.mem t.mem pa (leBytes 4 (if x.lost = 0 then 1 else 2) ++ leBytes 2 0xFFFF ++ leBytes 2 0 ++ leBytes 4 x.retired ++
          leBytes 4 x.lost ++ leBytes 8 (s.time / 18) ++ leBytes 8 0)) ∧
    (∀ (g : Graph) (pa sa ta st i n : Nat) (m m' : Memory), let u (m : Memory) : State := { s with mem := m }
      let succ : Word := x.node.extractLsb' 320 64
      let pred : Word := x.graph + BitVec.ofNat 64 (64 + 64 * i) + 36
      Quiet s x.part → q.graphs = [g] → g.header = x.graph → g.state = 2 → g.statusAddr.toNat % 32 = 0 →
      count ≤ x.next → (∀ d : DieId, x.claims[d] = []) → x.resident = 0 → x.saved = 0 → x.queued = false → x.lost = 0 →
      bitsN x.node 452 448 = 0 → Mapped s x.part (x.node.extractLsb' 448 64) Need.write pa →
      m.wf = true → Wrote s.mem m pa (leBytes 4 1 ++ leBytes 2 0xFFFF ++ leBytes 2 0 ++ leBytes 4 x.retired ++ leBytes 4 0 ++
        leBytes 8 (s.time / 18) ++ leBytes 8 0) →
      succ ≠ 0 → succ.toNat % 2 ^ 19 + 8 ≤ 2 ^ 19 → Mapped (u m) x.part succ Need.exec sa → m.num sa 4 = 1 → m.num (sa + 4) 4 = i →
      pred.toNat % 2 ^ 19 + 4 ≤ 2 ^ 19 → Mapped (u m) x.part pred Need.execWrite ta → m.num ta 4 = n → 2 ≤ n →
      m'.wf = true → Wrote m m' ta (leBytes 4 (n - 1)) → Mapped (u m') x.part g.statusAddr Need.write st →
      ∃ t, exec (.launchComplete x.lid) s = .next t ∧ t.launches = [] ∧
        t.parts[x.part].graphs = [{ g with done := g.done + 1, state := 1 }] ∧
        Wrote m' t.mem st (leBytes 4 0 ++ leBytes 4 0 ++ leBytes 1 1 ++ leBytes 1 0 ++ leBytes 2 g.field.toNat ++ leBytes 4 g.rejected.toNat ++
          leBytes 4 g.failed ++ leBytes 4 (g.done + 1) ++ leBytes 8 g.tag.toNat))

/-- Suspending and moving contexts: a suspend begins by stopping admission and, with no block left, writes its launches' entries
and ends; a resume takes a launch's level from its entry, 6 for a 7 that the partition does not grant (one that changes its level stands
behind its new one's, R391; a suspended launch stays in the package's list, log 37), zeroes the table, and ends when no image waits; a
FREEZE stop or resume ends with code 2, a resumed core runs. A victim on the core it left, and a READY image on a core of a resume, is
restored to what its image holds: its warps with their places, registers and pending writes, its windows, and the matrix array's and the
F store's state (what an image leaves out beside it is log 30); its entry in memory is then free. A block alone on its core, whose sensor
as last read stands at or above t_mig or that a standing request moves (log 46), with nothing outstanding, stands on another core of its
die with the warps and the windows that it had. -/
def Obligations.ContextsSuspendAndMove : Prop :=
  ∀ (s : State) (p : PartId),
    let q := s.parts[p]
    let with_ (f : Partition) : State := { s with parts := put s.parts p f }
    let save := q.saveBase.toNat
    (q.enabled = true → q.resetting = false → q.ctxStatus ≠ 1 →
      exec (.ctxctlSuspend p) s = .next (with_ { q with suspended := true, ctxOp := 1, ctxStatus := 1, ctxCount := 0 }) ∧
      ∀ x pa, s.launches = [x] → x.part = p → Quiet s p → save % 2 ^ 19 = 0 → save + 2 ^ 19 ≤ 2 ^ 52 →
        Mapped s p (at_ (save + 0x10000)) Need.read pa → Mapped s p (at_ (save + 0x10000)) Need.write pa →
        s.mem.num pa 8 = x.nodeAddr.toNat → x.nodeAddr ≠ 0 → (∀ i, 0 < i → i < 1024 → s.mem.num (pa + 32 * i) 8 = 0) →
        let stored := s.mem.num (pa + 16) 1
        let level := if stored = 7 ∧ q.control.getLsbD 2 = false then 6 else stored
        ∃ t, exec (.ctxctlResume p) s = .next t ∧
          t.parts[p] = { q with ctxOp := 2, ctxStatus := 1, ctxCount := 0, saved := t.parts[p].saved } ∧
          (level = x.level → t.parts[p].saved = q.saved) ∧
          t.launches = [{ x with level := level, since := s.time, order := if level = x.level then x.order else s.nextId }] ∧
          Wrote s.mem t.mem pa (List.replicate 32768 0)) ∧
    (∀ x pa, q.ctxStatus = 1 → q.resetting = false → q.freeze = none → s.launches = [x] → x.part = p → x.level < 7 → Quiet s p →
      save % 2 ^ 19 = 0 → save + 2 ^ 19 ≤ 2 ^ 52 → Mapped s p q.saveBase Need.read pa → Mapped s p (at_ (save + 0x10000)) Need.write (pa + 0x10000) →
      (∀ i, i < 4096 → s.mem.num (pa + 16 * i) 8 = 0) →
      (q.ctxOp = 1 → (∀ c : CoreId, ∀ b ∈ s.cores[c].blocks, b.part ≠ p) → (∀ d : DieId, x.claims[d] = []) →
        ∃ t, exec (.ctxctlDone p) s = .next t ∧ t.parts[p] = { q with ctxStatus := 2, ctxCount := 0 } ∧
          Wrote s.mem t.mem (pa + 0x10000) (leBytes 8 x.nodeAddr.toNat ++ leBytes 4 x.next ++ leBytes 4 (x.saved + x.resident) ++
            leBytes 1 x.level ++ List.replicate 32751 0)) ∧
      (q.ctxOp = 2 → ∃ t, exec (.ctxctlDone p) s = .next t ∧ t.parts[p] = { q with ctxStatus := 2, suspended := false } ∧ t.mem = s.mem)) ∧
    (∀ f, q.freeze = some f → s.launches = [] → s.devWaits = false →
      (f.op = 1 → exec (.freezeDone p) s = .next (with_ { q with freeze := none, fstat := 2 })) ∧
      (f.op = 2 → ∃ t, exec (.freezeDone p) s = .next t ∧ t.cores[f.target].stopped = none ∧
        t.parts[p] = { q with freeze := none, fstat := 2 })) ∧
    (∀ (c : CoreId) x pa i off size, s.launches = [x] → x.part = p → x.latched = true → Quiet s p → Vacant s p c →
      save % 2 ^ 19 = 0 → save + 2 ^ 19 ≤ 2 ^ 52 → Mapped s p q.saveBase Need.read pa → Mapped s p q.saveBase Need.write pa →
      i < 4096 → s.mem.num (pa + 16 * i) 8 = off → 0 < off → s.mem.num (pa + 16 * i + 8) 4 = size → off + 4096 * size ≤ 2 ^ 19 →
      let entry := s.mem.num (pa + 16 * i + 12) 1
      let img := s.mem.read (pa + off) (4096 * size)
      SoundImage img p → numAt img 0x10 8 = x.nodeAddr.toNat →
      bitsN x.node 219 216 = 0 ∨ x.node.getLsbD (216 + (dieOf c).val) = true → (∀ y ∈ q.saved, y.microWait = none) →
      let stands (t : State) : Prop :=
        (∃ b : Block, t.cores[c].blocks = [b] ∧ b.part = p ∧ b.launch = x.lid ∧ BlockHolds img t.cores[c] b) ∧
        Wrote s.mem t.mem (pa + 16 * i) (List.replicate 16 0) ∧ (∀ y ∈ t.parts[p].saved, y.entry ≠ i) ∧
        t.launches = [{ x with resident := x.resident + 1, saved := x.saved - 1 }]
      (∀ y, q.enabled = true → q.resetting = false → q.suspended = false → q.saved = [y] → (∀ r : PartId, r ≠ p → s.parts[r].saved = []) →
        y.entry = i → y.core = c → y.launch = x.lid → entry = 2 → ∃ t, exec (.victimResume p i) s = .next t ∧ stands t) ∧
      (q.ctxOp = 2 → q.ctxStatus = 1 → q.resetting = false → (∀ r : PartId, ∀ y ∈ s.parts[r].saved, y.core ≠ c) → entry = 4 →
        ∃ t, exec (.blockRestore p i c) s = .next t ∧ stands t ∧ t.parts[p].ctxCount = q.ctxCount + 1)) ∧
    ∀ (c target : CoreId) b l, s.cores[c].blocks = [b] → b.part = p → s.launches = [l] → l.lid = b.launch → l.part = p → l.node = b.node →
      l.kdesc = b.kdesc → l.latched = true → b.restoring = false → b.halted = false → b.microWait = none → b.group = none → b.index < 2 ^ 32 →
      b.node.getLsbD 160 = false → b.node.getLsbD 161 = false → q.enabled = true → q.resetting = false → q.suspended = false → q.freeze = none →
      s.cores[c].stopped = none → s.cores[c].ops = [] → s.cores[c].acted = [] → s.clusters[clusterOf c].lease = none →
      dieOf c = dieOf target → Vacant s p target → Quiet s p → (∀ r : PartId, ∀ y ∈ s.parts[r].saved, y.core ≠ target) →
      (s.therm.extractLsb' 0 16).toInt ≤ s.cores[c].sensor.toInt ∨ b.moveTo = some target →
      b.warps.Nodup → 1 ≤ b.warps.length →
      (b.wb.size = 256 * bitsN b.node 239 224 ∧ b.ab.size = 256 * bitsN b.node 255 240 ∧ b.cb.size = 256 * bitsN b.node 271 256 ∧
        b.wb.size ≤ Config.wbBytes ∧ b.ab.size ≤ Config.abBytes ∧ b.cb.size ≤ Config.cbBytes) →
      ∀ xs : List Warp, b.warps.map (fun w => s.cores[c].warps[w]) = xs.map some →
      (∀ x ∈ xs, x.bid = b.bid ∧ x.state = .boundary ∧ x.pos = 0 ∧ x.pending = [] ∧ x.records = [] ∧ x.held = [] ∧ x.withheld = 0 ∧
        x.wid < 8 ∧ x.curV ≤ 128 ∧ x.curH ≤ 16 ∧ x.curC ≤ 4 ∧ x.curK ≤ 4 ∧ x.dstack.length ≤ 16 ∧ x.shape.toNat < 64 ∧
        x.fpc &&& 0xFFFFFFFF000003FF = x.fpc ∧ bitsN x.fpc 2 0 ≤ 4) →
      (xs.map (·.curV)).sum ≤ 512 → (xs.map (·.curH)).sum ≤ 64 → (xs.map (·.curC)).sum ≤ 8 →
      ∃ t y, exec (.thermalMigration c b.bid target) s = .next t ∧ t.cores[c].blocks = [] ∧ t.cores[target].blocks = [y] ∧
        y.bid = b.bid ∧ y.launch = b.launch ∧ y.index = b.index ∧ y.restoring = true ∧ y.warps.length = b.warps.length ∧
        (∀ (j : Nat) w x, y.warps[j]? = some w → xs[j]? = some x → ∃ z : Warp, t.cores[target].warps[w] = some z ∧ z.bid = b.bid ∧ SameWarp x z) ∧
        ∀ buf, (y.window buf).size = (b.window buf).size ∧ ∀ i, i < (b.window buf).size →
          (t.cores[target].buf buf).get ((y.window buf).base + i) = (s.cores[c].buf buf).get ((b.window buf).base + i)

/-- Clocks and heat: events bring the readings of sensors, MELT and power, and one that ends a lease brings the time to its end at least
(the model's form of them, log 46). A lease ends at its time or at MELT 1024, where every lease of the cell ends, with cause 5, or 6 where its block
is already being frozen for its image (that the freeze comes first is log 45), its holder's trap due and no divisor asked for (when it
became free, and by which core, is noted for R477, log 46); a lull begins at melt_hi and ends below melt_lo; at t_thr a core throttles, below t_mig it is released; at
t_trip its cluster trips and a lease ends; all eight below t_mig end a trip. The pending switch sets divisor 8 in a trip, 3 in a lease,
else CLKDIV's or 4. Levels move by one against the ceiling, and a measure above the last takes its rise off the oldest ballast ramp
(that the measured rise is what returning work draws is the model's reading, log 46); a droop stretches the cluster's clock by half a
period; a drop above 200 W is taken up, and its ramp ends 250 microseconds after it began. -/
def Obligations.ClocksHeatAndCurrent : Prop :=
  ∀ (s : State) (cl : ClusterId) (c : CoreId) (sensor : BitVec 16),
    let k := s.clusters[cl]
    let own := s.clusters[clusterOf c]
    let t_mig := (s.therm.extractLsb' 0 16).toInt
    let t_thr := (s.therm.extractLsb' 16 16).toInt
    let t_trip := (s.therm.extractLsb' 32 16).toInt
    let core (t : State) (c : CoreId) (y : Core) : Prop := t.cores[c] = y ∧ ∀ d : CoreId, d ≠ c → t.cores[d] = s.cores[d]
    let cell (cl : ClusterId) : Fin 20 := ⟨5 * (cl.val / 10) + cl.val % 10 / 2, by omega⟩
    let reading (y z : BitVec 64) (melt : BitVec 11) : Prop := z.extractLsb' 0 11 = melt ∧ z.extractLsb' 13 51 = y.extractLsb' 13 51 ∧
      z.getLsbD 12 = if bitsN y 26 16 ≤ melt.toNat then true else if melt.toNat < bitsN y 42 32 then false else y.getLsbD 12
    (∀ l x b (melt : BitVec 11), k.lease = some l → s.warp? l.core l.warp = some x → x.bid = l.bid → s.cores[l.core].block? l.bid = some b →
      (∀ (cl' : ClusterId) l', s.clusters[cl'].lease = some l' → clusterOf l'.core = cl') →
      melt.toNat ≤ 1024 →
      let frozen : Prop := (s.cores[l.core].stopped ≠ none ∧ ∃ q ∈ s.parts.toList, ∃ f, q.freeze = some f ∧ f.op = 3 ∧ f.target = l.core) ∨
        (s.parts[b.part].suspended = true ∧ s.parts[b.part].ctxOp ≠ 2) ∨
        (b.moveTo ≠ none ∧ ∀ y ∈ s.cores[l.core].blockWarps l.bid, y.2.state ≠ .midStroke)
      ∃ t code, exec (.leaseExpiry cl melt) s = .next t ∧ (frozen → code = 6) ∧ (¬frozen → code = 5) ∧
        t.clusters[cl] = { k with lease := none, clkdiv := none, pendingDiv := true
                                  freed := if melt.toNat = 1024 then k.freed else some (l.ends, l.core) } ∧
        (melt.toNat < 1024 → l.ends ≤ t.time) ∧ reading s.cells[cell cl] t.cells[cell cl] melt ∧
        (melt.toNat = 1024 → ∀ other : ClusterId, cell other = cell cl → t.clusters[other].lease = none) ∧
        t.warp? l.core l.warp = some { x with
          gstHolder := false, gstCause := BitVec.ofNat 4 code
          traps := if b.kdesc.extractLsb' 256 32 ≠ 0xFFFFFFFF ∧ bitsN b.kdesc 183 176 = 64 then x.traps ++ [⟨1, code⟩] else x.traps }) ∧
    (∀ (i : Fin 20) (melt : BitVec 11), let y := s.cells[i]
      let set (on : Bool) (t : State) : Prop :=
        ∃ z : BitVec 64, t = { s with cells := put s.cells i z } ∧ reading y z melt ∧ z.getLsbD 12 = on
      (melt.toNat < 1024 → bitsN y 26 16 ≤ melt.toNat → ∃ t, exec (.lullEntry i melt) s = .next t ∧ set true t) ∧
      (melt.toNat = 1024 → bitsN y 26 16 ≤ 1024 → ∃ t, exec (.lullEntry i melt) s = .next t ∧ reading y t.cells[i] melt ∧
        ∀ other : ClusterId, cell other = i → t.clusters[other].lease = none) ∧
      (bitsN y 42 32 < bitsN y 26 16 → bitsN y 26 16 ≤ 1024 → melt.toNat < bitsN y 42 32 →
        ∃ t, exec (.lullExit i melt) s = .next t ∧ set false t)) ∧
    (t_thr ≤ sensor.toInt → sensor.toInt < t_trip → t_mig < t_thr → ∃ t, exec (.thermalThrottle c sensor) s = .next t ∧
      core t c { s.cores[c] with sensor := sensor, thermal := 2 } ∧ t.clusters = s.clusters) ∧
    (t_trip ≤ sensor.toInt → exec (.thermalThrottle c sensor) s = exec (.clusterTrip c sensor) s) ∧
    (sensor.toInt < t_mig → t_mig < t_thr → t_thr < t_trip → own.tripped = false → ∃ t, exec (.throttleRelease c sensor) s = .next t ∧
      core t c { s.cores[c] with sensor := sensor, thermal := 0 } ∧ t.clusters = s.clusters) ∧
    (t_trip ≤ sensor.toInt → t_thr < t_trip → ∃ t, exec (.clusterTrip c sensor) s = .next t ∧ t.cores[c].thermal = 2 ∧
      t.clusters[clusterOf c] = { own with lease := none, tripped := true, clkdiv := none, pendingDiv := true }) ∧
    (∀ xs : List (BitVec 16), k.tripped = true → xs.length = 8 → (∀ x ∈ xs, x.toInt < t_mig) →
      ∃ t, exec (.tripEnd cl xs) s = .next t ∧ t.clusters[cl] = { k with tripped := false, clkdiv := none, pendingDiv := true } ∧
        ∀ i : Fin 8, t.cores[coreOf cl i].thermal = 0 ∧ some (t.cores[coreOf cl i].sensor) = xs[i.val]?) ∧
    (k.pendingDiv = true → 
      let target := if k.tripped then 8 else if k.lease.isSome then 3 else match k.clkdiv with | some n => n | none => 4
      exec (.divisorSwitch cl) s = .next { s with clusters := put s.clusters cl { k with pendingDiv := false, div := target } }) ∧
    (∀ watts cs, c ∈ cs → ∃ t, exec (.currentLevelUpdate watts cs) s = .next t ∧ t.power = watts ∧
      t.powerLog = (watts :: s.powerLog).take 91 ∧ (watts ≤ s.power → t.ballast = s.ballast) ∧
      (∀ since drop, s.ballast = [(since, drop)] → s.power < watts →
        let whole := 250 * 18000
        let draws := drop * (whole - (s.time - since)) / whole
        t.ballast = if draws ≤ watts - s.power then []
          else [(since, (draws - (watts - s.power)) * whole / (whole - (s.time - since)))]) ∧
      let n := s.cores[c].current
      let ceiling := min 3800 (2400 + 35 * (s.clusters.toList.filter fun k => k.lease.isSome).length)
      t.cores[c].current = if ceiling < watts then min 2 (n + 1) else if 100 * watts < 95 * ceiling then n - 1 else n) ∧
    ((∀ t₀, k.stretched = some t₀ → t₀ + 8 * k.div ≤ s.time) → ∃ t, exec (.droopStretch cl) s = .next t ∧
      t.clusters[cl] = { k with stretched := some s.time } ∧
      ∀ i : Fin 8, t.cores[coreOf cl i].tick = s.cores[coreOf cl i].tick + k.div ∧
        t.cores[coreOf cl i].counters[18] = s.cores[coreOf cl i].counters[18] + 1) ∧
    (∀ drop, 200 < drop → s.cores[c].retired = false → s.cores[c].blocks = [] →
      exec (.ballastStart drop) s = .next { s with ballast := s.ballast ++ [(s.time, drop)] }) ∧
    (∀ since drop rest, s.ballast = (since, drop) :: rest →
      exec .ballastRampEnd s = .next { s with time := max s.time (since + 250 * 18000), ballast := rest })

/-- Errors. A corrected error is counted on its core (one of memory or of a link on the first core of its die: the model's choice,
log 26); a lasting one in a sector poisons it and retires its frame; a lost core keeps no
block, warp or operation and is retired. A flit resent loses nothing and is counted, a lane whose retry fails is retired, a link below 4 lanes goes
down. Retention begins while no warp holds or can take a core and ends as it began, or, with a parity error, with the cluster's
blocks gone and its slice empty (that the slice is emptied too is the model's reading, log 47). An evicted sector's marked bytes stand at their home. -/
def Obligations.ErrorsLossesAndEvictions : Prop :=
  ∀ (s : State),
    let counted (c : CoreId) : State :=
      { s with cores := put s.cores c { s.cores[c] with counters := put s.cores[c].counters 15 (s.cores[c].counters[15] + 1) } }
    let firstOf (die : Fin 4) : CoreId := ⟨80 * die.val, by omega⟩
    (∀ c : CoreId, exec (.errorRetry (.core c) false) s = .next (counted c)) ∧
    (∀ (pa : Nat) (die : Fin 4), pa / 2 ^ 50 = die.val → exec (.errorRetry (.sector pa) false) s = .next (counted (firstOf die))) ∧
    (∀ pa, s.launches = [] → ∃ t, exec (.errorRetry (.sector pa) true) s = .next t ∧ pa / 64 ∈ t.poisonSectors ∧ pa / 2 ^ 19 ∈ t.retiredFrames) ∧
    (∀ c : CoreId, s.cores[c].retired = false → s.clusters[clusterOf c].lease = none → (∀ b ∈ s.cores[c].blocks, b.group = none) →
      ∃ t, exec (.coreLoss c) s = .next t ∧ t.cores[c].retired = true ∧ t.cores[c].blocks = [] ∧ t.cores[c].ops = [] ∧
        (∀ w, t.warp? c w = none) ∧ t.cores[c].counters = s.cores[c].counters ∧
        ∀ d : CoreId, d ≠ c → t.cores[d].blocks = s.cores[d].blocks ∧ t.cores[d].warps = s.cores[d].warps) ∧
    (∀ (link : Fin 32) (lane : Fin 8), (s.lanes[link].getLsbD lane.val = false → exec (.linkCrcRetry link lane false) s = .next s) ∧
      (s.lanes[link].getLsbD lane.val = true → exec (.linkCrcRetry link lane false) s = .next (counted (firstOf ⟨link.val / 8, by omega⟩)) ∧
        ∃ t, exec (.linkCrcRetry link lane true) s = .next t ∧
        (∀ other : Fin 32, other ≠ link → t.lanes[other] = s.lanes[other]) ∧
        let live (i : Nat) : Bool := decide (i ≠ lane.val) && s.lanes[link].getLsbD i
        ∀ i, i < 8 → t.lanes[link].getLsbD i = (live i && decide (4 ≤ ((List.range 8).filter live).length)))) ∧
    (∀ cl : ClusterId, let k := s.clusters[cl]
      ((∀ i : Fin 8, s.cores[coreOf cl i].holder = none ∧ ∀ y ∈ s.cores[coreOf cl i].standings, y.2.2.eligible = false) →
        exec (.retentionEntry cl) s = .next { s with clusters := put s.clusters cl { k with retention := true } }) ∧
      (k.retention = true → exec (.retentionExit cl true) s = .next { s with clusters := put s.clusters cl { k with retention := false } }) ∧
      (k.retention = true → k.lease = none → (∀ i : Fin 8, ∀ b ∈ s.cores[coreOf cl i].blocks, b.group = none) →
        ∃ t, exec (.retentionExit cl false) s = .next t ∧ t.clusters[cl].l2 = [] ∧ t.clusters[cl].retention = false ∧
          ∀ i : Fin 8, t.cores[coreOf cl i].blocks = [] ∧ ∀ w, t.warp? (coreOf cl i) w = none)) ∧
    (∀ (cl : ClusterId) (x : Sector), s.mem.wf = true → s.refuses (64 * x.num) = false → s.clusters[cl].sector? x.num = some x →
      ∃ t, exec (.l2Eviction cl x.num) s = .next t ∧ t.clusters[cl].sector? x.num = none ∧ t.cores = s.cores ∧
        ∀ q, t.mem.get q = if q / 64 = x.num ∧ x.marked.getLsbD (q % 64) = true then x.data.extractLsb' (8 * (q % 64)) 8 else s.mem.get q)

/-- The host's partition registers: control takes bits 2 and 3, and an enable request is granted, or refused with the lowest code of
FIELD, ALIGN, TABLE, QOS, RESET and UNMAPPED that applies (no other partition being enabled); one written during a reset, of an enabled
partition too, is refused with RESET at the lowest and leaves the partition disabled (the model's choice, log 49); a reset stops the partition's work and
ends with its blocks, graphs, launches, leases and shares gone and no byte of memory changed, once none of its accesses waits for a
package that no route leads to (which registers it clears is log 49); QoS fields are rewritten with their copies of control (of an
enabled partition's record, which the model ignores: log 28); a register write changes its register, and one that breaks an order is
ignored; a write of all 8 bytes of the translation request register (offsets and widths: log 29) submits its request, and one of MB_CMD
begins an update; a vector masked in the MSI-X table (whose place and layout the model takes from PCI Express, log 29) waits, and unmasked when pending is
sent unless the partition is being reset. -/
def Obligations.HostControlOfPartitions : Prop :=
  ∀ (s : State) (p : PartId),
    let q := s.parts[p]
    let with_ (f : Partition) : State := { s with parts := put s.parts p f }
    let copies (record control : Nat → Bool) (r : BitVec 128) : Prop :=
      ∀ i, i < 128 → r.getLsbD i = if i = 0 then control 3 else if i = 1 then control 2 else record i
    (∀ control : BitVec 32, s.launches = [] → (∀ i : PartId, i ≠ p → s.parts[i].enabled = false) →
      let area (base : Word) (size : Nat) : Bool := s.areaMapped q.ptRoot base size
      let pow2 : Prop := ∃ i, 4 ≤ i ∧ i ≤ 16 ∧ q.sqSize = 2 ^ i
      let field : Prop := bitsN control 31 4 ≠ 0 ∨ bitsN q.ptRoot 63 53 ≠ 0 ∨ bitsN q.ptRoot 50 40 ≠ 0 ∨ bitsN q.ptRoot 13 9 ≠ 0 ∨ bitsN q.ptRoot 7 1 ≠ 0 ∨
        ¬pow2 ∨ q.fqSize < 4 ∨ 16 < q.fqSize ∨ q.saveSize % 4096 ≠ 0
      let align : Prop := q.fqBase.toNat % 4096 ≠ 0 ∨ q.saveBase.toNat % 4096 ≠ 0 ∨ q.sqBase.toNat % 32 ≠ 0
      let qos : Prop := bitsN q.qos 55 48 < bitsN q.qos 63 56 ∨ 320 < bitsN q.qos 72 64 ∨ 40 < bitsN q.qos 95 88 ∨ bitsN q.qos 33 32 = 3 ∨
        bitsN q.qos 87 73 ≠ 0 ∨ bitsN q.qos 39 34 ≠ 0 ∨ bitsN q.qos 31 2 ≠ 0
      let refused : Prop := q.enabled = false ∨ q.resetting = true
      let table : Prop := tableOk q.ptRoot = true ∧ ∀ k ∈ s.failedStacks, k.val / 3 ≠ bitsN q.ptRoot 52 51
      ∃ t r, exec (.partitionEnable p control) s = .next t ∧
        t.parts[p] = { q with control := t.parts[p].control, enabled := t.parts[p].enabled, refusal := BitVec.ofNat 8 r, qos := t.parts[p].qos } ∧
        t.parts[p].enabled = (control.getLsbD 0 && decide (r = 0)) ∧
        (∀ i, i < 32 → t.parts[p].control.getLsbD i = if i = 0 then t.parts[p].enabled else decide (i = 2 ∨ i = 3) && control.getLsbD i) ∧
        copies q.qos.getLsbD control.getLsbD t.parts[p].qos ∧
        (control.getLsbD 0 = true → refused → (r = 1 ↔ field) ∧ (r = 2 ↔ ¬field ∧ align) ∧
          (r = 3 ↔ ¬field ∧ ¬align ∧ ¬table) ∧ (r = 6 ↔ ¬field ∧ ¬align ∧ table ∧ qos) ∧
          (r = 7 ↔ ¬field ∧ ¬align ∧ table ∧ ¬qos ∧ q.resetting = true) ∧
          (r = 8 ↔ ¬field ∧ ¬align ∧ table ∧ ¬qos ∧ q.resetting = false ∧
            (area q.fqBase (64 * 2 ^ q.fqSize) && area q.saveBase q.saveSize) = false)) ∧
        (control.getLsbD 0 = false ∨ ¬refused → r = 0)) ∧
    (q.resetting = false → exec (.partitionReset p) s = .next (with_
      { q with resetting := true, intMask := 0xFFFFFFFF, intPend := 0, messages := [], freeze := none })) ∧
    (q.resetting = true → Quiet s p → s.waitsFar p = false → ∃ t v, exec (.partitionResetDone p) s = .next t ∧ t.mem = s.mem ∧
      (∀ c : CoreId, ∀ b ∈ t.cores[c].blocks, b.part ≠ p) ∧ (∀ cl : ClusterId, ∀ l, t.clusters[cl].lease = some l → l.part ≠ p) ∧
      (∀ l ∈ t.launches, l.part ≠ p) ∧ copies (fun _ => false) q.control.getLsbD v ∧ t.parts[p] =
        { q with resetting := false, graphs := [], sqErr := 0, fqBase := 0, fqSize := 0, qos := v, fqProd := 0, fqCons := 0, fqStat := 0, fstat := 0, ftgt := 0, fsave := 0, intPend := 0
                 freeze := none, ctxStatus := 0, ctxCount := 0, ctxOp := 0, suspended := false, saved := [] }) ∧
    (∀ r : BitVec 128, q.enabled = false ∨ (qosLimits r = true ∧ ∀ i : PartId, i ≠ p → s.parts[i].enabled = false) →
      let kept (i : Nat) : Bool := !q.enabled || decide (¬(i < 32 ∨ (34 ≤ i ∧ i < 40) ∨ (73 ≤ i ∧ i < 88)))
      ∃ v, exec (.qosChange p r) s = .next (with_ { q with qos := v }) ∧ copies (fun i => r.getLsbD i && kept i) q.control.getLsbD v) ∧
    (∀ v : Fin 32, ∃ t, exec (.msixUnmask p v) s = .next t ∧
      t.sent = (if q.intPend.getLsbD v.val = true ∧ q.resetting = false then s.sent ++ [.msix p v.val] else s.sent) ∧ ∀ i, i < 32 →
        t.parts[p].intMask.getLsbD i = (decide (i ≠ v.val) && q.intMask.getLsbD i) ∧
        t.parts[p].intPend.getLsbD i = (decide (i ≠ v.val) && q.intPend.getLsbD i)) ∧
    (∀ v : BitVec 64, exec (.hostRegisterWrite (0x1000 * p.val + 0x08) 8 v) s = .next (with_ { q with ptRoot := v }) ∧
      exec (.hostRegisterWrite (0x1000 * p.val + 0x30) 8 v) s = .next (with_ { q with saveBase := v }) ∧
      exec (.hostRegisterWrite (0x1000 * p.val + 0x28) 4 v) s = .next (with_ { q with fqSize := v.toNat % 2 ^ 32 }) ∧
      (let addr : Word := v &&& 0x000FFFFFFFFFFFC0
       let submitted (op : Instr) : Prop := exec (.hostRegisterWrite (0x1000 * p.val + 0x90) 8 v) s =
         .next { s with requests := s.requests ++ [{ op := op, after := [] }] }
       (bitsN v 2 0 = 0 → submitted (.tlbInvalidatePage p addr .host)) ∧ (bitsN v 2 0 = 1 → submitted (.tlbInvalidatePartition p .host)) ∧
       (bitsN v 2 0 = 2 → submitted (.migratePage p addr .host)) ∧ (bitsN v 2 0 = 3 → submitted (.setDirtyLog p addr .host))) ∧
      (∃ z, exec (.hostRegisterWrite (0x100000 + 32 * p.val + 8) 8 v) s = .next (with_ { q with trace := z }) ∧
        (∀ i, 128 ≤ i → i < 256 → z.getLsbD i = q.trace.getLsbD i) ∧ z.getLsbD 96 = q.trace.getLsbD 96 ∧
        z.extractLsb' 64 32 = v.extractLsb' 0 32) ∧
      (v.extractLsb' 0 32 = 1 → bitsN s.firmware.mbStat 7 0 ≠ 1 →
        exec (.hostRegisterWrite 0x20000 4 v) s = .next { s with firmware := { s.firmware with mbStat := 0x101 } }) ∧
      (∀ i : Fin 20, let y := s.cells[i]
        let at_ := 0x10200 + 8 * i.val
        (bitsN v 42 32 < bitsN v 26 16 ∧ bitsN v 26 16 ≤ 1024 → bitsN y 10 0 < 1024 →
          ∃ z, exec (.hostRegisterWrite at_ 8 v) s = .next { s with cells := put s.cells i z } ∧
          ∀ n, n < 64 → z.getLsbD n = if (16 ≤ n ∧ n < 27) ∨ (32 ≤ n ∧ n < 43) then v.getLsbD n
            else if n = 12 then decide (bitsN v 26 16 ≤ bitsN y 10 0) || (!decide (bitsN y 10 0 < bitsN v 42 32) && y.getLsbD 12)
            else y.getLsbD n) ∧
        (bitsN v 26 16 ≤ bitsN v 42 32 → exec (.hostRegisterWrite at_ 8 v) s = .next s)) ∧
      ∀ n : Fin 32, v.getLsbD 0 = true → ∃ m, exec (.hostRegisterWrite (2 ^ 32 + 2 ^ 16 * p.val + 0x2000 + 16 * n.val + 12) 4 v) s =
        .next (with_ { q with intMask := m }) ∧ ∀ i, i < 32 → m.getLsbD i = (decide (i = n.val) || q.intMask.getLsbD i))

/-- Debug. A write of the fill clears `full` and nothing else of TRACE. A due sample of the core's holder appends one 32-byte record
(node, block coordinates, phase, glyph, wid, kind, lcid, time), after what the partition has marked in the cluster's slice is written
back (nothing here), and starts the period again (the base's host flag in bit 50 is log 32, and the glyph that a sample names log 52).
A core whose holder comes to a bundle that
an enabled breakpoint matches in every field stops before it, marked hit, its warps as they were; resuming lets exactly the cores
that this breakpoint stopped go on. -/
def Obligations.TraceSamplesAndBreakpoints : Prop :=
  ∀ (s : State) (p : PartId),
    let q := s.parts[p]
    (∀ fill : BitVec 32, ∃ v, exec (.traceFillWrite p fill) s = .next { s with parts := put s.parts p { q with trace := v } } ∧
      ∀ i, i < 256 → v.getLsbD i = if 128 ≤ i ∧ i < 160 then fill.getLsbD (i - 128) else decide (i ≠ 96) && q.trace.getLsbD i) ∧
    (∀ (c : CoreId) (w : WarpId) (x : Warp) (b : Block), Stands s c w x b → b.part = p → s.coreRuns c = true → s.cores[c].holder = some w →
      (∀ y ∈ s.cores[c].blocks, y.part = p) →
      (let base := bitsN q.trace 255 192
       let fill := bitsN q.trace 159 128
       let glyph := match x.stroke[x.pos]? with | some cw => cw.glyph | none => x.pc
       Calm s → s.heldTrace = [] → (∀ y ∈ s.clusters[clusterOf c].l2, y.marked = 0) → bitsN q.trace 95 64 ≠ 0 → s.cores[c].sampleIn = 0 → 32 * fill < bitsN q.trace 191 160 →
       (base + 32 * fill) / 2 ^ 50 % 2 = 1 → (base + 32 * fill) % 2 ^ 50 + 32 ≤ 2 ^ 50 →
       ∃ t, exec (.traceSample c) s = .next t ∧ t.cores[c].sampleIn = bitsN q.trace 95 64 ∧ t.warp? c w = some x ∧
         bitsN t.parts[p].trace 159 128 = (fill + 1) % 2 ^ 32 ∧
         Wrote s.mem t.mem (4 * 2 ^ 50 + (base + 32 * fill) % 2 ^ 50)
           (leBytes 8 b.nodeAddr.toNat ++ leBytes 4 b.bx.toNat ++ leBytes 2 b.by_.toNat ++ leBytes 2 b.bz.toNat ++
             leBytes 4 x.baraPhase.toNat ++ leBytes 4 glyph.toNat ++ leBytes 1 x.wid ++ leBytes 1 0x10 ++
             leBytes 2 (lcidOf c) ++ leBytes 4 (s.time / 18))) ∧
      (∀ (n : Fin 8) cw, s.issue = none → s.cores[c].breakSkip = false → x.stroke[x.pos]? = some cw →
        let r := q.breaks[n]
        let any (hi lo v : Nat) : Prop := bitsN r hi lo = 2 ^ (hi + 1 - lo) - 1 ∨ bitsN r hi lo = v
        r.getLsbD 0 = true → bitsN r 95 64 = cw.glyph.toNat → bitsN r 127 96 = bitsN b.kdesc 319 288 → any 159 128 x.baraPhase.toNat →
        any 191 160 (b.index % 2 ^ 32) → any 255 192 b.nodeAddr.toNat →
        ∃ t, exec (.breakpointHit c n) s = .next t ∧ t.cores[c].stopped = some (.breakpoint p n) ∧ t.parts[p].breaks[n] = r ||| 2 ∧
          t.cores[c].warps = s.cores[c].warps ∧ t.cores[c].holder = some w)) ∧
    (∀ n : Fin 8, s.launches = [] → ∃ t, exec (.breakpointResume p n) s = .next t ∧ ∀ c : CoreId,
      t.cores[c] = if s.cores[c].stopped = some (.breakpoint p n) then { s.cores[c] with stopped := none, breakSkip := true } else s.cores[c])

/-- The submission ring. A 4-byte doorbell write within the ring moves the tail and gives the entries their privilege; one that
passes it is an error; any other size is ignored. The head entry is consumed: NOP has no other effect; a reserved one, one whose graph
address has a low bit set among them (the model's reading, log 51), is counted in SQ_ERR; LOAD of a valid one-node graph adds it IDLE; UNLOAD of an IDLE graph removes it; KICK of an IDLE graph makes its ready node
a queued launch and the graph RUNNING; a RUNNING graph is neither kicked nor unloaded (code 0x21). Each writes its status record. -/
def Obligations.RingCommandsAreConsumed : Prop :=
  ∀ (s : State) (p : PartId),
    let q := s.parts[p]
    let with_ (f : Partition) : State := { s with parts := put s.parts p f }
    let e : BitVec 256 := BitVec.ofNat 256 (s.mem.num (4 * 2 ^ 50 + q.sqBase.toNat + 32 * (q.sqHead.toNat % q.sqSize)) 32)
    let supervisor := q.sqPriv.headD false
    let consumed : Partition := { q with sqHead := q.sqHead + 1, sqPriv := q.sqPriv.drop 1 }
    let h : Word := e.extractLsb' 192 64
    let tag : Word := e.extractLsb' 128 64
    let status (t : State) (at_ : Nat) (code state field rejected failed done : Nat) (tag : Word) : Prop :=
      Wrote s.mem t.mem at_ (leBytes 4 code ++ leBytes 4 0 ++ leBytes 1 state ++ leBytes 1 0 ++ leBytes 2 field ++ leBytes 4 rejected ++
        leBytes 4 failed ++ leBytes 4 done ++ leBytes 8 tag.toNat)
    let taken (t : State) (graphs : List Graph) : Prop :=
      t.parts[p].sqHead = q.sqHead + 1 ∧ t.parts[p].sqErr = q.sqErr ∧ t.parts[p].graphs = graphs
    let ready : Prop := Calm s ∧ q.sqHead ≠ q.sqTail ∧ q.sqSize ≠ 0 ∧ bitsN e 127 8 = 0 ∧ bitsN e 197 192 = 0
    q.enabled = true → q.resetting = false → q.suspended = false →
    (∀ sup size v, let n := (v - q.sqTail).toNat
      (size = 4 → (v - q.sqHead).toNat ≤ q.sqSize → n ≤ q.sqSize →
        exec (.sqTail p sup size v) s = .next (with_ { q with sqTail := v, sqPriv := q.sqPriv ++ List.replicate n sup })) ∧
      (size = 4 → q.sqSize < (v - q.sqHead).toNat ∨ q.sqSize < n →
        exec (.sqTail p sup size v) s = .next (with_ { q with sqErr := q.sqErr ||| 0x100 })) ∧
      (size ≠ 4 → exec (.sqTail p sup size v) s = .next s)) ∧
    (ready → bitsN e 7 0 = 0 → exec (.nop p) s = .next (with_ consumed)) ∧
    (Calm s → q.sqHead ≠ q.sqTail → q.sqSize ≠ 0 → (4 ≤ bitsN e 7 0 ∨ bitsN e 127 8 ≠ 0 ∨ bitsN e 197 192 ≠ 0) →
      ∃ err : BitVec 32, exec (.ringEntryInvalid p) s = .next (with_ { consumed with sqErr := err }) ∧
        bitsN err 31 16 = min 0xFFFF (bitsN q.sqErr 31 16 + 1) ∧ bitsN err 7 0 = bitsN e 7 0 ∧ err.getLsbD 8 = q.sqErr.getLsbD 8) ∧
    (ready → Quiet s p → s.launches = [] →
      (∀ at_ st r, bitsN e 7 0 = 1 → q.graphs = [] → Mapped s p h Need.exec at_ →
        let hd : BitVec 512 := BitVec.ofNat 512 (s.mem.num at_ 64)
        bitsN hd 452 448 = 0 → bitsN hd 447 416 = 1 → bitsN hd 415 384 = 0x52474A47 → bitsN hd 383 0 = 0 →
        Mapped s p (hd.extractLsb' 448 64) Need.write st → s.readNode p 0 (h + 64) = (s, some r) →
        s.nodeFault p r 1 supervisor (q.control.getLsbD 2) = none →
        ∃ t g, exec (.load p) s = .next t ∧ taken t [g] ∧ g.header = h ∧ g.state = 1 ∧ g.supervisor = supervisor ∧ g.nodes = 1 ∧
          g.statusAddr = hd.extractLsb' 448 64 ∧ status t st 0 1 0xFFFF 0xFFFFFFFF 0 0 tag) ∧
      (∀ g st, q.graphs = [g] → g.header = h → (g.supervisor = true → supervisor = true) → g.statusAddr.toNat % 32 = 0 →
        Mapped s p g.statusAddr Need.write st →
        (g.state = 1 → bitsN e 7 0 = 3 → ∃ t, exec (.unload p) s = .next t ∧ taken t [] ∧
          status t st 0 0 g.field.toNat g.rejected.toNat g.failed g.done tag) ∧
        (g.state = 2 → bitsN e 7 0 = 3 → ∃ t, exec (.unload p) s = .next t ∧ taken t [g] ∧
          status t st 0x21 2 g.field.toNat g.rejected.toNat g.failed g.done tag) ∧
        (g.state = 2 → bitsN e 7 0 = 2 → ∃ t, exec (.kick p) s = .next t ∧ taken t [g] ∧
          status t st 0x21 2 g.field.toNat g.rejected.toNat g.failed g.done tag) ∧
        (let g' := { g with done := 0, failed := 0, rejected := 0xFFFFFFFF, field := 0xFFFF, tag := tag }
         let u : State := with_ { q with graphs := [g'] }
         ∀ at_ r, g.state = 1 → bitsN e 7 0 = 2 → g.nodes = 1 → (h + 64 : Word).toNat % 64 = 0 → Mapped s p (h + 64) Need.exec at_ →
          s.mem.num (at_ + 36) 4 = 0 → u.readNode p 0 (h + 64) = (u, some r) → u.nodeFault p r 1 g.supervisor g.prio7 = none →
          bitsN r.node 154 152 < 7 →
          ∃ t l, exec (.kick p) s = .next t ∧ taken t [{ g' with state := 2 }] ∧ t.launches = [l] ∧ l.node = r.node ∧ l.nodeAddr = h + 64 ∧
            l.part = p ∧ l.graph = h ∧ l.level = bitsN r.node 154 152 ∧ l.queued = true ∧ l.next = 0 ∧
            (∀ d : DieId, l.claims[d] = []) ∧ status t st 0 2 0xFFFF 0xFFFFFFFF 0 0 tag)))

/-- Translation requests of the host. Of the page that an address of a frame names, or of a whole partition, no TLB or walk-cache entry
is left anywhere, entries of other partitions stay, and replay records whose address is covered are resolved: a host's address covers
the pages that an entry or a leaf translates to its frame (dropping more of the partition's entries is the model's choice, log 25). A valid migration request marks its leaf
and begins; each step copies one 128-byte line; the last flips the leaf to the new page with the old accessed and dirty bits, the old
frame refuses from then on, and DONE is written. A valid dirty log is installed with DONE. -/
def Obligations.TranslationRequestsOfTheHost : Prop :=
  ∀ (s : State) (p : PartId) (addr : Word), Quiet s p → s.heldHost = [] → s.heldDev = [] → s.heldTrace = [] → s.failedStacks = [] →
    (∀ c : CoreId, ∀ b ∈ s.cores[c].blocks, b.microWait = none) →
    let phys (a : Word) : Nat := 2 ^ 50 * bitsN a 51 50 + bitsN a 39 0
    let exists_ (pa n : Nat) : Prop := pa % 2 ^ 50 + n ≤ Config.dieBytes
    let asked (i : Instr) : Prop := s.requests = [{ op := i, after := [] }]
    let desc (off : Nat) : Word := BitVec.ofNat 64 (s.mem.num (phys addr + off) 8)
    let root := s.parts[p].ptRoot
    let invalidated (t : State) (hit : Nat → Prop) (covered : Nat → Prop) : Prop := t.requests = [] ∧ t.mem = s.mem ∧
      (∀ c : CoreId, (∀ e ∈ t.cores[c].tlb, e.part = p → ¬hit e.vpage) ∧ ∀ e ∈ s.cores[c].tlb, e.part ≠ p → e ∈ t.cores[c].tlb) ∧
      (∀ cl : ClusterId, (∀ e ∈ t.clusters[cl].tlb, e.part = p → ¬hit e.vpage) ∧
        ∀ e ∈ s.clusters[cl].tlb, e.part ≠ p → e ∈ t.clusters[cl].tlb) ∧
      (∀ x ∈ t.walkCache, x.1 ≠ p) ∧
      ∀ c w (x : Warp) (b : Block), Stands s c w x b → b.part = p → ∃ y : Warp, t.warp? c w = some y ∧ y.s = x.s ∧ y.v = x.v ∧ y.pc = x.pc ∧
        y.records.length = x.records.length ∧ ∀ (n : Nat) (r : ReplayRecord), x.records[n]? = some r → ∃ r', y.records[n]? = some r' ∧
          (covered (r.firstVa.toNat % 2 ^ 52 / 2 ^ 19) → r' = { r with resolved := true }) ∧
          (¬covered (r.firstVa.toNat % 2 ^ 52 / 2 ^ 19) → r' = r)
    let named (page : Nat) : Prop :=
      (∃ c : CoreId, ∃ e ∈ s.cores[c].tlb, e.part = p ∧ e.vpage = page ∧ s.leafBase e.leaf / 2 ^ 19 = phys addr / 2 ^ 19) ∨
      ∃ cl : ClusterId, ∃ e ∈ s.clusters[cl].tlb, e.part = p ∧ e.vpage = page ∧ s.leafBase e.leaf / 2 ^ 19 = phys addr / 2 ^ 19
    let leads (page : Nat) : Prop := ∃ e a big, s.walk root (BitVec.ofNat 64 (page * 2 ^ 19)) = .leaf e a big ∧ s.leafBase e ≤ phys addr ∧
      phys addr < s.leafBase e + if big then 2 ^ 30 else 2 ^ 19
    (asked (.tlbInvalidatePage p addr .host) →
      ∃ t, exec (.tlbInvalidatePage p addr .host) s = .next t ∧ invalidated t named (fun page => named page ∨ leads page)) ∧
    (asked (.tlbInvalidatePartition p .host) →
      ∃ t, exec (.tlbInvalidatePartition p .host) s = .next t ∧ invalidated t (fun _ => True) (fun _ => True)) ∧
    (∀ e a, asked (.migratePage p addr .host) → exists_ (phys addr) 64 → s.badMigration (s.mem.read (phys addr) 64) = none → s.walk root (desc 0) = .leaf e a false →
      bitsN e 18 17 = 0 →
      ∃ t m, exec (.migratePage p addr .host) s = .next t ∧ t.requests = [] ∧ t.migrations = [m] ∧ m.part = p ∧ m.page = desc 0 ∧
        m.newLeaf = desc 8 ∧ m.notice = desc 16 ∧ m.leafAt = a ∧ m.oldFrame = s.leafBase e / 2 ^ 19 ∧ m.nextLine = 0 ∧
        Wrote s.mem t.mem a (leBytes 8 (e.toNat + 2 ^ 17))) ∧
    (asked (.setDirtyLog p addr .host) → exists_ (phys addr) 64 → (desc 0).toNat % 8 = 0 → (desc 8).toNat % 2 ^ 19 = 0 → (desc 16).toNat ≤ 2 ^ 33 →
      s.mem.num (phys addr + 32) 32 = 0 →
      ∃ t, exec (.setDirtyLog p addr .host) s = .next t ∧ t.requests = [] ∧
        t.parts[p].dirty = (if desc 16 = 0 then none else some ⟨desc 0, desc 8, (desc 16).toNat, true⟩) ∧
        Wrote s.mem t.mem (phys (addr + 24)) (leBytes 4 1 ++ leBytes 4 0)) ∧
    (∀ m : Migration, m.part = p → m.host = true → m.who = .host → m.nextLine < 4096 →
      let u : State := { s with migrations := [m] }
      let src := 2 ^ 19 * m.oldFrame + 128 * m.nextLine
      let dst := s.leafBase m.newLeaf + 128 * m.nextLine
      (m.nextLine < 4095 → ∃ t, exec (.migrationLineCopy m.mid) u = .next t ∧ t.migrations = [{ m with nextLine := m.nextLine + 1 }] ∧
        Wrote s.mem t.mem dst (s.mem.read src 128)) ∧
      (let done := phys (BitVec.ofNat 64 m.statusAddr + 24)
       let old := s.mem.num m.leafAt 8
       let apart (a n b k : Nat) : Prop := a + n ≤ b ∨ b + k ≤ a
       m.nextLine = 4095 → exists_ done 8 → m.notice = 0 → m.poisonedLines = 0 → old % 2 = 1 → m.leafAt / 2 ^ 19 ≠ m.oldFrame → done / 2 ^ 19 ≠ m.oldFrame → apart m.leafAt 8 done 8 → apart m.leafAt 8 dst 128 →
        ∃ t, exec (.migrationLineCopy m.mid) u = .next t ∧ t.migrations = [] ∧ m.oldFrame ∈ t.movedFrames ∧
          BitVec.ofNat 64 (t.mem.num m.leafAt 8) = m.newLeaf ||| (BitVec.ofNat 64 old &&& 0xC0) ∧ t.mem.num done 4 = 1))

/-- Accesses from outside, on the R path and of the host: a write of a mapped page writes exactly its bytes, a read answers the bytes
of the home and changes none, a signal adds or sets its 64-bit word. The host's access to an unplaced managed page is held, with 5
written in the leaf's toucher, and its 64-byte record of kind 2 and sub-cause not-present is written at slot FQPROD mod 2^FQSIZE, vector
0 firing where the queue was empty; a full queue drops the record, is counted, and nothing else is written or sent; its timeout
answers Unsupported Request. A physical address of no home stops the model (its own stop, log 56). -/
def Obligations.AccessesFromOutside : Prop :=
  ∀ (s : State) (p : PartId), Quiet s p →
    let q := s.parts[p]
    let both (a : OutsideAccess) (q : State → Prop) : Prop :=
      (∃ t, exec (.remoteAccessArrival p a) s = .next t ∧ q t) ∧ ∃ t, exec (.hostBridgeAccess p a) s = .next t ∧ q t
    s.remoteHeld p = false →
    (∀ va data pa, 0 < data.length → va.toNat % 2 ^ 19 + data.length ≤ 2 ^ 19 → Mapped s p va Need.write pa →
      both (.write va data) fun t => Wrote s.mem t.mem pa data ∧ t.cores = s.cores ∧ t.sent = s.sent) ∧
    (∀ va n pa, 0 < n → va.toNat % 2 ^ 19 + n ≤ 2 ^ 19 → Mapped s p va Need.read pa →
      both (.read va n) fun t => t.mem = s.mem ∧ t.sent = s.sent ++ [.readData (s.mem.read pa n)]) ∧
    (∀ va v pa, va.toNat % 8 = 0 → Mapped s p va Need.both pa →
      both (.signalAdd va v) (fun t => Wrote s.mem t.mem pa (leBytes 8 ((s.mem.num pa 8 + v.toNat) % 2 ^ 64))) ∧
      both (.signalSet va v) fun t => Wrote s.mem t.mem pa (leBytes 8 v.toNat)) ∧
    (∀ pa data, pa / 2 ^ 50 = 4 → pa % 2 ^ 50 + data.length < 2 ^ 50 →
      both (.writePhys pa data) fun t => Wrote s.mem t.mem pa data) ∧
    (∀ va n e a, 0 < n → va.toNat % 2 ^ 19 + n ≤ 2 ^ 19 → s.walk s.parts[p].ptRoot va = .managed e a → bitsN e 15 13 = 0 →
      (∀ h ∈ s.heldHost, h.ready = false) →
      let touched : List Byte := leBytes 8 (e.toNat + 5 * 2 ^ 13)
      let slot := q.fqProd.toNat % 2 ^ q.fqSize
      ∃ t, exec (.hostBridgeAccess p (.read va n)) s = .next t ∧
        t.heldHost = s.heldHost ++ [{ n := s.nextId, part := p, access := .read va n, sub := 1, ready := false }] ∧
        (2 ^ q.fqSize ≤ (q.fqProd - q.fqCons).toNat → t.sent = s.sent ∧ Wrote s.mem t.mem a touched ∧
          bitsN t.parts[p].fqStat 63 32 = min (2 ^ 32 - 1) (bitsN q.fqStat 63 32 + 1)) ∧
        ((q.fqProd - q.fqCons).toNat < 2 ^ q.fqSize → q.fqBase.toNat % 64 = 0 →
          ∀ fa, Mapped s p (q.fqBase + BitVec.ofNat 64 (64 * slot)) Need.write fa → fa + 64 ≤ a ∨ a + 8 ≤ fa →
          (∃ m, Wrote s.mem m a touched ∧ Wrote m t.mem fa (leBytes 1 2 ++ leBytes 1 0xFF ++ leBytes 2 0x0701 ++ leBytes 2 0 ++ leBytes 2 0 ++
            leBytes 8 0 ++ leBytes 4 0 ++ leBytes 4 0xFFFFFFFF ++ leBytes 8 va.toNat ++ leBytes 8 0 ++ leBytes 4 0xFFFFFFFF ++ leBytes 4 0 ++
            leBytes 8 (s.time / 18) ++ leBytes 8 0)) ∧
          t.parts[p].fqProd = q.fqProd + 1 ∧ t.parts[p].fqStat = q.fqStat ∧
          t.sent = s.sent ++ if q.fqProd = q.fqCons ∧ q.resetting = false ∧ q.intMask.getLsbD 0 = false then [.msix p 0] else [])) ∧
    (∀ h, s.heldHost = [h] → exec (.hostCompletionTimeout h.n) s =
      .next { s with heldHost := [], sent := s.sent ++ [.unsupportedRequest] }) ∧
    (∀ pa n, 5 ≤ pa / 2 ^ 50 → exec (.hostBridgeAccess p (.readPhys pa n)) s = .fault .noSuchAddress)

/-- Boot, firmware and attestation. A boot whose root of trust and active image pass sets the identifier, links, stacks, routes and
versions and extends the five measurements from zero (that a boot extends from zero, the hash that it extends by, and that it goes on with
a standby image that may not run, are log 34); one that fails keeps the package in reset. An update is refused with the lowest reason in order (request, standby, signature and digest, version
floor, format; a bad magic number is a signature that fails, log 34) or leaves MB_STAT BUSY; the takeover ends it DONE with the
image's version on both complexes, and with no update changes nothing; a failover needs a healthy standby (log 34), and goes on with
its image. Each SPDM message, once booted, is answered with SPDM 1.3's value for it (version 0x13, index 0 for the count and 0xFF for
all: log 34), an error where the negotiation of the algorithms must come first and has not (the model's choice, log 34); signatures
are free values (log 7). -/
def Obligations.BootFirmwareAndAttestation : Prop :=
  ∀ (s : State),
    let f := s.firmware
    (∀ b : BootInputs, s.bootStage = 0 → s.keptReset = false →
      let runs (im : StoredImage) : Prop := fwImageOk Config.fusedKey im.header im.body = true ∧
        Config.fusedSvn.toNat ≤ natOfBytes ((im.header.drop 4).take 4) ∧ im.body.length = natOfBytes ((im.header.drop 8).take 4)
      let bigEndian (x : BitVec 256) : List Byte := (leBytes 32 x.toNat).reverse
      let digest (im : StoredImage) : BitVec 256 := BitVec.ofNat 256 (natOfBytes ((im.header.drop 0x10).take 32).reverse)
      let measured (d : BitVec 256) : BitVec 256 :=
        BitVec.ofNat 256 (natOfBytes (sha256 (List.replicate 32 (0 : Byte) ++ bigEndian d)).reverse)
      ∃ t, exec (.packageBoot b) s = .next t ∧ (¬(b.rootOk = true ∧ runs b.active) → t = { s with keptReset := true }) ∧
      (b.rootOk = true ∧ runs b.active → t.bootStage = 5 ∧ t.spdmReady = true ∧
        t.packageId = (if ∀ r ∈ b.routes, r.1 = b.packageId then 0 else b.packageId) ∧ t.routes = b.routes ∧
        t.failedStacks = b.failedStacks ∧ t.mem = s.mem ∧ t.cores = s.cores ∧
        t.firmware.svn.toNat = natOfBytes ((b.active.header.drop 4).take 4) % 2 ^ 32 ∧ t.firmware.format = b.active.format ∧
        t.firmware.standbySvn.toNat = natOfBytes ((b.standby.header.drop 4).take 4) % 2 ^ 32 ∧ t.firmware.standbyFormat = b.standby.format ∧
        (t.firmware.standbyOk = true ↔ runs b.standby) ∧ t.measurements.toList =
          [measured b.romDigest, measured (digest b.active), measured (digest b.standby), measured b.configDigest, measured b.routesDigest] ∧
        ∀ l : Fin 32, t.lanes[l] = if l ∈ b.failedLinks then 0 else s.lanes[l])) ∧
    (∀ im : FirmwareImage,
      let at_ := 4 * 2 ^ 50 + f.mbAddr.toNat
      let header := s.mem.read at_ 0x70
      let length := s.mem.num (at_ + 8) 4
      let busy := bitsN f.mbStat 7 0 = 1 ∧ f.mbStat ≠ 0x101
      f.mbAddr.toNat + 0x70 + length ≤ 2 ^ 50 → s.migrations = [] → s.movedFrames = [] →
      let body := s.mem.read (at_ + 0x70) length
      let svn : BitVec 32 := BitVec.ofNat 32 (s.mem.num (at_ + 4) 4)
      let bad := f.mbAddr.toNat % 4096 ≠ 0 ∨ f.mbLen.toNat ≠ 0x70 + length
      let good := fwImageOk Config.fusedKey header body
      let old := decide (svn.toNat < Config.fusedSvn.toNat)
      let unread := !im.formatsRead.contains f.format
      (busy → exec (.firmwareUpdate im) s = .next s) ∧
      (¬busy → ∃ t, exec (.firmwareUpdate im) s = .next t ∧
        t = { s with firmware := { f with mbStat := t.firmware.mbStat, pendingSvn := t.firmware.pendingSvn } } ∧
        (let code := bitsN t.firmware.mbStat 7 0
         (bad → code = 6) ∧ (¬bad → f.standbyOk = false → code = 7) ∧ (¬bad → f.standbyOk = true → good = false → code = 4) ∧
         (¬bad → f.standbyOk = true → good = true → old = true → code = 5) ∧
         (¬bad → f.standbyOk = true → good = true → old = false → unread = true → code = 3) ∧
         (¬bad → f.standbyOk = true → good = true → old = false → unread = false →
          code = 1 ∧ ∃ d, t.firmware.pendingSvn = some (svn, im.formatWritten, d))))) ∧
    (∀ svn format d, f.pendingSvn = some (svn, format, d) → ∃ t, exec .firmwareTakeover s = .next t ∧
      t.firmware = { f with mbStat := 2, svn := svn, format := format, standbySvn := svn, standbyFormat := format, pendingSvn := none } ∧
      (∀ i : Fin 5, i ≠ 1 → i ≠ 2 → t.measurements[i] = s.measurements[i]) ∧ t.mem = s.mem ∧ t.parts = s.parts) ∧
    (f.pendingSvn = none → exec .firmwareTakeover s = .next s ∧ (f.standbyOk = true → exec .firmwareFailover s =
      .next { s with firmware := { f with svn := f.standbySvn, format := f.standbyFormat, standbyOk := false } })) ∧
    (f.standbyOk = false → exec .firmwareFailover s = .next s) ∧
    (s.spdmReady = true →
      let chain := Config.certChain
      let tells (i : Instr) (m : OutMsg) : Prop := exec i s = .next { s with sent := s.sent ++ [m] }
      tells .getVersion (.spdmVersion [0x13]) ∧ tells .getCapabilities (.spdmCapabilities true true true) ∧
      (∀ a b, exec (.negotiateAlgorithms a b) s =
        .next { s with sent := s.sent ++ [.spdmAlgorithms (a && b)], negotiated := s.negotiated || (a && b) }) ∧
      (s.negotiated = false → tells .getDigests .spdmError ∧ (∀ slot offset length, tells (.getCertificate slot offset length) .spdmError) ∧
        (∀ slot nonce, tells (.challenge slot nonce) .spdmError) ∧ ∀ i, tells (.getMeasurements i) .spdmError) ∧
      (s.negotiated = true → tells .getDigests (.spdmDigest chainDigest) ∧
      (∀ slot offset length,
        (slot ≠ 0 → tells (.getCertificate slot offset length) .spdmError) ∧
        (slot = 0 → offset.toNat < chain.length → tells (.getCertificate slot offset length)
          (.spdmCertificate ((chain.drop offset.toNat).take length.toNat) (chain.length - (offset.toNat + length.toNat))))) ∧
      (∀ slot nonce, (slot ≠ 0 → tells (.challenge slot nonce) .spdmError) ∧
        (slot = 0 → ∃ sig, tells (.challenge slot nonce) (.spdmChallenge chainDigest sig))) ∧
      tells (.getMeasurements 0) (.spdmMeasurementCount 5) ∧
      (∀ i : Fin 5, ∃ sig, tells (.getMeasurements (BitVec.ofNat 8 (i.val + 1))) (.spdmMeasurements [(i.val + 1, s.measurements[i])] sig)) ∧
      (∃ sig, tells (.getMeasurements 255)
        (.spdmMeasurements ((List.finRange 5).map fun i : Fin 5 => (i.val + 1, s.measurements[i])) sig)) ∧
      (∀ i : BitVec 8, 5 < i.toNat → i ≠ 255 → tells (.getMeasurements i) .spdmError)))

/-- Every step keeps the memory of the homes and the typed buffers of every core in the model's own canonical form (log 1): addresses
strictly rising, no listed byte equal to what an unlisted address reads as. -/
def Obligations.StepKeepsMemoriesCanonical : Prop :=
  ∀ s t : State, s.memWf = true → step s = .next t → t.memWf = true

/-- The memories at reset, which list nothing (log 2), are in the model's own canonical form (log 1). -/
def Obligations.ResetMemoriesAreCanonical : Prop := State.reset.memWf = true

/-- After package reset: every cluster's divisor is 4 with no change pending, no lease and no trip; every heat-store cell holds
melt_lo 256 and melt_hi 896 with no lull; THERM holds t_trip 0x06E0, t_thr 0x0660 and t_mig 0x05F0; no block stands on any core,
every counter is 0 and no partition is enabled. That the package identifier is 0 before boot (R507 sets it there) and control is 0 is
the model's choice (log 3). -/
def Obligations.ResetValues : Prop :=
  (∀ cl : ClusterId, State.reset.clusters[cl].div = 4 ∧ State.reset.clusters[cl].pendingDiv = false ∧
    State.reset.clusters[cl].lease = none ∧ State.reset.clusters[cl].tripped = false) ∧
  (∀ i : Fin 20, bitsN State.reset.cells[i] 42 32 = 256 ∧ bitsN State.reset.cells[i] 26 16 = 896 ∧
    State.reset.cells[i].getLsbD 12 = false) ∧
  bitsN State.reset.therm 47 32 = 0x06E0 ∧ bitsN State.reset.therm 31 16 = 0x0660 ∧ bitsN State.reset.therm 15 0 = 0x05F0 ∧
  (∀ c : CoreId, State.reset.cores[c].blocks = [] ∧ State.reset.cores[c].ops = [] ∧
    ∀ i : Fin 23, State.reset.cores[c].counters[i] = 0) ∧
  (∀ p : PartId, State.reset.parts[p].enabled = false ∧ State.reset.parts[p].control = 0 ∧ State.reset.parts[p].graphs = []) ∧
  State.reset.packageId = 0
end

