-- ==== Sys2Proof/Laws/State.lean ====
section
/-! SUPPORT. Every field under every update of the state, so that no proof unfolds the update of a record. -/

namespace Sys2Proof.Machine

/-- The element that an update changes. -/
@[simp] theorem upd_self {α : Type} {n : Nat} (v : Vector α n) (i : Fin n) (f : α → α) :
    (upd v i f)[i.val] = f v[i.val] := by
  simp [upd]
/-- Every element under an update. -/
theorem upd_get {α : Type} {n : Nat} (v : Vector α n) (i j : Fin n) (f : α → α) :
    (upd v i f)[j] = if j = i then f v[j] else v[j] := by
  by_cases h : j = i
  · subst h; simp
  · have : i.val ≠ j.val := fun e => h (Fin.ext e.symm)
    simp [upd, this, h]
/-- The elements that an update leaves alone. -/
theorem upd_other {α : Type} {n : Nat} (v : Vector α n) {i j : Fin n} (f : α → α) (h : j ≠ i) : (upd v i f)[j] = v[j] := by
  rw [upd_get, if_neg h]


@[simp] theorem State.modCore_mem (s : State) (c : CoreId) (f : Core → Core) : (s.modCore c f).mem = s.mem := rfl
@[simp] theorem State.modCore_clusters (s : State) (c : CoreId) (f : Core → Core) : (s.modCore c f).clusters = s.clusters := rfl
@[simp] theorem State.modCore_parts (s : State) (c : CoreId) (f : Core → Core) : (s.modCore c f).parts = s.parts := rfl
@[simp] theorem State.modCore_poisonSectors (s : State) (c : CoreId) (f : Core → Core) : (s.modCore c f).poisonSectors = s.poisonSectors := rfl
@[simp] theorem State.modCore_walkCache (s : State) (c : CoreId) (f : Core → Core) : (s.modCore c f).walkCache = s.walkCache := rfl
@[simp] theorem State.modCore_retiredFrames (s : State) (c : CoreId) (f : Core → Core) : (s.modCore c f).retiredFrames = s.retiredFrames := rfl
@[simp] theorem State.modCore_launches (s : State) (c : CoreId) (f : Core → Core) : (s.modCore c f).launches = s.launches := rfl
@[simp] theorem State.modCore_migrations (s : State) (c : CoreId) (f : Core → Core) : (s.modCore c f).migrations = s.migrations := rfl
@[simp] theorem State.modCore_movedFrames (s : State) (c : CoreId) (f : Core → Core) : (s.modCore c f).movedFrames = s.movedFrames := rfl
@[simp] theorem State.modCore_cells (s : State) (c : CoreId) (f : Core → Core) : (s.modCore c f).cells = s.cells := rfl
@[simp] theorem State.modCore_therm (s : State) (c : CoreId) (f : Core → Core) : (s.modCore c f).therm = s.therm := rfl
@[simp] theorem State.modCore_power (s : State) (c : CoreId) (f : Core → Core) : (s.modCore c f).power = s.power := rfl
@[simp] theorem State.modCore_ballast (s : State) (c : CoreId) (f : Core → Core) : (s.modCore c f).ballast = s.ballast := rfl
@[simp] theorem State.modCore_time (s : State) (c : CoreId) (f : Core → Core) : (s.modCore c f).time = s.time := rfl
@[simp] theorem State.modCore_packageId (s : State) (c : CoreId) (f : Core → Core) : (s.modCore c f).packageId = s.packageId := rfl
@[simp] theorem State.modCore_lanes (s : State) (c : CoreId) (f : Core → Core) : (s.modCore c f).lanes = s.lanes := rfl
@[simp] theorem State.modCore_firmware (s : State) (c : CoreId) (f : Core → Core) : (s.modCore c f).firmware = s.firmware := rfl
@[simp] theorem State.modCore_measurements (s : State) (c : CoreId) (f : Core → Core) : (s.modCore c f).measurements = s.measurements := rfl
@[simp] theorem State.modCore_failedStacks (s : State) (c : CoreId) (f : Core → Core) : (s.modCore c f).failedStacks = s.failedStacks := rfl
@[simp] theorem State.modCore_bootStage (s : State) (c : CoreId) (f : Core → Core) : (s.modCore c f).bootStage = s.bootStage := rfl
@[simp] theorem State.modCore_spdmReady (s : State) (c : CoreId) (f : Core → Core) : (s.modCore c f).spdmReady = s.spdmReady := rfl
@[simp] theorem State.modCore_heldHost (s : State) (c : CoreId) (f : Core → Core) : (s.modCore c f).heldHost = s.heldHost := rfl
@[simp] theorem State.modCore_sent (s : State) (c : CoreId) (f : Core → Core) : (s.modCore c f).sent = s.sent := rfl
@[simp] theorem State.modCore_heldDev (s : State) (c : CoreId) (f : Core → Core) : (s.modCore c f).heldDev = s.heldDev := rfl
@[simp] theorem State.modCore_devWaits (s : State) (c : CoreId) (f : Core → Core) : (s.modCore c f).devWaits = s.devWaits := rfl
@[simp] theorem State.modCore_powerLog (s : State) (c : CoreId) (f : Core → Core) : (s.modCore c f).powerLog = s.powerLog := rfl
@[simp] theorem State.modCore_routes (s : State) (c : CoreId) (f : Core → Core) : (s.modCore c f).routes = s.routes := rfl
@[simp] theorem State.modCore_keptReset (s : State) (c : CoreId) (f : Core → Core) : (s.modCore c f).keptReset = s.keptReset := rfl
@[simp] theorem State.modCore_negotiated (s : State) (c : CoreId) (f : Core → Core) : (s.modCore c f).negotiated = s.negotiated := rfl
@[simp] theorem State.modCore_agenda (s : State) (c : CoreId) (f : Core → Core) : (s.modCore c f).agenda = s.agenda := rfl
@[simp] theorem State.modCore_requests (s : State) (c : CoreId) (f : Core → Core) : (s.modCore c f).requests = s.requests := rfl
@[simp] theorem State.modCore_issue (s : State) (c : CoreId) (f : Core → Core) : (s.modCore c f).issue = s.issue := rfl
@[simp] theorem State.modCore_nextId (s : State) (c : CoreId) (f : Core → Core) : (s.modCore c f).nextId = s.nextId := rfl
@[simp] theorem State.modCore_heldTrace (s : State) (c : CoreId) (f : Core → Core) : (s.modCore c f).heldTrace = s.heldTrace := rfl
@[simp] theorem State.modCore_cores (s : State) (c : CoreId) (f : Core → Core) : (s.modCore c f).cores = upd s.cores c f := rfl

@[simp] theorem State.modCluster_mem (s : State) (c : ClusterId) (f : Cluster → Cluster) : (s.modCluster c f).mem = s.mem := rfl
@[simp] theorem State.modCluster_cores (s : State) (c : ClusterId) (f : Cluster → Cluster) : (s.modCluster c f).cores = s.cores := rfl
@[simp] theorem State.modCluster_parts (s : State) (c : ClusterId) (f : Cluster → Cluster) : (s.modCluster c f).parts = s.parts := rfl
@[simp] theorem State.modCluster_poisonSectors (s : State) (c : ClusterId) (f : Cluster → Cluster) : (s.modCluster c f).poisonSectors = s.poisonSectors := rfl
@[simp] theorem State.modCluster_walkCache (s : State) (c : ClusterId) (f : Cluster → Cluster) : (s.modCluster c f).walkCache = s.walkCache := rfl
@[simp] theorem State.modCluster_retiredFrames (s : State) (c : ClusterId) (f : Cluster → Cluster) : (s.modCluster c f).retiredFrames = s.retiredFrames := rfl
@[simp] theorem State.modCluster_launches (s : State) (c : ClusterId) (f : Cluster → Cluster) : (s.modCluster c f).launches = s.launches := rfl
@[simp] theorem State.modCluster_migrations (s : State) (c : ClusterId) (f : Cluster → Cluster) : (s.modCluster c f).migrations = s.migrations := rfl
@[simp] theorem State.modCluster_movedFrames (s : State) (c : ClusterId) (f : Cluster → Cluster) : (s.modCluster c f).movedFrames = s.movedFrames := rfl
@[simp] theorem State.modCluster_cells (s : State) (c : ClusterId) (f : Cluster → Cluster) : (s.modCluster c f).cells = s.cells := rfl
@[simp] theorem State.modCluster_therm (s : State) (c : ClusterId) (f : Cluster → Cluster) : (s.modCluster c f).therm = s.therm := rfl
@[simp] theorem State.modCluster_power (s : State) (c : ClusterId) (f : Cluster → Cluster) : (s.modCluster c f).power = s.power := rfl
@[simp] theorem State.modCluster_ballast (s : State) (c : ClusterId) (f : Cluster → Cluster) : (s.modCluster c f).ballast = s.ballast := rfl
@[simp] theorem State.modCluster_time (s : State) (c : ClusterId) (f : Cluster → Cluster) : (s.modCluster c f).time = s.time := rfl
@[simp] theorem State.modCluster_packageId (s : State) (c : ClusterId) (f : Cluster → Cluster) : (s.modCluster c f).packageId = s.packageId := rfl
@[simp] theorem State.modCluster_lanes (s : State) (c : ClusterId) (f : Cluster → Cluster) : (s.modCluster c f).lanes = s.lanes := rfl
@[simp] theorem State.modCluster_firmware (s : State) (c : ClusterId) (f : Cluster → Cluster) : (s.modCluster c f).firmware = s.firmware := rfl
@[simp] theorem State.modCluster_measurements (s : State) (c : ClusterId) (f : Cluster → Cluster) : (s.modCluster c f).measurements = s.measurements := rfl
@[simp] theorem State.modCluster_failedStacks (s : State) (c : ClusterId) (f : Cluster → Cluster) : (s.modCluster c f).failedStacks = s.failedStacks := rfl
@[simp] theorem State.modCluster_bootStage (s : State) (c : ClusterId) (f : Cluster → Cluster) : (s.modCluster c f).bootStage = s.bootStage := rfl
@[simp] theorem State.modCluster_spdmReady (s : State) (c : ClusterId) (f : Cluster → Cluster) : (s.modCluster c f).spdmReady = s.spdmReady := rfl
@[simp] theorem State.modCluster_heldHost (s : State) (c : ClusterId) (f : Cluster → Cluster) : (s.modCluster c f).heldHost = s.heldHost := rfl
@[simp] theorem State.modCluster_sent (s : State) (c : ClusterId) (f : Cluster → Cluster) : (s.modCluster c f).sent = s.sent := rfl
@[simp] theorem State.modCluster_heldDev (s : State) (c : ClusterId) (f : Cluster → Cluster) : (s.modCluster c f).heldDev = s.heldDev := rfl
@[simp] theorem State.modCluster_devWaits (s : State) (c : ClusterId) (f : Cluster → Cluster) : (s.modCluster c f).devWaits = s.devWaits := rfl
@[simp] theorem State.modCluster_powerLog (s : State) (c : ClusterId) (f : Cluster → Cluster) : (s.modCluster c f).powerLog = s.powerLog := rfl
@[simp] theorem State.modCluster_routes (s : State) (c : ClusterId) (f : Cluster → Cluster) : (s.modCluster c f).routes = s.routes := rfl
@[simp] theorem State.modCluster_keptReset (s : State) (c : ClusterId) (f : Cluster → Cluster) : (s.modCluster c f).keptReset = s.keptReset := rfl
@[simp] theorem State.modCluster_negotiated (s : State) (c : ClusterId) (f : Cluster → Cluster) : (s.modCluster c f).negotiated = s.negotiated := rfl
@[simp] theorem State.modCluster_agenda (s : State) (c : ClusterId) (f : Cluster → Cluster) : (s.modCluster c f).agenda = s.agenda := rfl
@[simp] theorem State.modCluster_requests (s : State) (c : ClusterId) (f : Cluster → Cluster) : (s.modCluster c f).requests = s.requests := rfl
@[simp] theorem State.modCluster_issue (s : State) (c : ClusterId) (f : Cluster → Cluster) : (s.modCluster c f).issue = s.issue := rfl
@[simp] theorem State.modCluster_nextId (s : State) (c : ClusterId) (f : Cluster → Cluster) : (s.modCluster c f).nextId = s.nextId := rfl
@[simp] theorem State.modCluster_heldTrace (s : State) (c : ClusterId) (f : Cluster → Cluster) : (s.modCluster c f).heldTrace = s.heldTrace := rfl
@[simp] theorem State.modCluster_clusters (s : State) (c : ClusterId) (f : Cluster → Cluster) :
    (s.modCluster c f).clusters = upd s.clusters c f := rfl

@[simp] theorem State.modPart_mem (s : State) (p : PartId) (f : Partition → Partition) : (s.modPart p f).mem = s.mem := rfl
@[simp] theorem State.modPart_cores (s : State) (p : PartId) (f : Partition → Partition) : (s.modPart p f).cores = s.cores := rfl
@[simp] theorem State.modPart_clusters (s : State) (p : PartId) (f : Partition → Partition) : (s.modPart p f).clusters = s.clusters := rfl
@[simp] theorem State.modPart_poisonSectors (s : State) (p : PartId) (f : Partition → Partition) : (s.modPart p f).poisonSectors = s.poisonSectors := rfl
@[simp] theorem State.modPart_walkCache (s : State) (p : PartId) (f : Partition → Partition) : (s.modPart p f).walkCache = s.walkCache := rfl
@[simp] theorem State.modPart_retiredFrames (s : State) (p : PartId) (f : Partition → Partition) : (s.modPart p f).retiredFrames = s.retiredFrames := rfl
@[simp] theorem State.modPart_launches (s : State) (p : PartId) (f : Partition → Partition) : (s.modPart p f).launches = s.launches := rfl
@[simp] theorem State.modPart_migrations (s : State) (p : PartId) (f : Partition → Partition) : (s.modPart p f).migrations = s.migrations := rfl
@[simp] theorem State.modPart_movedFrames (s : State) (p : PartId) (f : Partition → Partition) : (s.modPart p f).movedFrames = s.movedFrames := rfl
@[simp] theorem State.modPart_cells (s : State) (p : PartId) (f : Partition → Partition) : (s.modPart p f).cells = s.cells := rfl
@[simp] theorem State.modPart_therm (s : State) (p : PartId) (f : Partition → Partition) : (s.modPart p f).therm = s.therm := rfl
@[simp] theorem State.modPart_power (s : State) (p : PartId) (f : Partition → Partition) : (s.modPart p f).power = s.power := rfl
@[simp] theorem State.modPart_ballast (s : State) (p : PartId) (f : Partition → Partition) : (s.modPart p f).ballast = s.ballast := rfl
@[simp] theorem State.modPart_time (s : State) (p : PartId) (f : Partition → Partition) : (s.modPart p f).time = s.time := rfl
@[simp] theorem State.modPart_packageId (s : State) (p : PartId) (f : Partition → Partition) : (s.modPart p f).packageId = s.packageId := rfl
@[simp] theorem State.modPart_lanes (s : State) (p : PartId) (f : Partition → Partition) : (s.modPart p f).lanes = s.lanes := rfl
@[simp] theorem State.modPart_firmware (s : State) (p : PartId) (f : Partition → Partition) : (s.modPart p f).firmware = s.firmware := rfl
@[simp] theorem State.modPart_measurements (s : State) (p : PartId) (f : Partition → Partition) : (s.modPart p f).measurements = s.measurements := rfl
@[simp] theorem State.modPart_failedStacks (s : State) (p : PartId) (f : Partition → Partition) : (s.modPart p f).failedStacks = s.failedStacks := rfl
@[simp] theorem State.modPart_bootStage (s : State) (p : PartId) (f : Partition → Partition) : (s.modPart p f).bootStage = s.bootStage := rfl
@[simp] theorem State.modPart_spdmReady (s : State) (p : PartId) (f : Partition → Partition) : (s.modPart p f).spdmReady = s.spdmReady := rfl
@[simp] theorem State.modPart_heldHost (s : State) (p : PartId) (f : Partition → Partition) : (s.modPart p f).heldHost = s.heldHost := rfl
@[simp] theorem State.modPart_sent (s : State) (p : PartId) (f : Partition → Partition) : (s.modPart p f).sent = s.sent := rfl
@[simp] theorem State.modPart_heldDev (s : State) (p : PartId) (f : Partition → Partition) : (s.modPart p f).heldDev = s.heldDev := rfl
@[simp] theorem State.modPart_devWaits (s : State) (p : PartId) (f : Partition → Partition) : (s.modPart p f).devWaits = s.devWaits := rfl
@[simp] theorem State.modPart_powerLog (s : State) (p : PartId) (f : Partition → Partition) : (s.modPart p f).powerLog = s.powerLog := rfl
@[simp] theorem State.modPart_routes (s : State) (p : PartId) (f : Partition → Partition) : (s.modPart p f).routes = s.routes := rfl
@[simp] theorem State.modPart_keptReset (s : State) (p : PartId) (f : Partition → Partition) : (s.modPart p f).keptReset = s.keptReset := rfl
@[simp] theorem State.modPart_negotiated (s : State) (p : PartId) (f : Partition → Partition) : (s.modPart p f).negotiated = s.negotiated := rfl
@[simp] theorem State.modPart_agenda (s : State) (p : PartId) (f : Partition → Partition) : (s.modPart p f).agenda = s.agenda := rfl
@[simp] theorem State.modPart_requests (s : State) (p : PartId) (f : Partition → Partition) : (s.modPart p f).requests = s.requests := rfl
@[simp] theorem State.modPart_issue (s : State) (p : PartId) (f : Partition → Partition) : (s.modPart p f).issue = s.issue := rfl
@[simp] theorem State.modPart_nextId (s : State) (p : PartId) (f : Partition → Partition) : (s.modPart p f).nextId = s.nextId := rfl
@[simp] theorem State.modPart_heldTrace (s : State) (p : PartId) (f : Partition → Partition) : (s.modPart p f).heldTrace = s.heldTrace := rfl
@[simp] theorem State.modPart_parts (s : State) (p : PartId) (f : Partition → Partition) :
    (s.modPart p f).parts = upd s.parts p f := rfl

@[simp] theorem State.modWarp_mem (s : State) (c : CoreId) (w : WarpId) (f : Warp → Warp) : (s.modWarp c w f).mem = s.mem := rfl
@[simp] theorem State.modWarp_clusters (s : State) (c : CoreId) (w : WarpId) (f : Warp → Warp) : (s.modWarp c w f).clusters = s.clusters := rfl
@[simp] theorem State.modWarp_parts (s : State) (c : CoreId) (w : WarpId) (f : Warp → Warp) : (s.modWarp c w f).parts = s.parts := rfl
@[simp] theorem State.modWarp_poisonSectors (s : State) (c : CoreId) (w : WarpId) (f : Warp → Warp) : (s.modWarp c w f).poisonSectors = s.poisonSectors := rfl
@[simp] theorem State.modWarp_walkCache (s : State) (c : CoreId) (w : WarpId) (f : Warp → Warp) : (s.modWarp c w f).walkCache = s.walkCache := rfl
@[simp] theorem State.modWarp_retiredFrames (s : State) (c : CoreId) (w : WarpId) (f : Warp → Warp) : (s.modWarp c w f).retiredFrames = s.retiredFrames := rfl
@[simp] theorem State.modWarp_launches (s : State) (c : CoreId) (w : WarpId) (f : Warp → Warp) : (s.modWarp c w f).launches = s.launches := rfl
@[simp] theorem State.modWarp_migrations (s : State) (c : CoreId) (w : WarpId) (f : Warp → Warp) : (s.modWarp c w f).migrations = s.migrations := rfl
@[simp] theorem State.modWarp_movedFrames (s : State) (c : CoreId) (w : WarpId) (f : Warp → Warp) : (s.modWarp c w f).movedFrames = s.movedFrames := rfl
@[simp] theorem State.modWarp_cells (s : State) (c : CoreId) (w : WarpId) (f : Warp → Warp) : (s.modWarp c w f).cells = s.cells := rfl
@[simp] theorem State.modWarp_therm (s : State) (c : CoreId) (w : WarpId) (f : Warp → Warp) : (s.modWarp c w f).therm = s.therm := rfl
@[simp] theorem State.modWarp_power (s : State) (c : CoreId) (w : WarpId) (f : Warp → Warp) : (s.modWarp c w f).power = s.power := rfl
@[simp] theorem State.modWarp_ballast (s : State) (c : CoreId) (w : WarpId) (f : Warp → Warp) : (s.modWarp c w f).ballast = s.ballast := rfl
@[simp] theorem State.modWarp_time (s : State) (c : CoreId) (w : WarpId) (f : Warp → Warp) : (s.modWarp c w f).time = s.time := rfl
@[simp] theorem State.modWarp_packageId (s : State) (c : CoreId) (w : WarpId) (f : Warp → Warp) : (s.modWarp c w f).packageId = s.packageId := rfl
@[simp] theorem State.modWarp_lanes (s : State) (c : CoreId) (w : WarpId) (f : Warp → Warp) : (s.modWarp c w f).lanes = s.lanes := rfl
@[simp] theorem State.modWarp_firmware (s : State) (c : CoreId) (w : WarpId) (f : Warp → Warp) : (s.modWarp c w f).firmware = s.firmware := rfl
@[simp] theorem State.modWarp_measurements (s : State) (c : CoreId) (w : WarpId) (f : Warp → Warp) : (s.modWarp c w f).measurements = s.measurements := rfl
@[simp] theorem State.modWarp_failedStacks (s : State) (c : CoreId) (w : WarpId) (f : Warp → Warp) : (s.modWarp c w f).failedStacks = s.failedStacks := rfl
@[simp] theorem State.modWarp_bootStage (s : State) (c : CoreId) (w : WarpId) (f : Warp → Warp) : (s.modWarp c w f).bootStage = s.bootStage := rfl
@[simp] theorem State.modWarp_spdmReady (s : State) (c : CoreId) (w : WarpId) (f : Warp → Warp) : (s.modWarp c w f).spdmReady = s.spdmReady := rfl
@[simp] theorem State.modWarp_heldHost (s : State) (c : CoreId) (w : WarpId) (f : Warp → Warp) : (s.modWarp c w f).heldHost = s.heldHost := rfl
@[simp] theorem State.modWarp_sent (s : State) (c : CoreId) (w : WarpId) (f : Warp → Warp) : (s.modWarp c w f).sent = s.sent := rfl
@[simp] theorem State.modWarp_heldDev (s : State) (c : CoreId) (w : WarpId) (f : Warp → Warp) : (s.modWarp c w f).heldDev = s.heldDev := rfl
@[simp] theorem State.modWarp_devWaits (s : State) (c : CoreId) (w : WarpId) (f : Warp → Warp) : (s.modWarp c w f).devWaits = s.devWaits := rfl
@[simp] theorem State.modWarp_powerLog (s : State) (c : CoreId) (w : WarpId) (f : Warp → Warp) : (s.modWarp c w f).powerLog = s.powerLog := rfl
@[simp] theorem State.modWarp_routes (s : State) (c : CoreId) (w : WarpId) (f : Warp → Warp) : (s.modWarp c w f).routes = s.routes := rfl
@[simp] theorem State.modWarp_keptReset (s : State) (c : CoreId) (w : WarpId) (f : Warp → Warp) : (s.modWarp c w f).keptReset = s.keptReset := rfl
@[simp] theorem State.modWarp_negotiated (s : State) (c : CoreId) (w : WarpId) (f : Warp → Warp) : (s.modWarp c w f).negotiated = s.negotiated := rfl
@[simp] theorem State.modWarp_agenda (s : State) (c : CoreId) (w : WarpId) (f : Warp → Warp) : (s.modWarp c w f).agenda = s.agenda := rfl
@[simp] theorem State.modWarp_requests (s : State) (c : CoreId) (w : WarpId) (f : Warp → Warp) : (s.modWarp c w f).requests = s.requests := rfl
@[simp] theorem State.modWarp_issue (s : State) (c : CoreId) (w : WarpId) (f : Warp → Warp) : (s.modWarp c w f).issue = s.issue := rfl
@[simp] theorem State.modWarp_nextId (s : State) (c : CoreId) (w : WarpId) (f : Warp → Warp) : (s.modWarp c w f).nextId = s.nextId := rfl
@[simp] theorem State.modWarp_heldTrace (s : State) (c : CoreId) (w : WarpId) (f : Warp → Warp) : (s.modWarp c w f).heldTrace = s.heldTrace := rfl
@[simp] theorem State.modWarp_cores (s : State) (c : CoreId) (w : WarpId) (f : Warp → Warp) :
    (s.modWarp c w f).cores = upd s.cores c (·.modWarp w f) := rfl

@[simp] theorem State.modBlock_mem (s : State) (c : CoreId) (bid : Nat) (f : Block → Block) : (s.modBlock c bid f).mem = s.mem := rfl
@[simp] theorem State.modBlock_clusters (s : State) (c : CoreId) (bid : Nat) (f : Block → Block) : (s.modBlock c bid f).clusters = s.clusters := rfl
@[simp] theorem State.modBlock_parts (s : State) (c : CoreId) (bid : Nat) (f : Block → Block) : (s.modBlock c bid f).parts = s.parts := rfl
@[simp] theorem State.modBlock_poisonSectors (s : State) (c : CoreId) (bid : Nat) (f : Block → Block) : (s.modBlock c bid f).poisonSectors = s.poisonSectors := rfl
@[simp] theorem State.modBlock_walkCache (s : State) (c : CoreId) (bid : Nat) (f : Block → Block) : (s.modBlock c bid f).walkCache = s.walkCache := rfl
@[simp] theorem State.modBlock_retiredFrames (s : State) (c : CoreId) (bid : Nat) (f : Block → Block) : (s.modBlock c bid f).retiredFrames = s.retiredFrames := rfl
@[simp] theorem State.modBlock_launches (s : State) (c : CoreId) (bid : Nat) (f : Block → Block) : (s.modBlock c bid f).launches = s.launches := rfl
@[simp] theorem State.modBlock_migrations (s : State) (c : CoreId) (bid : Nat) (f : Block → Block) : (s.modBlock c bid f).migrations = s.migrations := rfl
@[simp] theorem State.modBlock_movedFrames (s : State) (c : CoreId) (bid : Nat) (f : Block → Block) : (s.modBlock c bid f).movedFrames = s.movedFrames := rfl
@[simp] theorem State.modBlock_cells (s : State) (c : CoreId) (bid : Nat) (f : Block → Block) : (s.modBlock c bid f).cells = s.cells := rfl
@[simp] theorem State.modBlock_therm (s : State) (c : CoreId) (bid : Nat) (f : Block → Block) : (s.modBlock c bid f).therm = s.therm := rfl
@[simp] theorem State.modBlock_power (s : State) (c : CoreId) (bid : Nat) (f : Block → Block) : (s.modBlock c bid f).power = s.power := rfl
@[simp] theorem State.modBlock_ballast (s : State) (c : CoreId) (bid : Nat) (f : Block → Block) : (s.modBlock c bid f).ballast = s.ballast := rfl
@[simp] theorem State.modBlock_time (s : State) (c : CoreId) (bid : Nat) (f : Block → Block) : (s.modBlock c bid f).time = s.time := rfl
@[simp] theorem State.modBlock_packageId (s : State) (c : CoreId) (bid : Nat) (f : Block → Block) : (s.modBlock c bid f).packageId = s.packageId := rfl
@[simp] theorem State.modBlock_lanes (s : State) (c : CoreId) (bid : Nat) (f : Block → Block) : (s.modBlock c bid f).lanes = s.lanes := rfl
@[simp] theorem State.modBlock_firmware (s : State) (c : CoreId) (bid : Nat) (f : Block → Block) : (s.modBlock c bid f).firmware = s.firmware := rfl
@[simp] theorem State.modBlock_measurements (s : State) (c : CoreId) (bid : Nat) (f : Block → Block) : (s.modBlock c bid f).measurements = s.measurements := rfl
@[simp] theorem State.modBlock_failedStacks (s : State) (c : CoreId) (bid : Nat) (f : Block → Block) : (s.modBlock c bid f).failedStacks = s.failedStacks := rfl
@[simp] theorem State.modBlock_bootStage (s : State) (c : CoreId) (bid : Nat) (f : Block → Block) : (s.modBlock c bid f).bootStage = s.bootStage := rfl
@[simp] theorem State.modBlock_spdmReady (s : State) (c : CoreId) (bid : Nat) (f : Block → Block) : (s.modBlock c bid f).spdmReady = s.spdmReady := rfl
@[simp] theorem State.modBlock_heldHost (s : State) (c : CoreId) (bid : Nat) (f : Block → Block) : (s.modBlock c bid f).heldHost = s.heldHost := rfl
@[simp] theorem State.modBlock_sent (s : State) (c : CoreId) (bid : Nat) (f : Block → Block) : (s.modBlock c bid f).sent = s.sent := rfl
@[simp] theorem State.modBlock_heldDev (s : State) (c : CoreId) (bid : Nat) (f : Block → Block) : (s.modBlock c bid f).heldDev = s.heldDev := rfl
@[simp] theorem State.modBlock_devWaits (s : State) (c : CoreId) (bid : Nat) (f : Block → Block) : (s.modBlock c bid f).devWaits = s.devWaits := rfl
@[simp] theorem State.modBlock_powerLog (s : State) (c : CoreId) (bid : Nat) (f : Block → Block) : (s.modBlock c bid f).powerLog = s.powerLog := rfl
@[simp] theorem State.modBlock_routes (s : State) (c : CoreId) (bid : Nat) (f : Block → Block) : (s.modBlock c bid f).routes = s.routes := rfl
@[simp] theorem State.modBlock_keptReset (s : State) (c : CoreId) (bid : Nat) (f : Block → Block) : (s.modBlock c bid f).keptReset = s.keptReset := rfl
@[simp] theorem State.modBlock_negotiated (s : State) (c : CoreId) (bid : Nat) (f : Block → Block) : (s.modBlock c bid f).negotiated = s.negotiated := rfl
@[simp] theorem State.modBlock_agenda (s : State) (c : CoreId) (bid : Nat) (f : Block → Block) : (s.modBlock c bid f).agenda = s.agenda := rfl
@[simp] theorem State.modBlock_requests (s : State) (c : CoreId) (bid : Nat) (f : Block → Block) : (s.modBlock c bid f).requests = s.requests := rfl
@[simp] theorem State.modBlock_issue (s : State) (c : CoreId) (bid : Nat) (f : Block → Block) : (s.modBlock c bid f).issue = s.issue := rfl
@[simp] theorem State.modBlock_nextId (s : State) (c : CoreId) (bid : Nat) (f : Block → Block) : (s.modBlock c bid f).nextId = s.nextId := rfl
@[simp] theorem State.modBlock_heldTrace (s : State) (c : CoreId) (bid : Nat) (f : Block → Block) : (s.modBlock c bid f).heldTrace = s.heldTrace := rfl

@[simp] theorem State.modOp_mem (s : State) (c : CoreId) (id : Nat) (f : AsyncOp → AsyncOp) : (s.modOp c id f).mem = s.mem := rfl
@[simp] theorem State.modOp_clusters (s : State) (c : CoreId) (id : Nat) (f : AsyncOp → AsyncOp) : (s.modOp c id f).clusters = s.clusters := rfl
@[simp] theorem State.modOp_parts (s : State) (c : CoreId) (id : Nat) (f : AsyncOp → AsyncOp) : (s.modOp c id f).parts = s.parts := rfl
@[simp] theorem State.modOp_poisonSectors (s : State) (c : CoreId) (id : Nat) (f : AsyncOp → AsyncOp) : (s.modOp c id f).poisonSectors = s.poisonSectors := rfl
@[simp] theorem State.modOp_walkCache (s : State) (c : CoreId) (id : Nat) (f : AsyncOp → AsyncOp) : (s.modOp c id f).walkCache = s.walkCache := rfl
@[simp] theorem State.modOp_retiredFrames (s : State) (c : CoreId) (id : Nat) (f : AsyncOp → AsyncOp) : (s.modOp c id f).retiredFrames = s.retiredFrames := rfl
@[simp] theorem State.modOp_launches (s : State) (c : CoreId) (id : Nat) (f : AsyncOp → AsyncOp) : (s.modOp c id f).launches = s.launches := rfl
@[simp] theorem State.modOp_migrations (s : State) (c : CoreId) (id : Nat) (f : AsyncOp → AsyncOp) : (s.modOp c id f).migrations = s.migrations := rfl
@[simp] theorem State.modOp_movedFrames (s : State) (c : CoreId) (id : Nat) (f : AsyncOp → AsyncOp) : (s.modOp c id f).movedFrames = s.movedFrames := rfl
@[simp] theorem State.modOp_cells (s : State) (c : CoreId) (id : Nat) (f : AsyncOp → AsyncOp) : (s.modOp c id f).cells = s.cells := rfl
@[simp] theorem State.modOp_therm (s : State) (c : CoreId) (id : Nat) (f : AsyncOp → AsyncOp) : (s.modOp c id f).therm = s.therm := rfl
@[simp] theorem State.modOp_power (s : State) (c : CoreId) (id : Nat) (f : AsyncOp → AsyncOp) : (s.modOp c id f).power = s.power := rfl
@[simp] theorem State.modOp_ballast (s : State) (c : CoreId) (id : Nat) (f : AsyncOp → AsyncOp) : (s.modOp c id f).ballast = s.ballast := rfl
@[simp] theorem State.modOp_time (s : State) (c : CoreId) (id : Nat) (f : AsyncOp → AsyncOp) : (s.modOp c id f).time = s.time := rfl
@[simp] theorem State.modOp_packageId (s : State) (c : CoreId) (id : Nat) (f : AsyncOp → AsyncOp) : (s.modOp c id f).packageId = s.packageId := rfl
@[simp] theorem State.modOp_lanes (s : State) (c : CoreId) (id : Nat) (f : AsyncOp → AsyncOp) : (s.modOp c id f).lanes = s.lanes := rfl
@[simp] theorem State.modOp_firmware (s : State) (c : CoreId) (id : Nat) (f : AsyncOp → AsyncOp) : (s.modOp c id f).firmware = s.firmware := rfl
@[simp] theorem State.modOp_measurements (s : State) (c : CoreId) (id : Nat) (f : AsyncOp → AsyncOp) : (s.modOp c id f).measurements = s.measurements := rfl
@[simp] theorem State.modOp_failedStacks (s : State) (c : CoreId) (id : Nat) (f : AsyncOp → AsyncOp) : (s.modOp c id f).failedStacks = s.failedStacks := rfl
@[simp] theorem State.modOp_bootStage (s : State) (c : CoreId) (id : Nat) (f : AsyncOp → AsyncOp) : (s.modOp c id f).bootStage = s.bootStage := rfl
@[simp] theorem State.modOp_spdmReady (s : State) (c : CoreId) (id : Nat) (f : AsyncOp → AsyncOp) : (s.modOp c id f).spdmReady = s.spdmReady := rfl
@[simp] theorem State.modOp_heldHost (s : State) (c : CoreId) (id : Nat) (f : AsyncOp → AsyncOp) : (s.modOp c id f).heldHost = s.heldHost := rfl
@[simp] theorem State.modOp_sent (s : State) (c : CoreId) (id : Nat) (f : AsyncOp → AsyncOp) : (s.modOp c id f).sent = s.sent := rfl
@[simp] theorem State.modOp_heldDev (s : State) (c : CoreId) (id : Nat) (f : AsyncOp → AsyncOp) : (s.modOp c id f).heldDev = s.heldDev := rfl
@[simp] theorem State.modOp_devWaits (s : State) (c : CoreId) (id : Nat) (f : AsyncOp → AsyncOp) : (s.modOp c id f).devWaits = s.devWaits := rfl
@[simp] theorem State.modOp_powerLog (s : State) (c : CoreId) (id : Nat) (f : AsyncOp → AsyncOp) : (s.modOp c id f).powerLog = s.powerLog := rfl
@[simp] theorem State.modOp_routes (s : State) (c : CoreId) (id : Nat) (f : AsyncOp → AsyncOp) : (s.modOp c id f).routes = s.routes := rfl
@[simp] theorem State.modOp_keptReset (s : State) (c : CoreId) (id : Nat) (f : AsyncOp → AsyncOp) : (s.modOp c id f).keptReset = s.keptReset := rfl
@[simp] theorem State.modOp_negotiated (s : State) (c : CoreId) (id : Nat) (f : AsyncOp → AsyncOp) : (s.modOp c id f).negotiated = s.negotiated := rfl
@[simp] theorem State.modOp_agenda (s : State) (c : CoreId) (id : Nat) (f : AsyncOp → AsyncOp) : (s.modOp c id f).agenda = s.agenda := rfl
@[simp] theorem State.modOp_requests (s : State) (c : CoreId) (id : Nat) (f : AsyncOp → AsyncOp) : (s.modOp c id f).requests = s.requests := rfl
@[simp] theorem State.modOp_issue (s : State) (c : CoreId) (id : Nat) (f : AsyncOp → AsyncOp) : (s.modOp c id f).issue = s.issue := rfl
@[simp] theorem State.modOp_nextId (s : State) (c : CoreId) (id : Nat) (f : AsyncOp → AsyncOp) : (s.modOp c id f).nextId = s.nextId := rfl
@[simp] theorem State.modOp_heldTrace (s : State) (c : CoreId) (id : Nat) (f : AsyncOp → AsyncOp) : (s.modOp c id f).heldTrace = s.heldTrace := rfl

@[simp] theorem State.upTo_mem (s : State) (t : Nat) : (s.upTo t).mem = s.mem := rfl
@[simp] theorem State.upTo_cores (s : State) (t : Nat) : (s.upTo t).cores = s.cores := rfl
@[simp] theorem State.upTo_clusters (s : State) (t : Nat) : (s.upTo t).clusters = s.clusters := rfl
@[simp] theorem State.upTo_parts (s : State) (t : Nat) : (s.upTo t).parts = s.parts := rfl
@[simp] theorem State.upTo_poisonSectors (s : State) (t : Nat) : (s.upTo t).poisonSectors = s.poisonSectors := rfl
@[simp] theorem State.upTo_walkCache (s : State) (t : Nat) : (s.upTo t).walkCache = s.walkCache := rfl
@[simp] theorem State.upTo_retiredFrames (s : State) (t : Nat) : (s.upTo t).retiredFrames = s.retiredFrames := rfl
@[simp] theorem State.upTo_launches (s : State) (t : Nat) : (s.upTo t).launches = s.launches := rfl
@[simp] theorem State.upTo_migrations (s : State) (t : Nat) : (s.upTo t).migrations = s.migrations := rfl
@[simp] theorem State.upTo_movedFrames (s : State) (t : Nat) : (s.upTo t).movedFrames = s.movedFrames := rfl
@[simp] theorem State.upTo_cells (s : State) (t : Nat) : (s.upTo t).cells = s.cells := rfl
@[simp] theorem State.upTo_therm (s : State) (t : Nat) : (s.upTo t).therm = s.therm := rfl
@[simp] theorem State.upTo_power (s : State) (t : Nat) : (s.upTo t).power = s.power := rfl
@[simp] theorem State.upTo_ballast (s : State) (t : Nat) : (s.upTo t).ballast = s.ballast := rfl
@[simp] theorem State.upTo_packageId (s : State) (t : Nat) : (s.upTo t).packageId = s.packageId := rfl
@[simp] theorem State.upTo_lanes (s : State) (t : Nat) : (s.upTo t).lanes = s.lanes := rfl
@[simp] theorem State.upTo_firmware (s : State) (t : Nat) : (s.upTo t).firmware = s.firmware := rfl
@[simp] theorem State.upTo_measurements (s : State) (t : Nat) : (s.upTo t).measurements = s.measurements := rfl
@[simp] theorem State.upTo_failedStacks (s : State) (t : Nat) : (s.upTo t).failedStacks = s.failedStacks := rfl
@[simp] theorem State.upTo_bootStage (s : State) (t : Nat) : (s.upTo t).bootStage = s.bootStage := rfl
@[simp] theorem State.upTo_spdmReady (s : State) (t : Nat) : (s.upTo t).spdmReady = s.spdmReady := rfl
@[simp] theorem State.upTo_heldHost (s : State) (t : Nat) : (s.upTo t).heldHost = s.heldHost := rfl
@[simp] theorem State.upTo_sent (s : State) (t : Nat) : (s.upTo t).sent = s.sent := rfl
@[simp] theorem State.upTo_heldDev (s : State) (t : Nat) : (s.upTo t).heldDev = s.heldDev := rfl
@[simp] theorem State.upTo_devWaits (s : State) (t : Nat) : (s.upTo t).devWaits = s.devWaits := rfl
@[simp] theorem State.upTo_powerLog (s : State) (t : Nat) : (s.upTo t).powerLog = s.powerLog := rfl
@[simp] theorem State.upTo_routes (s : State) (t : Nat) : (s.upTo t).routes = s.routes := rfl
@[simp] theorem State.upTo_keptReset (s : State) (t : Nat) : (s.upTo t).keptReset = s.keptReset := rfl
@[simp] theorem State.upTo_negotiated (s : State) (t : Nat) : (s.upTo t).negotiated = s.negotiated := rfl
@[simp] theorem State.upTo_agenda (s : State) (t : Nat) : (s.upTo t).agenda = s.agenda := rfl
@[simp] theorem State.upTo_requests (s : State) (t : Nat) : (s.upTo t).requests = s.requests := rfl
@[simp] theorem State.upTo_issue (s : State) (t : Nat) : (s.upTo t).issue = s.issue := rfl
@[simp] theorem State.upTo_nextId (s : State) (t : Nat) : (s.upTo t).nextId = s.nextId := rfl
@[simp] theorem State.upTo_heldTrace (s : State) (t : Nat) : (s.upTo t).heldTrace = s.heldTrace := rfl

@[simp] theorem Core.modWarp_lastPart (k : Core) (w : WarpId) (f : Warp → Warp) : (k.modWarp w f).lastPart = k.lastPart := rfl
@[simp] theorem Core.modWarp_retired (k : Core) (w : WarpId) (f : Warp → Warp) : (k.modWarp w f).retired = k.retired := rfl
@[simp] theorem Core.modWarp_stopped (k : Core) (w : WarpId) (f : Warp → Warp) : (k.modWarp w f).stopped = k.stopped := rfl
@[simp] theorem Core.modWarp_blocks (k : Core) (w : WarpId) (f : Warp → Warp) : (k.modWarp w f).blocks = k.blocks := rfl
@[simp] theorem Core.modWarp_holder (k : Core) (w : WarpId) (f : Warp → Warp) : (k.modWarp w f).holder = k.holder := rfl
@[simp] theorem Core.modWarp_first (k : Core) (w : WarpId) (f : Warp → Warp) : (k.modWarp w f).first = k.first := rfl
@[simp] theorem Core.modWarp_wb (k : Core) (w : WarpId) (f : Warp → Warp) : (k.modWarp w f).wb = k.wb := rfl
@[simp] theorem Core.modWarp_ab (k : Core) (w : WarpId) (f : Warp → Warp) : (k.modWarp w f).ab = k.ab := rfl
@[simp] theorem Core.modWarp_cb (k : Core) (w : WarpId) (f : Warp → Warp) : (k.modWarp w f).cb = k.cb := rfl
@[simp] theorem Core.modWarp_poison (k : Core) (w : WarpId) (f : Warp → Warp) : (k.modWarp w f).poison = k.poison := rfl
@[simp] theorem Core.modWarp_planes (k : Core) (w : WarpId) (f : Warp → Warp) : (k.modWarp w f).planes = k.planes := rfl
@[simp] theorem Core.modWarp_active (k : Core) (w : WarpId) (f : Warp → Warp) : (k.modWarp w f).active = k.active := rfl
@[simp] theorem Core.modWarp_config (k : Core) (w : WarpId) (f : Warp → Warp) : (k.modWarp w f).config = k.config := rfl
@[simp] theorem Core.modWarp_fl (k : Core) (w : WarpId) (f : Warp → Warp) : (k.modWarp w f).fl = k.fl := rfl
@[simp] theorem Core.modWarp_banks (k : Core) (w : WarpId) (f : Warp → Warp) : (k.modWarp w f).banks = k.banks := rfl
@[simp] theorem Core.modWarp_bank (k : Core) (w : WarpId) (f : Warp → Warp) : (k.modWarp w f).bank = k.bank := rfl
@[simp] theorem Core.modWarp_decode (k : Core) (w : WarpId) (f : Warp → Warp) : (k.modWarp w f).decode = k.decode := rfl
@[simp] theorem Core.modWarp_tlb (k : Core) (w : WarpId) (f : Warp → Warp) : (k.modWarp w f).tlb = k.tlb := rfl
@[simp] theorem Core.modWarp_ops (k : Core) (w : WarpId) (f : Warp → Warp) : (k.modWarp w f).ops = k.ops := rfl
@[simp] theorem Core.modWarp_fBusy (k : Core) (w : WarpId) (f : Warp → Warp) : (k.modWarp w f).fBusy = k.fBusy := rfl
@[simp] theorem Core.modWarp_sticky (k : Core) (w : WarpId) (f : Warp → Warp) : (k.modWarp w f).sticky = k.sticky := rfl
@[simp] theorem Core.modWarp_sensor (k : Core) (w : WarpId) (f : Warp → Warp) : (k.modWarp w f).sensor = k.sensor := rfl
@[simp] theorem Core.modWarp_thermal (k : Core) (w : WarpId) (f : Warp → Warp) : (k.modWarp w f).thermal = k.thermal := rfl
@[simp] theorem Core.modWarp_current (k : Core) (w : WarpId) (f : Warp → Warp) : (k.modWarp w f).current = k.current := rfl
@[simp] theorem Core.modWarp_counters (k : Core) (w : WarpId) (f : Warp → Warp) : (k.modWarp w f).counters = k.counters := rfl
@[simp] theorem Core.modWarp_laneCycles (k : Core) (w : WarpId) (f : Warp → Warp) : (k.modWarp w f).laneCycles = k.laneCycles := rfl
@[simp] theorem Core.modWarp_ranges (k : Core) (w : WarpId) (f : Warp → Warp) : (k.modWarp w f).ranges = k.ranges := rfl
@[simp] theorem Core.modWarp_reserved (k : Core) (w : WarpId) (f : Warp → Warp) : (k.modWarp w f).reserved = k.reserved := rfl
@[simp] theorem Core.modWarp_breakSkip (k : Core) (w : WarpId) (f : Warp → Warp) : (k.modWarp w f).breakSkip = k.breakSkip := rfl
@[simp] theorem Core.modWarp_sampleIn (k : Core) (w : WarpId) (f : Warp → Warp) : (k.modWarp w f).sampleIn = k.sampleIn := rfl
@[simp] theorem Core.modWarp_acted (k : Core) (w : WarpId) (f : Warp → Warp) : (k.modWarp w f).acted = k.acted := rfl
@[simp] theorem Core.modWarp_written (k : Core) (w : WarpId) (f : Warp → Warp) : (k.modWarp w f).written = k.written := rfl
@[simp] theorem Core.modWarp_tick (k : Core) (w : WarpId) (f : Warp → Warp) : (k.modWarp w f).tick = k.tick := rfl
@[simp] theorem Core.modWarp_arrived (k : Core) (w : WarpId) (f : Warp → Warp) : (k.modWarp w f).arrived = k.arrived := rfl
@[simp] theorem Core.modWarp_warps (k : Core) (w : WarpId) (f : Warp → Warp) :
    (k.modWarp w f).warps = upd k.warps w (Option.map f) := rfl

@[simp] theorem Core.modBlock_lastPart (k : Core) (bid : Nat) (f : Block → Block) : (k.modBlock bid f).lastPart = k.lastPart := rfl
@[simp] theorem Core.modBlock_retired (k : Core) (bid : Nat) (f : Block → Block) : (k.modBlock bid f).retired = k.retired := rfl
@[simp] theorem Core.modBlock_stopped (k : Core) (bid : Nat) (f : Block → Block) : (k.modBlock bid f).stopped = k.stopped := rfl
@[simp] theorem Core.modBlock_warps (k : Core) (bid : Nat) (f : Block → Block) : (k.modBlock bid f).warps = k.warps := rfl
@[simp] theorem Core.modBlock_holder (k : Core) (bid : Nat) (f : Block → Block) : (k.modBlock bid f).holder = k.holder := rfl
@[simp] theorem Core.modBlock_first (k : Core) (bid : Nat) (f : Block → Block) : (k.modBlock bid f).first = k.first := rfl
@[simp] theorem Core.modBlock_wb (k : Core) (bid : Nat) (f : Block → Block) : (k.modBlock bid f).wb = k.wb := rfl
@[simp] theorem Core.modBlock_ab (k : Core) (bid : Nat) (f : Block → Block) : (k.modBlock bid f).ab = k.ab := rfl
@[simp] theorem Core.modBlock_cb (k : Core) (bid : Nat) (f : Block → Block) : (k.modBlock bid f).cb = k.cb := rfl
@[simp] theorem Core.modBlock_poison (k : Core) (bid : Nat) (f : Block → Block) : (k.modBlock bid f).poison = k.poison := rfl
@[simp] theorem Core.modBlock_planes (k : Core) (bid : Nat) (f : Block → Block) : (k.modBlock bid f).planes = k.planes := rfl
@[simp] theorem Core.modBlock_active (k : Core) (bid : Nat) (f : Block → Block) : (k.modBlock bid f).active = k.active := rfl
@[simp] theorem Core.modBlock_config (k : Core) (bid : Nat) (f : Block → Block) : (k.modBlock bid f).config = k.config := rfl
@[simp] theorem Core.modBlock_fl (k : Core) (bid : Nat) (f : Block → Block) : (k.modBlock bid f).fl = k.fl := rfl
@[simp] theorem Core.modBlock_banks (k : Core) (bid : Nat) (f : Block → Block) : (k.modBlock bid f).banks = k.banks := rfl
@[simp] theorem Core.modBlock_bank (k : Core) (bid : Nat) (f : Block → Block) : (k.modBlock bid f).bank = k.bank := rfl
@[simp] theorem Core.modBlock_decode (k : Core) (bid : Nat) (f : Block → Block) : (k.modBlock bid f).decode = k.decode := rfl
@[simp] theorem Core.modBlock_tlb (k : Core) (bid : Nat) (f : Block → Block) : (k.modBlock bid f).tlb = k.tlb := rfl
@[simp] theorem Core.modBlock_ops (k : Core) (bid : Nat) (f : Block → Block) : (k.modBlock bid f).ops = k.ops := rfl
@[simp] theorem Core.modBlock_fBusy (k : Core) (bid : Nat) (f : Block → Block) : (k.modBlock bid f).fBusy = k.fBusy := rfl
@[simp] theorem Core.modBlock_sticky (k : Core) (bid : Nat) (f : Block → Block) : (k.modBlock bid f).sticky = k.sticky := rfl
@[simp] theorem Core.modBlock_sensor (k : Core) (bid : Nat) (f : Block → Block) : (k.modBlock bid f).sensor = k.sensor := rfl
@[simp] theorem Core.modBlock_thermal (k : Core) (bid : Nat) (f : Block → Block) : (k.modBlock bid f).thermal = k.thermal := rfl
@[simp] theorem Core.modBlock_current (k : Core) (bid : Nat) (f : Block → Block) : (k.modBlock bid f).current = k.current := rfl
@[simp] theorem Core.modBlock_counters (k : Core) (bid : Nat) (f : Block → Block) : (k.modBlock bid f).counters = k.counters := rfl
@[simp] theorem Core.modBlock_laneCycles (k : Core) (bid : Nat) (f : Block → Block) : (k.modBlock bid f).laneCycles = k.laneCycles := rfl
@[simp] theorem Core.modBlock_ranges (k : Core) (bid : Nat) (f : Block → Block) : (k.modBlock bid f).ranges = k.ranges := rfl
@[simp] theorem Core.modBlock_reserved (k : Core) (bid : Nat) (f : Block → Block) : (k.modBlock bid f).reserved = k.reserved := rfl
@[simp] theorem Core.modBlock_breakSkip (k : Core) (bid : Nat) (f : Block → Block) : (k.modBlock bid f).breakSkip = k.breakSkip := rfl
@[simp] theorem Core.modBlock_sampleIn (k : Core) (bid : Nat) (f : Block → Block) : (k.modBlock bid f).sampleIn = k.sampleIn := rfl
@[simp] theorem Core.modBlock_acted (k : Core) (bid : Nat) (f : Block → Block) : (k.modBlock bid f).acted = k.acted := rfl
@[simp] theorem Core.modBlock_written (k : Core) (bid : Nat) (f : Block → Block) : (k.modBlock bid f).written = k.written := rfl
@[simp] theorem Core.modBlock_tick (k : Core) (bid : Nat) (f : Block → Block) : (k.modBlock bid f).tick = k.tick := rfl
@[simp] theorem Core.modBlock_arrived (k : Core) (bid : Nat) (f : Block → Block) : (k.modBlock bid f).arrived = k.arrived := rfl

@[simp] theorem Core.modBlockWarps_lastPart (k : Core) (bid : Nat) (f : Warp → Warp) : (k.modBlockWarps bid f).lastPart = k.lastPart := rfl
@[simp] theorem Core.modBlockWarps_retired (k : Core) (bid : Nat) (f : Warp → Warp) : (k.modBlockWarps bid f).retired = k.retired := rfl
@[simp] theorem Core.modBlockWarps_stopped (k : Core) (bid : Nat) (f : Warp → Warp) : (k.modBlockWarps bid f).stopped = k.stopped := rfl
@[simp] theorem Core.modBlockWarps_blocks (k : Core) (bid : Nat) (f : Warp → Warp) : (k.modBlockWarps bid f).blocks = k.blocks := rfl
@[simp] theorem Core.modBlockWarps_holder (k : Core) (bid : Nat) (f : Warp → Warp) : (k.modBlockWarps bid f).holder = k.holder := rfl
@[simp] theorem Core.modBlockWarps_first (k : Core) (bid : Nat) (f : Warp → Warp) : (k.modBlockWarps bid f).first = k.first := rfl
@[simp] theorem Core.modBlockWarps_wb (k : Core) (bid : Nat) (f : Warp → Warp) : (k.modBlockWarps bid f).wb = k.wb := rfl
@[simp] theorem Core.modBlockWarps_ab (k : Core) (bid : Nat) (f : Warp → Warp) : (k.modBlockWarps bid f).ab = k.ab := rfl
@[simp] theorem Core.modBlockWarps_cb (k : Core) (bid : Nat) (f : Warp → Warp) : (k.modBlockWarps bid f).cb = k.cb := rfl
@[simp] theorem Core.modBlockWarps_poison (k : Core) (bid : Nat) (f : Warp → Warp) : (k.modBlockWarps bid f).poison = k.poison := rfl
@[simp] theorem Core.modBlockWarps_planes (k : Core) (bid : Nat) (f : Warp → Warp) : (k.modBlockWarps bid f).planes = k.planes := rfl
@[simp] theorem Core.modBlockWarps_active (k : Core) (bid : Nat) (f : Warp → Warp) : (k.modBlockWarps bid f).active = k.active := rfl
@[simp] theorem Core.modBlockWarps_config (k : Core) (bid : Nat) (f : Warp → Warp) : (k.modBlockWarps bid f).config = k.config := rfl
@[simp] theorem Core.modBlockWarps_fl (k : Core) (bid : Nat) (f : Warp → Warp) : (k.modBlockWarps bid f).fl = k.fl := rfl
@[simp] theorem Core.modBlockWarps_banks (k : Core) (bid : Nat) (f : Warp → Warp) : (k.modBlockWarps bid f).banks = k.banks := rfl
@[simp] theorem Core.modBlockWarps_bank (k : Core) (bid : Nat) (f : Warp → Warp) : (k.modBlockWarps bid f).bank = k.bank := rfl
@[simp] theorem Core.modBlockWarps_decode (k : Core) (bid : Nat) (f : Warp → Warp) : (k.modBlockWarps bid f).decode = k.decode := rfl
@[simp] theorem Core.modBlockWarps_tlb (k : Core) (bid : Nat) (f : Warp → Warp) : (k.modBlockWarps bid f).tlb = k.tlb := rfl
@[simp] theorem Core.modBlockWarps_ops (k : Core) (bid : Nat) (f : Warp → Warp) : (k.modBlockWarps bid f).ops = k.ops := rfl
@[simp] theorem Core.modBlockWarps_fBusy (k : Core) (bid : Nat) (f : Warp → Warp) : (k.modBlockWarps bid f).fBusy = k.fBusy := rfl
@[simp] theorem Core.modBlockWarps_sticky (k : Core) (bid : Nat) (f : Warp → Warp) : (k.modBlockWarps bid f).sticky = k.sticky := rfl
@[simp] theorem Core.modBlockWarps_sensor (k : Core) (bid : Nat) (f : Warp → Warp) : (k.modBlockWarps bid f).sensor = k.sensor := rfl
@[simp] theorem Core.modBlockWarps_thermal (k : Core) (bid : Nat) (f : Warp → Warp) : (k.modBlockWarps bid f).thermal = k.thermal := rfl
@[simp] theorem Core.modBlockWarps_current (k : Core) (bid : Nat) (f : Warp → Warp) : (k.modBlockWarps bid f).current = k.current := rfl
@[simp] theorem Core.modBlockWarps_counters (k : Core) (bid : Nat) (f : Warp → Warp) : (k.modBlockWarps bid f).counters = k.counters := rfl
@[simp] theorem Core.modBlockWarps_laneCycles (k : Core) (bid : Nat) (f : Warp → Warp) : (k.modBlockWarps bid f).laneCycles = k.laneCycles := rfl
@[simp] theorem Core.modBlockWarps_ranges (k : Core) (bid : Nat) (f : Warp → Warp) : (k.modBlockWarps bid f).ranges = k.ranges := rfl
@[simp] theorem Core.modBlockWarps_reserved (k : Core) (bid : Nat) (f : Warp → Warp) : (k.modBlockWarps bid f).reserved = k.reserved := rfl
@[simp] theorem Core.modBlockWarps_breakSkip (k : Core) (bid : Nat) (f : Warp → Warp) : (k.modBlockWarps bid f).breakSkip = k.breakSkip := rfl
@[simp] theorem Core.modBlockWarps_sampleIn (k : Core) (bid : Nat) (f : Warp → Warp) : (k.modBlockWarps bid f).sampleIn = k.sampleIn := rfl
@[simp] theorem Core.modBlockWarps_acted (k : Core) (bid : Nat) (f : Warp → Warp) : (k.modBlockWarps bid f).acted = k.acted := rfl
@[simp] theorem Core.modBlockWarps_written (k : Core) (bid : Nat) (f : Warp → Warp) : (k.modBlockWarps bid f).written = k.written := rfl
@[simp] theorem Core.modBlockWarps_tick (k : Core) (bid : Nat) (f : Warp → Warp) : (k.modBlockWarps bid f).tick = k.tick := rfl
@[simp] theorem Core.modBlockWarps_arrived (k : Core) (bid : Nat) (f : Warp → Warp) : (k.modBlockWarps bid f).arrived = k.arrived := rfl

@[simp] theorem Core.modOp_lastPart (k : Core) (id : Nat) (f : AsyncOp → AsyncOp) : (k.modOp id f).lastPart = k.lastPart := rfl
@[simp] theorem Core.modOp_retired (k : Core) (id : Nat) (f : AsyncOp → AsyncOp) : (k.modOp id f).retired = k.retired := rfl
@[simp] theorem Core.modOp_stopped (k : Core) (id : Nat) (f : AsyncOp → AsyncOp) : (k.modOp id f).stopped = k.stopped := rfl
@[simp] theorem Core.modOp_blocks (k : Core) (id : Nat) (f : AsyncOp → AsyncOp) : (k.modOp id f).blocks = k.blocks := rfl
@[simp] theorem Core.modOp_warps (k : Core) (id : Nat) (f : AsyncOp → AsyncOp) : (k.modOp id f).warps = k.warps := rfl
@[simp] theorem Core.modOp_holder (k : Core) (id : Nat) (f : AsyncOp → AsyncOp) : (k.modOp id f).holder = k.holder := rfl
@[simp] theorem Core.modOp_first (k : Core) (id : Nat) (f : AsyncOp → AsyncOp) : (k.modOp id f).first = k.first := rfl
@[simp] theorem Core.modOp_wb (k : Core) (id : Nat) (f : AsyncOp → AsyncOp) : (k.modOp id f).wb = k.wb := rfl
@[simp] theorem Core.modOp_ab (k : Core) (id : Nat) (f : AsyncOp → AsyncOp) : (k.modOp id f).ab = k.ab := rfl
@[simp] theorem Core.modOp_cb (k : Core) (id : Nat) (f : AsyncOp → AsyncOp) : (k.modOp id f).cb = k.cb := rfl
@[simp] theorem Core.modOp_poison (k : Core) (id : Nat) (f : AsyncOp → AsyncOp) : (k.modOp id f).poison = k.poison := rfl
@[simp] theorem Core.modOp_planes (k : Core) (id : Nat) (f : AsyncOp → AsyncOp) : (k.modOp id f).planes = k.planes := rfl
@[simp] theorem Core.modOp_active (k : Core) (id : Nat) (f : AsyncOp → AsyncOp) : (k.modOp id f).active = k.active := rfl
@[simp] theorem Core.modOp_config (k : Core) (id : Nat) (f : AsyncOp → AsyncOp) : (k.modOp id f).config = k.config := rfl
@[simp] theorem Core.modOp_fl (k : Core) (id : Nat) (f : AsyncOp → AsyncOp) : (k.modOp id f).fl = k.fl := rfl
@[simp] theorem Core.modOp_banks (k : Core) (id : Nat) (f : AsyncOp → AsyncOp) : (k.modOp id f).banks = k.banks := rfl
@[simp] theorem Core.modOp_bank (k : Core) (id : Nat) (f : AsyncOp → AsyncOp) : (k.modOp id f).bank = k.bank := rfl
@[simp] theorem Core.modOp_decode (k : Core) (id : Nat) (f : AsyncOp → AsyncOp) : (k.modOp id f).decode = k.decode := rfl
@[simp] theorem Core.modOp_tlb (k : Core) (id : Nat) (f : AsyncOp → AsyncOp) : (k.modOp id f).tlb = k.tlb := rfl
@[simp] theorem Core.modOp_fBusy (k : Core) (id : Nat) (f : AsyncOp → AsyncOp) : (k.modOp id f).fBusy = k.fBusy := rfl
@[simp] theorem Core.modOp_sticky (k : Core) (id : Nat) (f : AsyncOp → AsyncOp) : (k.modOp id f).sticky = k.sticky := rfl
@[simp] theorem Core.modOp_sensor (k : Core) (id : Nat) (f : AsyncOp → AsyncOp) : (k.modOp id f).sensor = k.sensor := rfl
@[simp] theorem Core.modOp_thermal (k : Core) (id : Nat) (f : AsyncOp → AsyncOp) : (k.modOp id f).thermal = k.thermal := rfl
@[simp] theorem Core.modOp_current (k : Core) (id : Nat) (f : AsyncOp → AsyncOp) : (k.modOp id f).current = k.current := rfl
@[simp] theorem Core.modOp_counters (k : Core) (id : Nat) (f : AsyncOp → AsyncOp) : (k.modOp id f).counters = k.counters := rfl
@[simp] theorem Core.modOp_laneCycles (k : Core) (id : Nat) (f : AsyncOp → AsyncOp) : (k.modOp id f).laneCycles = k.laneCycles := rfl
@[simp] theorem Core.modOp_ranges (k : Core) (id : Nat) (f : AsyncOp → AsyncOp) : (k.modOp id f).ranges = k.ranges := rfl
@[simp] theorem Core.modOp_reserved (k : Core) (id : Nat) (f : AsyncOp → AsyncOp) : (k.modOp id f).reserved = k.reserved := rfl
@[simp] theorem Core.modOp_breakSkip (k : Core) (id : Nat) (f : AsyncOp → AsyncOp) : (k.modOp id f).breakSkip = k.breakSkip := rfl
@[simp] theorem Core.modOp_sampleIn (k : Core) (id : Nat) (f : AsyncOp → AsyncOp) : (k.modOp id f).sampleIn = k.sampleIn := rfl
@[simp] theorem Core.modOp_acted (k : Core) (id : Nat) (f : AsyncOp → AsyncOp) : (k.modOp id f).acted = k.acted := rfl
@[simp] theorem Core.modOp_written (k : Core) (id : Nat) (f : AsyncOp → AsyncOp) : (k.modOp id f).written = k.written := rfl
@[simp] theorem Core.modOp_tick (k : Core) (id : Nat) (f : AsyncOp → AsyncOp) : (k.modOp id f).tick = k.tick := rfl
@[simp] theorem Core.modOp_arrived (k : Core) (id : Nat) (f : AsyncOp → AsyncOp) : (k.modOp id f).arrived = k.arrived := rfl

@[simp] theorem Core.bump_lastPart (k : Core) (i : Fin 23) (n : Nat) : (k.bump i n).lastPart = k.lastPart := rfl
@[simp] theorem Core.bump_retired (k : Core) (i : Fin 23) (n : Nat) : (k.bump i n).retired = k.retired := rfl
@[simp] theorem Core.bump_stopped (k : Core) (i : Fin 23) (n : Nat) : (k.bump i n).stopped = k.stopped := rfl
@[simp] theorem Core.bump_blocks (k : Core) (i : Fin 23) (n : Nat) : (k.bump i n).blocks = k.blocks := rfl
@[simp] theorem Core.bump_warps (k : Core) (i : Fin 23) (n : Nat) : (k.bump i n).warps = k.warps := rfl
@[simp] theorem Core.bump_holder (k : Core) (i : Fin 23) (n : Nat) : (k.bump i n).holder = k.holder := rfl
@[simp] theorem Core.bump_first (k : Core) (i : Fin 23) (n : Nat) : (k.bump i n).first = k.first := rfl
@[simp] theorem Core.bump_wb (k : Core) (i : Fin 23) (n : Nat) : (k.bump i n).wb = k.wb := rfl
@[simp] theorem Core.bump_ab (k : Core) (i : Fin 23) (n : Nat) : (k.bump i n).ab = k.ab := rfl
@[simp] theorem Core.bump_cb (k : Core) (i : Fin 23) (n : Nat) : (k.bump i n).cb = k.cb := rfl
@[simp] theorem Core.bump_poison (k : Core) (i : Fin 23) (n : Nat) : (k.bump i n).poison = k.poison := rfl
@[simp] theorem Core.bump_planes (k : Core) (i : Fin 23) (n : Nat) : (k.bump i n).planes = k.planes := rfl
@[simp] theorem Core.bump_active (k : Core) (i : Fin 23) (n : Nat) : (k.bump i n).active = k.active := rfl
@[simp] theorem Core.bump_config (k : Core) (i : Fin 23) (n : Nat) : (k.bump i n).config = k.config := rfl
@[simp] theorem Core.bump_fl (k : Core) (i : Fin 23) (n : Nat) : (k.bump i n).fl = k.fl := rfl
@[simp] theorem Core.bump_banks (k : Core) (i : Fin 23) (n : Nat) : (k.bump i n).banks = k.banks := rfl
@[simp] theorem Core.bump_bank (k : Core) (i : Fin 23) (n : Nat) : (k.bump i n).bank = k.bank := rfl
@[simp] theorem Core.bump_decode (k : Core) (i : Fin 23) (n : Nat) : (k.bump i n).decode = k.decode := rfl
@[simp] theorem Core.bump_tlb (k : Core) (i : Fin 23) (n : Nat) : (k.bump i n).tlb = k.tlb := rfl
@[simp] theorem Core.bump_ops (k : Core) (i : Fin 23) (n : Nat) : (k.bump i n).ops = k.ops := rfl
@[simp] theorem Core.bump_fBusy (k : Core) (i : Fin 23) (n : Nat) : (k.bump i n).fBusy = k.fBusy := rfl
@[simp] theorem Core.bump_sticky (k : Core) (i : Fin 23) (n : Nat) : (k.bump i n).sticky = k.sticky := rfl
@[simp] theorem Core.bump_sensor (k : Core) (i : Fin 23) (n : Nat) : (k.bump i n).sensor = k.sensor := rfl
@[simp] theorem Core.bump_thermal (k : Core) (i : Fin 23) (n : Nat) : (k.bump i n).thermal = k.thermal := rfl
@[simp] theorem Core.bump_current (k : Core) (i : Fin 23) (n : Nat) : (k.bump i n).current = k.current := rfl
@[simp] theorem Core.bump_laneCycles (k : Core) (i : Fin 23) (n : Nat) : (k.bump i n).laneCycles = k.laneCycles := rfl
@[simp] theorem Core.bump_ranges (k : Core) (i : Fin 23) (n : Nat) : (k.bump i n).ranges = k.ranges := rfl
@[simp] theorem Core.bump_reserved (k : Core) (i : Fin 23) (n : Nat) : (k.bump i n).reserved = k.reserved := rfl
@[simp] theorem Core.bump_breakSkip (k : Core) (i : Fin 23) (n : Nat) : (k.bump i n).breakSkip = k.breakSkip := rfl
@[simp] theorem Core.bump_sampleIn (k : Core) (i : Fin 23) (n : Nat) : (k.bump i n).sampleIn = k.sampleIn := rfl
@[simp] theorem Core.bump_acted (k : Core) (i : Fin 23) (n : Nat) : (k.bump i n).acted = k.acted := rfl
@[simp] theorem Core.bump_written (k : Core) (i : Fin 23) (n : Nat) : (k.bump i n).written = k.written := rfl
@[simp] theorem Core.bump_tick (k : Core) (i : Fin 23) (n : Nat) : (k.bump i n).tick = k.tick := rfl
@[simp] theorem Core.bump_arrived (k : Core) (i : Fin 23) (n : Nat) : (k.bump i n).arrived = k.arrived := rfl

@[simp] theorem Warp.setS_bid (w : Warp) (n : Nat) (x : Word) : (w.setS n x).bid = w.bid := by unfold Warp.setS; split <;> rfl
@[simp] theorem Warp.setS_wid (w : Warp) (n : Nat) (x : Word) : (w.setS n x).wid = w.wid := by unfold Warp.setS; split <;> rfl
@[simp] theorem Warp.setS_p (w : Warp) (n : Nat) (x : Word) : (w.setS n x).p = w.p := by unfold Warp.setS; split <;> rfl
@[simp] theorem Warp.setS_q (w : Warp) (n : Nat) (x : Word) : (w.setS n x).q = w.q := by unfold Warp.setS; split <;> rfl
@[simp] theorem Warp.setS_v (w : Warp) (n : Nat) (x : Word) : (w.setS n x).v = w.v := by unfold Warp.setS; split <;> rfl
@[simp] theorem Warp.setS_sp (w : Warp) (n : Nat) (x : Word) : (w.setS n x).sp = w.sp := by unfold Warp.setS; split <;> rfl
@[simp] theorem Warp.setS_h (w : Warp) (n : Nat) (x : Word) : (w.setS n x).h = w.h := by unfold Warp.setS; split <;> rfl
@[simp] theorem Warp.setS_c (w : Warp) (n : Nat) (x : Word) : (w.setS n x).c = w.c := by unfold Warp.setS; split <;> rfl
@[simp] theorem Warp.setS_ka (w : Warp) (n : Nat) (x : Word) : (w.setS n x).ka = w.ka := by unfold Warp.setS; split <;> rfl
@[simp] theorem Warp.setS_lc (w : Warp) (n : Nat) (x : Word) : (w.setS n x).lc = w.lc := by unfold Warp.setS; split <;> rfl
@[simp] theorem Warp.setS_vrb (w : Warp) (n : Nat) (x : Word) : (w.setS n x).vrb = w.vrb := by unfold Warp.setS; split <;> rfl
@[simp] theorem Warp.setS_shape (w : Warp) (n : Nat) (x : Word) : (w.setS n x).shape = w.shape := by unfold Warp.setS; split <;> rfl
@[simp] theorem Warp.setS_fpc (w : Warp) (n : Nat) (x : Word) : (w.setS n x).fpc = w.fpc := by unfold Warp.setS; split <;> rfl
@[simp] theorem Warp.setS_tie (w : Warp) (n : Nat) (x : Word) : (w.setS n x).tie = w.tie := by unfold Warp.setS; split <;> rfl
@[simp] theorem Warp.setS_rngk (w : Warp) (n : Nat) (x : Word) : (w.setS n x).rngk = w.rngk := by unfold Warp.setS; split <;> rfl
@[simp] theorem Warp.setS_rngc (w : Warp) (n : Nat) (x : Word) : (w.setS n x).rngc = w.rngc := by unfold Warp.setS; split <;> rfl
@[simp] theorem Warp.setS_resv (w : Warp) (n : Nat) (x : Word) : (w.setS n x).resv = w.resv := by unfold Warp.setS; split <;> rfl
@[simp] theorem Warp.setS_dmask (w : Warp) (n : Nat) (x : Word) : (w.setS n x).dmask = w.dmask := by unfold Warp.setS; split <;> rfl
@[simp] theorem Warp.setS_dstack (w : Warp) (n : Nat) (x : Word) : (w.setS n x).dstack = w.dstack := by unfold Warp.setS; split <;> rfl
@[simp] theorem Warp.setS_loads (w : Warp) (n : Nat) (x : Word) : (w.setS n x).loads = w.loads := by unfold Warp.setS; split <;> rfl
@[simp] theorem Warp.setS_stores (w : Warp) (n : Nat) (x : Word) : (w.setS n x).stores = w.stores := by unfold Warp.setS; split <;> rfl
@[simp] theorem Warp.setS_copies (w : Warp) (n : Nat) (x : Word) : (w.setS n x).copies = w.copies := by unfold Warp.setS; split <;> rfl
@[simp] theorem Warp.setS_tiles (w : Warp) (n : Nat) (x : Word) : (w.setS n x).tiles = w.tiles := by unfold Warp.setS; split <;> rfl
@[simp] theorem Warp.setS_curV (w : Warp) (n : Nat) (x : Word) : (w.setS n x).curV = w.curV := by unfold Warp.setS; split <;> rfl
@[simp] theorem Warp.setS_curH (w : Warp) (n : Nat) (x : Word) : (w.setS n x).curH = w.curH := by unfold Warp.setS; split <;> rfl
@[simp] theorem Warp.setS_curC (w : Warp) (n : Nat) (x : Word) : (w.setS n x).curC = w.curC := by unfold Warp.setS; split <;> rfl
@[simp] theorem Warp.setS_curK (w : Warp) (n : Nat) (x : Word) : (w.setS n x).curK = w.curK := by unfold Warp.setS; split <;> rfl
@[simp] theorem Warp.setS_tokens (w : Warp) (n : Nat) (x : Word) : (w.setS n x).tokens = w.tokens := by unfold Warp.setS; split <;> rfl
@[simp] theorem Warp.setS_pending (w : Warp) (n : Nat) (x : Word) : (w.setS n x).pending = w.pending := by unfold Warp.setS; split <;> rfl
@[simp] theorem Warp.setS_pc (w : Warp) (n : Nat) (x : Word) : (w.setS n x).pc = w.pc := by unfold Warp.setS; split <;> rfl
@[simp] theorem Warp.setS_next (w : Warp) (n : Nat) (x : Word) : (w.setS n x).next = w.next := by unfold Warp.setS; split <;> rfl
@[simp] theorem Warp.setS_stroke (w : Warp) (n : Nat) (x : Word) : (w.setS n x).stroke = w.stroke := by unfold Warp.setS; split <;> rfl
@[simp] theorem Warp.setS_pos (w : Warp) (n : Nat) (x : Word) : (w.setS n x).pos = w.pos := by unfold Warp.setS; split <;> rfl
@[simp] theorem Warp.setS_decoded (w : Warp) (n : Nat) (x : Word) : (w.setS n x).decoded = w.decoded := by unfold Warp.setS; split <;> rfl
@[simp] theorem Warp.setS_state (w : Warp) (n : Nat) (x : Word) : (w.setS n x).state = w.state := by unfold Warp.setS; split <;> rfl
@[simp] theorem Warp.setS_traps (w : Warp) (n : Nat) (x : Word) : (w.setS n x).traps = w.traps := by unfold Warp.setS; split <;> rfl
@[simp] theorem Warp.setS_handler (w : Warp) (n : Nat) (x : Word) : (w.setS n x).handler = w.handler := by unfold Warp.setS; split <;> rfl
@[simp] theorem Warp.setS_epc (w : Warp) (n : Nat) (x : Word) : (w.setS n x).epc = w.epc := by unfold Warp.setS; split <;> rfl
@[simp] theorem Warp.setS_ecause (w : Warp) (n : Nat) (x : Word) : (w.setS n x).ecause = w.ecause := by unfold Warp.setS; split <;> rfl
@[simp] theorem Warp.setS_einfo (w : Warp) (n : Nat) (x : Word) : (w.setS n x).einfo = w.einfo := by unfold Warp.setS; split <;> rfl
@[simp] theorem Warp.setS_gstHolder (w : Warp) (n : Nat) (x : Word) : (w.setS n x).gstHolder = w.gstHolder := by unfold Warp.setS; split <;> rfl
@[simp] theorem Warp.setS_gstCause (w : Warp) (n : Nat) (x : Word) : (w.setS n x).gstCause = w.gstCause := by unfold Warp.setS; split <;> rfl
@[simp] theorem Warp.setS_records (w : Warp) (n : Nat) (x : Word) : (w.setS n x).records = w.records := by unfold Warp.setS; split <;> rfl
@[simp] theorem Warp.setS_held (w : Warp) (n : Nat) (x : Word) : (w.setS n x).held = w.held := by unfold Warp.setS; split <;> rfl
@[simp] theorem Warp.setS_shrink (w : Warp) (n : Nat) (x : Word) : (w.setS n x).shrink = w.shrink := by unfold Warp.setS; split <;> rfl
@[simp] theorem Warp.setS_fences (w : Warp) (n : Nat) (x : Word) : (w.setS n x).fences = w.fences := by unfold Warp.setS; split <;> rfl
@[simp] theorem Warp.setS_baraPhase (w : Warp) (n : Nat) (x : Word) : (w.setS n x).baraPhase = w.baraPhase := by unfold Warp.setS; split <;> rfl
@[simp] theorem Warp.setS_baraAddr (w : Warp) (n : Nat) (x : Word) : (w.setS n x).baraAddr = w.baraAddr := by unfold Warp.setS; split <;> rfl
@[simp] theorem Warp.setS_level (w : Warp) (n : Nat) (x : Word) : (w.setS n x).level = w.level := by unfold Warp.setS; split <;> rfl
@[simp] theorem Warp.setS_eligibleSince (w : Warp) (n : Nat) (x : Word) : (w.setS n x).eligibleSince = w.eligibleSince := by unfold Warp.setS; split <;> rfl
@[simp] theorem Warp.setS_waited (w : Warp) (n : Nat) (x : Word) : (w.setS n x).waited = w.waited := by unfold Warp.setS; split <;> rfl
@[simp] theorem Warp.setS_withheld (w : Warp) (n : Nat) (x : Word) : (w.setS n x).withheld = w.withheld := by unfold Warp.setS; split <;> rfl
@[simp] theorem Warp.setS_csync (w : Warp) (n : Nat) (x : Word) : (w.setS n x).csync = w.csync := by unfold Warp.setS; split <;> rfl
@[simp] theorem Warp.setS_fetchFault (w : Warp) (n : Nat) (x : Word) : (w.setS n x).fetchFault = w.fetchFault := by unfold Warp.setS; split <;> rfl
@[simp] theorem Warp.setS_poisonSeen (w : Warp) (n : Nat) (x : Word) : (w.setS n x).poisonSeen = w.poisonSeen := by unfold Warp.setS; split <;> rfl
@[simp] theorem Warp.setS_trapTaken (w : Warp) (n : Nat) (x : Word) : (w.setS n x).trapTaken = w.trapTaken := by unfold Warp.setS; split <;> rfl
@[simp] theorem Warp.setS_strokes (w : Warp) (n : Nat) (x : Word) : (w.setS n x).strokes = w.strokes := by unfold Warp.setS; split <;> rfl
@[simp] theorem Warp.setS_taken (w : Warp) (n : Nat) (x : Word) : (w.setS n x).taken = w.taken := by unfold Warp.setS; split <;> rfl
@[simp] theorem Warp.setS_barred (w : Warp) (n : Nat) (x : Word) : (w.setS n x).barred = w.barred := by unfold Warp.setS; split <;> rfl

@[simp] theorem Warp.setP_bid (w : Warp) (n : Nat) (x : Bool) : (w.setP n x).bid = w.bid := rfl
@[simp] theorem Warp.setP_wid (w : Warp) (n : Nat) (x : Bool) : (w.setP n x).wid = w.wid := rfl
@[simp] theorem Warp.setP_s (w : Warp) (n : Nat) (x : Bool) : (w.setP n x).s = w.s := rfl
@[simp] theorem Warp.setP_q (w : Warp) (n : Nat) (x : Bool) : (w.setP n x).q = w.q := rfl
@[simp] theorem Warp.setP_v (w : Warp) (n : Nat) (x : Bool) : (w.setP n x).v = w.v := rfl
@[simp] theorem Warp.setP_sp (w : Warp) (n : Nat) (x : Bool) : (w.setP n x).sp = w.sp := rfl
@[simp] theorem Warp.setP_h (w : Warp) (n : Nat) (x : Bool) : (w.setP n x).h = w.h := rfl
@[simp] theorem Warp.setP_c (w : Warp) (n : Nat) (x : Bool) : (w.setP n x).c = w.c := rfl
@[simp] theorem Warp.setP_ka (w : Warp) (n : Nat) (x : Bool) : (w.setP n x).ka = w.ka := rfl
@[simp] theorem Warp.setP_lc (w : Warp) (n : Nat) (x : Bool) : (w.setP n x).lc = w.lc := rfl
@[simp] theorem Warp.setP_vrb (w : Warp) (n : Nat) (x : Bool) : (w.setP n x).vrb = w.vrb := rfl
@[simp] theorem Warp.setP_shape (w : Warp) (n : Nat) (x : Bool) : (w.setP n x).shape = w.shape := rfl
@[simp] theorem Warp.setP_fpc (w : Warp) (n : Nat) (x : Bool) : (w.setP n x).fpc = w.fpc := rfl
@[simp] theorem Warp.setP_tie (w : Warp) (n : Nat) (x : Bool) : (w.setP n x).tie = w.tie := rfl
@[simp] theorem Warp.setP_rngk (w : Warp) (n : Nat) (x : Bool) : (w.setP n x).rngk = w.rngk := rfl
@[simp] theorem Warp.setP_rngc (w : Warp) (n : Nat) (x : Bool) : (w.setP n x).rngc = w.rngc := rfl
@[simp] theorem Warp.setP_resv (w : Warp) (n : Nat) (x : Bool) : (w.setP n x).resv = w.resv := rfl
@[simp] theorem Warp.setP_dmask (w : Warp) (n : Nat) (x : Bool) : (w.setP n x).dmask = w.dmask := rfl
@[simp] theorem Warp.setP_dstack (w : Warp) (n : Nat) (x : Bool) : (w.setP n x).dstack = w.dstack := rfl
@[simp] theorem Warp.setP_loads (w : Warp) (n : Nat) (x : Bool) : (w.setP n x).loads = w.loads := rfl
@[simp] theorem Warp.setP_stores (w : Warp) (n : Nat) (x : Bool) : (w.setP n x).stores = w.stores := rfl
@[simp] theorem Warp.setP_copies (w : Warp) (n : Nat) (x : Bool) : (w.setP n x).copies = w.copies := rfl
@[simp] theorem Warp.setP_tiles (w : Warp) (n : Nat) (x : Bool) : (w.setP n x).tiles = w.tiles := rfl
@[simp] theorem Warp.setP_curV (w : Warp) (n : Nat) (x : Bool) : (w.setP n x).curV = w.curV := rfl
@[simp] theorem Warp.setP_curH (w : Warp) (n : Nat) (x : Bool) : (w.setP n x).curH = w.curH := rfl
@[simp] theorem Warp.setP_curC (w : Warp) (n : Nat) (x : Bool) : (w.setP n x).curC = w.curC := rfl
@[simp] theorem Warp.setP_curK (w : Warp) (n : Nat) (x : Bool) : (w.setP n x).curK = w.curK := rfl
@[simp] theorem Warp.setP_tokens (w : Warp) (n : Nat) (x : Bool) : (w.setP n x).tokens = w.tokens := rfl
@[simp] theorem Warp.setP_pending (w : Warp) (n : Nat) (x : Bool) : (w.setP n x).pending = w.pending := rfl
@[simp] theorem Warp.setP_pc (w : Warp) (n : Nat) (x : Bool) : (w.setP n x).pc = w.pc := rfl
@[simp] theorem Warp.setP_next (w : Warp) (n : Nat) (x : Bool) : (w.setP n x).next = w.next := rfl
@[simp] theorem Warp.setP_stroke (w : Warp) (n : Nat) (x : Bool) : (w.setP n x).stroke = w.stroke := rfl
@[simp] theorem Warp.setP_pos (w : Warp) (n : Nat) (x : Bool) : (w.setP n x).pos = w.pos := rfl
@[simp] theorem Warp.setP_decoded (w : Warp) (n : Nat) (x : Bool) : (w.setP n x).decoded = w.decoded := rfl
@[simp] theorem Warp.setP_state (w : Warp) (n : Nat) (x : Bool) : (w.setP n x).state = w.state := rfl
@[simp] theorem Warp.setP_traps (w : Warp) (n : Nat) (x : Bool) : (w.setP n x).traps = w.traps := rfl
@[simp] theorem Warp.setP_handler (w : Warp) (n : Nat) (x : Bool) : (w.setP n x).handler = w.handler := rfl
@[simp] theorem Warp.setP_epc (w : Warp) (n : Nat) (x : Bool) : (w.setP n x).epc = w.epc := rfl
@[simp] theorem Warp.setP_ecause (w : Warp) (n : Nat) (x : Bool) : (w.setP n x).ecause = w.ecause := rfl
@[simp] theorem Warp.setP_einfo (w : Warp) (n : Nat) (x : Bool) : (w.setP n x).einfo = w.einfo := rfl
@[simp] theorem Warp.setP_gstHolder (w : Warp) (n : Nat) (x : Bool) : (w.setP n x).gstHolder = w.gstHolder := rfl
@[simp] theorem Warp.setP_gstCause (w : Warp) (n : Nat) (x : Bool) : (w.setP n x).gstCause = w.gstCause := rfl
@[simp] theorem Warp.setP_records (w : Warp) (n : Nat) (x : Bool) : (w.setP n x).records = w.records := rfl
@[simp] theorem Warp.setP_held (w : Warp) (n : Nat) (x : Bool) : (w.setP n x).held = w.held := rfl
@[simp] theorem Warp.setP_shrink (w : Warp) (n : Nat) (x : Bool) : (w.setP n x).shrink = w.shrink := rfl
@[simp] theorem Warp.setP_fences (w : Warp) (n : Nat) (x : Bool) : (w.setP n x).fences = w.fences := rfl
@[simp] theorem Warp.setP_baraPhase (w : Warp) (n : Nat) (x : Bool) : (w.setP n x).baraPhase = w.baraPhase := rfl
@[simp] theorem Warp.setP_baraAddr (w : Warp) (n : Nat) (x : Bool) : (w.setP n x).baraAddr = w.baraAddr := rfl
@[simp] theorem Warp.setP_level (w : Warp) (n : Nat) (x : Bool) : (w.setP n x).level = w.level := rfl
@[simp] theorem Warp.setP_eligibleSince (w : Warp) (n : Nat) (x : Bool) : (w.setP n x).eligibleSince = w.eligibleSince := rfl
@[simp] theorem Warp.setP_waited (w : Warp) (n : Nat) (x : Bool) : (w.setP n x).waited = w.waited := rfl
@[simp] theorem Warp.setP_withheld (w : Warp) (n : Nat) (x : Bool) : (w.setP n x).withheld = w.withheld := rfl
@[simp] theorem Warp.setP_csync (w : Warp) (n : Nat) (x : Bool) : (w.setP n x).csync = w.csync := rfl
@[simp] theorem Warp.setP_fetchFault (w : Warp) (n : Nat) (x : Bool) : (w.setP n x).fetchFault = w.fetchFault := rfl
@[simp] theorem Warp.setP_poisonSeen (w : Warp) (n : Nat) (x : Bool) : (w.setP n x).poisonSeen = w.poisonSeen := rfl
@[simp] theorem Warp.setP_trapTaken (w : Warp) (n : Nat) (x : Bool) : (w.setP n x).trapTaken = w.trapTaken := rfl
@[simp] theorem Warp.setP_strokes (w : Warp) (n : Nat) (x : Bool) : (w.setP n x).strokes = w.strokes := rfl
@[simp] theorem Warp.setP_taken (w : Warp) (n : Nat) (x : Bool) : (w.setP n x).taken = w.taken := rfl
@[simp] theorem Warp.setP_barred (w : Warp) (n : Nat) (x : Bool) : (w.setP n x).barred = w.barred := rfl

@[simp] theorem Warp.setSp_bid (w : Warp) (n : Nat) (x : Bool) : (w.setSp n x).bid = w.bid := rfl
@[simp] theorem Warp.setSp_wid (w : Warp) (n : Nat) (x : Bool) : (w.setSp n x).wid = w.wid := rfl
@[simp] theorem Warp.setSp_s (w : Warp) (n : Nat) (x : Bool) : (w.setSp n x).s = w.s := rfl
@[simp] theorem Warp.setSp_p (w : Warp) (n : Nat) (x : Bool) : (w.setSp n x).p = w.p := rfl
@[simp] theorem Warp.setSp_q (w : Warp) (n : Nat) (x : Bool) : (w.setSp n x).q = w.q := rfl
@[simp] theorem Warp.setSp_v (w : Warp) (n : Nat) (x : Bool) : (w.setSp n x).v = w.v := rfl
@[simp] theorem Warp.setSp_h (w : Warp) (n : Nat) (x : Bool) : (w.setSp n x).h = w.h := rfl
@[simp] theorem Warp.setSp_c (w : Warp) (n : Nat) (x : Bool) : (w.setSp n x).c = w.c := rfl
@[simp] theorem Warp.setSp_ka (w : Warp) (n : Nat) (x : Bool) : (w.setSp n x).ka = w.ka := rfl
@[simp] theorem Warp.setSp_lc (w : Warp) (n : Nat) (x : Bool) : (w.setSp n x).lc = w.lc := rfl
@[simp] theorem Warp.setSp_vrb (w : Warp) (n : Nat) (x : Bool) : (w.setSp n x).vrb = w.vrb := rfl
@[simp] theorem Warp.setSp_shape (w : Warp) (n : Nat) (x : Bool) : (w.setSp n x).shape = w.shape := rfl
@[simp] theorem Warp.setSp_fpc (w : Warp) (n : Nat) (x : Bool) : (w.setSp n x).fpc = w.fpc := rfl
@[simp] theorem Warp.setSp_tie (w : Warp) (n : Nat) (x : Bool) : (w.setSp n x).tie = w.tie := rfl
@[simp] theorem Warp.setSp_rngk (w : Warp) (n : Nat) (x : Bool) : (w.setSp n x).rngk = w.rngk := rfl
@[simp] theorem Warp.setSp_rngc (w : Warp) (n : Nat) (x : Bool) : (w.setSp n x).rngc = w.rngc := rfl
@[simp] theorem Warp.setSp_resv (w : Warp) (n : Nat) (x : Bool) : (w.setSp n x).resv = w.resv := rfl
@[simp] theorem Warp.setSp_dmask (w : Warp) (n : Nat) (x : Bool) : (w.setSp n x).dmask = w.dmask := rfl
@[simp] theorem Warp.setSp_dstack (w : Warp) (n : Nat) (x : Bool) : (w.setSp n x).dstack = w.dstack := rfl
@[simp] theorem Warp.setSp_loads (w : Warp) (n : Nat) (x : Bool) : (w.setSp n x).loads = w.loads := rfl
@[simp] theorem Warp.setSp_stores (w : Warp) (n : Nat) (x : Bool) : (w.setSp n x).stores = w.stores := rfl
@[simp] theorem Warp.setSp_copies (w : Warp) (n : Nat) (x : Bool) : (w.setSp n x).copies = w.copies := rfl
@[simp] theorem Warp.setSp_tiles (w : Warp) (n : Nat) (x : Bool) : (w.setSp n x).tiles = w.tiles := rfl
@[simp] theorem Warp.setSp_curV (w : Warp) (n : Nat) (x : Bool) : (w.setSp n x).curV = w.curV := rfl
@[simp] theorem Warp.setSp_curH (w : Warp) (n : Nat) (x : Bool) : (w.setSp n x).curH = w.curH := rfl
@[simp] theorem Warp.setSp_curC (w : Warp) (n : Nat) (x : Bool) : (w.setSp n x).curC = w.curC := rfl
@[simp] theorem Warp.setSp_curK (w : Warp) (n : Nat) (x : Bool) : (w.setSp n x).curK = w.curK := rfl
@[simp] theorem Warp.setSp_tokens (w : Warp) (n : Nat) (x : Bool) : (w.setSp n x).tokens = w.tokens := rfl
@[simp] theorem Warp.setSp_pending (w : Warp) (n : Nat) (x : Bool) : (w.setSp n x).pending = w.pending := rfl
@[simp] theorem Warp.setSp_pc (w : Warp) (n : Nat) (x : Bool) : (w.setSp n x).pc = w.pc := rfl
@[simp] theorem Warp.setSp_next (w : Warp) (n : Nat) (x : Bool) : (w.setSp n x).next = w.next := rfl
@[simp] theorem Warp.setSp_stroke (w : Warp) (n : Nat) (x : Bool) : (w.setSp n x).stroke = w.stroke := rfl
@[simp] theorem Warp.setSp_pos (w : Warp) (n : Nat) (x : Bool) : (w.setSp n x).pos = w.pos := rfl
@[simp] theorem Warp.setSp_decoded (w : Warp) (n : Nat) (x : Bool) : (w.setSp n x).decoded = w.decoded := rfl
@[simp] theorem Warp.setSp_state (w : Warp) (n : Nat) (x : Bool) : (w.setSp n x).state = w.state := rfl
@[simp] theorem Warp.setSp_traps (w : Warp) (n : Nat) (x : Bool) : (w.setSp n x).traps = w.traps := rfl
@[simp] theorem Warp.setSp_handler (w : Warp) (n : Nat) (x : Bool) : (w.setSp n x).handler = w.handler := rfl
@[simp] theorem Warp.setSp_epc (w : Warp) (n : Nat) (x : Bool) : (w.setSp n x).epc = w.epc := rfl
@[simp] theorem Warp.setSp_ecause (w : Warp) (n : Nat) (x : Bool) : (w.setSp n x).ecause = w.ecause := rfl
@[simp] theorem Warp.setSp_einfo (w : Warp) (n : Nat) (x : Bool) : (w.setSp n x).einfo = w.einfo := rfl
@[simp] theorem Warp.setSp_gstHolder (w : Warp) (n : Nat) (x : Bool) : (w.setSp n x).gstHolder = w.gstHolder := rfl
@[simp] theorem Warp.setSp_gstCause (w : Warp) (n : Nat) (x : Bool) : (w.setSp n x).gstCause = w.gstCause := rfl
@[simp] theorem Warp.setSp_records (w : Warp) (n : Nat) (x : Bool) : (w.setSp n x).records = w.records := rfl
@[simp] theorem Warp.setSp_held (w : Warp) (n : Nat) (x : Bool) : (w.setSp n x).held = w.held := rfl
@[simp] theorem Warp.setSp_shrink (w : Warp) (n : Nat) (x : Bool) : (w.setSp n x).shrink = w.shrink := rfl
@[simp] theorem Warp.setSp_fences (w : Warp) (n : Nat) (x : Bool) : (w.setSp n x).fences = w.fences := rfl
@[simp] theorem Warp.setSp_baraPhase (w : Warp) (n : Nat) (x : Bool) : (w.setSp n x).baraPhase = w.baraPhase := rfl
@[simp] theorem Warp.setSp_baraAddr (w : Warp) (n : Nat) (x : Bool) : (w.setSp n x).baraAddr = w.baraAddr := rfl
@[simp] theorem Warp.setSp_level (w : Warp) (n : Nat) (x : Bool) : (w.setSp n x).level = w.level := rfl
@[simp] theorem Warp.setSp_eligibleSince (w : Warp) (n : Nat) (x : Bool) : (w.setSp n x).eligibleSince = w.eligibleSince := rfl
@[simp] theorem Warp.setSp_waited (w : Warp) (n : Nat) (x : Bool) : (w.setSp n x).waited = w.waited := rfl
@[simp] theorem Warp.setSp_withheld (w : Warp) (n : Nat) (x : Bool) : (w.setSp n x).withheld = w.withheld := rfl
@[simp] theorem Warp.setSp_csync (w : Warp) (n : Nat) (x : Bool) : (w.setSp n x).csync = w.csync := rfl
@[simp] theorem Warp.setSp_fetchFault (w : Warp) (n : Nat) (x : Bool) : (w.setSp n x).fetchFault = w.fetchFault := rfl
@[simp] theorem Warp.setSp_poisonSeen (w : Warp) (n : Nat) (x : Bool) : (w.setSp n x).poisonSeen = w.poisonSeen := rfl
@[simp] theorem Warp.setSp_trapTaken (w : Warp) (n : Nat) (x : Bool) : (w.setSp n x).trapTaken = w.trapTaken := rfl
@[simp] theorem Warp.setSp_strokes (w : Warp) (n : Nat) (x : Bool) : (w.setSp n x).strokes = w.strokes := rfl
@[simp] theorem Warp.setSp_taken (w : Warp) (n : Nat) (x : Bool) : (w.setSp n x).taken = w.taken := rfl
@[simp] theorem Warp.setSp_barred (w : Warp) (n : Nat) (x : Bool) : (w.setSp n x).barred = w.barred := rfl

@[simp] theorem Warp.merge_bid (w : Warp) (f : Flags) : (w.merge f).bid = w.bid := rfl
@[simp] theorem Warp.merge_wid (w : Warp) (f : Flags) : (w.merge f).wid = w.wid := rfl
@[simp] theorem Warp.merge_s (w : Warp) (f : Flags) : (w.merge f).s = w.s := rfl
@[simp] theorem Warp.merge_p (w : Warp) (f : Flags) : (w.merge f).p = w.p := rfl
@[simp] theorem Warp.merge_q (w : Warp) (f : Flags) : (w.merge f).q = w.q := rfl
@[simp] theorem Warp.merge_v (w : Warp) (f : Flags) : (w.merge f).v = w.v := rfl
@[simp] theorem Warp.merge_sp (w : Warp) (f : Flags) : (w.merge f).sp = w.sp := rfl
@[simp] theorem Warp.merge_h (w : Warp) (f : Flags) : (w.merge f).h = w.h := rfl
@[simp] theorem Warp.merge_c (w : Warp) (f : Flags) : (w.merge f).c = w.c := rfl
@[simp] theorem Warp.merge_ka (w : Warp) (f : Flags) : (w.merge f).ka = w.ka := rfl
@[simp] theorem Warp.merge_lc (w : Warp) (f : Flags) : (w.merge f).lc = w.lc := rfl
@[simp] theorem Warp.merge_vrb (w : Warp) (f : Flags) : (w.merge f).vrb = w.vrb := rfl
@[simp] theorem Warp.merge_shape (w : Warp) (f : Flags) : (w.merge f).shape = w.shape := rfl
@[simp] theorem Warp.merge_tie (w : Warp) (f : Flags) : (w.merge f).tie = w.tie := rfl
@[simp] theorem Warp.merge_rngk (w : Warp) (f : Flags) : (w.merge f).rngk = w.rngk := rfl
@[simp] theorem Warp.merge_rngc (w : Warp) (f : Flags) : (w.merge f).rngc = w.rngc := rfl
@[simp] theorem Warp.merge_resv (w : Warp) (f : Flags) : (w.merge f).resv = w.resv := rfl
@[simp] theorem Warp.merge_dmask (w : Warp) (f : Flags) : (w.merge f).dmask = w.dmask := rfl
@[simp] theorem Warp.merge_dstack (w : Warp) (f : Flags) : (w.merge f).dstack = w.dstack := rfl
@[simp] theorem Warp.merge_loads (w : Warp) (f : Flags) : (w.merge f).loads = w.loads := rfl
@[simp] theorem Warp.merge_stores (w : Warp) (f : Flags) : (w.merge f).stores = w.stores := rfl
@[simp] theorem Warp.merge_copies (w : Warp) (f : Flags) : (w.merge f).copies = w.copies := rfl
@[simp] theorem Warp.merge_tiles (w : Warp) (f : Flags) : (w.merge f).tiles = w.tiles := rfl
@[simp] theorem Warp.merge_curV (w : Warp) (f : Flags) : (w.merge f).curV = w.curV := rfl
@[simp] theorem Warp.merge_curH (w : Warp) (f : Flags) : (w.merge f).curH = w.curH := rfl
@[simp] theorem Warp.merge_curC (w : Warp) (f : Flags) : (w.merge f).curC = w.curC := rfl
@[simp] theorem Warp.merge_curK (w : Warp) (f : Flags) : (w.merge f).curK = w.curK := rfl
@[simp] theorem Warp.merge_tokens (w : Warp) (f : Flags) : (w.merge f).tokens = w.tokens := rfl
@[simp] theorem Warp.merge_pending (w : Warp) (f : Flags) : (w.merge f).pending = w.pending := rfl
@[simp] theorem Warp.merge_pc (w : Warp) (f : Flags) : (w.merge f).pc = w.pc := rfl
@[simp] theorem Warp.merge_next (w : Warp) (f : Flags) : (w.merge f).next = w.next := rfl
@[simp] theorem Warp.merge_stroke (w : Warp) (f : Flags) : (w.merge f).stroke = w.stroke := rfl
@[simp] theorem Warp.merge_pos (w : Warp) (f : Flags) : (w.merge f).pos = w.pos := rfl
@[simp] theorem Warp.merge_decoded (w : Warp) (f : Flags) : (w.merge f).decoded = w.decoded := rfl
@[simp] theorem Warp.merge_state (w : Warp) (f : Flags) : (w.merge f).state = w.state := rfl
@[simp] theorem Warp.merge_traps (w : Warp) (f : Flags) : (w.merge f).traps = w.traps := rfl
@[simp] theorem Warp.merge_handler (w : Warp) (f : Flags) : (w.merge f).handler = w.handler := rfl
@[simp] theorem Warp.merge_epc (w : Warp) (f : Flags) : (w.merge f).epc = w.epc := rfl
@[simp] theorem Warp.merge_ecause (w : Warp) (f : Flags) : (w.merge f).ecause = w.ecause := rfl
@[simp] theorem Warp.merge_einfo (w : Warp) (f : Flags) : (w.merge f).einfo = w.einfo := rfl
@[simp] theorem Warp.merge_gstHolder (w : Warp) (f : Flags) : (w.merge f).gstHolder = w.gstHolder := rfl
@[simp] theorem Warp.merge_gstCause (w : Warp) (f : Flags) : (w.merge f).gstCause = w.gstCause := rfl
@[simp] theorem Warp.merge_records (w : Warp) (f : Flags) : (w.merge f).records = w.records := rfl
@[simp] theorem Warp.merge_held (w : Warp) (f : Flags) : (w.merge f).held = w.held := rfl
@[simp] theorem Warp.merge_shrink (w : Warp) (f : Flags) : (w.merge f).shrink = w.shrink := rfl
@[simp] theorem Warp.merge_fences (w : Warp) (f : Flags) : (w.merge f).fences = w.fences := rfl
@[simp] theorem Warp.merge_baraPhase (w : Warp) (f : Flags) : (w.merge f).baraPhase = w.baraPhase := rfl
@[simp] theorem Warp.merge_baraAddr (w : Warp) (f : Flags) : (w.merge f).baraAddr = w.baraAddr := rfl
@[simp] theorem Warp.merge_level (w : Warp) (f : Flags) : (w.merge f).level = w.level := rfl
@[simp] theorem Warp.merge_eligibleSince (w : Warp) (f : Flags) : (w.merge f).eligibleSince = w.eligibleSince := rfl
@[simp] theorem Warp.merge_waited (w : Warp) (f : Flags) : (w.merge f).waited = w.waited := rfl
@[simp] theorem Warp.merge_withheld (w : Warp) (f : Flags) : (w.merge f).withheld = w.withheld := rfl
@[simp] theorem Warp.merge_csync (w : Warp) (f : Flags) : (w.merge f).csync = w.csync := rfl
@[simp] theorem Warp.merge_fetchFault (w : Warp) (f : Flags) : (w.merge f).fetchFault = w.fetchFault := rfl
@[simp] theorem Warp.merge_poisonSeen (w : Warp) (f : Flags) : (w.merge f).poisonSeen = w.poisonSeen := rfl
@[simp] theorem Warp.merge_trapTaken (w : Warp) (f : Flags) : (w.merge f).trapTaken = w.trapTaken := rfl
@[simp] theorem Warp.merge_strokes (w : Warp) (f : Flags) : (w.merge f).strokes = w.strokes := rfl
@[simp] theorem Warp.merge_taken (w : Warp) (f : Flags) : (w.merge f).taken = w.taken := rfl
@[simp] theorem Warp.merge_barred (w : Warp) (f : Flags) : (w.merge f).barred = w.barred := rfl

@[simp] theorem Warp.modCount_bid (w : Warp) (c : OpClass) (f : Nat → Nat) : (w.modCount c f).bid = w.bid := by cases c <;> rfl
@[simp] theorem Warp.modCount_wid (w : Warp) (c : OpClass) (f : Nat → Nat) : (w.modCount c f).wid = w.wid := by cases c <;> rfl
@[simp] theorem Warp.modCount_s (w : Warp) (c : OpClass) (f : Nat → Nat) : (w.modCount c f).s = w.s := by cases c <;> rfl
@[simp] theorem Warp.modCount_p (w : Warp) (c : OpClass) (f : Nat → Nat) : (w.modCount c f).p = w.p := by cases c <;> rfl
@[simp] theorem Warp.modCount_q (w : Warp) (c : OpClass) (f : Nat → Nat) : (w.modCount c f).q = w.q := by cases c <;> rfl
@[simp] theorem Warp.modCount_v (w : Warp) (c : OpClass) (f : Nat → Nat) : (w.modCount c f).v = w.v := by cases c <;> rfl
@[simp] theorem Warp.modCount_sp (w : Warp) (c : OpClass) (f : Nat → Nat) : (w.modCount c f).sp = w.sp := by cases c <;> rfl
@[simp] theorem Warp.modCount_h (w : Warp) (c : OpClass) (f : Nat → Nat) : (w.modCount c f).h = w.h := by cases c <;> rfl
@[simp] theorem Warp.modCount_c (w : Warp) (c : OpClass) (f : Nat → Nat) : (w.modCount c f).c = w.c := by cases c <;> rfl
@[simp] theorem Warp.modCount_ka (w : Warp) (c : OpClass) (f : Nat → Nat) : (w.modCount c f).ka = w.ka := by cases c <;> rfl
@[simp] theorem Warp.modCount_lc (w : Warp) (c : OpClass) (f : Nat → Nat) : (w.modCount c f).lc = w.lc := by cases c <;> rfl
@[simp] theorem Warp.modCount_vrb (w : Warp) (c : OpClass) (f : Nat → Nat) : (w.modCount c f).vrb = w.vrb := by cases c <;> rfl
@[simp] theorem Warp.modCount_shape (w : Warp) (c : OpClass) (f : Nat → Nat) : (w.modCount c f).shape = w.shape := by cases c <;> rfl
@[simp] theorem Warp.modCount_fpc (w : Warp) (c : OpClass) (f : Nat → Nat) : (w.modCount c f).fpc = w.fpc := by cases c <;> rfl
@[simp] theorem Warp.modCount_tie (w : Warp) (c : OpClass) (f : Nat → Nat) : (w.modCount c f).tie = w.tie := by cases c <;> rfl
@[simp] theorem Warp.modCount_rngk (w : Warp) (c : OpClass) (f : Nat → Nat) : (w.modCount c f).rngk = w.rngk := by cases c <;> rfl
@[simp] theorem Warp.modCount_rngc (w : Warp) (c : OpClass) (f : Nat → Nat) : (w.modCount c f).rngc = w.rngc := by cases c <;> rfl
@[simp] theorem Warp.modCount_resv (w : Warp) (c : OpClass) (f : Nat → Nat) : (w.modCount c f).resv = w.resv := by cases c <;> rfl
@[simp] theorem Warp.modCount_dmask (w : Warp) (c : OpClass) (f : Nat → Nat) : (w.modCount c f).dmask = w.dmask := by cases c <;> rfl
@[simp] theorem Warp.modCount_dstack (w : Warp) (c : OpClass) (f : Nat → Nat) : (w.modCount c f).dstack = w.dstack := by cases c <;> rfl
@[simp] theorem Warp.modCount_curV (w : Warp) (c : OpClass) (f : Nat → Nat) : (w.modCount c f).curV = w.curV := by cases c <;> rfl
@[simp] theorem Warp.modCount_curH (w : Warp) (c : OpClass) (f : Nat → Nat) : (w.modCount c f).curH = w.curH := by cases c <;> rfl
@[simp] theorem Warp.modCount_curC (w : Warp) (c : OpClass) (f : Nat → Nat) : (w.modCount c f).curC = w.curC := by cases c <;> rfl
@[simp] theorem Warp.modCount_curK (w : Warp) (c : OpClass) (f : Nat → Nat) : (w.modCount c f).curK = w.curK := by cases c <;> rfl
@[simp] theorem Warp.modCount_tokens (w : Warp) (c : OpClass) (f : Nat → Nat) : (w.modCount c f).tokens = w.tokens := by cases c <;> rfl
@[simp] theorem Warp.modCount_pending (w : Warp) (c : OpClass) (f : Nat → Nat) : (w.modCount c f).pending = w.pending := by cases c <;> rfl
@[simp] theorem Warp.modCount_pc (w : Warp) (c : OpClass) (f : Nat → Nat) : (w.modCount c f).pc = w.pc := by cases c <;> rfl
@[simp] theorem Warp.modCount_next (w : Warp) (c : OpClass) (f : Nat → Nat) : (w.modCount c f).next = w.next := by cases c <;> rfl
@[simp] theorem Warp.modCount_stroke (w : Warp) (c : OpClass) (f : Nat → Nat) : (w.modCount c f).stroke = w.stroke := by cases c <;> rfl
@[simp] theorem Warp.modCount_pos (w : Warp) (c : OpClass) (f : Nat → Nat) : (w.modCount c f).pos = w.pos := by cases c <;> rfl
@[simp] theorem Warp.modCount_decoded (w : Warp) (c : OpClass) (f : Nat → Nat) : (w.modCount c f).decoded = w.decoded := by cases c <;> rfl
@[simp] theorem Warp.modCount_state (w : Warp) (c : OpClass) (f : Nat → Nat) : (w.modCount c f).state = w.state := by cases c <;> rfl
@[simp] theorem Warp.modCount_traps (w : Warp) (c : OpClass) (f : Nat → Nat) : (w.modCount c f).traps = w.traps := by cases c <;> rfl
@[simp] theorem Warp.modCount_handler (w : Warp) (c : OpClass) (f : Nat → Nat) : (w.modCount c f).handler = w.handler := by cases c <;> rfl
@[simp] theorem Warp.modCount_epc (w : Warp) (c : OpClass) (f : Nat → Nat) : (w.modCount c f).epc = w.epc := by cases c <;> rfl
@[simp] theorem Warp.modCount_ecause (w : Warp) (c : OpClass) (f : Nat → Nat) : (w.modCount c f).ecause = w.ecause := by cases c <;> rfl
@[simp] theorem Warp.modCount_einfo (w : Warp) (c : OpClass) (f : Nat → Nat) : (w.modCount c f).einfo = w.einfo := by cases c <;> rfl
@[simp] theorem Warp.modCount_gstHolder (w : Warp) (c : OpClass) (f : Nat → Nat) : (w.modCount c f).gstHolder = w.gstHolder := by cases c <;> rfl
@[simp] theorem Warp.modCount_gstCause (w : Warp) (c : OpClass) (f : Nat → Nat) : (w.modCount c f).gstCause = w.gstCause := by cases c <;> rfl
@[simp] theorem Warp.modCount_records (w : Warp) (c : OpClass) (f : Nat → Nat) : (w.modCount c f).records = w.records := by cases c <;> rfl
@[simp] theorem Warp.modCount_held (w : Warp) (c : OpClass) (f : Nat → Nat) : (w.modCount c f).held = w.held := by cases c <;> rfl
@[simp] theorem Warp.modCount_shrink (w : Warp) (c : OpClass) (f : Nat → Nat) : (w.modCount c f).shrink = w.shrink := by cases c <;> rfl
@[simp] theorem Warp.modCount_fences (w : Warp) (c : OpClass) (f : Nat → Nat) : (w.modCount c f).fences = w.fences := by cases c <;> rfl
@[simp] theorem Warp.modCount_baraPhase (w : Warp) (c : OpClass) (f : Nat → Nat) : (w.modCount c f).baraPhase = w.baraPhase := by cases c <;> rfl
@[simp] theorem Warp.modCount_baraAddr (w : Warp) (c : OpClass) (f : Nat → Nat) : (w.modCount c f).baraAddr = w.baraAddr := by cases c <;> rfl
@[simp] theorem Warp.modCount_level (w : Warp) (c : OpClass) (f : Nat → Nat) : (w.modCount c f).level = w.level := by cases c <;> rfl
@[simp] theorem Warp.modCount_eligibleSince (w : Warp) (c : OpClass) (f : Nat → Nat) : (w.modCount c f).eligibleSince = w.eligibleSince := by cases c <;> rfl
@[simp] theorem Warp.modCount_waited (w : Warp) (c : OpClass) (f : Nat → Nat) : (w.modCount c f).waited = w.waited := by cases c <;> rfl
@[simp] theorem Warp.modCount_withheld (w : Warp) (c : OpClass) (f : Nat → Nat) : (w.modCount c f).withheld = w.withheld := by cases c <;> rfl
@[simp] theorem Warp.modCount_csync (w : Warp) (c : OpClass) (f : Nat → Nat) : (w.modCount c f).csync = w.csync := by cases c <;> rfl
@[simp] theorem Warp.modCount_fetchFault (w : Warp) (c : OpClass) (f : Nat → Nat) : (w.modCount c f).fetchFault = w.fetchFault := by cases c <;> rfl
@[simp] theorem Warp.modCount_poisonSeen (w : Warp) (c : OpClass) (f : Nat → Nat) : (w.modCount c f).poisonSeen = w.poisonSeen := by cases c <;> rfl
@[simp] theorem Warp.modCount_trapTaken (w : Warp) (c : OpClass) (f : Nat → Nat) : (w.modCount c f).trapTaken = w.trapTaken := by cases c <;> rfl
@[simp] theorem Warp.modCount_strokes (w : Warp) (c : OpClass) (f : Nat → Nat) : (w.modCount c f).strokes = w.strokes := by cases c <;> rfl
@[simp] theorem Warp.modCount_taken (w : Warp) (c : OpClass) (f : Nat → Nat) : (w.modCount c f).taken = w.taken := by cases c <;> rfl
@[simp] theorem Warp.modCount_barred (w : Warp) (c : OpClass) (f : Nat → Nat) : (w.modCount c f).barred = w.barred := by cases c <;> rfl

/-- A scalar register after a write of one: the named one holds the value, s0 reads 0 (R49). -/
theorem Warp.sreg_setS (w : Warp) (n m : Nat) (x : Word) :
    (w.setS n x).sreg m = if m % 64 = 0 then 0 else if m % 64 = n % 64 then x else w.sreg m := by
  unfold Warp.sreg Warp.setS
  by_cases hm : m % 64 = 0
  · simp [hm]
  · by_cases hn : n % 64 = 0
    · have : m % 64 ≠ n % 64 := by omega
      simp [hm, hn]
    · simp only [hm, hn, if_false]
      rw [upd_get]
      by_cases h : m % 64 = n % 64
      · have : fin 64 m = fin 64 n := Fin.ext h
        simp [this, h]
      · have : fin 64 m ≠ fin 64 n := fun e => h (congrArg Fin.val e)
        simp [this, h]
/-- A write of s0 changes nothing (R49). -/
theorem Warp.setS_zero (w : Warp) (x : Word) : w.setS 0 x = w := rfl

end Sys2Proof.Machine
end

