-- ==== Sys2Proof/Laws/Memory.lean ====
section
/-! SUPPORT. The memory: every operation keeps the canonical form; a read after a write; what a write leaves alone; and
equal contents are equal memories (spec/00_scope.md R4, spec/02_program_state.md R69). -/

namespace Sys2Proof.Machine

theorem Memory.wfFrom_mono {m : Memory} {lo lo' : Nat} (hl : lo' ≤ lo) (h : m.wfFrom lo = true) : m.wfFrom lo' = true := by
  cases m with
  | nil => rfl
  | cons c m => simp only [Memory.wfFrom, Bool.and_eq_true, decide_eq_true_eq] at h ⊢; exact ⟨⟨by omega, h.1.2⟩, h.2⟩

/-- Below its first address a memory reads 0. -/
theorem Memory.get_below {m : Memory} {lo x : Nat} (h : m.wfFrom lo = true) (hx : x < lo) : m.get x = 0 := by
  cases m with
  | nil => rfl
  | cons c m =>
    simp only [Memory.wfFrom, Bool.and_eq_true, decide_eq_true_eq] at h
    simp [Memory.get, show x < c.1 by omega]

theorem Memory.set_wfFrom {m : Memory} {lo x : Nat} (v : Byte) (h : m.wfFrom lo = true) (hx : lo ≤ x) :
    (m.set x v).wfFrom lo = true := by
  induction m generalizing lo with
  | nil => by_cases hv : v = 0#8 <;> simp [Memory.set, Memory.wfFrom, hv, hx]
  | cons c m ih =>
    obtain ⟨a, b⟩ := c
    simp only [Memory.wfFrom, Bool.and_eq_true, decide_eq_true_eq, bne_iff_ne] at h
    obtain ⟨⟨h1, h2⟩, h3⟩ := h
    have h2' : ¬ b = 0#8 := h2
    unfold Memory.set
    by_cases hv : v = 0#8
    · by_cases hlt : x < a
      · simp [hlt, hv, Memory.wfFrom, h1, h2', h3]
      · by_cases he : x = a
        · simpa [he, hv] using Memory.wfFrom_mono (by omega) h3
        · simp [hlt, he, Memory.wfFrom, h1, h2', ih h3 (by omega)]
    · by_cases hlt : x < a
      · simp [hlt, hv, Memory.wfFrom, hx, h2', h3, show x + 1 ≤ a by omega]
      · by_cases he : x = a
        · simp [he, hv, Memory.wfFrom, h1, h3]
        · simp [hlt, he, Memory.wfFrom, h1, h2', ih h3 (by omega)]

/-- A write of one byte keeps the form. -/
theorem Memory.set_wf {m : Memory} (x : Nat) (v : Byte) (h : m.wf = true) : (m.set x v).wf = true :=
  Memory.set_wfFrom v h (Nat.zero_le x)

theorem Memory.get_set_from {m : Memory} {lo : Nat} (x y : Nat) (v : Byte) (h : m.wfFrom lo = true) :
    (m.set x v).get y = if y = x then v else m.get y := by
  induction m generalizing lo with
  | nil =>
    unfold Memory.set
    by_cases hv : v = 0#8
    · by_cases hy : y = x <;> simp [Memory.get, hv]
    · by_cases hy : y = x
      · simp [Memory.get, hv, hy]
      · by_cases hl : y < x <;> simp [Memory.get, hv, hy, hl]
  | cons c m ih =>
    obtain ⟨a, b⟩ := c
    simp only [Memory.wfFrom, Bool.and_eq_true, decide_eq_true_eq] at h
    have h3 := h.2
    unfold Memory.set
    by_cases hlt : x < a
    · by_cases hv : v = 0#8
      · by_cases hy : y = x
        · simp [hlt, hv, Memory.get, hy]
        · simp [hlt, hv, hy]
      · by_cases hy : y = x
        · simp [hlt, hv, Memory.get, hy]
        · by_cases hl : y < x
          · simp [hlt, hv, Memory.get, hy, hl, show y < a by omega]
          · simp [hlt, hv, Memory.get, hy, hl]
    · by_cases he : x = a
      · subst he
        by_cases hv : v = 0#8
        · by_cases hy : y = x
          · simp [hv, hy, Memory.get_below h3 (Nat.lt_succ_self x)]
          · by_cases hl : y < x
            · simp [hv, Memory.get, hy, hl, Memory.get_below h3 (show y < x + 1 by omega)]
            · simp [hv, Memory.get, hy, hl]
        · by_cases hy : y = x
          · simp [hv, Memory.get, hy]
          · by_cases hl : y < x <;> simp [hv, Memory.get, hy, hl]
      · simp only [hlt, he, if_false, Memory.get]
        rw [ih h3]
        by_cases hy : y = x
        · have hl : ¬ y < a := by omega
          have hne : ¬ y = a := by omega
          simp [hy, hlt, he]
        · simp [hy]

/-- A read of one byte after a write of one byte. -/
theorem Memory.get_set {m : Memory} (x y : Nat) (v : Byte) (h : m.wf = true) :
    (m.set x v).get y = if y = x then v else m.get y := Memory.get_set_from x y v h

/-- A write of bytes keeps the form. -/
theorem Memory.write_wf {m : Memory} (x : Nat) (bs : List Byte) (h : m.wf = true) : (m.write x bs).wf = true := by
  induction bs generalizing m x with
  | nil => exact h
  | cons b bs ih => exact ih _ (Memory.set_wf x b h)

/-- A read of one byte after a write of bytes. -/
theorem Memory.get_write {m : Memory} (x y : Nat) (bs : List Byte) (h : m.wf = true) :
    (m.write x bs).get y = if x ≤ y ∧ y < x + bs.length then bs.getD (y - x) 0 else m.get y := by
  induction bs generalizing m x with
  | nil => simp [Memory.write, show ¬ (x ≤ y ∧ y < x) by omega]
  | cons b bs ih =>
    simp only [Memory.write, List.length_cons]
    rw [ih _ (Memory.set_wf x b h), Memory.get_set x y b h]
    by_cases h1 : x + 1 ≤ y ∧ y < x + 1 + bs.length
    · have h2 : x ≤ y ∧ y < x + (bs.length + 1) := by omega
      obtain ⟨k, hk⟩ : ∃ k, y - x = k + 1 := ⟨y - x - 1, by omega⟩
      rw [if_pos h1, if_pos h2, hk, show y - (x + 1) = k by omega]
      simp
    · rw [if_neg h1]
      by_cases h2 : y = x
      · subst h2; simp
      · rw [if_neg h2, if_neg (by omega)]

/-- Outside the bytes written, a memory reads as before. -/
theorem Memory.get_write_outside {m : Memory} (x y : Nat) (bs : List Byte) (h : m.wf = true)
    (hy : y < x ∨ x + bs.length ≤ y) : (m.write x bs).get y = m.get y := by
  rw [Memory.get_write x y bs h, if_neg (by omega)]

/-- Bytes read where they were written. -/
theorem Memory.read_write {m : Memory} (x : Nat) (bs : List Byte) (h : m.wf = true) :
    (m.write x bs).read x bs.length = bs := by
  apply List.ext_getElem
  · simp [Memory.read]
  · intro i h1 h2
    simp only [Memory.read, List.getElem_map, List.getElem_range]
    rw [Memory.get_write x _ bs h, if_pos (by omega), show x + i - x = i by omega, List.getD_eq_getElem _ _ h2]

@[simp] theorem Memory.read_length (m : Memory) (x n : Nat) : (m.read x n).length = n := by simp [Memory.read]

theorem Memory.filter_wfFrom {m : Memory} {lo : Nat} (f : Host.Cell → Bool) (h : m.wfFrom lo = true) :
    Memory.wfFrom lo (m.filter f) = true := by
  induction m generalizing lo with
  | nil => rfl
  | cons c m ih =>
    simp only [Memory.wfFrom, Bool.and_eq_true, decide_eq_true_eq] at h
    obtain ⟨⟨h1, h2⟩, h3⟩ := h
    rw [List.filter_cons]
    by_cases hf : f c = true
    · rw [if_pos hf]; simp only [Memory.wfFrom, h1, h2, decide_true, Bool.and_self, Bool.true_and]; exact ih h3
    · rw [if_neg hf]; exact Memory.wfFrom_mono (by omega) (ih h3)

/-- Clearing bytes keeps the form. -/
theorem Memory.clear_wf {m : Memory} (x n : Nat) (h : m.wf = true) : (m.clear x n).wf = true := Memory.filter_wfFrom _ h

theorem Memory.get_clear_from {m : Memory} {lo : Nat} (x n y : Nat) (h : m.wfFrom lo = true) :
    (m.clear x n).get y = if x ≤ y ∧ y < x + n then 0 else m.get y := by
  induction m generalizing lo with
  | nil => simp [Memory.clear, Memory.get]
  | cons c m ih =>
    have hw := h
    simp only [Memory.wfFrom, Bool.and_eq_true, decide_eq_true_eq] at h
    obtain ⟨⟨h1, h2⟩, h3⟩ := h
    obtain ⟨a, b⟩ := c
    have ih := ih h3
    unfold Memory.clear at ih ⊢
    rw [List.filter_cons]
    by_cases hf : (decide (a < x) || decide (x + n ≤ a)) = true
    · simp only [Bool.or_eq_true, decide_eq_true_eq] at hf
      rw [if_pos (by simpa using hf)]
      simp only [Memory.get]
      rw [ih]
      by_cases ha : y < a
      · simp [ha]
      · by_cases he : y = a
        · simp [he, show ¬ (x ≤ a ∧ a < x + n) by omega]
        · simp [ha, he]
    · have hf' : ¬ (a < x ∨ x + n ≤ a) := by simpa using hf
      rw [if_neg (by simpa using hf'), ih]
      by_cases hy : x ≤ y ∧ y < x + n
      · simp [hy]
      · simp only [hy, if_false, Memory.get]
        have hne : ¬ y = a := by omega
        by_cases ha : y < a
        · simp [ha, Memory.get_below h3 (show y < a + 1 by omega)]
        · simp [ha, hne]

/-- A read of one byte after a clear. -/
theorem Memory.get_clear {m : Memory} (x n y : Nat) (h : m.wf = true) :
    (m.clear x n).get y = if x ≤ y ∧ y < x + n then 0 else m.get y := Memory.get_clear_from x n y h

theorem Memory.eq_of_get_from {m n : Memory} {lo : Nat} (hm : m.wfFrom lo = true) (hn : n.wfFrom lo = true)
    (h : ∀ x, m.get x = n.get x) : m = n := by
  induction m generalizing n lo with
  | nil =>
    cases n with
    | nil => rfl
    | cons d n =>
      simp only [Memory.wfFrom, Bool.and_eq_true, bne_iff_ne] at hn
      have := h d.1
      simp only [Memory.get, Nat.lt_irrefl, if_false, if_true] at this
      exact absurd this.symm hn.1.2
  | cons c m ih =>
    obtain ⟨a, b⟩ := c
    have hm' := hm
    simp only [Memory.wfFrom, Bool.and_eq_true, bne_iff_ne, decide_eq_true_eq] at hm
    cases n with
    | nil =>
      have := h a
      simp only [Memory.get, Nat.lt_irrefl, if_false, if_true] at this
      exact absurd this hm.1.2
    | cons d n =>
      obtain ⟨a', b'⟩ := d
      have hn' := hn
      simp only [Memory.wfFrom, Bool.and_eq_true, bne_iff_ne, decide_eq_true_eq] at hn
      have ha : a = a' := by
        rcases Nat.lt_trichotomy a a' with hl | he | hl
        · have := h a
          simp only [Memory.get, Nat.lt_irrefl, if_false, if_true, hl] at this
          exact absurd this hm.1.2
        · exact he
        · have := h a'
          simp only [Memory.get, Nat.lt_irrefl, if_false, if_true, hl] at this
          exact absurd this.symm hn.1.2
      subst ha
      have hb := h a
      simp only [Memory.get, Nat.lt_irrefl, if_false, if_true] at hb
      subst hb
      rw [ih hm.2 hn.2 ?_]
      intro x
      by_cases hx : x < a + 1
      · rw [Memory.get_below hm.2 hx, Memory.get_below hn.2 hx]
      · have := h x
        simpa [Memory.get, show ¬ x < a by omega, show ¬ x = a by omega] using this

/-- Memories in the canonical form that read alike are equal. -/
theorem Memory.eq_of_get {m n : Memory} (hm : m.wf = true) (hn : n.wf = true) (h : ∀ x, m.get x = n.get x) : m = n :=
  Memory.eq_of_get_from hm hn h

/-- A fold of byte writes keeps the form. -/
theorem Memory.foldl_set_wf {α : Type} (l : List α) (a : α → Nat) (v : α → Byte) {m : Memory} (h : m.wf = true) :
    (l.foldl (fun m i => m.set (a i) (v i)) m).wf = true := by
  induction l generalizing m with
  | nil => exact h
  | cons x l ih => exact ih (Memory.set_wf _ _ h)

/-- A memory operation: it keeps the form. -/
def Memory.Keeps (f : Memory → Memory) : Prop := ∀ m, m.wf = true → (f m).wf = true

theorem Memory.keeps_id : Memory.Keeps id := fun _ h => h
theorem Memory.keeps_write (x : Nat) (bs : List Byte) : Memory.Keeps (·.write x bs) := fun _ h => Memory.write_wf x bs h
theorem Memory.keeps_clear (x n : Nat) : Memory.Keeps (·.clear x n) := fun _ h => Memory.clear_wf x n h

end Sys2Proof.Machine
end

