-- ==== Sys2Proof/Laws/Home.lean ====
section
/-! SUPPORT. Writes at a home, and the device's own reads: what a write at a home changes, and a read of a page whose accessed bit is
set, which changes nothing while no page has moved (spec/11_memory_model.md R317, R325; spec/19_translation.md R410, R508). -/

namespace Sys2Proof.Machine

theorem invalidate_eq (s : State) (e : Option ClusterId) (n : Nat) :
    s.invalidate e n = { s with clusters := (s.invalidate e n).clusters } := by
  unfold State.invalidate; dsimp only; split <;> rfl
/-- A write at a home changes the home's bytes, clears poison and drops copies; nothing else. -/
theorem homeWrite_eq (s : State) (e : Option ClusterId) (pa : Nat) (bs : List Byte) :
    s.homeWrite e pa bs = { s with
      mem := s.mem.write pa bs, poisonSectors := (s.homeWrite e pa bs).poisonSectors, clusters := (s.homeWrite e pa bs).clusters } := by
  have fold : ∀ (l : List Nat) (t : State), l.foldl (fun s n => s.invalidate e n) t =
      { t with clusters := (l.foldl (fun s n => s.invalidate e n) t).clusters } := by
    intro l
    induction l with
    | nil => intro t; rfl
    | cons n l ih => intro t; rw [List.foldl_cons, ih, invalidate_eq t e n]
  unfold State.homeWrite
  dsimp only
  rw [fold]

@[simp] theorem homeWrite_mem (s : State) (e : Option ClusterId) (pa : Nat) (bs : List Byte) :
    (s.homeWrite e pa bs).mem = s.mem.write pa bs := by rw [homeWrite_eq]
@[simp] theorem homeWrite_cores (s : State) (e : Option ClusterId) (pa : Nat) (bs : List Byte) :
    (s.homeWrite e pa bs).cores = s.cores := by rw [homeWrite_eq]
@[simp] theorem homeWrite_parts (s : State) (e : Option ClusterId) (pa : Nat) (bs : List Byte) :
    (s.homeWrite e pa bs).parts = s.parts := by rw [homeWrite_eq]

/-- With nothing cached there is nothing to invalidate. -/
theorem invalidate_uncached {s : State} (h : ∀ cl : ClusterId, s.clusters[cl].l2 = []) (e : Option ClusterId) (n : Nat) :
    s.invalidate e n = s := by
  have key : (s.invalidate e n).clusters = s.clusters := by
    unfold State.invalidate
    dsimp only
    split
    · rfl
    · apply Vector.ext
      intro i hi
      have hl : s.clusters[i].l2 = [] := h ⟨i, hi⟩
      simp [hl]
  rw [invalidate_eq, key]
/-- Writing what a home holds, with nothing cached and nothing poisoned, changes nothing. -/
theorem homeWrite_same {s : State} {pa : Nat} {bs : List Byte} (hw : s.mem.wf = true) (hp : s.poisonSectors = [])
    (hl : ∀ cl : ClusterId, s.clusters[cl].l2 = []) (hb : s.mem.read pa bs.length = bs) (e : Option ClusterId) :
    s.homeWrite e pa bs = s := by
  have hm : s.mem.write pa bs = s.mem := by
    apply Memory.eq_of_get (Memory.write_wf pa bs hw) hw
    intro x
    rw [Memory.get_write pa x bs hw]
    by_cases hx : pa ≤ x ∧ x < pa + bs.length
    · rw [if_pos hx]
      have hi : x - pa < bs.length := by omega
      rw [List.getD_eq_getElem _ _ hi]
      have : bs[x - pa] = (s.mem.read pa bs.length)[x - pa]'(by simpa using hi) := by simp [hb]
      rw [this]
      simp [Memory.read, show pa + (x - pa) = x by omega]
    · rw [if_neg hx]
  have fold : ∀ l : List Nat, l.foldl (fun s n => s.invalidate e n) s = s := by
    intro l
    induction l with
    | nil => rfl
    | cons n l ih => rw [List.foldl_cons, invalidate_uncached hl, ih]
  unfold State.homeWrite
  dsimp only
  rw [hm, hp]
  have : ({ s with mem := s.mem, poisonSectors := [] } : State) = s := by rw [← hp]
  simp only [List.filter_nil]
  rw [this, fold]

/-- A byte of a little-endian number. -/
theorem natOfBytes_byte {bs : List Byte} {i : Nat} (h : i < bs.length) : natOfBytes bs / 2 ^ (8 * i) % 256 = (bs[i]).toNat := by
  induction bs generalizing i with
  | nil => simp at h
  | cons b bs ih =>
    have hb : b.toNat < 256 := b.isLt
    cases i with
    | zero => simp only [natOfBytes, Nat.mul_zero, Nat.pow_zero, Nat.div_one, List.getElem_cons_zero]; omega
    | succ i =>
      simp only [natOfBytes, List.getElem_cons_succ]
      rw [show 8 * (i + 1) = 8 + 8 * i by omega, pow_add, ← Nat.div_div_eq_div_mul,
        show (b.toNat + 256 * natOfBytes bs) / 2 ^ 8 = natOfBytes bs by omega]
      exact ih (by simpa using h)
/-- The bytes of a number read from memory are the bytes read. -/
theorem bytesOf_num (m : Memory) (a : Nat) : bytesOf 8 (BitVec.ofNat 64 (m.num a 8)) = m.read a 8 := by
  apply List.ext_getElem
  · simp [bytesOf]
  · intro i h1 h2
    have hi : i < 8 := by simpa [bytesOf] using h1
    have hb := natOfBytes_byte (bs := m.read a 8) (i := i) (by simpa using hi)
    simp only [bytesOf, elem, List.getElem_map, List.getElem_range]
    apply BitVec.eq_of_toNat_eq
    rw [BitVec.extractLsb'_toNat, BitVec.toNat_ofNat, Nat.shiftRight_eq_div_pow, ← hb]
    unfold Memory.num
    rw [show (2 : Nat) ^ 64 = 2 ^ (8 * i) * 2 ^ (64 - 8 * i) by rw [← pow_add]; congr 1; omega, Nat.mod_mul_right_div_self,
      Nat.mod_mod_of_dvd _ (show (2 : Nat) ^ 8 ∣ 2 ^ (64 - 8 * i) from Nat.pow_dvd_pow 2 (by omega))]
    norm_num

/-- Where no page migrates the device reads what the home holds. -/
theorem devBytes_still {s : State} (hi : s.migrations = []) (pa n : Nat) : s.devBytes pa n = s.mem.read pa n := by
  simp [State.devBytes, State.migrating, hi, State.homeRead]
/-- Where no page migrates or has moved the walkers read the entry that the home holds. -/
theorem entryAt_still {s : State} (hg : s.movedFrames = []) (hi : s.migrations = []) (a : Nat) :
    s.entryAt a = some (BitVec.ofNat 64 (s.mem.num a 8)) := by
  simp [State.entryAt, hg, devBytes_still hi, ofBytes, Memory.num]

/-- A walk that ends at a leaf ends at the valid entry that the walkers read at its place. -/
theorem walk_leaf {s : State} {root va e : Word} {a : Nat} {big : Bool} (h : s.walk root va = .leaf e a big) :
    s.entryAt a = some e ∧ entV e = true := by
  have key : ∀ {f : Word} {b : Nat} {g : Bool}, s.walkLeaf f b g = .leaf e a big → f = e ∧ b = a ∧ entV f = true := by
    intro f b g hf
    unfold State.walkLeaf at hf
    split at hf
    · split at hf <;> cases hf
    · rename_i hv
      split at hf
      · cases hf; exact ⟨rfl, rfl, by simpa using hv⟩
      · cases hf
  have top : ∀ {b : Nat} {f : Word}, s.walkTop root va = .entry b f → s.entryAt b = some f := by
    intro b f hf
    unfold State.walkTop at hf
    split at hf
    · cases hf
    · split at hf
      · cases hf
      · split at hf
        · cases hf
        · split at hf
          · cases hf
          · rename_i he; cases hf; exact he
  unfold State.walk at h
  split at h
  · cases h
  · cases h
  · rename_i a2 e2 ht
    split at h
    · obtain ⟨rfl, rfl, hv⟩ := key h; exact ⟨top ht, hv⟩
    · split at h
      · cases h
      · unfold State.walkEnd at h
        dsimp only at h
        split at h
        · cases h
        · rename_i e3 he
          split at h
          · obtain ⟨rfl, rfl, hv⟩ := key h; exact ⟨he, hv⟩
          · cases h

/-- Bits set in an entry that has them change nothing, with nothing cached and nothing poisoned. -/
theorem orEntry_same {s : State} {a : Nat} {w b e : Word} (hm : s.mem.wf = true) (hp : s.poisonSectors = [])
    (hl : ∀ cl : ClusterId, s.clusters[cl].l2 = []) (hg : s.movedFrames = []) (hi : s.migrations = [])
    (he : s.entryAt a = some e) (hw : e &&& w = w) (hb : e ||| b = e) : s.orEntry a w b = some s := by
  unfold State.orEntry
  rw [he]
  dsimp only
  rw [if_pos hw]
  congr 1
  unfold State.devSet
  rw [show s.nowAt a = a by simp [State.nowAt, State.copyOf, hi]]
  dsimp only
  have hn : e = BitVec.ofNat 64 (s.mem.num a 8) := by rw [entryAt_still hg hi] at he; exact (Option.some.inj he).symm
  have hbytes : (bytesOf 8 b).mapIdx (fun i x => s.mem.get (a + i) ||| x) = s.mem.read a 8 := by
    rw [← bytesOf_num, ← hn]
    apply List.ext_getElem
    · simp [bytesOf]
    · intro i h1 h2
      have h8 : i < 8 := by simpa [bytesOf] using h2
      have hr : s.mem.get (a + i) = elem 8 e i := by
        have := bytesOf_num s.mem a
        rw [← hn] at this
        have h3 : i < (s.mem.read a 8).length := by simpa [Memory.read] using h8
        have h4 : (bytesOf 8 e)[i]'(by simpa [bytesOf] using h8) = (s.mem.read a 8)[i] := by simp only [this]
        simpa [bytesOf, Memory.read] using h4.symm
      simp only [List.getElem_mapIdx, bytesOf, List.getElem_map, List.getElem_range, hr]
      change elem 8 e i ||| elem 8 b i = elem 8 e i
      unfold elem
      rw [← BitVec.extractLsb'_or, hb]
  rw [hbytes]
  apply homeWrite_same hm hp hl
  simp [Memory.read_length]

/-- A device's read of a mapped page whose accessed bit is set changes nothing, with nothing cached and nothing poisoned (R508). -/
theorem devTranslate_read {s : State} {p : PartId} {who : Nat} {va e : Word} {need : Need} {a : Nat} {big : Bool}
    (hm : s.mem.wf = true) (hp : s.poisonSectors = []) (hl : ∀ cl : ClusterId, s.clusters[cl].l2 = [])
    (hg : s.movedFrames = []) (hi : s.migrations = [])
    (hw : s.walk s.parts[p].ptRoot va = .leaf e a big) (hr : permits e need = true) (hn : need.w = false)
    (ha : e ||| 0x40 = e) :
    s.devTranslate p who va need = (s, .ok (s.leafBase e + bitsN va (if big then 29 else 18) 0)) := by
  obtain ⟨he, hv⟩ := walk_leaf hw
  have h1 : e &&& 1 = 1 := by
    apply BitVec.eq_of_getLsbD_eq
    intro i hi
    simp only [entV] at hv
    by_cases h0 : i = 0
    · subst h0; simp [hv]
    · simp [h0]
  unfold State.devTranslate
  rw [hw]
  simp only [hr, hn, hg]
  rw [if_neg (by simp), if_neg (by simp), if_neg (by simp)]
  change (match s.orEntry a 1 0x40 with | none => _ | some s => _) = _
  rw [orEntry_same hm hp hl hg hi he h1 ha]
  rfl

/-- The same for its bytes: a read within one such page answers the home's bytes. -/
theorem devRead_page {s : State} {p : PartId} {die n : Nat} {va e : Word} {need : Need} {a : Nat} {big : Bool}
    (hm : s.mem.wf = true) (hp : s.poisonSectors = []) (hl : ∀ cl : ClusterId, s.clusters[cl].l2 = [])
    (hg : s.movedFrames = []) (hi : s.migrations = [])
    (hw : s.walk s.parts[p].ptRoot va = .leaf e a big) (hr : permits e need = true) (hn : need.w = false)
    (ha : e ||| 0x40 = e) (h0 : 0 < n) (hfit : va.toNat % 2 ^ 19 + n ≤ 2 ^ 19) :
    s.devRead p die va n need = (s, some (s.mem.read (s.leafBase e + bitsN va (if big then 29 else 18) 0) n)) := by
  have hpieces : pagePieces va n = [(va, n)] := by
    unfold pagePieces
    have h1 : (va.toNat % 2 ^ 19 + n - 1) / 2 ^ 19 = 0 := by omega
    have h2 : n ≠ 0 := by omega
    rw [h1, if_neg h2]
    have h3 : min (va.toNat + n) ((va.toNat / 2 ^ 19 + 0 + 1) * 2 ^ 19) - va.toNat = n := by omega
    simp only [Nat.zero_add, List.range_one, List.map_cons, List.map_nil, if_true]
    simp only [Nat.add_zero] at h3
    norm_num at h3
    simp [h3]
  unfold State.devRead
  rw [if_neg (by simp [State.devFrame, hi]), hpieces]
  simp [devTranslate_read (who := die + 1) hm hp hl hg hi hw hr hn ha, devBytes_still hi]

end Sys2Proof.Machine
end

