-- ==== Sys2Proof/Laws/Canonical.lean ====
section
/-! SUPPORT. The canonical form of the memories under the shared operations: what changes no memory keeps it, and every
operation over homes, slices, translations, fault records and faults does. -/

namespace Sys2Proof.Machine

/-! ## The form, and folds -/

theorem State.memWf_iff {s : State} : s.memWf = true ↔ s.mem.wf = true ∧ ∀ c : CoreId, s.cores[c].memWf = true := by
  unfold State.memWf
  rw [Bool.and_eq_true]
  refine and_congr_right fun _ => ?_
  rw [List.all_eq_true]
  constructor
  · intro h c
    exact h _ (Vector.mem_toList_iff.2 (Vector.getElem_mem c.isLt))
  · intro h k hk
    obtain ⟨i, hi, rfl⟩ := Vector.mem_iff_getElem.1 (Vector.mem_toList_iff.1 hk)
    exact h ⟨i, hi⟩

/-- A state with the same memories. -/
theorem State.memWf_of_same {s t : State} (hm : t.mem = s.mem) (hc : t.cores = s.cores) (h : s.memWf = true) :
    t.memWf = true := by
  unfold State.memWf at h ⊢
  rwa [hm, hc]

/-- What each step of a fold keeps, the fold keeps. -/
theorem foldl_keeps {α β : Type} {P : β → Prop} {f : β → α → β} (hf : ∀ b a, P b → P (f b a)) (l : List α) {b : β}
    (h : P b) : P (l.foldl f b) := by
  induction l generalizing b with
  | nil => exact h
  | cons a l ih => exact ih (hf b a h)

/-- What holds of the state that an optional answer gives. -/
def Holds {α : Type} (P : α → Prop) (o : Option α) : Prop := ∀ a, o = some a → P a
theorem holds_none {α : Type} {P : α → Prop} : Holds P none := fun _ h => by cases h
theorem holds_some {α : Type} {P : α → Prop} {a : α} (h : P a) : Holds P (some a) := fun _ e => by cases e; exact h

/-! ## Updates of the state -/

theorem State.memWf_modCore {s : State} (c : CoreId) {f : Core → Core} (hf : ∀ k, k.memWf = true → (f k).memWf = true)
    (h : s.memWf = true) : (s.modCore c f).memWf = true := by
  obtain ⟨hm, hc⟩ := State.memWf_iff.1 h
  refine State.memWf_iff.2 ⟨hm, fun e => ?_⟩
  show (upd s.cores c f)[e].memWf = true
  rw [upd_get]
  split
  · exact hf _ (hc e)
  · exact hc e
/-- A change of a core that leaves its typed buffers. -/
theorem State.memWf_modCore_same {s : State} (c : CoreId) {f : Core → Core} (hw : ∀ k, (f k).wb = k.wb)
    (ha : ∀ k, (f k).ab = k.ab) (hb : ∀ k, (f k).cb = k.cb) (h : s.memWf = true) : (s.modCore c f).memWf = true :=
  State.memWf_modCore c (fun k hk => by unfold Core.memWf at hk ⊢; rwa [hw, ha, hb]) h
/-- A change of every core that keeps the form. -/
theorem State.memWf_mapCores {s : State} {f : Core → Core} (hf : ∀ k, k.memWf = true → (f k).memWf = true)
    (h : s.memWf = true) : ({ s with cores := s.cores.map f } : State).memWf = true := by
  obtain ⟨hm, hc⟩ := State.memWf_iff.1 h
  refine State.memWf_iff.2 ⟨hm, fun e => ?_⟩
  show (s.cores.map f)[e.val].memWf = true
  rw [Vector.getElem_map]
  exact hf _ (hc e)
theorem State.memWf_modCluster {s : State} (cl : ClusterId) (f : Cluster → Cluster) (h : s.memWf = true) :
    (s.modCluster cl f).memWf = true := State.memWf_of_same rfl rfl h
theorem State.memWf_modPart {s : State} (p : PartId) (f : Partition → Partition) (h : s.memWf = true) :
    (s.modPart p f).memWf = true := State.memWf_of_same rfl rfl h
theorem State.memWf_modWarp {s : State} (c : CoreId) (w : WarpId) (f : Warp → Warp) (h : s.memWf = true) :
    (s.modWarp c w f).memWf = true := State.memWf_modCore_same c (fun _ => rfl) (fun _ => rfl) (fun _ => rfl) h
theorem State.memWf_modBlock {s : State} (c : CoreId) (bid : Nat) (f : Block → Block) (h : s.memWf = true) :
    (s.modBlock c bid f).memWf = true := State.memWf_modCore_same c (fun _ => rfl) (fun _ => rfl) (fun _ => rfl) h
theorem State.memWf_modOp {s : State} (c : CoreId) (id : Nat) (f : AsyncOp → AsyncOp) (h : s.memWf = true) :
    (s.modOp c id f).memWf = true := State.memWf_modCore_same c (fun _ => rfl) (fun _ => rfl) (fun _ => rfl) h
/-- A typed buffer changed by a memory operation. -/
theorem Core.memWf_modBuf {k : Core} (b : Buf) {f : Memory → Memory} (hf : Memory.Keeps f) (h : k.memWf = true) :
    (k.modBuf b f).memWf = true := by
  unfold Core.memWf at h ⊢
  simp only [Bool.and_eq_true] at h ⊢
  obtain ⟨⟨hw, ha⟩, hc⟩ := h
  cases b
  · exact ⟨⟨hf _ hw, ha⟩, hc⟩
  · exact ⟨⟨hw, hf _ ha⟩, hc⟩
  · exact ⟨⟨hw, ha⟩, hf _ hc⟩

/-! ## Homes and slices -/

theorem State.invalidate_same (s : State) (e : Option ClusterId) (n : Nat) :
    (s.invalidate e n).mem = s.mem ∧ (s.invalidate e n).cores = s.cores := by
  unfold State.invalidate
  dsimp only
  split <;> exact ⟨rfl, rfl⟩
theorem State.memWf_invalidate {s : State} (e : Option ClusterId) (n : Nat) (h : s.memWf = true) :
    (s.invalidate e n).memWf = true :=
  State.memWf_of_same (s.invalidate_same e n).1 (s.invalidate_same e n).2 h
/-- The memory of the homes replaced by one in the form. -/
theorem State.memWf_setMem {s : State} {m : Memory} (hm : m.wf = true) (h : s.memWf = true) :
    ({ s with mem := m } : State).memWf = true := State.memWf_iff.2 ⟨hm, (State.memWf_iff.1 h).2⟩
theorem State.memWf_homeWrite {s : State} (e : Option ClusterId) (pa : Nat) (bs : List Byte) (h : s.memWf = true) :
    (s.homeWrite e pa bs).memWf = true := by
  unfold State.homeWrite
  refine foldl_keeps (P := fun t : State => t.memWf = true) (fun t n ht => State.memWf_invalidate e n ht) _ ?_
  exact State.memWf_iff.2 ⟨Memory.write_wf pa bs (State.memWf_iff.1 h).1, (State.memWf_iff.1 h).2⟩
theorem State.memWf_writeBack {s : State} (cl : ClusterId) (n : Nat) (h : s.memWf = true) :
    (s.writeBack cl n).memWf = true := by
  unfold State.writeBack
  split
  · exact h
  · split
    · exact h
    · refine State.memWf_modCluster cl _ (State.memWf_invalidate _ n ?_)
      exact State.memWf_iff.2 ⟨Memory.foldl_set_wf _ _ _ (State.memWf_iff.1 h).1, (State.memWf_iff.1 h).2⟩
theorem State.memWf_makeRoom {s : State} (cl : ClusterId) (n : Nat) (h : s.memWf = true) : (s.makeRoom cl n).memWf = true := by
  unfold State.makeRoom
  split
  · exact h
  · split
    · exact h
    · exact foldl_keeps (P := fun t : State => t.memWf = true)
        (fun _ m ht => State.memWf_modCluster cl _ (State.memWf_writeBack cl m ht)) _ h
theorem State.memWf_release {s : State} (cl : ClusterId) (p : PartId) (h : s.memWf = true) : (s.release cl p).memWf = true :=
  foldl_keeps (P := fun t : State => t.memWf = true) (fun _ n ht => State.memWf_writeBack cl n ht) _ h
theorem State.memWf_acquire {s : State} (cl : ClusterId) (p : PartId) (h : s.memWf = true) : (s.acquire cl p).memWf = true :=
  State.memWf_modCluster cl _ h
theorem State.memWf_retag {s : State} (cl : ClusterId) (p : PartId) (n : Nat) (h : s.memWf = true) :
    Holds (fun t => t.memWf = true) (s.retag cl p n) := by
  unfold State.retag
  have hw := State.memWf_writeBack cl n h
  split
  · split
    · exact holds_some h
    · dsimp only
      split
      · split
        · exact holds_some (State.memWf_modCluster cl _ hw)
        · exact holds_none
      · exact holds_some hw
  · exact holds_some h
theorem State.memWf_fill {s : State} (cl : ClusterId) (p : PartId) (n : Nat) (h : s.memWf = true) :
    Holds (fun t => t.memWf = true) (s.fill cl p n) := by
  unfold State.fill
  split
  · exact holds_none
  · rename_i t e
    have ht := State.memWf_retag cl p n h t e
    split
    · split
      · exact holds_some ht
      · split
        · exact holds_none
        · exact holds_some (State.memWf_modCluster cl _ ht)
    · split
      · exact holds_none
      · exact holds_some (State.memWf_modCluster cl _ (State.memWf_makeRoom cl n ht))
theorem State.memWf_claimSector {s : State} (cl : ClusterId) (p : PartId) (n : Nat) (h : s.memWf = true) :
    Holds (fun t => t.memWf = true) (s.claimSector cl p n) := by
  unfold State.claimSector
  split
  · split
    · exact holds_some h
    · exact State.memWf_fill cl p n h
  · exact holds_some (State.memWf_makeRoom cl n h)
theorem State.memWf_sliceReadOne {s : State} (cl : ClusterId) (p : PartId) (n lo m : Nat) (h : s.memWf = true) :
    Holds (fun r => r.1.memWf = true) (s.sliceReadOne cl p n lo m) := by
  unfold State.sliceReadOne
  split
  · exact holds_none
  · rename_i t e
    split
    · exact holds_none
    · exact holds_some (State.memWf_fill cl p n h t e)
theorem State.memWf_sliceWriteOne {s : State} (cl : ClusterId) (p : PartId) (n lo : Nat) (bs : List Byte)
    (h : s.memWf = true) : Holds (fun t => t.memWf = true) (s.sliceWriteOne cl p n lo bs) := by
  unfold State.sliceWriteOne
  split
  · exact holds_none
  · rename_i t e
    exact holds_some (State.memWf_modCluster cl _ (State.memWf_claimSector cl p n h t e))
theorem State.memWf_sliceRead {s : State} (cl : ClusterId) (p : PartId) (pa n : Nat) (h : s.memWf = true) :
    Holds (fun r => r.1.memWf = true) (s.sliceRead cl p pa n) := by
  unfold State.sliceRead
  refine foldl_keeps (P := Holds fun r : State × List Byte => r.1.memWf = true) ?_ _ (holds_some h)
  rintro acc ⟨k, lo, m⟩ hacc
  cases acc with
  | none => exact holds_none
  | some r =>
    intro a ha
    obtain ⟨q, hq, rfl⟩ := Option.map_eq_some_iff.1 ha
    exact State.memWf_sliceReadOne cl p k lo m (hacc r rfl) q hq
theorem State.memWf_sliceWrite {s : State} (cl : ClusterId) (p : PartId) (pa : Nat) (bs : List Byte) (h : s.memWf = true) :
    Holds (fun t => t.memWf = true) (s.sliceWrite cl p pa bs) := by
  unfold State.sliceWrite
  refine foldl_keeps (P := Holds fun t : State => t.memWf = true) ?_ _ (holds_some h)
  rintro acc ⟨k, lo, m⟩ hacc
  cases acc with
  | none => exact holds_none
  | some r => exact State.memWf_sliceWriteOne cl p k lo _ (hacc r rfl)
theorem State.memWf_sliceFlush {s : State} (cl : ClusterId) (pa n : Nat) (h : s.memWf = true) :
    Holds (fun t => t.memWf = true) (s.sliceFlush cl pa n) := by
  unfold State.sliceFlush
  refine foldl_keeps (P := Holds fun t : State => t.memWf = true) ?_ _ (holds_some h)
  rintro acc k hacc
  cases acc with
  | none => exact holds_none
  | some r =>
    have hw := State.memWf_writeBack cl k (hacc r rfl)
    dsimp only
    split
    · split
      · exact holds_some (State.memWf_modCluster cl _ hw)
      · exact holds_none
    · exact holds_some hw

/-! ## Translation, and the device's own accesses -/

theorem State.memWf_devStore {s : State} (pa : Nat) (bs : List Byte) (h : s.memWf = true) : (s.devStore pa bs).memWf = true := by
  unfold State.devStore
  split
  · exact State.memWf_homeWrite _ _ _ h
  · refine foldl_keeps (P := fun t : State => t.memWf = true) ?_ _ h
    rintro t ⟨k, lo, m⟩ ht
    exact State.memWf_homeWrite _ _ _ ht
theorem State.memWf_devSet {s : State} (pa : Nat) (bs : List Byte) (h : s.memWf = true) : (s.devSet pa bs).memWf = true := by
  unfold State.devSet
  exact State.memWf_homeWrite _ _ _ h
theorem State.memWf_orEntry {s : State} (a : Nat) (w b : Word) (h : s.memWf = true) :
    Holds (fun t => t.memWf = true) (s.orEntry a w b) := by
  unfold State.orEntry
  split
  · exact holds_none
  · split
    · exact holds_some (State.memWf_devSet _ _ h)
    · exact holds_none
theorem State.memWf_touch {s : State} (a who : Nat) (h : s.memWf = true) : (s.touch a who).memWf = true := by
  unfold State.touch
  split
  · exact h
  · split
    · exact State.memWf_devSet _ _ h
    · exact h
theorem State.memWf_logPage {s : State} (p : PartId) (who : Nat) (va : Word) (h : s.memWf = true) :
    (s.logPage p who va).1.memWf = true := by
  unfold State.logPage
  split
  · exact h
  · dsimp only
    split
    · exact h
    · have set {t : State} (pa : Nat) (bs : List Byte) (ht : t.memWf = true) :
          (if t.movedFrames.contains (frameOf pa) || !t.memoryAt pa 1 then (t, false) else (t.devSet pa bs, true)).1.memWf = true := by
        split
        · exact ht
        · exact State.memWf_devSet pa bs ht
      split
      · exact set _ _ h
      · split
        · split
          · split
            · rename_i t e
              exact set _ _ (State.memWf_orEntry _ _ _ h t e)
            · exact h
          · exact h
        · exact State.memWf_touch _ _ h
        · exact h
theorem State.memWf_walkInstall {s : State} (c : CoreId) (bid : Nat) (p : PartId) (va : Word) (touch : Bool)
    (h : s.memWf = true) : (s.walkInstall c bid p va touch).1.memWf = true := by
  have core (k : Core) (e : TlbEntry) : (k.tlbFill e).wb = k.wb ∧ (k.tlbFill e).ab = k.ab ∧ (k.tlbFill e).cb = k.cb := by
    unfold Core.tlbFill; dsimp only; split <;> exact ⟨rfl, rfl, rfl⟩
  unfold State.walkInstall
  dsimp only
  split
  · exact h
  · exact h
  · split
    · exact State.memWf_touch _ _ h
    · exact h
  · split
    · exact h
    · rename_i t e
      have ht := State.memWf_orEntry _ _ _ h t e
      refine State.memWf_modCore_same c (fun k => (core k _).1) (fun k => (core k _).2.1) (fun k => (core k _).2.2) ?_
      refine State.memWf_modCluster _ _ ?_
      split
      · split
        · exact ht
        · exact State.memWf_of_same rfl rfl ht
      · exact ht
theorem State.memWf_tlbLookup {s : State} (c : CoreId) (bid : Nat) (p : PartId) (va : Word) (touch : Bool)
    (h : s.memWf = true) : (s.tlbLookup c bid p va touch).1.memWf = true := by
  have core (k : Core) (e : TlbEntry) : (k.tlbFill e).wb = k.wb ∧ (k.tlbFill e).ab = k.ab ∧ (k.tlbFill e).cb = k.cb := by
    unfold Core.tlbFill; dsimp only; split <;> exact ⟨rfl, rfl, rfl⟩
  have bump {t : State} (i : Fin 23) (ht : t.memWf = true) : (t.modCore c fun k => k.bump i 1).memWf = true :=
    State.memWf_modCore_same c (fun _ => rfl) (fun _ => rfl) (fun _ => rfl) ht
  unfold State.tlbLookup
  split
  · exact h
  · dsimp only
    split
    · exact State.memWf_modCore_same c (fun k => (core k _).1) (fun k => (core k _).2.1) (fun k => (core k _).2.2)
        (bump _ h)
    · exact State.memWf_walkInstall _ _ _ _ _ (bump _ (bump _ h))
theorem State.memWf_tlbMarkDirty {s : State} (c : CoreId) (p : PartId) (page : Nat) (h : s.memWf = true) :
    (s.tlbMarkDirty c p page).memWf = true :=
  State.memWf_modCluster _ _ (State.memWf_modCore_same c (fun _ => rfl) (fun _ => rfl) (fun _ => rfl) h)
theorem State.memWf_tlbForget {s : State} (c : CoreId) (p : PartId) (page : Nat) (h : s.memWf = true) :
    (s.tlbForget c p page).memWf = true :=
  State.memWf_modCluster _ _ (State.memWf_modCore_same c (fun _ => rfl) (fun _ => rfl) (fun _ => rfl) h)
theorem State.memWf_translateN (n : Nat) {s : State} (c : CoreId) (bid : Nat) (p : PartId) (va : Word) (need : Need)
    (touch : Bool) (h : s.memWf = true) : (s.translateN n c bid p va need touch).1.memWf = true := by
  induction n generalizing s with
  | zero => exact h
  | succ n ih =>
    have hl := State.memWf_tlbLookup c bid p va touch h
    unfold State.translateN
    split
    · exact h
    · split
      · rename_i t e
        rw [e] at hl; exact hl
      · rename_i t x e
        rw [e] at hl
        split
        · exact hl
        · dsimp only
          split
          · exact hl
          · split
            · exact ih (State.memWf_tlbForget c p _ hl)
            · rename_i u eu
              have hu := State.memWf_logPage p (dieOf c).val.succ va (State.memWf_orEntry _ _ _ hl u eu)
              split
              · rename_i v ev
                rw [ev] at hu; exact hu
              · rename_i v ev
                rw [ev] at hu; exact State.memWf_tlbMarkDirty c p _ hu
theorem State.memWf_translate {s : State} (c : CoreId) (bid : Nat) (p : PartId) (va : Word) (need : Need)
    (h : s.memWf = true) : (s.translate c bid p va need).1.memWf = true := State.memWf_translateN 3 c bid p va need true h
theorem State.memWf_devTranslate {s : State} (p : PartId) (who : Nat) (va : Word) (need : Need) (h : s.memWf = true) :
    (s.devTranslate p who va need).1.memWf = true := by
  unfold State.devTranslate
  split
  · exact h
  · exact h
  · exact State.memWf_touch _ _ h
  · split
    · exact h
    · dsimp only
      generalize s.leafBase _ + _ = pa
      split
      · exact h
      · split
        · exact h
        · rename_i t e
          have ht := State.memWf_orEntry _ _ _ h t e
          split
          · have hu := State.memWf_logPage p who va ht
            split
            · rename_i u eu
              rw [eu] at hu; exact hu
            · rename_i u eu
              rw [eu] at hu; exact hu
          · exact ht
theorem State.memWf_devRead {s : State} (p : PartId) (die : Nat) (va : Word) (n : Nat) (need : Need) (h : s.memWf = true) :
    (s.devRead p die va n need).1.memWf = true := by
  unfold State.devRead
  split
  · exact State.memWf_of_same rfl rfl h
  refine foldl_keeps (P := fun r : State × Option (List Byte) => r.1.memWf = true) ?_ _ h
  rintro ⟨t, acc⟩ ⟨a, m⟩ ht
  have hd := State.memWf_devTranslate p (die + 1) a need ht
  cases acc with
  | none => exact ht
  | some bs =>
    dsimp only
    split
    · rename_i u pa e
      rw [e] at hd; exact hd
    · rename_i u f e
      rw [e] at hd; exact hd
theorem State.memWf_devWrite {s : State} (p : PartId) (die : Nat) (va : Word) (bs : List Byte) (need : Need)
    (h : s.memWf = true) : (s.devWrite p die va bs need).1.memWf = true := by
  unfold State.devWrite
  split
  · exact State.memWf_of_same rfl rfl h
  have hp : ((pagePieces va bs.length).foldl (fun ((s, ok) : State × Bool) ((a, _) : Word × Nat) =>
      if !ok then (s, false) else
      match s.devTranslate p (die + 1) a need with
      | (s, .ok _) => (s, true)
      | (s, .fault _) => (s, false)) (s, true)).1.memWf = true := by
    refine foldl_keeps (P := fun r : State × Bool => r.1.memWf = true) ?_ _ h
    rintro ⟨t, ok⟩ ⟨a, m⟩ ht
    have hd := State.memWf_devTranslate p (die + 1) a need ht
    dsimp only
    split
    · exact ht
    · split
      · rename_i u pa e
        rw [e] at hd; exact hd
      · rename_i u f e
        rw [e] at hd; exact hd
  dsimp only
  split
  · exact hp
  · refine foldl_keeps (P := fun t : State => t.memWf = true) ?_ _ hp
    rintro t ⟨a, m⟩ ht
    have hd := State.memWf_devTranslate p (die + 1) a need ht
    dsimp only
    split
    · rename_i u pa e
      rw [e] at hd; exact State.memWf_devStore _ _ hd
    · rename_i u f e
      rw [e] at hd; exact hd

/-! ## Records, leases and faults -/

theorem State.memWf_fireVector {s : State} (p : PartId) (v : Nat) (h : s.memWf = true) : (s.fireVector p v).memWf = true := by
  unfold State.fireVector
  split
  · exact h
  split
  · exact State.memWf_modPart p _ h
  · exact State.memWf_of_same rfl rfl h
theorem State.memWf_pushRecord {s : State} (p : PartId) (die : Nat) (r : Record) (h : s.memWf = true) :
    (s.pushRecord p die r).memWf = true := by
  unfold State.pushRecord
  dsimp only
  split
  · exact State.memWf_modPart p _ h
  · have hd := State.memWf_devWrite p die
      (s.parts[p].fqBase + BitVec.ofNat 64 (64 * (s.parts[p].fqProd.toNat % 2 ^ s.parts[p].fqSize))) (r.bytes s.ns) .write h
    split
    · rename_i t e
      rw [e] at hd; exact State.memWf_modPart p _ hd
    · rename_i t e
      rw [e] at hd
      split
      · exact State.memWf_fireVector p 0 (State.memWf_modPart p _ hd)
      · exact State.memWf_modPart p _ hd
theorem State.memWf_devFault {s : State} (p : PartId) (die : Nat) (node va : Word) (n : Nat) (need : Need) (h : s.memWf = true) :
    (s.devFault p die node va n need).memWf = true := State.memWf_pushRecord _ _ _ h
theorem State.memWf_breakGroup {s : State} (b : Block) (h : s.memWf = true) : (s.breakGroup b).memWf = true := by
  unfold State.breakGroup
  split
  · exact h
  · exact State.memWf_of_same (s := { s with cores := _ }) rfl rfl (State.memWf_mapCores (fun k hk => hk) h)
theorem State.memWf_endLease {s : State} (cl : ClusterId) (cause : Nat) (trap : Bool) (h : s.memWf = true) :
    (s.endLease cl cause trap).memWf = true := by
  unfold State.endLease
  split
  · exact h
  · have hc {f : Cluster → Cluster} : (s.modCluster cl f).memWf = true := State.memWf_modCluster cl _ h
    dsimp only
    split
    · exact hc
    · split
      · exact hc
      · split
        · exact hc
        · exact State.memWf_modWarp _ _ _ hc
theorem State.memWf_halt {s : State} (c : CoreId) (w : WarpId) (cause : Nat) (detail : Word) (glyph : BitVec 32)
    (h : s.memWf = true) : (s.halt c w cause detail glyph).memWf = true := by
  unfold State.halt
  split
  · exact h
  · split
    · exact h
    · dsimp only
      refine State.memWf_pushRecord _ _ _ (State.memWf_breakGroup _ ?_)
      refine State.memWf_modCore_same c (fun _ => rfl) (fun _ => rfl) (fun _ => rfl) ?_
      split
      · split
        · exact State.memWf_endLease _ _ _ h
        · exact h
      · exact h
theorem State.memWf_takeFault {s : State} (c : CoreId) (w : WarpId) (cause : Nat) (detail : Word)
    (glyph : Option (BitVec 32)) (h : s.memWf = true) : (s.takeFault c w cause detail glyph).memWf = true := by
  unfold State.takeFault
  have hi : ({ s with issue := none } : State).memWf = true := State.memWf_of_same rfl rfl h
  have hb (n : Nat) : (({ s with issue := none } : State).modCore c fun k => k.bump 3 n).memWf = true :=
    State.memWf_modCore_same c (fun _ => rfl) (fun _ => rfl) (fun _ => rfl) hi
  dsimp only
  split
  · exact hi
  · split
    · exact hi
    · split
      · exact State.memWf_modCore_same c (fun _ => rfl) (fun _ => rfl) (fun _ => rfl) (hb _)
      · exact State.memWf_halt c w cause detail _ (hb _)

end Sys2Proof.Machine
end

