-- ==== Sys2Proof/Laws/Decode.lean ====
section
/-! SUPPORT. The class layouts: packing and unpacking a field are inverse, so no bit of an encoding is dropped (R112). -/

namespace Sys2Proof

/-- Bits taken from above the low part of an append are bits of its high part. -/
theorem extract_above {m u v : Nat} (lo n : Nat) (x : BitVec u) (y : BitVec v) (hm : m = u + v) (h : v ≤ lo) :
    ((x ++ y).cast hm.symm).extractLsb' lo n = x.extractLsb' (lo - v) n := by
  subst hm
  ext i hi
  simp only [BitVec.cast_eq, BitVec.getElem_extractLsb', BitVec.getLsbD_append]
  rw [if_neg (by omega), show lo + i - v = lo - v + i by omega]
/-- The low part of an append. -/
theorem extract_low {m u v : Nat} (x : BitVec u) (y : BitVec v) (hm : m = u + v) :
    ((x ++ y).cast hm.symm).extractLsb' 0 v = y := by
  subst hm
  ext i hi
  simp only [BitVec.cast_eq, BitVec.getElem_extractLsb', BitVec.getLsbD_append, Nat.zero_add, if_pos hi,
    BitVec.getLsbD_eq_getElem hi]
/-- The whole of a value. -/
theorem extract_whole {v : Nat} (y : BitVec v) : y.extractLsb' 0 v = y := by
  ext i hi
  simp only [BitVec.getElem_extractLsb', Nat.zero_add, BitVec.getLsbD_eq_getElem hi]
/-- Adjacent ranges join. -/
theorem extract_join {m : Nat} (w : BitVec m) (lo a b : Nat) :
    w.extractLsb' (lo + b) a ++ w.extractLsb' lo b = w.extractLsb' lo (a + b) := by
  ext i hi
  simp only [BitVec.getElem_append, BitVec.getElem_extractLsb']
  split
  · rfl
  · rw [show lo + b + (i - b) = lo + i by omega]

@[simp] theorem KB.unpack_pack (op : BitVec 8) (f : KB) : KB.unpack (f.pack op) = f := by
  have h1 : (f.pack op).extractLsb' 36 4 = f.variant :=
    ((extract_above 36 4 (op ++ f.variant ++ f.cond) f.target rfl (by decide)).trans
      ((extract_above 4 4 (op ++ f.variant) f.cond rfl (by decide)).trans
      (extract_low (op) f.variant rfl)))
  have h2 : (f.pack op).extractLsb' 32 4 = f.cond :=
    ((extract_above 32 4 (op ++ f.variant ++ f.cond) f.target rfl (by decide)).trans
      (extract_low (op ++ f.variant) f.cond rfl))
  have h3 : (f.pack op).extractLsb' 0 32 = f.target :=
    (extract_low (op ++ f.variant ++ f.cond) f.target rfl)
  simp only [KB.unpack, h1, h2, h3]
@[simp] theorem KB.opcodeOf_pack (op : BitVec 8) (f : KB) : opcodeOf (f.pack op) = op :=
  ((extract_above 40 8 (op ++ f.variant ++ f.cond) f.target rfl (by decide)).trans
      ((extract_above 8 8 (op ++ f.variant) f.cond rfl (by decide)).trans
      ((extract_above 4 8 (op) f.variant rfl (by decide)).trans
      (extract_whole op))))
theorem KB.pack_unpack (w : Field) : (KB.unpack w).pack (opcodeOf w) = w := by
  unfold KB.pack KB.unpack opcodeOf
  have j1 : w.extractLsb' 40 8 ++ w.extractLsb' 36 4 = w.extractLsb' 36 12 := extract_join w 36 8 4
  have j2 : w.extractLsb' 36 12 ++ w.extractLsb' 32 4 = w.extractLsb' 32 16 := extract_join w 32 12 4
  have j3 : w.extractLsb' 32 16 ++ w.extractLsb' 0 32 = w.extractLsb' 0 48 := extract_join w 0 16 32
  exact ((congrArg (· ++ w.extractLsb' 0 32) ((congrArg (· ++ w.extractLsb' 32 4) j1).trans j2)).trans j3).trans (extract_whole w)

@[simp] theorem KWait.unpack_pack (op : BitVec 8) (f : KWait) : KWait.unpack (f.pack op) = f := by
  have h1 : (f.pack op).extractLsb' 36 4 = f.variant :=
    ((extract_above 36 4 (op ++ f.variant ++ f.load ++ f.store ++ f.copy ++ f.tile) f.rsv rfl (by decide)).trans
      ((extract_above 24 4 (op ++ f.variant ++ f.load ++ f.store ++ f.copy) f.tile rfl (by decide)).trans
      ((extract_above 18 4 (op ++ f.variant ++ f.load ++ f.store) f.copy rfl (by decide)).trans
      ((extract_above 12 4 (op ++ f.variant ++ f.load) f.store rfl (by decide)).trans
      ((extract_above 6 4 (op ++ f.variant) f.load rfl (by decide)).trans
      (extract_low (op) f.variant rfl))))))
  have h2 : (f.pack op).extractLsb' 30 6 = f.load :=
    ((extract_above 30 6 (op ++ f.variant ++ f.load ++ f.store ++ f.copy ++ f.tile) f.rsv rfl (by decide)).trans
      ((extract_above 18 6 (op ++ f.variant ++ f.load ++ f.store ++ f.copy) f.tile rfl (by decide)).trans
      ((extract_above 12 6 (op ++ f.variant ++ f.load ++ f.store) f.copy rfl (by decide)).trans
      ((extract_above 6 6 (op ++ f.variant ++ f.load) f.store rfl (by decide)).trans
      (extract_low (op ++ f.variant) f.load rfl)))))
  have h3 : (f.pack op).extractLsb' 24 6 = f.store :=
    ((extract_above 24 6 (op ++ f.variant ++ f.load ++ f.store ++ f.copy ++ f.tile) f.rsv rfl (by decide)).trans
      ((extract_above 12 6 (op ++ f.variant ++ f.load ++ f.store ++ f.copy) f.tile rfl (by decide)).trans
      ((extract_above 6 6 (op ++ f.variant ++ f.load ++ f.store) f.copy rfl (by decide)).trans
      (extract_low (op ++ f.variant ++ f.load) f.store rfl))))
  have h4 : (f.pack op).extractLsb' 18 6 = f.copy :=
    ((extract_above 18 6 (op ++ f.variant ++ f.load ++ f.store ++ f.copy ++ f.tile) f.rsv rfl (by decide)).trans
      ((extract_above 6 6 (op ++ f.variant ++ f.load ++ f.store ++ f.copy) f.tile rfl (by decide)).trans
      (extract_low (op ++ f.variant ++ f.load ++ f.store) f.copy rfl)))
  have h5 : (f.pack op).extractLsb' 12 6 = f.tile :=
    ((extract_above 12 6 (op ++ f.variant ++ f.load ++ f.store ++ f.copy ++ f.tile) f.rsv rfl (by decide)).trans
      (extract_low (op ++ f.variant ++ f.load ++ f.store ++ f.copy) f.tile rfl))
  have h6 : (f.pack op).extractLsb' 0 12 = f.rsv :=
    (extract_low (op ++ f.variant ++ f.load ++ f.store ++ f.copy ++ f.tile) f.rsv rfl)
  simp only [KWait.unpack, h1, h2, h3, h4, h5, h6]
@[simp] theorem KWait.opcodeOf_pack (op : BitVec 8) (f : KWait) : opcodeOf (f.pack op) = op :=
  ((extract_above 40 8 (op ++ f.variant ++ f.load ++ f.store ++ f.copy ++ f.tile) f.rsv rfl (by decide)).trans
      ((extract_above 28 8 (op ++ f.variant ++ f.load ++ f.store ++ f.copy) f.tile rfl (by decide)).trans
      ((extract_above 22 8 (op ++ f.variant ++ f.load ++ f.store) f.copy rfl (by decide)).trans
      ((extract_above 16 8 (op ++ f.variant ++ f.load) f.store rfl (by decide)).trans
      ((extract_above 10 8 (op ++ f.variant) f.load rfl (by decide)).trans
      ((extract_above 4 8 (op) f.variant rfl (by decide)).trans
      (extract_whole op)))))))
theorem KWait.pack_unpack (w : Field) : (KWait.unpack w).pack (opcodeOf w) = w := by
  unfold KWait.pack KWait.unpack opcodeOf
  have j1 : w.extractLsb' 40 8 ++ w.extractLsb' 36 4 = w.extractLsb' 36 12 := extract_join w 36 8 4
  have j2 : w.extractLsb' 36 12 ++ w.extractLsb' 30 6 = w.extractLsb' 30 18 := extract_join w 30 12 6
  have j3 : w.extractLsb' 30 18 ++ w.extractLsb' 24 6 = w.extractLsb' 24 24 := extract_join w 24 18 6
  have j4 : w.extractLsb' 24 24 ++ w.extractLsb' 18 6 = w.extractLsb' 18 30 := extract_join w 18 24 6
  have j5 : w.extractLsb' 18 30 ++ w.extractLsb' 12 6 = w.extractLsb' 12 36 := extract_join w 12 30 6
  have j6 : w.extractLsb' 12 36 ++ w.extractLsb' 0 12 = w.extractLsb' 0 48 := extract_join w 0 36 12
  exact ((congrArg (· ++ w.extractLsb' 0 12) ((congrArg (· ++ w.extractLsb' 12 6) ((congrArg (· ++ w.extractLsb' 18 6) ((congrArg (· ++ w.extractLsb' 24 6) ((congrArg (· ++ w.extractLsb' 30 6) j1).trans j2)).trans j3)).trans j4)).trans j5)).trans j6).trans (extract_whole w)

@[simp] theorem KWaitt.unpack_pack (op : BitVec 8) (f : KWaitt) : KWaitt.unpack (f.pack op) = f := by
  have h1 : (f.pack op).extractLsb' 36 4 = f.variant :=
    ((extract_above 36 4 (op ++ f.variant ++ f.enable ++ f.rsv ++ f.t3 ++ f.t2 ++ f.t1) f.t0 rfl (by decide)).trans
      ((extract_above 30 4 (op ++ f.variant ++ f.enable ++ f.rsv ++ f.t3 ++ f.t2) f.t1 rfl (by decide)).trans
      ((extract_above 24 4 (op ++ f.variant ++ f.enable ++ f.rsv ++ f.t3) f.t2 rfl (by decide)).trans
      ((extract_above 18 4 (op ++ f.variant ++ f.enable ++ f.rsv) f.t3 rfl (by decide)).trans
      ((extract_above 12 4 (op ++ f.variant ++ f.enable) f.rsv rfl (by decide)).trans
      ((extract_above 4 4 (op ++ f.variant) f.enable rfl (by decide)).trans
      (extract_low (op) f.variant rfl)))))))
  have h2 : (f.pack op).extractLsb' 32 4 = f.enable :=
    ((extract_above 32 4 (op ++ f.variant ++ f.enable ++ f.rsv ++ f.t3 ++ f.t2 ++ f.t1) f.t0 rfl (by decide)).trans
      ((extract_above 26 4 (op ++ f.variant ++ f.enable ++ f.rsv ++ f.t3 ++ f.t2) f.t1 rfl (by decide)).trans
      ((extract_above 20 4 (op ++ f.variant ++ f.enable ++ f.rsv ++ f.t3) f.t2 rfl (by decide)).trans
      ((extract_above 14 4 (op ++ f.variant ++ f.enable ++ f.rsv) f.t3 rfl (by decide)).trans
      ((extract_above 8 4 (op ++ f.variant ++ f.enable) f.rsv rfl (by decide)).trans
      (extract_low (op ++ f.variant) f.enable rfl))))))
  have h3 : (f.pack op).extractLsb' 24 8 = f.rsv :=
    ((extract_above 24 8 (op ++ f.variant ++ f.enable ++ f.rsv ++ f.t3 ++ f.t2 ++ f.t1) f.t0 rfl (by decide)).trans
      ((extract_above 18 8 (op ++ f.variant ++ f.enable ++ f.rsv ++ f.t3 ++ f.t2) f.t1 rfl (by decide)).trans
      ((extract_above 12 8 (op ++ f.variant ++ f.enable ++ f.rsv ++ f.t3) f.t2 rfl (by decide)).trans
      ((extract_above 6 8 (op ++ f.variant ++ f.enable ++ f.rsv) f.t3 rfl (by decide)).trans
      (extract_low (op ++ f.variant ++ f.enable) f.rsv rfl)))))
  have h4 : (f.pack op).extractLsb' 18 6 = f.t3 :=
    ((extract_above 18 6 (op ++ f.variant ++ f.enable ++ f.rsv ++ f.t3 ++ f.t2 ++ f.t1) f.t0 rfl (by decide)).trans
      ((extract_above 12 6 (op ++ f.variant ++ f.enable ++ f.rsv ++ f.t3 ++ f.t2) f.t1 rfl (by decide)).trans
      ((extract_above 6 6 (op ++ f.variant ++ f.enable ++ f.rsv ++ f.t3) f.t2 rfl (by decide)).trans
      (extract_low (op ++ f.variant ++ f.enable ++ f.rsv) f.t3 rfl))))
  have h5 : (f.pack op).extractLsb' 12 6 = f.t2 :=
    ((extract_above 12 6 (op ++ f.variant ++ f.enable ++ f.rsv ++ f.t3 ++ f.t2 ++ f.t1) f.t0 rfl (by decide)).trans
      ((extract_above 6 6 (op ++ f.variant ++ f.enable ++ f.rsv ++ f.t3 ++ f.t2) f.t1 rfl (by decide)).trans
      (extract_low (op ++ f.variant ++ f.enable ++ f.rsv ++ f.t3) f.t2 rfl)))
  have h6 : (f.pack op).extractLsb' 6 6 = f.t1 :=
    ((extract_above 6 6 (op ++ f.variant ++ f.enable ++ f.rsv ++ f.t3 ++ f.t2 ++ f.t1) f.t0 rfl (by decide)).trans
      (extract_low (op ++ f.variant ++ f.enable ++ f.rsv ++ f.t3 ++ f.t2) f.t1 rfl))
  have h7 : (f.pack op).extractLsb' 0 6 = f.t0 :=
    (extract_low (op ++ f.variant ++ f.enable ++ f.rsv ++ f.t3 ++ f.t2 ++ f.t1) f.t0 rfl)
  simp only [KWaitt.unpack, h1, h2, h3, h4, h5, h6, h7]
@[simp] theorem KWaitt.opcodeOf_pack (op : BitVec 8) (f : KWaitt) : opcodeOf (f.pack op) = op :=
  ((extract_above 40 8 (op ++ f.variant ++ f.enable ++ f.rsv ++ f.t3 ++ f.t2 ++ f.t1) f.t0 rfl (by decide)).trans
      ((extract_above 34 8 (op ++ f.variant ++ f.enable ++ f.rsv ++ f.t3 ++ f.t2) f.t1 rfl (by decide)).trans
      ((extract_above 28 8 (op ++ f.variant ++ f.enable ++ f.rsv ++ f.t3) f.t2 rfl (by decide)).trans
      ((extract_above 22 8 (op ++ f.variant ++ f.enable ++ f.rsv) f.t3 rfl (by decide)).trans
      ((extract_above 16 8 (op ++ f.variant ++ f.enable) f.rsv rfl (by decide)).trans
      ((extract_above 8 8 (op ++ f.variant) f.enable rfl (by decide)).trans
      ((extract_above 4 8 (op) f.variant rfl (by decide)).trans
      (extract_whole op))))))))
theorem KWaitt.pack_unpack (w : Field) : (KWaitt.unpack w).pack (opcodeOf w) = w := by
  unfold KWaitt.pack KWaitt.unpack opcodeOf
  have j1 : w.extractLsb' 40 8 ++ w.extractLsb' 36 4 = w.extractLsb' 36 12 := extract_join w 36 8 4
  have j2 : w.extractLsb' 36 12 ++ w.extractLsb' 32 4 = w.extractLsb' 32 16 := extract_join w 32 12 4
  have j3 : w.extractLsb' 32 16 ++ w.extractLsb' 24 8 = w.extractLsb' 24 24 := extract_join w 24 16 8
  have j4 : w.extractLsb' 24 24 ++ w.extractLsb' 18 6 = w.extractLsb' 18 30 := extract_join w 18 24 6
  have j5 : w.extractLsb' 18 30 ++ w.extractLsb' 12 6 = w.extractLsb' 12 36 := extract_join w 12 30 6
  have j6 : w.extractLsb' 12 36 ++ w.extractLsb' 6 6 = w.extractLsb' 6 42 := extract_join w 6 36 6
  have j7 : w.extractLsb' 6 42 ++ w.extractLsb' 0 6 = w.extractLsb' 0 48 := extract_join w 0 42 6
  exact ((congrArg (· ++ w.extractLsb' 0 6) ((congrArg (· ++ w.extractLsb' 6 6) ((congrArg (· ++ w.extractLsb' 12 6) ((congrArg (· ++ w.extractLsb' 18 6) ((congrArg (· ++ w.extractLsb' 24 8) ((congrArg (· ++ w.extractLsb' 32 4) j1).trans j2)).trans j3)).trans j4)).trans j5)).trans j6)).trans j7).trans (extract_whole w)

@[simp] theorem KBarw.unpack_pack (op : BitVec 8) (f : KBarw) : KBarw.unpack (f.pack op) = f := by
  have h1 : (f.pack op).extractLsb' 36 4 = f.variant :=
    ((extract_above 36 4 (op ++ f.variant ++ f.phase ++ f.addr ++ f.rsv) f.off rfl (by decide)).trans
      ((extract_above 16 4 (op ++ f.variant ++ f.phase ++ f.addr) f.rsv rfl (by decide)).trans
      ((extract_above 12 4 (op ++ f.variant ++ f.phase) f.addr rfl (by decide)).trans
      ((extract_above 6 4 (op ++ f.variant) f.phase rfl (by decide)).trans
      (extract_low (op) f.variant rfl)))))
  have h2 : (f.pack op).extractLsb' 30 6 = f.phase :=
    ((extract_above 30 6 (op ++ f.variant ++ f.phase ++ f.addr ++ f.rsv) f.off rfl (by decide)).trans
      ((extract_above 10 6 (op ++ f.variant ++ f.phase ++ f.addr) f.rsv rfl (by decide)).trans
      ((extract_above 6 6 (op ++ f.variant ++ f.phase) f.addr rfl (by decide)).trans
      (extract_low (op ++ f.variant) f.phase rfl))))
  have h3 : (f.pack op).extractLsb' 24 6 = f.addr :=
    ((extract_above 24 6 (op ++ f.variant ++ f.phase ++ f.addr ++ f.rsv) f.off rfl (by decide)).trans
      ((extract_above 4 6 (op ++ f.variant ++ f.phase ++ f.addr) f.rsv rfl (by decide)).trans
      (extract_low (op ++ f.variant ++ f.phase) f.addr rfl)))
  have h4 : (f.pack op).extractLsb' 20 4 = f.rsv :=
    ((extract_above 20 4 (op ++ f.variant ++ f.phase ++ f.addr ++ f.rsv) f.off rfl (by decide)).trans
      (extract_low (op ++ f.variant ++ f.phase ++ f.addr) f.rsv rfl))
  have h5 : (f.pack op).extractLsb' 0 20 = f.off :=
    (extract_low (op ++ f.variant ++ f.phase ++ f.addr ++ f.rsv) f.off rfl)
  simp only [KBarw.unpack, h1, h2, h3, h4, h5]
@[simp] theorem KBarw.opcodeOf_pack (op : BitVec 8) (f : KBarw) : opcodeOf (f.pack op) = op :=
  ((extract_above 40 8 (op ++ f.variant ++ f.phase ++ f.addr ++ f.rsv) f.off rfl (by decide)).trans
      ((extract_above 20 8 (op ++ f.variant ++ f.phase ++ f.addr) f.rsv rfl (by decide)).trans
      ((extract_above 16 8 (op ++ f.variant ++ f.phase) f.addr rfl (by decide)).trans
      ((extract_above 10 8 (op ++ f.variant) f.phase rfl (by decide)).trans
      ((extract_above 4 8 (op) f.variant rfl (by decide)).trans
      (extract_whole op))))))
theorem KBarw.pack_unpack (w : Field) : (KBarw.unpack w).pack (opcodeOf w) = w := by
  unfold KBarw.pack KBarw.unpack opcodeOf
  have j1 : w.extractLsb' 40 8 ++ w.extractLsb' 36 4 = w.extractLsb' 36 12 := extract_join w 36 8 4
  have j2 : w.extractLsb' 36 12 ++ w.extractLsb' 30 6 = w.extractLsb' 30 18 := extract_join w 30 12 6
  have j3 : w.extractLsb' 30 18 ++ w.extractLsb' 24 6 = w.extractLsb' 24 24 := extract_join w 24 18 6
  have j4 : w.extractLsb' 24 24 ++ w.extractLsb' 20 4 = w.extractLsb' 20 28 := extract_join w 20 24 4
  have j5 : w.extractLsb' 20 28 ++ w.extractLsb' 0 20 = w.extractLsb' 0 48 := extract_join w 0 28 20
  exact ((congrArg (· ++ w.extractLsb' 0 20) ((congrArg (· ++ w.extractLsb' 20 4) ((congrArg (· ++ w.extractLsb' 24 6) ((congrArg (· ++ w.extractLsb' 30 6) j1).trans j2)).trans j3)).trans j4)).trans j5).trans (extract_whole w)

@[simp] theorem KR.unpack_pack (op : BitVec 8) (f : KR) : KR.unpack (f.pack op) = f := by
  have h1 : (f.pack op).extractLsb' 36 4 = f.variant :=
    ((extract_above 36 4 (op ++ f.variant ++ f.d ++ f.a ++ f.b ++ f.rsv) f.imm rfl (by decide)).trans
      ((extract_above 20 4 (op ++ f.variant ++ f.d ++ f.a ++ f.b) f.rsv rfl (by decide)).trans
      ((extract_above 18 4 (op ++ f.variant ++ f.d ++ f.a) f.b rfl (by decide)).trans
      ((extract_above 12 4 (op ++ f.variant ++ f.d) f.a rfl (by decide)).trans
      ((extract_above 6 4 (op ++ f.variant) f.d rfl (by decide)).trans
      (extract_low (op) f.variant rfl))))))
  have h2 : (f.pack op).extractLsb' 30 6 = f.d :=
    ((extract_above 30 6 (op ++ f.variant ++ f.d ++ f.a ++ f.b ++ f.rsv) f.imm rfl (by decide)).trans
      ((extract_above 14 6 (op ++ f.variant ++ f.d ++ f.a ++ f.b) f.rsv rfl (by decide)).trans
      ((extract_above 12 6 (op ++ f.variant ++ f.d ++ f.a) f.b rfl (by decide)).trans
      ((extract_above 6 6 (op ++ f.variant ++ f.d) f.a rfl (by decide)).trans
      (extract_low (op ++ f.variant) f.d rfl)))))
  have h3 : (f.pack op).extractLsb' 24 6 = f.a :=
    ((extract_above 24 6 (op ++ f.variant ++ f.d ++ f.a ++ f.b ++ f.rsv) f.imm rfl (by decide)).trans
      ((extract_above 8 6 (op ++ f.variant ++ f.d ++ f.a ++ f.b) f.rsv rfl (by decide)).trans
      ((extract_above 6 6 (op ++ f.variant ++ f.d ++ f.a) f.b rfl (by decide)).trans
      (extract_low (op ++ f.variant ++ f.d) f.a rfl))))
  have h4 : (f.pack op).extractLsb' 18 6 = f.b :=
    ((extract_above 18 6 (op ++ f.variant ++ f.d ++ f.a ++ f.b ++ f.rsv) f.imm rfl (by decide)).trans
      ((extract_above 2 6 (op ++ f.variant ++ f.d ++ f.a ++ f.b) f.rsv rfl (by decide)).trans
      (extract_low (op ++ f.variant ++ f.d ++ f.a) f.b rfl)))
  have h5 : (f.pack op).extractLsb' 16 2 = f.rsv :=
    ((extract_above 16 2 (op ++ f.variant ++ f.d ++ f.a ++ f.b ++ f.rsv) f.imm rfl (by decide)).trans
      (extract_low (op ++ f.variant ++ f.d ++ f.a ++ f.b) f.rsv rfl))
  have h6 : (f.pack op).extractLsb' 0 16 = f.imm :=
    (extract_low (op ++ f.variant ++ f.d ++ f.a ++ f.b ++ f.rsv) f.imm rfl)
  simp only [KR.unpack, h1, h2, h3, h4, h5, h6]
@[simp] theorem KR.opcodeOf_pack (op : BitVec 8) (f : KR) : opcodeOf (f.pack op) = op :=
  ((extract_above 40 8 (op ++ f.variant ++ f.d ++ f.a ++ f.b ++ f.rsv) f.imm rfl (by decide)).trans
      ((extract_above 24 8 (op ++ f.variant ++ f.d ++ f.a ++ f.b) f.rsv rfl (by decide)).trans
      ((extract_above 22 8 (op ++ f.variant ++ f.d ++ f.a) f.b rfl (by decide)).trans
      ((extract_above 16 8 (op ++ f.variant ++ f.d) f.a rfl (by decide)).trans
      ((extract_above 10 8 (op ++ f.variant) f.d rfl (by decide)).trans
      ((extract_above 4 8 (op) f.variant rfl (by decide)).trans
      (extract_whole op)))))))
theorem KR.pack_unpack (w : Field) : (KR.unpack w).pack (opcodeOf w) = w := by
  unfold KR.pack KR.unpack opcodeOf
  have j1 : w.extractLsb' 40 8 ++ w.extractLsb' 36 4 = w.extractLsb' 36 12 := extract_join w 36 8 4
  have j2 : w.extractLsb' 36 12 ++ w.extractLsb' 30 6 = w.extractLsb' 30 18 := extract_join w 30 12 6
  have j3 : w.extractLsb' 30 18 ++ w.extractLsb' 24 6 = w.extractLsb' 24 24 := extract_join w 24 18 6
  have j4 : w.extractLsb' 24 24 ++ w.extractLsb' 18 6 = w.extractLsb' 18 30 := extract_join w 18 24 6
  have j5 : w.extractLsb' 18 30 ++ w.extractLsb' 16 2 = w.extractLsb' 16 32 := extract_join w 16 30 2
  have j6 : w.extractLsb' 16 32 ++ w.extractLsb' 0 16 = w.extractLsb' 0 48 := extract_join w 0 32 16
  exact ((congrArg (· ++ w.extractLsb' 0 16) ((congrArg (· ++ w.extractLsb' 16 2) ((congrArg (· ++ w.extractLsb' 18 6) ((congrArg (· ++ w.extractLsb' 24 6) ((congrArg (· ++ w.extractLsb' 30 6) j1).trans j2)).trans j3)).trans j4)).trans j5)).trans j6).trans (extract_whole w)

@[simp] theorem R3.unpack_pack (op : BitVec 8) (f : R3) : R3.unpack (f.pack op) = f := by
  have h1 : (f.pack op).extractLsb' 36 4 = f.variant :=
    ((extract_above 36 4 (op ++ f.variant ++ f.pred ++ f.d ++ f.a ++ f.b) f.c rfl (by decide)).trans
      ((extract_above 29 4 (op ++ f.variant ++ f.pred ++ f.d ++ f.a) f.b rfl (by decide)).trans
      ((extract_above 21 4 (op ++ f.variant ++ f.pred ++ f.d) f.a rfl (by decide)).trans
      ((extract_above 13 4 (op ++ f.variant ++ f.pred) f.d rfl (by decide)).trans
      ((extract_above 5 4 (op ++ f.variant) f.pred rfl (by decide)).trans
      (extract_low (op) f.variant rfl))))))
  have h2 : (f.pack op).extractLsb' 31 5 = f.pred :=
    ((extract_above 31 5 (op ++ f.variant ++ f.pred ++ f.d ++ f.a ++ f.b) f.c rfl (by decide)).trans
      ((extract_above 24 5 (op ++ f.variant ++ f.pred ++ f.d ++ f.a) f.b rfl (by decide)).trans
      ((extract_above 16 5 (op ++ f.variant ++ f.pred ++ f.d) f.a rfl (by decide)).trans
      ((extract_above 8 5 (op ++ f.variant ++ f.pred) f.d rfl (by decide)).trans
      (extract_low (op ++ f.variant) f.pred rfl)))))
  have h3 : (f.pack op).extractLsb' 23 8 = f.d :=
    ((extract_above 23 8 (op ++ f.variant ++ f.pred ++ f.d ++ f.a ++ f.b) f.c rfl (by decide)).trans
      ((extract_above 16 8 (op ++ f.variant ++ f.pred ++ f.d ++ f.a) f.b rfl (by decide)).trans
      ((extract_above 8 8 (op ++ f.variant ++ f.pred ++ f.d) f.a rfl (by decide)).trans
      (extract_low (op ++ f.variant ++ f.pred) f.d rfl))))
  have h4 : (f.pack op).extractLsb' 15 8 = f.a :=
    ((extract_above 15 8 (op ++ f.variant ++ f.pred ++ f.d ++ f.a ++ f.b) f.c rfl (by decide)).trans
      ((extract_above 8 8 (op ++ f.variant ++ f.pred ++ f.d ++ f.a) f.b rfl (by decide)).trans
      (extract_low (op ++ f.variant ++ f.pred ++ f.d) f.a rfl)))
  have h5 : (f.pack op).extractLsb' 7 8 = f.b :=
    ((extract_above 7 8 (op ++ f.variant ++ f.pred ++ f.d ++ f.a ++ f.b) f.c rfl (by decide)).trans
      (extract_low (op ++ f.variant ++ f.pred ++ f.d ++ f.a) f.b rfl))
  have h6 : (f.pack op).extractLsb' 0 7 = f.c :=
    (extract_low (op ++ f.variant ++ f.pred ++ f.d ++ f.a ++ f.b) f.c rfl)
  simp only [R3.unpack, h1, h2, h3, h4, h5, h6]
@[simp] theorem R3.opcodeOf_pack (op : BitVec 8) (f : R3) : opcodeOf (f.pack op) = op :=
  ((extract_above 40 8 (op ++ f.variant ++ f.pred ++ f.d ++ f.a ++ f.b) f.c rfl (by decide)).trans
      ((extract_above 33 8 (op ++ f.variant ++ f.pred ++ f.d ++ f.a) f.b rfl (by decide)).trans
      ((extract_above 25 8 (op ++ f.variant ++ f.pred ++ f.d) f.a rfl (by decide)).trans
      ((extract_above 17 8 (op ++ f.variant ++ f.pred) f.d rfl (by decide)).trans
      ((extract_above 9 8 (op ++ f.variant) f.pred rfl (by decide)).trans
      ((extract_above 4 8 (op) f.variant rfl (by decide)).trans
      (extract_whole op)))))))
theorem R3.pack_unpack (w : Field) : (R3.unpack w).pack (opcodeOf w) = w := by
  unfold R3.pack R3.unpack opcodeOf
  have j1 : w.extractLsb' 40 8 ++ w.extractLsb' 36 4 = w.extractLsb' 36 12 := extract_join w 36 8 4
  have j2 : w.extractLsb' 36 12 ++ w.extractLsb' 31 5 = w.extractLsb' 31 17 := extract_join w 31 12 5
  have j3 : w.extractLsb' 31 17 ++ w.extractLsb' 23 8 = w.extractLsb' 23 25 := extract_join w 23 17 8
  have j4 : w.extractLsb' 23 25 ++ w.extractLsb' 15 8 = w.extractLsb' 15 33 := extract_join w 15 25 8
  have j5 : w.extractLsb' 15 33 ++ w.extractLsb' 7 8 = w.extractLsb' 7 41 := extract_join w 7 33 8
  have j6 : w.extractLsb' 7 41 ++ w.extractLsb' 0 7 = w.extractLsb' 0 48 := extract_join w 0 41 7
  exact ((congrArg (· ++ w.extractLsb' 0 7) ((congrArg (· ++ w.extractLsb' 7 8) ((congrArg (· ++ w.extractLsb' 15 8) ((congrArg (· ++ w.extractLsb' 23 8) ((congrArg (· ++ w.extractLsb' 31 5) j1).trans j2)).trans j3)).trans j4)).trans j5)).trans j6).trans (extract_whole w)

@[simp] theorem SI.unpack_pack (op : BitVec 8) (f : SI) : SI.unpack (f.pack op) = f := by
  have h1 : (f.pack op).extractLsb' 38 2 = f.variant :=
    ((extract_above 38 2 (op ++ f.variant ++ f.d) f.imm rfl (by decide)).trans
      ((extract_above 6 2 (op ++ f.variant) f.d rfl (by decide)).trans
      (extract_low (op) f.variant rfl)))
  have h2 : (f.pack op).extractLsb' 32 6 = f.d :=
    ((extract_above 32 6 (op ++ f.variant ++ f.d) f.imm rfl (by decide)).trans
      (extract_low (op ++ f.variant) f.d rfl))
  have h3 : (f.pack op).extractLsb' 0 32 = f.imm :=
    (extract_low (op ++ f.variant ++ f.d) f.imm rfl)
  simp only [SI.unpack, h1, h2, h3]
@[simp] theorem SI.opcodeOf_pack (op : BitVec 8) (f : SI) : opcodeOf (f.pack op) = op :=
  ((extract_above 40 8 (op ++ f.variant ++ f.d) f.imm rfl (by decide)).trans
      ((extract_above 8 8 (op ++ f.variant) f.d rfl (by decide)).trans
      ((extract_above 2 8 (op) f.variant rfl (by decide)).trans
      (extract_whole op))))
theorem SI.pack_unpack (w : Field) : (SI.unpack w).pack (opcodeOf w) = w := by
  unfold SI.pack SI.unpack opcodeOf
  have j1 : w.extractLsb' 40 8 ++ w.extractLsb' 38 2 = w.extractLsb' 38 10 := extract_join w 38 8 2
  have j2 : w.extractLsb' 38 10 ++ w.extractLsb' 32 6 = w.extractLsb' 32 16 := extract_join w 32 10 6
  have j3 : w.extractLsb' 32 16 ++ w.extractLsb' 0 32 = w.extractLsb' 0 48 := extract_join w 0 16 32
  exact ((congrArg (· ++ w.extractLsb' 0 32) ((congrArg (· ++ w.extractLsb' 32 6) j1).trans j2)).trans j3).trans (extract_whole w)

@[simp] theorem VI.unpack_pack (op : BitVec 8) (f : VI) : VI.unpack (f.pack op) = f := by
  have h1 : (f.pack op).extractLsb' 36 4 = f.variant :=
    ((extract_above 36 4 (op ++ f.variant ++ f.pred ++ f.d ++ f.a) f.imm rfl (by decide)).trans
      ((extract_above 20 4 (op ++ f.variant ++ f.pred ++ f.d) f.a rfl (by decide)).trans
      ((extract_above 12 4 (op ++ f.variant ++ f.pred) f.d rfl (by decide)).trans
      ((extract_above 5 4 (op ++ f.variant) f.pred rfl (by decide)).trans
      (extract_low (op) f.variant rfl)))))
  have h2 : (f.pack op).extractLsb' 31 5 = f.pred :=
    ((extract_above 31 5 (op ++ f.variant ++ f.pred ++ f.d ++ f.a) f.imm rfl (by decide)).trans
      ((extract_above 15 5 (op ++ f.variant ++ f.pred ++ f.d) f.a rfl (by decide)).trans
      ((extract_above 7 5 (op ++ f.variant ++ f.pred) f.d rfl (by decide)).trans
      (extract_low (op ++ f.variant) f.pred rfl))))
  have h3 : (f.pack op).extractLsb' 24 7 = f.d :=
    ((extract_above 24 7 (op ++ f.variant ++ f.pred ++ f.d ++ f.a) f.imm rfl (by decide)).trans
      ((extract_above 8 7 (op ++ f.variant ++ f.pred ++ f.d) f.a rfl (by decide)).trans
      (extract_low (op ++ f.variant ++ f.pred) f.d rfl)))
  have h4 : (f.pack op).extractLsb' 16 8 = f.a :=
    ((extract_above 16 8 (op ++ f.variant ++ f.pred ++ f.d ++ f.a) f.imm rfl (by decide)).trans
      (extract_low (op ++ f.variant ++ f.pred ++ f.d) f.a rfl))
  have h5 : (f.pack op).extractLsb' 0 16 = f.imm :=
    (extract_low (op ++ f.variant ++ f.pred ++ f.d ++ f.a) f.imm rfl)
  simp only [VI.unpack, h1, h2, h3, h4, h5]
@[simp] theorem VI.opcodeOf_pack (op : BitVec 8) (f : VI) : opcodeOf (f.pack op) = op :=
  ((extract_above 40 8 (op ++ f.variant ++ f.pred ++ f.d ++ f.a) f.imm rfl (by decide)).trans
      ((extract_above 24 8 (op ++ f.variant ++ f.pred ++ f.d) f.a rfl (by decide)).trans
      ((extract_above 16 8 (op ++ f.variant ++ f.pred) f.d rfl (by decide)).trans
      ((extract_above 9 8 (op ++ f.variant) f.pred rfl (by decide)).trans
      ((extract_above 4 8 (op) f.variant rfl (by decide)).trans
      (extract_whole op))))))
theorem VI.pack_unpack (w : Field) : (VI.unpack w).pack (opcodeOf w) = w := by
  unfold VI.pack VI.unpack opcodeOf
  have j1 : w.extractLsb' 40 8 ++ w.extractLsb' 36 4 = w.extractLsb' 36 12 := extract_join w 36 8 4
  have j2 : w.extractLsb' 36 12 ++ w.extractLsb' 31 5 = w.extractLsb' 31 17 := extract_join w 31 12 5
  have j3 : w.extractLsb' 31 17 ++ w.extractLsb' 24 7 = w.extractLsb' 24 24 := extract_join w 24 17 7
  have j4 : w.extractLsb' 24 24 ++ w.extractLsb' 16 8 = w.extractLsb' 16 32 := extract_join w 16 24 8
  have j5 : w.extractLsb' 16 32 ++ w.extractLsb' 0 16 = w.extractLsb' 0 48 := extract_join w 0 32 16
  exact ((congrArg (· ++ w.extractLsb' 0 16) ((congrArg (· ++ w.extractLsb' 16 8) ((congrArg (· ++ w.extractLsb' 24 7) ((congrArg (· ++ w.extractLsb' 31 5) j1).trans j2)).trans j3)).trans j4)).trans j5).trans (extract_whole w)

@[simp] theorem VC.unpack_pack (op : BitVec 8) (f : VC) : VC.unpack (f.pack op) = f := by
  have h1 : (f.pack op).extractLsb' 39 1 = f.sat :=
    ((extract_above 39 1 (op ++ f.sat ++ f.fin ++ f.blk ++ f.pred ++ f.d ++ f.a ++ f.sc ++ f.tgt) f.src rfl (by decide)).trans
      ((extract_above 34 1 (op ++ f.sat ++ f.fin ++ f.blk ++ f.pred ++ f.d ++ f.a ++ f.sc) f.tgt rfl (by decide)).trans
      ((extract_above 29 1 (op ++ f.sat ++ f.fin ++ f.blk ++ f.pred ++ f.d ++ f.a) f.sc rfl (by decide)).trans
      ((extract_above 22 1 (op ++ f.sat ++ f.fin ++ f.blk ++ f.pred ++ f.d) f.a rfl (by decide)).trans
      ((extract_above 15 1 (op ++ f.sat ++ f.fin ++ f.blk ++ f.pred) f.d rfl (by decide)).trans
      ((extract_above 8 1 (op ++ f.sat ++ f.fin ++ f.blk) f.pred rfl (by decide)).trans
      ((extract_above 3 1 (op ++ f.sat ++ f.fin) f.blk rfl (by decide)).trans
      ((extract_above 1 1 (op ++ f.sat) f.fin rfl (by decide)).trans
      (extract_low (op) f.sat rfl)))))))))
  have h2 : (f.pack op).extractLsb' 38 1 = f.fin :=
    ((extract_above 38 1 (op ++ f.sat ++ f.fin ++ f.blk ++ f.pred ++ f.d ++ f.a ++ f.sc ++ f.tgt) f.src rfl (by decide)).trans
      ((extract_above 33 1 (op ++ f.sat ++ f.fin ++ f.blk ++ f.pred ++ f.d ++ f.a ++ f.sc) f.tgt rfl (by decide)).trans
      ((extract_above 28 1 (op ++ f.sat ++ f.fin ++ f.blk ++ f.pred ++ f.d ++ f.a) f.sc rfl (by decide)).trans
      ((extract_above 21 1 (op ++ f.sat ++ f.fin ++ f.blk ++ f.pred ++ f.d) f.a rfl (by decide)).trans
      ((extract_above 14 1 (op ++ f.sat ++ f.fin ++ f.blk ++ f.pred) f.d rfl (by decide)).trans
      ((extract_above 7 1 (op ++ f.sat ++ f.fin ++ f.blk) f.pred rfl (by decide)).trans
      ((extract_above 2 1 (op ++ f.sat ++ f.fin) f.blk rfl (by decide)).trans
      (extract_low (op ++ f.sat) f.fin rfl))))))))
  have h3 : (f.pack op).extractLsb' 36 2 = f.blk :=
    ((extract_above 36 2 (op ++ f.sat ++ f.fin ++ f.blk ++ f.pred ++ f.d ++ f.a ++ f.sc ++ f.tgt) f.src rfl (by decide)).trans
      ((extract_above 31 2 (op ++ f.sat ++ f.fin ++ f.blk ++ f.pred ++ f.d ++ f.a ++ f.sc) f.tgt rfl (by decide)).trans
      ((extract_above 26 2 (op ++ f.sat ++ f.fin ++ f.blk ++ f.pred ++ f.d ++ f.a) f.sc rfl (by decide)).trans
      ((extract_above 19 2 (op ++ f.sat ++ f.fin ++ f.blk ++ f.pred ++ f.d) f.a rfl (by decide)).trans
      ((extract_above 12 2 (op ++ f.sat ++ f.fin ++ f.blk ++ f.pred) f.d rfl (by decide)).trans
      ((extract_above 5 2 (op ++ f.sat ++ f.fin ++ f.blk) f.pred rfl (by decide)).trans
      (extract_low (op ++ f.sat ++ f.fin) f.blk rfl)))))))
  have h4 : (f.pack op).extractLsb' 31 5 = f.pred :=
    ((extract_above 31 5 (op ++ f.sat ++ f.fin ++ f.blk ++ f.pred ++ f.d ++ f.a ++ f.sc ++ f.tgt) f.src rfl (by decide)).trans
      ((extract_above 26 5 (op ++ f.sat ++ f.fin ++ f.blk ++ f.pred ++ f.d ++ f.a ++ f.sc) f.tgt rfl (by decide)).trans
      ((extract_above 21 5 (op ++ f.sat ++ f.fin ++ f.blk ++ f.pred ++ f.d ++ f.a) f.sc rfl (by decide)).trans
      ((extract_above 14 5 (op ++ f.sat ++ f.fin ++ f.blk ++ f.pred ++ f.d) f.a rfl (by decide)).trans
      ((extract_above 7 5 (op ++ f.sat ++ f.fin ++ f.blk ++ f.pred) f.d rfl (by decide)).trans
      (extract_low (op ++ f.sat ++ f.fin ++ f.blk) f.pred rfl))))))
  have h5 : (f.pack op).extractLsb' 24 7 = f.d :=
    ((extract_above 24 7 (op ++ f.sat ++ f.fin ++ f.blk ++ f.pred ++ f.d ++ f.a ++ f.sc ++ f.tgt) f.src rfl (by decide)).trans
      ((extract_above 19 7 (op ++ f.sat ++ f.fin ++ f.blk ++ f.pred ++ f.d ++ f.a ++ f.sc) f.tgt rfl (by decide)).trans
      ((extract_above 14 7 (op ++ f.sat ++ f.fin ++ f.blk ++ f.pred ++ f.d ++ f.a) f.sc rfl (by decide)).trans
      ((extract_above 7 7 (op ++ f.sat ++ f.fin ++ f.blk ++ f.pred ++ f.d) f.a rfl (by decide)).trans
      (extract_low (op ++ f.sat ++ f.fin ++ f.blk ++ f.pred) f.d rfl)))))
  have h6 : (f.pack op).extractLsb' 17 7 = f.a :=
    ((extract_above 17 7 (op ++ f.sat ++ f.fin ++ f.blk ++ f.pred ++ f.d ++ f.a ++ f.sc ++ f.tgt) f.src rfl (by decide)).trans
      ((extract_above 12 7 (op ++ f.sat ++ f.fin ++ f.blk ++ f.pred ++ f.d ++ f.a ++ f.sc) f.tgt rfl (by decide)).trans
      ((extract_above 7 7 (op ++ f.sat ++ f.fin ++ f.blk ++ f.pred ++ f.d ++ f.a) f.sc rfl (by decide)).trans
      (extract_low (op ++ f.sat ++ f.fin ++ f.blk ++ f.pred ++ f.d) f.a rfl))))
  have h7 : (f.pack op).extractLsb' 10 7 = f.sc :=
    ((extract_above 10 7 (op ++ f.sat ++ f.fin ++ f.blk ++ f.pred ++ f.d ++ f.a ++ f.sc ++ f.tgt) f.src rfl (by decide)).trans
      ((extract_above 5 7 (op ++ f.sat ++ f.fin ++ f.blk ++ f.pred ++ f.d ++ f.a ++ f.sc) f.tgt rfl (by decide)).trans
      (extract_low (op ++ f.sat ++ f.fin ++ f.blk ++ f.pred ++ f.d ++ f.a) f.sc rfl)))
  have h8 : (f.pack op).extractLsb' 5 5 = f.tgt :=
    ((extract_above 5 5 (op ++ f.sat ++ f.fin ++ f.blk ++ f.pred ++ f.d ++ f.a ++ f.sc ++ f.tgt) f.src rfl (by decide)).trans
      (extract_low (op ++ f.sat ++ f.fin ++ f.blk ++ f.pred ++ f.d ++ f.a ++ f.sc) f.tgt rfl))
  have h9 : (f.pack op).extractLsb' 0 5 = f.src :=
    (extract_low (op ++ f.sat ++ f.fin ++ f.blk ++ f.pred ++ f.d ++ f.a ++ f.sc ++ f.tgt) f.src rfl)
  simp only [VC.unpack, h1, h2, h3, h4, h5, h6, h7, h8, h9]
@[simp] theorem VC.opcodeOf_pack (op : BitVec 8) (f : VC) : opcodeOf (f.pack op) = op :=
  ((extract_above 40 8 (op ++ f.sat ++ f.fin ++ f.blk ++ f.pred ++ f.d ++ f.a ++ f.sc ++ f.tgt) f.src rfl (by decide)).trans
      ((extract_above 35 8 (op ++ f.sat ++ f.fin ++ f.blk ++ f.pred ++ f.d ++ f.a ++ f.sc) f.tgt rfl (by decide)).trans
      ((extract_above 30 8 (op ++ f.sat ++ f.fin ++ f.blk ++ f.pred ++ f.d ++ f.a) f.sc rfl (by decide)).trans
      ((extract_above 23 8 (op ++ f.sat ++ f.fin ++ f.blk ++ f.pred ++ f.d) f.a rfl (by decide)).trans
      ((extract_above 16 8 (op ++ f.sat ++ f.fin ++ f.blk ++ f.pred) f.d rfl (by decide)).trans
      ((extract_above 9 8 (op ++ f.sat ++ f.fin ++ f.blk) f.pred rfl (by decide)).trans
      ((extract_above 4 8 (op ++ f.sat ++ f.fin) f.blk rfl (by decide)).trans
      ((extract_above 2 8 (op ++ f.sat) f.fin rfl (by decide)).trans
      ((extract_above 1 8 (op) f.sat rfl (by decide)).trans
      (extract_whole op))))))))))
theorem VC.pack_unpack (w : Field) : (VC.unpack w).pack (opcodeOf w) = w := by
  unfold VC.pack VC.unpack opcodeOf
  have j1 : w.extractLsb' 40 8 ++ w.extractLsb' 39 1 = w.extractLsb' 39 9 := extract_join w 39 8 1
  have j2 : w.extractLsb' 39 9 ++ w.extractLsb' 38 1 = w.extractLsb' 38 10 := extract_join w 38 9 1
  have j3 : w.extractLsb' 38 10 ++ w.extractLsb' 36 2 = w.extractLsb' 36 12 := extract_join w 36 10 2
  have j4 : w.extractLsb' 36 12 ++ w.extractLsb' 31 5 = w.extractLsb' 31 17 := extract_join w 31 12 5
  have j5 : w.extractLsb' 31 17 ++ w.extractLsb' 24 7 = w.extractLsb' 24 24 := extract_join w 24 17 7
  have j6 : w.extractLsb' 24 24 ++ w.extractLsb' 17 7 = w.extractLsb' 17 31 := extract_join w 17 24 7
  have j7 : w.extractLsb' 17 31 ++ w.extractLsb' 10 7 = w.extractLsb' 10 38 := extract_join w 10 31 7
  have j8 : w.extractLsb' 10 38 ++ w.extractLsb' 5 5 = w.extractLsb' 5 43 := extract_join w 5 38 5
  have j9 : w.extractLsb' 5 43 ++ w.extractLsb' 0 5 = w.extractLsb' 0 48 := extract_join w 0 43 5
  exact ((congrArg (· ++ w.extractLsb' 0 5) ((congrArg (· ++ w.extractLsb' 5 5) ((congrArg (· ++ w.extractLsb' 10 7) ((congrArg (· ++ w.extractLsb' 17 7) ((congrArg (· ++ w.extractLsb' 24 7) ((congrArg (· ++ w.extractLsb' 31 5) ((congrArg (· ++ w.extractLsb' 36 2) ((congrArg (· ++ w.extractLsb' 38 1) j1).trans j2)).trans j3)).trans j4)).trans j5)).trans j6)).trans j7)).trans j8)).trans j9).trans (extract_whole w)

@[simp] theorem FR.unpack_pack (op : BitVec 8) (f : FR) : FR.unpack (f.pack op) = f := by
  have h1 : (f.pack op).extractLsb' 36 4 = f.variant :=
    ((extract_above 36 4 (op ++ f.variant ++ f.pred ++ f.d ++ f.a ++ f.b ++ f.rsv) f.n rfl (by decide)).trans
      ((extract_above 30 4 (op ++ f.variant ++ f.pred ++ f.d ++ f.a ++ f.b) f.rsv rfl (by decide)).trans
      ((extract_above 26 4 (op ++ f.variant ++ f.pred ++ f.d ++ f.a) f.b rfl (by decide)).trans
      ((extract_above 19 4 (op ++ f.variant ++ f.pred ++ f.d) f.a rfl (by decide)).trans
      ((extract_above 12 4 (op ++ f.variant ++ f.pred) f.d rfl (by decide)).trans
      ((extract_above 5 4 (op ++ f.variant) f.pred rfl (by decide)).trans
      (extract_low (op) f.variant rfl)))))))
  have h2 : (f.pack op).extractLsb' 31 5 = f.pred :=
    ((extract_above 31 5 (op ++ f.variant ++ f.pred ++ f.d ++ f.a ++ f.b ++ f.rsv) f.n rfl (by decide)).trans
      ((extract_above 25 5 (op ++ f.variant ++ f.pred ++ f.d ++ f.a ++ f.b) f.rsv rfl (by decide)).trans
      ((extract_above 21 5 (op ++ f.variant ++ f.pred ++ f.d ++ f.a) f.b rfl (by decide)).trans
      ((extract_above 14 5 (op ++ f.variant ++ f.pred ++ f.d) f.a rfl (by decide)).trans
      ((extract_above 7 5 (op ++ f.variant ++ f.pred) f.d rfl (by decide)).trans
      (extract_low (op ++ f.variant) f.pred rfl))))))
  have h3 : (f.pack op).extractLsb' 24 7 = f.d :=
    ((extract_above 24 7 (op ++ f.variant ++ f.pred ++ f.d ++ f.a ++ f.b ++ f.rsv) f.n rfl (by decide)).trans
      ((extract_above 18 7 (op ++ f.variant ++ f.pred ++ f.d ++ f.a ++ f.b) f.rsv rfl (by decide)).trans
      ((extract_above 14 7 (op ++ f.variant ++ f.pred ++ f.d ++ f.a) f.b rfl (by decide)).trans
      ((extract_above 7 7 (op ++ f.variant ++ f.pred ++ f.d) f.a rfl (by decide)).trans
      (extract_low (op ++ f.variant ++ f.pred) f.d rfl)))))
  have h4 : (f.pack op).extractLsb' 17 7 = f.a :=
    ((extract_above 17 7 (op ++ f.variant ++ f.pred ++ f.d ++ f.a ++ f.b ++ f.rsv) f.n rfl (by decide)).trans
      ((extract_above 11 7 (op ++ f.variant ++ f.pred ++ f.d ++ f.a ++ f.b) f.rsv rfl (by decide)).trans
      ((extract_above 7 7 (op ++ f.variant ++ f.pred ++ f.d ++ f.a) f.b rfl (by decide)).trans
      (extract_low (op ++ f.variant ++ f.pred ++ f.d) f.a rfl))))
  have h5 : (f.pack op).extractLsb' 10 7 = f.b :=
    ((extract_above 10 7 (op ++ f.variant ++ f.pred ++ f.d ++ f.a ++ f.b ++ f.rsv) f.n rfl (by decide)).trans
      ((extract_above 4 7 (op ++ f.variant ++ f.pred ++ f.d ++ f.a ++ f.b) f.rsv rfl (by decide)).trans
      (extract_low (op ++ f.variant ++ f.pred ++ f.d ++ f.a) f.b rfl)))
  have h6 : (f.pack op).extractLsb' 6 4 = f.rsv :=
    ((extract_above 6 4 (op ++ f.variant ++ f.pred ++ f.d ++ f.a ++ f.b ++ f.rsv) f.n rfl (by decide)).trans
      (extract_low (op ++ f.variant ++ f.pred ++ f.d ++ f.a ++ f.b) f.rsv rfl))
  have h7 : (f.pack op).extractLsb' 0 6 = f.n :=
    (extract_low (op ++ f.variant ++ f.pred ++ f.d ++ f.a ++ f.b ++ f.rsv) f.n rfl)
  simp only [FR.unpack, h1, h2, h3, h4, h5, h6, h7]
@[simp] theorem FR.opcodeOf_pack (op : BitVec 8) (f : FR) : opcodeOf (f.pack op) = op :=
  ((extract_above 40 8 (op ++ f.variant ++ f.pred ++ f.d ++ f.a ++ f.b ++ f.rsv) f.n rfl (by decide)).trans
      ((extract_above 34 8 (op ++ f.variant ++ f.pred ++ f.d ++ f.a ++ f.b) f.rsv rfl (by decide)).trans
      ((extract_above 30 8 (op ++ f.variant ++ f.pred ++ f.d ++ f.a) f.b rfl (by decide)).trans
      ((extract_above 23 8 (op ++ f.variant ++ f.pred ++ f.d) f.a rfl (by decide)).trans
      ((extract_above 16 8 (op ++ f.variant ++ f.pred) f.d rfl (by decide)).trans
      ((extract_above 9 8 (op ++ f.variant) f.pred rfl (by decide)).trans
      ((extract_above 4 8 (op) f.variant rfl (by decide)).trans
      (extract_whole op))))))))
theorem FR.pack_unpack (w : Field) : (FR.unpack w).pack (opcodeOf w) = w := by
  unfold FR.pack FR.unpack opcodeOf
  have j1 : w.extractLsb' 40 8 ++ w.extractLsb' 36 4 = w.extractLsb' 36 12 := extract_join w 36 8 4
  have j2 : w.extractLsb' 36 12 ++ w.extractLsb' 31 5 = w.extractLsb' 31 17 := extract_join w 31 12 5
  have j3 : w.extractLsb' 31 17 ++ w.extractLsb' 24 7 = w.extractLsb' 24 24 := extract_join w 24 17 7
  have j4 : w.extractLsb' 24 24 ++ w.extractLsb' 17 7 = w.extractLsb' 17 31 := extract_join w 17 24 7
  have j5 : w.extractLsb' 17 31 ++ w.extractLsb' 10 7 = w.extractLsb' 10 38 := extract_join w 10 31 7
  have j6 : w.extractLsb' 10 38 ++ w.extractLsb' 6 4 = w.extractLsb' 6 42 := extract_join w 6 38 4
  have j7 : w.extractLsb' 6 42 ++ w.extractLsb' 0 6 = w.extractLsb' 0 48 := extract_join w 0 42 6
  exact ((congrArg (· ++ w.extractLsb' 0 6) ((congrArg (· ++ w.extractLsb' 6 4) ((congrArg (· ++ w.extractLsb' 10 7) ((congrArg (· ++ w.extractLsb' 17 7) ((congrArg (· ++ w.extractLsb' 24 7) ((congrArg (· ++ w.extractLsb' 31 5) j1).trans j2)).trans j3)).trans j4)).trans j5)).trans j6)).trans j7).trans (extract_whole w)

@[simp] theorem MR.unpack_pack (op : BitVec 8) (f : MR) : MR.unpack (f.pack op) = f := by
  have h1 : (f.pack op).extractLsb' 36 4 = f.variant :=
    ((extract_above 36 4 (op ++ f.variant ++ f.ra ++ f.rb ++ f.sa ++ f.sb) f.imm rfl (by decide)).trans
      ((extract_above 18 4 (op ++ f.variant ++ f.ra ++ f.rb ++ f.sa) f.sb rfl (by decide)).trans
      ((extract_above 12 4 (op ++ f.variant ++ f.ra ++ f.rb) f.sa rfl (by decide)).trans
      ((extract_above 6 4 (op ++ f.variant ++ f.ra) f.rb rfl (by decide)).trans
      ((extract_above 3 4 (op ++ f.variant) f.ra rfl (by decide)).trans
      (extract_low (op) f.variant rfl))))))
  have h2 : (f.pack op).extractLsb' 33 3 = f.ra :=
    ((extract_above 33 3 (op ++ f.variant ++ f.ra ++ f.rb ++ f.sa ++ f.sb) f.imm rfl (by decide)).trans
      ((extract_above 15 3 (op ++ f.variant ++ f.ra ++ f.rb ++ f.sa) f.sb rfl (by decide)).trans
      ((extract_above 9 3 (op ++ f.variant ++ f.ra ++ f.rb) f.sa rfl (by decide)).trans
      ((extract_above 3 3 (op ++ f.variant ++ f.ra) f.rb rfl (by decide)).trans
      (extract_low (op ++ f.variant) f.ra rfl)))))
  have h3 : (f.pack op).extractLsb' 30 3 = f.rb :=
    ((extract_above 30 3 (op ++ f.variant ++ f.ra ++ f.rb ++ f.sa ++ f.sb) f.imm rfl (by decide)).trans
      ((extract_above 12 3 (op ++ f.variant ++ f.ra ++ f.rb ++ f.sa) f.sb rfl (by decide)).trans
      ((extract_above 6 3 (op ++ f.variant ++ f.ra ++ f.rb) f.sa rfl (by decide)).trans
      (extract_low (op ++ f.variant ++ f.ra) f.rb rfl))))
  have h4 : (f.pack op).extractLsb' 24 6 = f.sa :=
    ((extract_above 24 6 (op ++ f.variant ++ f.ra ++ f.rb ++ f.sa ++ f.sb) f.imm rfl (by decide)).trans
      ((extract_above 6 6 (op ++ f.variant ++ f.ra ++ f.rb ++ f.sa) f.sb rfl (by decide)).trans
      (extract_low (op ++ f.variant ++ f.ra ++ f.rb) f.sa rfl)))
  have h5 : (f.pack op).extractLsb' 18 6 = f.sb :=
    ((extract_above 18 6 (op ++ f.variant ++ f.ra ++ f.rb ++ f.sa ++ f.sb) f.imm rfl (by decide)).trans
      (extract_low (op ++ f.variant ++ f.ra ++ f.rb ++ f.sa) f.sb rfl))
  have h6 : (f.pack op).extractLsb' 0 18 = f.imm :=
    (extract_low (op ++ f.variant ++ f.ra ++ f.rb ++ f.sa ++ f.sb) f.imm rfl)
  simp only [MR.unpack, h1, h2, h3, h4, h5, h6]
@[simp] theorem MR.opcodeOf_pack (op : BitVec 8) (f : MR) : opcodeOf (f.pack op) = op :=
  ((extract_above 40 8 (op ++ f.variant ++ f.ra ++ f.rb ++ f.sa ++ f.sb) f.imm rfl (by decide)).trans
      ((extract_above 22 8 (op ++ f.variant ++ f.ra ++ f.rb ++ f.sa) f.sb rfl (by decide)).trans
      ((extract_above 16 8 (op ++ f.variant ++ f.ra ++ f.rb) f.sa rfl (by decide)).trans
      ((extract_above 10 8 (op ++ f.variant ++ f.ra) f.rb rfl (by decide)).trans
      ((extract_above 7 8 (op ++ f.variant) f.ra rfl (by decide)).trans
      ((extract_above 4 8 (op) f.variant rfl (by decide)).trans
      (extract_whole op)))))))
theorem MR.pack_unpack (w : Field) : (MR.unpack w).pack (opcodeOf w) = w := by
  unfold MR.pack MR.unpack opcodeOf
  have j1 : w.extractLsb' 40 8 ++ w.extractLsb' 36 4 = w.extractLsb' 36 12 := extract_join w 36 8 4
  have j2 : w.extractLsb' 36 12 ++ w.extractLsb' 33 3 = w.extractLsb' 33 15 := extract_join w 33 12 3
  have j3 : w.extractLsb' 33 15 ++ w.extractLsb' 30 3 = w.extractLsb' 30 18 := extract_join w 30 15 3
  have j4 : w.extractLsb' 30 18 ++ w.extractLsb' 24 6 = w.extractLsb' 24 24 := extract_join w 24 18 6
  have j5 : w.extractLsb' 24 24 ++ w.extractLsb' 18 6 = w.extractLsb' 18 30 := extract_join w 18 24 6
  have j6 : w.extractLsb' 18 30 ++ w.extractLsb' 0 18 = w.extractLsb' 0 48 := extract_join w 0 30 18
  exact ((congrArg (· ++ w.extractLsb' 0 18) ((congrArg (· ++ w.extractLsb' 18 6) ((congrArg (· ++ w.extractLsb' 24 6) ((congrArg (· ++ w.extractLsb' 30 3) ((congrArg (· ++ w.extractLsb' 33 3) j1).trans j2)).trans j3)).trans j4)).trans j5)).trans j6).trans (extract_whole w)

@[simp] theorem ML.unpack_pack (op : BitVec 8) (f : ML) : ML.unpack (f.pack op) = f := by
  have h1 : (f.pack op).extractLsb' 36 4 = f.variant :=
    ((extract_above 36 4 (op ++ f.variant ++ f.ra ++ f.sa ++ f.sb ++ f.rsv) f.imm rfl (by decide)).trans
      ((extract_above 16 4 (op ++ f.variant ++ f.ra ++ f.sa ++ f.sb) f.rsv rfl (by decide)).trans
      ((extract_above 15 4 (op ++ f.variant ++ f.ra ++ f.sa) f.sb rfl (by decide)).trans
      ((extract_above 9 4 (op ++ f.variant ++ f.ra) f.sa rfl (by decide)).trans
      ((extract_above 3 4 (op ++ f.variant) f.ra rfl (by decide)).trans
      (extract_low (op) f.variant rfl))))))
  have h2 : (f.pack op).extractLsb' 33 3 = f.ra :=
    ((extract_above 33 3 (op ++ f.variant ++ f.ra ++ f.sa ++ f.sb ++ f.rsv) f.imm rfl (by decide)).trans
      ((extract_above 13 3 (op ++ f.variant ++ f.ra ++ f.sa ++ f.sb) f.rsv rfl (by decide)).trans
      ((extract_above 12 3 (op ++ f.variant ++ f.ra ++ f.sa) f.sb rfl (by decide)).trans
      ((extract_above 6 3 (op ++ f.variant ++ f.ra) f.sa rfl (by decide)).trans
      (extract_low (op ++ f.variant) f.ra rfl)))))
  have h3 : (f.pack op).extractLsb' 27 6 = f.sa :=
    ((extract_above 27 6 (op ++ f.variant ++ f.ra ++ f.sa ++ f.sb ++ f.rsv) f.imm rfl (by decide)).trans
      ((extract_above 7 6 (op ++ f.variant ++ f.ra ++ f.sa ++ f.sb) f.rsv rfl (by decide)).trans
      ((extract_above 6 6 (op ++ f.variant ++ f.ra ++ f.sa) f.sb rfl (by decide)).trans
      (extract_low (op ++ f.variant ++ f.ra) f.sa rfl))))
  have h4 : (f.pack op).extractLsb' 21 6 = f.sb :=
    ((extract_above 21 6 (op ++ f.variant ++ f.ra ++ f.sa ++ f.sb ++ f.rsv) f.imm rfl (by decide)).trans
      ((extract_above 1 6 (op ++ f.variant ++ f.ra ++ f.sa ++ f.sb) f.rsv rfl (by decide)).trans
      (extract_low (op ++ f.variant ++ f.ra ++ f.sa) f.sb rfl)))
  have h5 : (f.pack op).extractLsb' 20 1 = f.rsv :=
    ((extract_above 20 1 (op ++ f.variant ++ f.ra ++ f.sa ++ f.sb ++ f.rsv) f.imm rfl (by decide)).trans
      (extract_low (op ++ f.variant ++ f.ra ++ f.sa ++ f.sb) f.rsv rfl))
  have h6 : (f.pack op).extractLsb' 0 20 = f.imm :=
    (extract_low (op ++ f.variant ++ f.ra ++ f.sa ++ f.sb ++ f.rsv) f.imm rfl)
  simp only [ML.unpack, h1, h2, h3, h4, h5, h6]
@[simp] theorem ML.opcodeOf_pack (op : BitVec 8) (f : ML) : opcodeOf (f.pack op) = op :=
  ((extract_above 40 8 (op ++ f.variant ++ f.ra ++ f.sa ++ f.sb ++ f.rsv) f.imm rfl (by decide)).trans
      ((extract_above 20 8 (op ++ f.variant ++ f.ra ++ f.sa ++ f.sb) f.rsv rfl (by decide)).trans
      ((extract_above 19 8 (op ++ f.variant ++ f.ra ++ f.sa) f.sb rfl (by decide)).trans
      ((extract_above 13 8 (op ++ f.variant ++ f.ra) f.sa rfl (by decide)).trans
      ((extract_above 7 8 (op ++ f.variant) f.ra rfl (by decide)).trans
      ((extract_above 4 8 (op) f.variant rfl (by decide)).trans
      (extract_whole op)))))))
theorem ML.pack_unpack (w : Field) : (ML.unpack w).pack (opcodeOf w) = w := by
  unfold ML.pack ML.unpack opcodeOf
  have j1 : w.extractLsb' 40 8 ++ w.extractLsb' 36 4 = w.extractLsb' 36 12 := extract_join w 36 8 4
  have j2 : w.extractLsb' 36 12 ++ w.extractLsb' 33 3 = w.extractLsb' 33 15 := extract_join w 33 12 3
  have j3 : w.extractLsb' 33 15 ++ w.extractLsb' 27 6 = w.extractLsb' 27 21 := extract_join w 27 15 6
  have j4 : w.extractLsb' 27 21 ++ w.extractLsb' 21 6 = w.extractLsb' 21 27 := extract_join w 21 21 6
  have j5 : w.extractLsb' 21 27 ++ w.extractLsb' 20 1 = w.extractLsb' 20 28 := extract_join w 20 27 1
  have j6 : w.extractLsb' 20 28 ++ w.extractLsb' 0 20 = w.extractLsb' 0 48 := extract_join w 0 28 20
  exact ((congrArg (· ++ w.extractLsb' 0 20) ((congrArg (· ++ w.extractLsb' 20 1) ((congrArg (· ++ w.extractLsb' 21 6) ((congrArg (· ++ w.extractLsb' 27 6) ((congrArg (· ++ w.extractLsb' 33 3) j1).trans j2)).trans j3)).trans j4)).trans j5)).trans j6).trans (extract_whole w)

@[simp] theorem LA.unpack_pack (op : BitVec 8) (f : LA) : LA.unpack (f.pack op) = f := by
  have h1 : (f.pack op).extractLsb' 36 4 = f.variant :=
    ((extract_above 36 4 (op ++ f.variant ++ f.pred ++ f.d ++ f.a ++ f.base) f.imm rfl (by decide)).trans
      ((extract_above 25 4 (op ++ f.variant ++ f.pred ++ f.d ++ f.a) f.base rfl (by decide)).trans
      ((extract_above 19 4 (op ++ f.variant ++ f.pred ++ f.d) f.a rfl (by decide)).trans
      ((extract_above 12 4 (op ++ f.variant ++ f.pred) f.d rfl (by decide)).trans
      ((extract_above 5 4 (op ++ f.variant) f.pred rfl (by decide)).trans
      (extract_low (op) f.variant rfl))))))
  have h2 : (f.pack op).extractLsb' 31 5 = f.pred :=
    ((extract_above 31 5 (op ++ f.variant ++ f.pred ++ f.d ++ f.a ++ f.base) f.imm rfl (by decide)).trans
      ((extract_above 20 5 (op ++ f.variant ++ f.pred ++ f.d ++ f.a) f.base rfl (by decide)).trans
      ((extract_above 14 5 (op ++ f.variant ++ f.pred ++ f.d) f.a rfl (by decide)).trans
      ((extract_above 7 5 (op ++ f.variant ++ f.pred) f.d rfl (by decide)).trans
      (extract_low (op ++ f.variant) f.pred rfl)))))
  have h3 : (f.pack op).extractLsb' 24 7 = f.d :=
    ((extract_above 24 7 (op ++ f.variant ++ f.pred ++ f.d ++ f.a ++ f.base) f.imm rfl (by decide)).trans
      ((extract_above 13 7 (op ++ f.variant ++ f.pred ++ f.d ++ f.a) f.base rfl (by decide)).trans
      ((extract_above 7 7 (op ++ f.variant ++ f.pred ++ f.d) f.a rfl (by decide)).trans
      (extract_low (op ++ f.variant ++ f.pred) f.d rfl))))
  have h4 : (f.pack op).extractLsb' 17 7 = f.a :=
    ((extract_above 17 7 (op ++ f.variant ++ f.pred ++ f.d ++ f.a ++ f.base) f.imm rfl (by decide)).trans
      ((extract_above 6 7 (op ++ f.variant ++ f.pred ++ f.d ++ f.a) f.base rfl (by decide)).trans
      (extract_low (op ++ f.variant ++ f.pred ++ f.d) f.a rfl)))
  have h5 : (f.pack op).extractLsb' 11 6 = f.base :=
    ((extract_above 11 6 (op ++ f.variant ++ f.pred ++ f.d ++ f.a ++ f.base) f.imm rfl (by decide)).trans
      (extract_low (op ++ f.variant ++ f.pred ++ f.d ++ f.a) f.base rfl))
  have h6 : (f.pack op).extractLsb' 0 11 = f.imm :=
    (extract_low (op ++ f.variant ++ f.pred ++ f.d ++ f.a ++ f.base) f.imm rfl)
  simp only [LA.unpack, h1, h2, h3, h4, h5, h6]
@[simp] theorem LA.opcodeOf_pack (op : BitVec 8) (f : LA) : opcodeOf (f.pack op) = op :=
  ((extract_above 40 8 (op ++ f.variant ++ f.pred ++ f.d ++ f.a ++ f.base) f.imm rfl (by decide)).trans
      ((extract_above 29 8 (op ++ f.variant ++ f.pred ++ f.d ++ f.a) f.base rfl (by decide)).trans
      ((extract_above 23 8 (op ++ f.variant ++ f.pred ++ f.d) f.a rfl (by decide)).trans
      ((extract_above 16 8 (op ++ f.variant ++ f.pred) f.d rfl (by decide)).trans
      ((extract_above 9 8 (op ++ f.variant) f.pred rfl (by decide)).trans
      ((extract_above 4 8 (op) f.variant rfl (by decide)).trans
      (extract_whole op)))))))
theorem LA.pack_unpack (w : Field) : (LA.unpack w).pack (opcodeOf w) = w := by
  unfold LA.pack LA.unpack opcodeOf
  have j1 : w.extractLsb' 40 8 ++ w.extractLsb' 36 4 = w.extractLsb' 36 12 := extract_join w 36 8 4
  have j2 : w.extractLsb' 36 12 ++ w.extractLsb' 31 5 = w.extractLsb' 31 17 := extract_join w 31 12 5
  have j3 : w.extractLsb' 31 17 ++ w.extractLsb' 24 7 = w.extractLsb' 24 24 := extract_join w 24 17 7
  have j4 : w.extractLsb' 24 24 ++ w.extractLsb' 17 7 = w.extractLsb' 17 31 := extract_join w 17 24 7
  have j5 : w.extractLsb' 17 31 ++ w.extractLsb' 11 6 = w.extractLsb' 11 37 := extract_join w 11 31 6
  have j6 : w.extractLsb' 11 37 ++ w.extractLsb' 0 11 = w.extractLsb' 0 48 := extract_join w 0 37 11
  exact ((congrArg (· ++ w.extractLsb' 0 11) ((congrArg (· ++ w.extractLsb' 11 6) ((congrArg (· ++ w.extractLsb' 17 7) ((congrArg (· ++ w.extractLsb' 24 7) ((congrArg (· ++ w.extractLsb' 31 5) j1).trans j2)).trans j3)).trans j4)).trans j5)).trans j6).trans (extract_whole w)

@[simp] theorem LT.unpack_pack (op : BitVec 8) (f : LT) : LT.unpack (f.pack op) = f := by
  have h1 : (f.pack op).extractLsb' 36 4 = f.variant :=
    ((extract_above 36 4 (op ++ f.variant ++ f.pred ++ f.d ++ f.base ++ f.buf) f.imm rfl (by decide)).trans
      ((extract_above 20 4 (op ++ f.variant ++ f.pred ++ f.d ++ f.base) f.buf rfl (by decide)).trans
      ((extract_above 18 4 (op ++ f.variant ++ f.pred ++ f.d) f.base rfl (by decide)).trans
      ((extract_above 12 4 (op ++ f.variant ++ f.pred) f.d rfl (by decide)).trans
      ((extract_above 5 4 (op ++ f.variant) f.pred rfl (by decide)).trans
      (extract_low (op) f.variant rfl))))))
  have h2 : (f.pack op).extractLsb' 31 5 = f.pred :=
    ((extract_above 31 5 (op ++ f.variant ++ f.pred ++ f.d ++ f.base ++ f.buf) f.imm rfl (by decide)).trans
      ((extract_above 15 5 (op ++ f.variant ++ f.pred ++ f.d ++ f.base) f.buf rfl (by decide)).trans
      ((extract_above 13 5 (op ++ f.variant ++ f.pred ++ f.d) f.base rfl (by decide)).trans
      ((extract_above 7 5 (op ++ f.variant ++ f.pred) f.d rfl (by decide)).trans
      (extract_low (op ++ f.variant) f.pred rfl)))))
  have h3 : (f.pack op).extractLsb' 24 7 = f.d :=
    ((extract_above 24 7 (op ++ f.variant ++ f.pred ++ f.d ++ f.base ++ f.buf) f.imm rfl (by decide)).trans
      ((extract_above 8 7 (op ++ f.variant ++ f.pred ++ f.d ++ f.base) f.buf rfl (by decide)).trans
      ((extract_above 6 7 (op ++ f.variant ++ f.pred ++ f.d) f.base rfl (by decide)).trans
      (extract_low (op ++ f.variant ++ f.pred) f.d rfl))))
  have h4 : (f.pack op).extractLsb' 18 6 = f.base :=
    ((extract_above 18 6 (op ++ f.variant ++ f.pred ++ f.d ++ f.base ++ f.buf) f.imm rfl (by decide)).trans
      ((extract_above 2 6 (op ++ f.variant ++ f.pred ++ f.d ++ f.base) f.buf rfl (by decide)).trans
      (extract_low (op ++ f.variant ++ f.pred ++ f.d) f.base rfl)))
  have h5 : (f.pack op).extractLsb' 16 2 = f.buf :=
    ((extract_above 16 2 (op ++ f.variant ++ f.pred ++ f.d ++ f.base ++ f.buf) f.imm rfl (by decide)).trans
      (extract_low (op ++ f.variant ++ f.pred ++ f.d ++ f.base) f.buf rfl))
  have h6 : (f.pack op).extractLsb' 0 16 = f.imm :=
    (extract_low (op ++ f.variant ++ f.pred ++ f.d ++ f.base ++ f.buf) f.imm rfl)
  simp only [LT.unpack, h1, h2, h3, h4, h5, h6]
@[simp] theorem LT.opcodeOf_pack (op : BitVec 8) (f : LT) : opcodeOf (f.pack op) = op :=
  ((extract_above 40 8 (op ++ f.variant ++ f.pred ++ f.d ++ f.base ++ f.buf) f.imm rfl (by decide)).trans
      ((extract_above 24 8 (op ++ f.variant ++ f.pred ++ f.d ++ f.base) f.buf rfl (by decide)).trans
      ((extract_above 22 8 (op ++ f.variant ++ f.pred ++ f.d) f.base rfl (by decide)).trans
      ((extract_above 16 8 (op ++ f.variant ++ f.pred) f.d rfl (by decide)).trans
      ((extract_above 9 8 (op ++ f.variant) f.pred rfl (by decide)).trans
      ((extract_above 4 8 (op) f.variant rfl (by decide)).trans
      (extract_whole op)))))))
theorem LT.pack_unpack (w : Field) : (LT.unpack w).pack (opcodeOf w) = w := by
  unfold LT.pack LT.unpack opcodeOf
  have j1 : w.extractLsb' 40 8 ++ w.extractLsb' 36 4 = w.extractLsb' 36 12 := extract_join w 36 8 4
  have j2 : w.extractLsb' 36 12 ++ w.extractLsb' 31 5 = w.extractLsb' 31 17 := extract_join w 31 12 5
  have j3 : w.extractLsb' 31 17 ++ w.extractLsb' 24 7 = w.extractLsb' 24 24 := extract_join w 24 17 7
  have j4 : w.extractLsb' 24 24 ++ w.extractLsb' 18 6 = w.extractLsb' 18 30 := extract_join w 18 24 6
  have j5 : w.extractLsb' 18 30 ++ w.extractLsb' 16 2 = w.extractLsb' 16 32 := extract_join w 16 30 2
  have j6 : w.extractLsb' 16 32 ++ w.extractLsb' 0 16 = w.extractLsb' 0 48 := extract_join w 0 32 16
  exact ((congrArg (· ++ w.extractLsb' 0 16) ((congrArg (· ++ w.extractLsb' 16 2) ((congrArg (· ++ w.extractLsb' 18 6) ((congrArg (· ++ w.extractLsb' 24 7) ((congrArg (· ++ w.extractLsb' 31 5) j1).trans j2)).trans j3)).trans j4)).trans j5)).trans j6).trans (extract_whole w)

@[simp] theorem XD.unpack_pack (op : BitVec 8) (f : XD) : XD.unpack (f.pack op) = f := by
  have h1 : (f.pack op).extractLsb' 36 4 = f.variant :=
    ((extract_above 36 4 (op ++ f.variant ++ f.pred ++ f.tok ++ f.sa ++ f.sb ++ f.sc ++ f.ra) f.rsv rfl (by decide)).trans
      ((extract_above 32 4 (op ++ f.variant ++ f.pred ++ f.tok ++ f.sa ++ f.sb ++ f.sc) f.ra rfl (by decide)).trans
      ((extract_above 29 4 (op ++ f.variant ++ f.pred ++ f.tok ++ f.sa ++ f.sb) f.sc rfl (by decide)).trans
      ((extract_above 23 4 (op ++ f.variant ++ f.pred ++ f.tok ++ f.sa) f.sb rfl (by decide)).trans
      ((extract_above 17 4 (op ++ f.variant ++ f.pred ++ f.tok) f.sa rfl (by decide)).trans
      ((extract_above 11 4 (op ++ f.variant ++ f.pred) f.tok rfl (by decide)).trans
      ((extract_above 5 4 (op ++ f.variant) f.pred rfl (by decide)).trans
      (extract_low (op) f.variant rfl))))))))
  have h2 : (f.pack op).extractLsb' 31 5 = f.pred :=
    ((extract_above 31 5 (op ++ f.variant ++ f.pred ++ f.tok ++ f.sa ++ f.sb ++ f.sc ++ f.ra) f.rsv rfl (by decide)).trans
      ((extract_above 27 5 (op ++ f.variant ++ f.pred ++ f.tok ++ f.sa ++ f.sb ++ f.sc) f.ra rfl (by decide)).trans
      ((extract_above 24 5 (op ++ f.variant ++ f.pred ++ f.tok ++ f.sa ++ f.sb) f.sc rfl (by decide)).trans
      ((extract_above 18 5 (op ++ f.variant ++ f.pred ++ f.tok ++ f.sa) f.sb rfl (by decide)).trans
      ((extract_above 12 5 (op ++ f.variant ++ f.pred ++ f.tok) f.sa rfl (by decide)).trans
      ((extract_above 6 5 (op ++ f.variant ++ f.pred) f.tok rfl (by decide)).trans
      (extract_low (op ++ f.variant) f.pred rfl)))))))
  have h3 : (f.pack op).extractLsb' 25 6 = f.tok :=
    ((extract_above 25 6 (op ++ f.variant ++ f.pred ++ f.tok ++ f.sa ++ f.sb ++ f.sc ++ f.ra) f.rsv rfl (by decide)).trans
      ((extract_above 21 6 (op ++ f.variant ++ f.pred ++ f.tok ++ f.sa ++ f.sb ++ f.sc) f.ra rfl (by decide)).trans
      ((extract_above 18 6 (op ++ f.variant ++ f.pred ++ f.tok ++ f.sa ++ f.sb) f.sc rfl (by decide)).trans
      ((extract_above 12 6 (op ++ f.variant ++ f.pred ++ f.tok ++ f.sa) f.sb rfl (by decide)).trans
      ((extract_above 6 6 (op ++ f.variant ++ f.pred ++ f.tok) f.sa rfl (by decide)).trans
      (extract_low (op ++ f.variant ++ f.pred) f.tok rfl))))))
  have h4 : (f.pack op).extractLsb' 19 6 = f.sa :=
    ((extract_above 19 6 (op ++ f.variant ++ f.pred ++ f.tok ++ f.sa ++ f.sb ++ f.sc ++ f.ra) f.rsv rfl (by decide)).trans
      ((extract_above 15 6 (op ++ f.variant ++ f.pred ++ f.tok ++ f.sa ++ f.sb ++ f.sc) f.ra rfl (by decide)).trans
      ((extract_above 12 6 (op ++ f.variant ++ f.pred ++ f.tok ++ f.sa ++ f.sb) f.sc rfl (by decide)).trans
      ((extract_above 6 6 (op ++ f.variant ++ f.pred ++ f.tok ++ f.sa) f.sb rfl (by decide)).trans
      (extract_low (op ++ f.variant ++ f.pred ++ f.tok) f.sa rfl)))))
  have h5 : (f.pack op).extractLsb' 13 6 = f.sb :=
    ((extract_above 13 6 (op ++ f.variant ++ f.pred ++ f.tok ++ f.sa ++ f.sb ++ f.sc ++ f.ra) f.rsv rfl (by decide)).trans
      ((extract_above 9 6 (op ++ f.variant ++ f.pred ++ f.tok ++ f.sa ++ f.sb ++ f.sc) f.ra rfl (by decide)).trans
      ((extract_above 6 6 (op ++ f.variant ++ f.pred ++ f.tok ++ f.sa ++ f.sb) f.sc rfl (by decide)).trans
      (extract_low (op ++ f.variant ++ f.pred ++ f.tok ++ f.sa) f.sb rfl))))
  have h6 : (f.pack op).extractLsb' 7 6 = f.sc :=
    ((extract_above 7 6 (op ++ f.variant ++ f.pred ++ f.tok ++ f.sa ++ f.sb ++ f.sc ++ f.ra) f.rsv rfl (by decide)).trans
      ((extract_above 3 6 (op ++ f.variant ++ f.pred ++ f.tok ++ f.sa ++ f.sb ++ f.sc) f.ra rfl (by decide)).trans
      (extract_low (op ++ f.variant ++ f.pred ++ f.tok ++ f.sa ++ f.sb) f.sc rfl)))
  have h7 : (f.pack op).extractLsb' 4 3 = f.ra :=
    ((extract_above 4 3 (op ++ f.variant ++ f.pred ++ f.tok ++ f.sa ++ f.sb ++ f.sc ++ f.ra) f.rsv rfl (by decide)).trans
      (extract_low (op ++ f.variant ++ f.pred ++ f.tok ++ f.sa ++ f.sb ++ f.sc) f.ra rfl))
  have h8 : (f.pack op).extractLsb' 0 4 = f.rsv :=
    (extract_low (op ++ f.variant ++ f.pred ++ f.tok ++ f.sa ++ f.sb ++ f.sc ++ f.ra) f.rsv rfl)
  simp only [XD.unpack, h1, h2, h3, h4, h5, h6, h7, h8]
@[simp] theorem XD.opcodeOf_pack (op : BitVec 8) (f : XD) : opcodeOf (f.pack op) = op :=
  ((extract_above 40 8 (op ++ f.variant ++ f.pred ++ f.tok ++ f.sa ++ f.sb ++ f.sc ++ f.ra) f.rsv rfl (by decide)).trans
      ((extract_above 36 8 (op ++ f.variant ++ f.pred ++ f.tok ++ f.sa ++ f.sb ++ f.sc) f.ra rfl (by decide)).trans
      ((extract_above 33 8 (op ++ f.variant ++ f.pred ++ f.tok ++ f.sa ++ f.sb) f.sc rfl (by decide)).trans
      ((extract_above 27 8 (op ++ f.variant ++ f.pred ++ f.tok ++ f.sa) f.sb rfl (by decide)).trans
      ((extract_above 21 8 (op ++ f.variant ++ f.pred ++ f.tok) f.sa rfl (by decide)).trans
      ((extract_above 15 8 (op ++ f.variant ++ f.pred) f.tok rfl (by decide)).trans
      ((extract_above 9 8 (op ++ f.variant) f.pred rfl (by decide)).trans
      ((extract_above 4 8 (op) f.variant rfl (by decide)).trans
      (extract_whole op)))))))))
theorem XD.pack_unpack (w : Field) : (XD.unpack w).pack (opcodeOf w) = w := by
  unfold XD.pack XD.unpack opcodeOf
  have j1 : w.extractLsb' 40 8 ++ w.extractLsb' 36 4 = w.extractLsb' 36 12 := extract_join w 36 8 4
  have j2 : w.extractLsb' 36 12 ++ w.extractLsb' 31 5 = w.extractLsb' 31 17 := extract_join w 31 12 5
  have j3 : w.extractLsb' 31 17 ++ w.extractLsb' 25 6 = w.extractLsb' 25 23 := extract_join w 25 17 6
  have j4 : w.extractLsb' 25 23 ++ w.extractLsb' 19 6 = w.extractLsb' 19 29 := extract_join w 19 23 6
  have j5 : w.extractLsb' 19 29 ++ w.extractLsb' 13 6 = w.extractLsb' 13 35 := extract_join w 13 29 6
  have j6 : w.extractLsb' 13 35 ++ w.extractLsb' 7 6 = w.extractLsb' 7 41 := extract_join w 7 35 6
  have j7 : w.extractLsb' 7 41 ++ w.extractLsb' 4 3 = w.extractLsb' 4 44 := extract_join w 4 41 3
  have j8 : w.extractLsb' 4 44 ++ w.extractLsb' 0 4 = w.extractLsb' 0 48 := extract_join w 0 44 4
  exact ((congrArg (· ++ w.extractLsb' 0 4) ((congrArg (· ++ w.extractLsb' 4 3) ((congrArg (· ++ w.extractLsb' 7 6) ((congrArg (· ++ w.extractLsb' 13 6) ((congrArg (· ++ w.extractLsb' 19 6) ((congrArg (· ++ w.extractLsb' 25 6) ((congrArg (· ++ w.extractLsb' 31 5) j1).trans j2)).trans j3)).trans j4)).trans j5)).trans j6)).trans j7)).trans j8).trans (extract_whole w)

@[simp] theorem HR.unpack_pack (op : BitVec 8) (f : HR) : HR.unpack (f.pack op) = f := by
  have h1 : (f.pack op).extractLsb' 36 4 = f.variant :=
    ((extract_above 36 4 (op ++ f.variant ++ f.pred ++ f.s ++ f.hd ++ f.ha ++ f.hb) f.imm rfl (by decide)).trans
      ((extract_above 23 4 (op ++ f.variant ++ f.pred ++ f.s ++ f.hd ++ f.ha) f.hb rfl (by decide)).trans
      ((extract_above 19 4 (op ++ f.variant ++ f.pred ++ f.s ++ f.hd) f.ha rfl (by decide)).trans
      ((extract_above 15 4 (op ++ f.variant ++ f.pred ++ f.s) f.hd rfl (by decide)).trans
      ((extract_above 11 4 (op ++ f.variant ++ f.pred) f.s rfl (by decide)).trans
      ((extract_above 5 4 (op ++ f.variant) f.pred rfl (by decide)).trans
      (extract_low (op) f.variant rfl)))))))
  have h2 : (f.pack op).extractLsb' 31 5 = f.pred :=
    ((extract_above 31 5 (op ++ f.variant ++ f.pred ++ f.s ++ f.hd ++ f.ha ++ f.hb) f.imm rfl (by decide)).trans
      ((extract_above 18 5 (op ++ f.variant ++ f.pred ++ f.s ++ f.hd ++ f.ha) f.hb rfl (by decide)).trans
      ((extract_above 14 5 (op ++ f.variant ++ f.pred ++ f.s ++ f.hd) f.ha rfl (by decide)).trans
      ((extract_above 10 5 (op ++ f.variant ++ f.pred ++ f.s) f.hd rfl (by decide)).trans
      ((extract_above 6 5 (op ++ f.variant ++ f.pred) f.s rfl (by decide)).trans
      (extract_low (op ++ f.variant) f.pred rfl))))))
  have h3 : (f.pack op).extractLsb' 25 6 = f.s :=
    ((extract_above 25 6 (op ++ f.variant ++ f.pred ++ f.s ++ f.hd ++ f.ha ++ f.hb) f.imm rfl (by decide)).trans
      ((extract_above 12 6 (op ++ f.variant ++ f.pred ++ f.s ++ f.hd ++ f.ha) f.hb rfl (by decide)).trans
      ((extract_above 8 6 (op ++ f.variant ++ f.pred ++ f.s ++ f.hd) f.ha rfl (by decide)).trans
      ((extract_above 4 6 (op ++ f.variant ++ f.pred ++ f.s) f.hd rfl (by decide)).trans
      (extract_low (op ++ f.variant ++ f.pred) f.s rfl)))))
  have h4 : (f.pack op).extractLsb' 21 4 = f.hd :=
    ((extract_above 21 4 (op ++ f.variant ++ f.pred ++ f.s ++ f.hd ++ f.ha ++ f.hb) f.imm rfl (by decide)).trans
      ((extract_above 8 4 (op ++ f.variant ++ f.pred ++ f.s ++ f.hd ++ f.ha) f.hb rfl (by decide)).trans
      ((extract_above 4 4 (op ++ f.variant ++ f.pred ++ f.s ++ f.hd) f.ha rfl (by decide)).trans
      (extract_low (op ++ f.variant ++ f.pred ++ f.s) f.hd rfl))))
  have h5 : (f.pack op).extractLsb' 17 4 = f.ha :=
    ((extract_above 17 4 (op ++ f.variant ++ f.pred ++ f.s ++ f.hd ++ f.ha ++ f.hb) f.imm rfl (by decide)).trans
      ((extract_above 4 4 (op ++ f.variant ++ f.pred ++ f.s ++ f.hd ++ f.ha) f.hb rfl (by decide)).trans
      (extract_low (op ++ f.variant ++ f.pred ++ f.s ++ f.hd) f.ha rfl)))
  have h6 : (f.pack op).extractLsb' 13 4 = f.hb :=
    ((extract_above 13 4 (op ++ f.variant ++ f.pred ++ f.s ++ f.hd ++ f.ha ++ f.hb) f.imm rfl (by decide)).trans
      (extract_low (op ++ f.variant ++ f.pred ++ f.s ++ f.hd ++ f.ha) f.hb rfl))
  have h7 : (f.pack op).extractLsb' 0 13 = f.imm :=
    (extract_low (op ++ f.variant ++ f.pred ++ f.s ++ f.hd ++ f.ha ++ f.hb) f.imm rfl)
  simp only [HR.unpack, h1, h2, h3, h4, h5, h6, h7]
@[simp] theorem HR.opcodeOf_pack (op : BitVec 8) (f : HR) : opcodeOf (f.pack op) = op :=
  ((extract_above 40 8 (op ++ f.variant ++ f.pred ++ f.s ++ f.hd ++ f.ha ++ f.hb) f.imm rfl (by decide)).trans
      ((extract_above 27 8 (op ++ f.variant ++ f.pred ++ f.s ++ f.hd ++ f.ha) f.hb rfl (by decide)).trans
      ((extract_above 23 8 (op ++ f.variant ++ f.pred ++ f.s ++ f.hd) f.ha rfl (by decide)).trans
      ((extract_above 19 8 (op ++ f.variant ++ f.pred ++ f.s) f.hd rfl (by decide)).trans
      ((extract_above 15 8 (op ++ f.variant ++ f.pred) f.s rfl (by decide)).trans
      ((extract_above 9 8 (op ++ f.variant) f.pred rfl (by decide)).trans
      ((extract_above 4 8 (op) f.variant rfl (by decide)).trans
      (extract_whole op))))))))
theorem HR.pack_unpack (w : Field) : (HR.unpack w).pack (opcodeOf w) = w := by
  unfold HR.pack HR.unpack opcodeOf
  have j1 : w.extractLsb' 40 8 ++ w.extractLsb' 36 4 = w.extractLsb' 36 12 := extract_join w 36 8 4
  have j2 : w.extractLsb' 36 12 ++ w.extractLsb' 31 5 = w.extractLsb' 31 17 := extract_join w 31 12 5
  have j3 : w.extractLsb' 31 17 ++ w.extractLsb' 25 6 = w.extractLsb' 25 23 := extract_join w 25 17 6
  have j4 : w.extractLsb' 25 23 ++ w.extractLsb' 21 4 = w.extractLsb' 21 27 := extract_join w 21 23 4
  have j5 : w.extractLsb' 21 27 ++ w.extractLsb' 17 4 = w.extractLsb' 17 31 := extract_join w 17 27 4
  have j6 : w.extractLsb' 17 31 ++ w.extractLsb' 13 4 = w.extractLsb' 13 35 := extract_join w 13 31 4
  have j7 : w.extractLsb' 13 35 ++ w.extractLsb' 0 13 = w.extractLsb' 0 48 := extract_join w 0 35 13
  exact ((congrArg (· ++ w.extractLsb' 0 13) ((congrArg (· ++ w.extractLsb' 13 4) ((congrArg (· ++ w.extractLsb' 17 4) ((congrArg (· ++ w.extractLsb' 21 4) ((congrArg (· ++ w.extractLsb' 25 6) ((congrArg (· ++ w.extractLsb' 31 5) j1).trans j2)).trans j3)).trans j4)).trans j5)).trans j6)).trans j7).trans (extract_whole w)

@[simp] theorem HQ.unpack_pack (op : BitVec 8) (f : HQ) : HQ.unpack (f.pack op) = f := by
  have h1 : (f.pack op).extractLsb' 36 4 = f.variant :=
    ((extract_above 36 4 (op ++ f.variant ++ f.pred ++ f.tok ++ f.sd ++ f.h ++ f.ra) f.imm rfl (by decide)).trans
      ((extract_above 24 4 (op ++ f.variant ++ f.pred ++ f.tok ++ f.sd ++ f.h) f.ra rfl (by decide)).trans
      ((extract_above 21 4 (op ++ f.variant ++ f.pred ++ f.tok ++ f.sd) f.h rfl (by decide)).trans
      ((extract_above 17 4 (op ++ f.variant ++ f.pred ++ f.tok) f.sd rfl (by decide)).trans
      ((extract_above 11 4 (op ++ f.variant ++ f.pred) f.tok rfl (by decide)).trans
      ((extract_above 5 4 (op ++ f.variant) f.pred rfl (by decide)).trans
      (extract_low (op) f.variant rfl)))))))
  have h2 : (f.pack op).extractLsb' 31 5 = f.pred :=
    ((extract_above 31 5 (op ++ f.variant ++ f.pred ++ f.tok ++ f.sd ++ f.h ++ f.ra) f.imm rfl (by decide)).trans
      ((extract_above 19 5 (op ++ f.variant ++ f.pred ++ f.tok ++ f.sd ++ f.h) f.ra rfl (by decide)).trans
      ((extract_above 16 5 (op ++ f.variant ++ f.pred ++ f.tok ++ f.sd) f.h rfl (by decide)).trans
      ((extract_above 12 5 (op ++ f.variant ++ f.pred ++ f.tok) f.sd rfl (by decide)).trans
      ((extract_above 6 5 (op ++ f.variant ++ f.pred) f.tok rfl (by decide)).trans
      (extract_low (op ++ f.variant) f.pred rfl))))))
  have h3 : (f.pack op).extractLsb' 25 6 = f.tok :=
    ((extract_above 25 6 (op ++ f.variant ++ f.pred ++ f.tok ++ f.sd ++ f.h ++ f.ra) f.imm rfl (by decide)).trans
      ((extract_above 13 6 (op ++ f.variant ++ f.pred ++ f.tok ++ f.sd ++ f.h) f.ra rfl (by decide)).trans
      ((extract_above 10 6 (op ++ f.variant ++ f.pred ++ f.tok ++ f.sd) f.h rfl (by decide)).trans
      ((extract_above 6 6 (op ++ f.variant ++ f.pred ++ f.tok) f.sd rfl (by decide)).trans
      (extract_low (op ++ f.variant ++ f.pred) f.tok rfl)))))
  have h4 : (f.pack op).extractLsb' 19 6 = f.sd :=
    ((extract_above 19 6 (op ++ f.variant ++ f.pred ++ f.tok ++ f.sd ++ f.h ++ f.ra) f.imm rfl (by decide)).trans
      ((extract_above 7 6 (op ++ f.variant ++ f.pred ++ f.tok ++ f.sd ++ f.h) f.ra rfl (by decide)).trans
      ((extract_above 4 6 (op ++ f.variant ++ f.pred ++ f.tok ++ f.sd) f.h rfl (by decide)).trans
      (extract_low (op ++ f.variant ++ f.pred ++ f.tok) f.sd rfl))))
  have h5 : (f.pack op).extractLsb' 15 4 = f.h :=
    ((extract_above 15 4 (op ++ f.variant ++ f.pred ++ f.tok ++ f.sd ++ f.h ++ f.ra) f.imm rfl (by decide)).trans
      ((extract_above 3 4 (op ++ f.variant ++ f.pred ++ f.tok ++ f.sd ++ f.h) f.ra rfl (by decide)).trans
      (extract_low (op ++ f.variant ++ f.pred ++ f.tok ++ f.sd) f.h rfl)))
  have h6 : (f.pack op).extractLsb' 12 3 = f.ra :=
    ((extract_above 12 3 (op ++ f.variant ++ f.pred ++ f.tok ++ f.sd ++ f.h ++ f.ra) f.imm rfl (by decide)).trans
      (extract_low (op ++ f.variant ++ f.pred ++ f.tok ++ f.sd ++ f.h) f.ra rfl))
  have h7 : (f.pack op).extractLsb' 0 12 = f.imm :=
    (extract_low (op ++ f.variant ++ f.pred ++ f.tok ++ f.sd ++ f.h ++ f.ra) f.imm rfl)
  simp only [HQ.unpack, h1, h2, h3, h4, h5, h6, h7]
@[simp] theorem HQ.opcodeOf_pack (op : BitVec 8) (f : HQ) : opcodeOf (f.pack op) = op :=
  ((extract_above 40 8 (op ++ f.variant ++ f.pred ++ f.tok ++ f.sd ++ f.h ++ f.ra) f.imm rfl (by decide)).trans
      ((extract_above 28 8 (op ++ f.variant ++ f.pred ++ f.tok ++ f.sd ++ f.h) f.ra rfl (by decide)).trans
      ((extract_above 25 8 (op ++ f.variant ++ f.pred ++ f.tok ++ f.sd) f.h rfl (by decide)).trans
      ((extract_above 21 8 (op ++ f.variant ++ f.pred ++ f.tok) f.sd rfl (by decide)).trans
      ((extract_above 15 8 (op ++ f.variant ++ f.pred) f.tok rfl (by decide)).trans
      ((extract_above 9 8 (op ++ f.variant) f.pred rfl (by decide)).trans
      ((extract_above 4 8 (op) f.variant rfl (by decide)).trans
      (extract_whole op))))))))
theorem HQ.pack_unpack (w : Field) : (HQ.unpack w).pack (opcodeOf w) = w := by
  unfold HQ.pack HQ.unpack opcodeOf
  have j1 : w.extractLsb' 40 8 ++ w.extractLsb' 36 4 = w.extractLsb' 36 12 := extract_join w 36 8 4
  have j2 : w.extractLsb' 36 12 ++ w.extractLsb' 31 5 = w.extractLsb' 31 17 := extract_join w 31 12 5
  have j3 : w.extractLsb' 31 17 ++ w.extractLsb' 25 6 = w.extractLsb' 25 23 := extract_join w 25 17 6
  have j4 : w.extractLsb' 25 23 ++ w.extractLsb' 19 6 = w.extractLsb' 19 29 := extract_join w 19 23 6
  have j5 : w.extractLsb' 19 29 ++ w.extractLsb' 15 4 = w.extractLsb' 15 33 := extract_join w 15 29 4
  have j6 : w.extractLsb' 15 33 ++ w.extractLsb' 12 3 = w.extractLsb' 12 36 := extract_join w 12 33 3
  have j7 : w.extractLsb' 12 36 ++ w.extractLsb' 0 12 = w.extractLsb' 0 48 := extract_join w 0 36 12
  exact ((congrArg (· ++ w.extractLsb' 0 12) ((congrArg (· ++ w.extractLsb' 12 3) ((congrArg (· ++ w.extractLsb' 15 4) ((congrArg (· ++ w.extractLsb' 19 6) ((congrArg (· ++ w.extractLsb' 25 6) ((congrArg (· ++ w.extractLsb' 31 5) j1).trans j2)).trans j3)).trans j4)).trans j5)).trans j6)).trans j7).trans (extract_whole w)

end Sys2Proof
end

