-- ==== Sys2Proof/Laws/Exec.lean ====
section
/-! SUPPORT. `exec` of each operation and event is its meaning, so that no proof unfolds the dispatch. -/

namespace Sys2Proof.Machine

@[simp] theorem exec_bra (f : KB) (s : State) :
    exec (.bra f) s = execBra f s := rfl
@[simp] theorem exec_brc (f : KB) (s : State) :
    exec (.brc f) s = execBrc f s := rfl
@[simp] theorem exec_brcN (f : KB) (s : State) :
    exec (.brcN f) s = execBrcN f s := rfl
@[simp] theorem exec_brdAny (f : KB) (s : State) :
    exec (.brdAny f) s = execBrdAny f s := rfl
@[simp] theorem exec_brdAll (f : KB) (s : State) :
    exec (.brdAll f) s = execBrdAll f s := rfl
@[simp] theorem exec_brdNone (f : KB) (s : State) :
    exec (.brdNone f) s = execBrdNone f s := rfl
@[simp] theorem exec_call (f : KB) (s : State) :
    exec (.call f) s = execCall f s := rfl
@[simp] theorem exec_ret (f : KR) (s : State) :
    exec (.ret f) s = execRet f s := rfl
@[simp] theorem exec_loop (f : KB) (s : State) :
    exec (.loop f) s = execLoop f s := rfl
@[simp] theorem exec_mark (f : KR) (s : State) :
    exec (.mark f) s = execMark f s := rfl
@[simp] theorem exec_join (f : KB) (s : State) :
    exec (.join f) s = execJoin f s := rfl
@[simp] theorem exec_exit (f : KB) (s : State) :
    exec (.exit f) s = execExit f s := rfl
@[simp] theorem exec_trap (f : KR) (s : State) :
    exec (.trap f) s = execTrap f s := rfl
@[simp] theorem exec_wait (f : KWait) (s : State) :
    exec (.wait f) s = execWait f s := rfl
@[simp] theorem exec_waitt (f : KWaitt) (s : State) :
    exec (.waitt f) s = execWaitt f s := rfl
@[simp] theorem exec_barw (f : KBarw) (s : State) :
    exec (.barw f) s = execBarw f s := rfl
@[simp] theorem exec_bara (f : KR) (s : State) :
    exec (.bara f) s = execBara f s := rfl
@[simp] theorem exec_csync (f : KR) (s : State) :
    exec (.csync f) s = execCsync f s := rfl
@[simp] theorem exec_fence (f : KR) (s : State) :
    exec (.fence f) s = execFence f s := rfl
@[simp] theorem exec_grow (f : KR) (s : State) :
    exec (.grow f) s = execGrow f s := rfl
@[simp] theorem exec_shrink (f : KR) (s : State) :
    exec (.shrink f) s = execShrink f s := rfl
@[simp] theorem exec_clkdiv (f : KR) (s : State) :
    exec (.clkdiv f) s = execClkdiv f s := rfl
@[simp] theorem exec_gust (f : KR) (s : State) :
    exec (.gust f) s = execGust f s := rfl
@[simp] theorem exec_gustrel (f : KR) (s : State) :
    exec (.gustrel f) s = execGustrel f s := rfl
@[simp] theorem exec_rdcnt (f : KR) (s : State) :
    exec (.rdcnt f) s = execRdcnt f s := rfl
@[simp] theorem exec_sysrd (f : KR) (s : State) :
    exec (.sysrd f) s = execSysrd f s := rfl
@[simp] theorem exec_syswr (f : KR) (s : State) :
    exec (.syswr f) s = execSyswr f s := rfl
@[simp] theorem exec_intreq (f : KR) (s : State) :
    exec (.intreq f) s = execIntreq f s := rfl
@[simp] theorem exec_dtinv (f : KR) (s : State) :
    exec (.dtinv f) s = execDtinv f s := rfl
@[simp] theorem exec_eret (f : KB) (s : State) :
    exec (.eret f) s = execEret f s := rfl
@[simp] theorem exec_freezeStop (f : KR) (s : State) :
    exec (.freezeStop f) s = execFreezeStop f s := rfl
@[simp] theorem exec_freezeResume (f : KR) (s : State) :
    exec (.freezeResume f) s = execFreezeResume f s := rfl
@[simp] theorem exec_freezeSave (f : KR) (s : State) :
    exec (.freezeSave f) s = execFreezeSave f s := rfl
@[simp] theorem exec_sAdd (f : R3) (s : State) :
    exec (.sAdd f) s = execSAdd f s := rfl
@[simp] theorem exec_sSub (f : R3) (s : State) :
    exec (.sSub f) s = execSSub f s := rfl
@[simp] theorem exec_sMul (f : R3) (s : State) :
    exec (.sMul f) s = execSMul f s := rfl
@[simp] theorem exec_mulh (f : R3) (s : State) :
    exec (.mulh f) s = execMulh f s := rfl
@[simp] theorem exec_sAnd (f : R3) (s : State) :
    exec (.sAnd f) s = execSAnd f s := rfl
@[simp] theorem exec_sOr (f : R3) (s : State) :
    exec (.sOr f) s = execSOr f s := rfl
@[simp] theorem exec_sXor (f : R3) (s : State) :
    exec (.sXor f) s = execSXor f s := rfl
@[simp] theorem exec_andn (f : R3) (s : State) :
    exec (.andn f) s = execAndn f s := rfl
@[simp] theorem exec_sShl (f : R3) (s : State) :
    exec (.sShl f) s = execSShl f s := rfl
@[simp] theorem exec_sShr (f : R3) (s : State) :
    exec (.sShr f) s = execSShr f s := rfl
@[simp] theorem exec_sSar (f : R3) (s : State) :
    exec (.sSar f) s = execSSar f s := rfl
@[simp] theorem exec_rotl (f : R3) (s : State) :
    exec (.rotl f) s = execRotl f s := rfl
@[simp] theorem exec_sMin (f : R3) (s : State) :
    exec (.sMin f) s = execSMin f s := rfl
@[simp] theorem exec_sMax (f : R3) (s : State) :
    exec (.sMax f) s = execSMax f s := rfl
@[simp] theorem exec_cmp (f : R3) (s : State) :
    exec (.cmp f) s = execCmp f s := rfl
@[simp] theorem exec_plog (f : R3) (s : State) :
    exec (.plog f) s = execPlog f s := rfl
@[simp] theorem exec_sSel (f : R3) (s : State) :
    exec (.sSel f) s = execSSel f s := rfl
@[simp] theorem exec_lea (f : R3) (s : State) :
    exec (.lea f) s = execLea f s := rfl
@[simp] theorem exec_bfx (f : R3) (s : State) :
    exec (.bfx f) s = execBfx f s := rfl
@[simp] theorem exec_bfi (f : R3) (s : State) :
    exec (.bfi f) s = execBfi f s := rfl
@[simp] theorem exec_clz (f : R3) (s : State) :
    exec (.clz f) s = execClz f s := rfl
@[simp] theorem exec_popc (f : R3) (s : State) :
    exec (.popc f) s = execPopc f s := rfl
@[simp] theorem exec_movv (f : R3) (s : State) :
    exec (.movv f) s = execMovv f s := rfl
@[simp] theorem exec_movq (f : R3) (s : State) :
    exec (.movq f) s = execMovq f s := rfl
@[simp] theorem exec_srd (f : R3) (s : State) :
    exec (.srd f) s = execSrd f s := rfl
@[simp] theorem exec_swr (f : R3) (s : State) :
    exec (.swr f) s = execSwr f s := rfl
@[simp] theorem exec_li (f : SI) (s : State) :
    exec (.li f) s = execLi f s := rfl
@[simp] theorem exec_liS (f : SI) (s : State) :
    exec (.liS f) s = execLiS f s := rfl
@[simp] theorem exec_liHi (f : SI) (s : State) :
    exec (.liHi f) s = execLiHi f s := rfl
@[simp] theorem exec_iadd (sl : VSlot) (f : R3) (s : State) :
    exec (.iadd sl f) s = execIadd sl f s := rfl
@[simp] theorem exec_isub (sl : VSlot) (f : R3) (s : State) :
    exec (.isub sl f) s = execIsub sl f s := rfl
@[simp] theorem exec_imul (sl : VSlot) (f : R3) (s : State) :
    exec (.imul sl f) s = execImul sl f s := rfl
@[simp] theorem exec_imad (sl : VSlot) (f : R3) (s : State) :
    exec (.imad sl f) s = execImad sl f s := rfl
@[simp] theorem exec_imin (sl : VSlot) (f : R3) (s : State) :
    exec (.imin sl f) s = execImin sl f s := rfl
@[simp] theorem exec_imax (sl : VSlot) (f : R3) (s : State) :
    exec (.imax sl f) s = execImax sl f s := rfl
@[simp] theorem exec_iabs (sl : VSlot) (f : R3) (s : State) :
    exec (.iabs sl f) s = execIabs sl f s := rfl
@[simp] theorem exec_vAnd (sl : VSlot) (f : R3) (s : State) :
    exec (.vAnd sl f) s = execVAnd sl f s := rfl
@[simp] theorem exec_vOr (sl : VSlot) (f : R3) (s : State) :
    exec (.vOr sl f) s = execVOr sl f s := rfl
@[simp] theorem exec_vXor (sl : VSlot) (f : R3) (s : State) :
    exec (.vXor sl f) s = execVXor sl f s := rfl
@[simp] theorem exec_vShl (sl : VSlot) (f : R3) (s : State) :
    exec (.vShl sl f) s = execVShl sl f s := rfl
@[simp] theorem exec_vShr (sl : VSlot) (f : R3) (s : State) :
    exec (.vShr sl f) s = execVShr sl f s := rfl
@[simp] theorem exec_vSar (sl : VSlot) (f : R3) (s : State) :
    exec (.vSar sl f) s = execVSar sl f s := rfl
@[simp] theorem exec_icmp (sl : VSlot) (f : R3) (s : State) :
    exec (.icmp sl f) s = execIcmp sl f s := rfl
@[simp] theorem exec_iaddImm (sl : VSlot) (f : VI) (s : State) :
    exec (.iaddImm sl f) s = execIaddImm sl f s := rfl
@[simp] theorem exec_isubImm (sl : VSlot) (f : VI) (s : State) :
    exec (.isubImm sl f) s = execIsubImm sl f s := rfl
@[simp] theorem exec_imulImm (sl : VSlot) (f : VI) (s : State) :
    exec (.imulImm sl f) s = execImulImm sl f s := rfl
@[simp] theorem exec_vAndImm (sl : VSlot) (f : VI) (s : State) :
    exec (.vAndImm sl f) s = execVAndImm sl f s := rfl
@[simp] theorem exec_vOrImm (sl : VSlot) (f : VI) (s : State) :
    exec (.vOrImm sl f) s = execVOrImm sl f s := rfl
@[simp] theorem exec_vXorImm (sl : VSlot) (f : VI) (s : State) :
    exec (.vXorImm sl f) s = execVXorImm sl f s := rfl
@[simp] theorem exec_vShlImm (sl : VSlot) (f : VI) (s : State) :
    exec (.vShlImm sl f) s = execVShlImm sl f s := rfl
@[simp] theorem exec_vShrImm (sl : VSlot) (f : VI) (s : State) :
    exec (.vShrImm sl f) s = execVShrImm sl f s := rfl
@[simp] theorem exec_vSarImm (sl : VSlot) (f : VI) (s : State) :
    exec (.vSarImm sl f) s = execVSarImm sl f s := rfl
@[simp] theorem exec_fadd (sl : VSlot) (f : R3) (s : State) :
    exec (.fadd sl f) s = execFadd sl f s := rfl
@[simp] theorem exec_fsub (sl : VSlot) (f : R3) (s : State) :
    exec (.fsub sl f) s = execFsub sl f s := rfl
@[simp] theorem exec_fmul (sl : VSlot) (f : R3) (s : State) :
    exec (.fmul sl f) s = execFmul sl f s := rfl
@[simp] theorem exec_ffma (sl : VSlot) (f : R3) (s : State) :
    exec (.ffma sl f) s = execFfma sl f s := rfl
@[simp] theorem exec_fmin (sl : VSlot) (f : R3) (s : State) :
    exec (.fmin sl f) s = execFmin sl f s := rfl
@[simp] theorem exec_fmax (sl : VSlot) (f : R3) (s : State) :
    exec (.fmax sl f) s = execFmax sl f s := rfl
@[simp] theorem exec_fcmp (sl : VSlot) (f : R3) (s : State) :
    exec (.fcmp sl f) s = execFcmp sl f s := rfl
@[simp] theorem exec_fclass (sl : VSlot) (f : R3) (s : State) :
    exec (.fclass sl f) s = execFclass sl f s := rfl
@[simp] theorem exec_vSel (sl : VSlot) (f : R3) (s : State) :
    exec (.vSel sl f) s = execVSel sl f s := rfl
@[simp] theorem exec_mov (sl : VSlot) (f : R3) (s : State) :
    exec (.mov sl f) s = execMov sl f s := rfl
@[simp] theorem exec_movImm (sl : VSlot) (f : VI) (s : State) :
    exec (.movImm sl f) s = execMovImm sl f s := rfl
@[simp] theorem exec_bcast (sl : VSlot) (f : R3) (s : State) :
    exec (.bcast sl f) s = execBcast sl f s := rfl
@[simp] theorem exec_qpop (sl : VSlot) (f : R3) (s : State) :
    exec (.qpop sl f) s = execQpop sl f s := rfl
@[simp] theorem exec_perm (sl : VSlot) (f : R3) (s : State) :
    exec (.perm sl f) s = execPerm sl f s := rfl
@[simp] theorem exec_rowshUp (sl : VSlot) (f : R3) (s : State) :
    exec (.rowshUp sl f) s = execRowshUp sl f s := rfl
@[simp] theorem exec_rowshDown (sl : VSlot) (f : R3) (s : State) :
    exec (.rowshDown sl f) s = execRowshDown sl f s := rfl
@[simp] theorem exec_trans (sl : VSlot) (f : R3) (s : State) :
    exec (.trans sl f) s = execTrans sl f s := rfl
@[simp] theorem exec_shape (f : VI) (s : State) :
    exec (.shape f) s = execShape f s := rfl
@[simp] theorem exec_cvt (sl : VSlot) (f : VC) (s : State) :
    exec (.cvt sl f) s = execCvt sl f s := rfl
@[simp] theorem exec_pcvt2 (sl : VSlot) (f : VC) (s : State) :
    exec (.pcvt2 sl f) s = execPcvt2 sl f s := rfl
@[simp] theorem exec_pcvt4 (sl : VSlot) (f : VC) (s : State) :
    exec (.pcvt4 sl f) s = execPcvt4 sl f s := rfl
@[simp] theorem exec_pcvt8 (sl : VSlot) (f : VC) (s : State) :
    exec (.pcvt8 sl f) s = execPcvt8 sl f s := rfl
@[simp] theorem exec_vredAdd (sl : VSlot) (f : R3) (s : State) :
    exec (.vredAdd sl f) s = execVredAdd sl f s := rfl
@[simp] theorem exec_vredMax (sl : VSlot) (f : R3) (s : State) :
    exec (.vredMax sl f) s = execVredMax sl f s := rfl
@[simp] theorem exec_rngu (sl : VSlot) (f : R3) (s : State) :
    exec (.rngu sl f) s = execRngu sl f s := rfl
@[simp] theorem exec_rngb (sl : VSlot) (f : R3) (s : State) :
    exec (.rngb sl f) s = execRngb sl f s := rfl
@[simp] theorem exec_kclr (sl : VSlot) (f : R3) (s : State) :
    exec (.kclr sl f) s = execKclr sl f s := rfl
@[simp] theorem exec_kacc (sl : VSlot) (f : R3) (s : State) :
    exec (.kacc sl f) s = execKacc sl f s := rfl
@[simp] theorem exec_kmac (sl : VSlot) (f : R3) (s : State) :
    exec (.kmac sl f) s = execKmac sl f s := rfl
@[simp] theorem exec_krd (sl : VSlot) (f : R3) (s : State) :
    exec (.krd sl f) s = execKrd sl f s := rfl
@[simp] theorem exec_kscan (sl : VSlot) (f : R3) (s : State) :
    exec (.kscan sl f) s = execKscan sl f s := rfl
@[simp] theorem exec_exp2 (f : FR) (s : State) :
    exec (.exp2 f) s = execExp2 f s := rfl
@[simp] theorem exec_exp (f : FR) (s : State) :
    exec (.exp f) s = execExp f s := rfl
@[simp] theorem exec_log2 (f : FR) (s : State) :
    exec (.log2 f) s = execLog2 f s := rfl
@[simp] theorem exec_rcp (f : FR) (s : State) :
    exec (.rcp f) s = execRcp f s := rfl
@[simp] theorem exec_rsqrt (f : FR) (s : State) :
    exec (.rsqrt f) s = execRsqrt f s := rfl
@[simp] theorem exec_sqrt (f : FR) (s : State) :
    exec (.sqrt f) s = execSqrt f s := rfl
@[simp] theorem exec_sin (f : FR) (s : State) :
    exec (.sin f) s = execSin f s := rfl
@[simp] theorem exec_cos (f : FR) (s : State) :
    exec (.cos f) s = execCos f s := rfl
@[simp] theorem exec_tanh (f : FR) (s : State) :
    exec (.tanh f) s = execTanh f s := rfl
@[simp] theorem exec_sigm (f : FR) (s : State) :
    exec (.sigm f) s = execSigm f s := rfl
@[simp] theorem exec_gelu (f : FR) (s : State) :
    exec (.gelu f) s = execGelu f s := rfl
@[simp] theorem exec_mprg (f : FR) (s : State) :
    exec (.mprg f) s = execMprg f s := rfl
@[simp] theorem exec_rstat (f : FR) (s : State) :
    exec (.rstat f) s = execRstat f s := rfl
@[simp] theorem exec_smax (f : FR) (s : State) :
    exec (.smax f) s = execSmax f s := rfl
@[simp] theorem exec_smaxM (f : FR) (s : State) :
    exec (.smaxM f) s = execSmaxM f s := rfl
@[simp] theorem exec_rnormRms (f : FR) (s : State) :
    exec (.rnormRms f) s = execRnormRms f s := rfl
@[simp] theorem exec_rnormLayer (f : FR) (s : State) :
    exec (.rnormLayer f) s = execRnormLayer f s := rfl
@[simp] theorem exec_tswap (f : FR) (s : State) :
    exec (.tswap f) s = execTswap f s := rfl
@[simp] theorem exec_ldst (f : ML) (s : State) :
    exec (.ldst f) s = execLdst f s := rfl
@[simp] theorem exec_mswap (f : MR) (s : State) :
    exec (.mswap f) s = execMswap f s := rfl
@[simp] theorem exec_mcfgAcc (f : MR) (s : State) :
    exec (.mcfgAcc f) s = execMcfgAcc f s := rfl
@[simp] theorem exec_mcfgFwd (f : MR) (s : State) :
    exec (.mcfgFwd f) s = execMcfgFwd f s := rfl
@[simp] theorem exec_mloop (f : ML) (s : State) :
    exec (.mloop f) s = execMloop f s := rfl
@[simp] theorem exec_madv (f : MR) (s : State) :
    exec (.madv f) s = execMadv f s := rfl
@[simp] theorem exec_mzero (f : MR) (s : State) :
    exec (.mzero f) s = execMzero f s := rfl
@[simp] theorem exec_mcvt (f : MR) (s : State) :
    exec (.mcvt f) s = execMcvt f s := rfl
@[simp] theorem exec_ld (f : LA) (s : State) :
    exec (.ld f) s = execLd f s := rfl
@[simp] theorem exec_st (f : LA) (s : State) :
    exec (.st f) s = execSt f s := rfl
@[simp] theorem exec_ldu (f : LA) (s : State) :
    exec (.ldu f) s = execLdu f s := rfl
@[simp] theorem exec_stu (f : LA) (s : State) :
    exec (.stu f) s = execStu f s := rfl
@[simp] theorem exec_pf (f : LA) (s : State) :
    exec (.pf f) s = execPf f s := rfl
@[simp] theorem exec_ldb (f : LT) (s : State) :
    exec (.ldb f) s = execLdb f s := rfl
@[simp] theorem exec_stb (f : LT) (s : State) :
    exec (.stb f) s = execStb f s := rfl
@[simp] theorem exec_aadd (f : LA) (s : State) :
    exec (.aadd f) s = execAadd f s := rfl
@[simp] theorem exec_afadd (f : LA) (s : State) :
    exec (.afadd f) s = execAfadd f s := rfl
@[simp] theorem exec_amin (f : LA) (s : State) :
    exec (.amin f) s = execAmin f s := rfl
@[simp] theorem exec_amax (f : LA) (s : State) :
    exec (.amax f) s = execAmax f s := rfl
@[simp] theorem exec_aand (f : LA) (s : State) :
    exec (.aand f) s = execAand f s := rfl
@[simp] theorem exec_aor (f : LA) (s : State) :
    exec (.aor f) s = execAor f s := rfl
@[simp] theorem exec_axor (f : LA) (s : State) :
    exec (.axor f) s = execAxor f s := rfl
@[simp] theorem exec_axchg (f : LA) (s : State) :
    exec (.axchg f) s = execAxchg f s := rfl
@[simp] theorem exec_acas (f : LA) (s : State) :
    exec (.acas f) s = execAcas f s := rfl
@[simp] theorem exec_copy (f : XD) (s : State) :
    exec (.copy f) s = execCopy f s := rfl
@[simp] theorem exec_copyr (f : XD) (s : State) :
    exec (.copyr f) s = execCopyr f s := rfl
@[simp] theorem exec_gath (f : XD) (s : State) :
    exec (.gath f) s = execGath f s := rfl
@[simp] theorem exec_resv (f : XD) (s : State) :
    exec (.resv f) s = execResv f s := rfl
@[simp] theorem exec_rels (f : XD) (s : State) :
    exec (.rels f) s = execRels f s := rfl
@[simp] theorem exec_tbld (f : XD) (s : State) :
    exec (.tbld f) s = execTbld f s := rfl
@[simp] theorem exec_put (f : XD) (s : State) :
    exec (.put f) s = execPut f s := rfl
@[simp] theorem exec_get (f : XD) (s : State) :
    exec (.get f) s = execGet f s := rfl
@[simp] theorem exec_signalSet (f : XD) (s : State) :
    exec (.signalSet f) s = execSignalSet f s := rfl
@[simp] theorem exec_signalAdd (f : XD) (s : State) :
    exec (.signalAdd f) s = execSignalAdd f s := rfl
@[simp] theorem exec_launch (f : XD) (s : State) :
    exec (.launch f) s = execLaunch f s := rfl
@[simp] theorem exec_hld (f : HR) (s : State) :
    exec (.hld f) s = execHld f s := rfl
@[simp] theorem exec_hst (f : HR) (s : State) :
    exec (.hst f) s = execHst f s := rfl
@[simp] theorem exec_hmov (f : HR) (s : State) :
    exec (.hmov f) s = execHmov f s := rfl
@[simp] theorem exec_hbind (f : HR) (s : State) :
    exec (.hbind f) s = execHbind f s := rfl
@[simp] theorem exec_hperm (f : HR) (s : State) :
    exec (.hperm f) s = execHperm f s := rfl
@[simp] theorem exec_hbun (f : HR) (s : State) :
    exec (.hbun f) s = execHbun f s := rfl
@[simp] theorem exec_hthr (f : HR) (s : State) :
    exec (.hthr f) s = execHthr f s := rfl
@[simp] theorem exec_hclrc (f : HR) (s : State) :
    exec (.hclrc f) s = execHclrc f s := rfl
@[simp] theorem exec_hrand (f : HR) (s : State) :
    exec (.hrand f) s = execHrand f s := rfl
@[simp] theorem exec_hdist (f : HR) (s : State) :
    exec (.hdist f) s = execHdist f s := rfl
@[simp] theorem exec_htie (f : HR) (s : State) :
    exec (.htie f) s = execHtie f s := rfl
@[simp] theorem exec_hnear (f : HQ) (s : State) :
    exec (.hnear f) s = execHnear f s := rfl
@[simp] theorem exec_csyncRelease (cl : ClusterId) (p : PartId) (node : Word) (group : Nat) (s : State) :
    exec (.csyncRelease cl p node group) s = execCsyncRelease cl p node group s := rfl
@[simp] theorem exec_shrinkRelease (c : CoreId) (w : WarpId) (s : State) :
    exec (.shrinkRelease c w) s = execShrinkRelease c w s := rfl
@[simp] theorem exec_tlbInvalidatePage (p : PartId) (addr : Word) (who : Requester) (s : State) :
    exec (.tlbInvalidatePage p addr who) s = execTlbInvalidatePage p addr who s := rfl
@[simp] theorem exec_tlbInvalidatePartition (p : PartId) (who : Requester) (s : State) :
    exec (.tlbInvalidatePartition p who) s = execTlbInvalidatePartition p who s := rfl
@[simp] theorem exec_migratePage (p : PartId) (addr : Word) (who : Requester) (s : State) :
    exec (.migratePage p addr who) s = execMigratePage p addr who s := rfl
@[simp] theorem exec_setDirtyLog (p : PartId) (addr : Word) (who : Requester) (s : State) :
    exec (.setDirtyLog p addr who) s = execSetDirtyLog p addr who s := rfl
@[simp] theorem exec_ldstComplete (c : CoreId) (op : Nat) (s : State) :
    exec (.ldstComplete c op) s = execLdstComplete c op s := rfl
@[simp] theorem exec_tileOpStart (c : CoreId) (s : State) :
    exec (.tileOpStart c) s = execTileOpStart c s := rfl
@[simp] theorem exec_tileOpComplete (c : CoreId) (rows : Nat) (s : State) :
    exec (.tileOpComplete c rows) s = execTileOpComplete c rows s := rfl
@[simp] theorem exec_loadComplete (c : CoreId) (op : Nat) (lanes : Mask) (s : State) :
    exec (.loadComplete c op lanes) s = execLoadComplete c op lanes s := rfl
@[simp] theorem exec_storeComplete (c : CoreId) (op : Nat) (lanes : Mask) (s : State) :
    exec (.storeComplete c op lanes) s = execStoreComplete c op lanes s := rfl
@[simp] theorem exec_copyBegin (c : CoreId) (op : Nat) (s : State) :
    exec (.copyBegin c op) s = execCopyBegin c op s := rfl
@[simp] theorem exec_copyBytesLand (c : CoreId) (op : Nat) (n : Nat) (s : State) :
    exec (.copyBytesLand c op n) s = execCopyBytesLand c op n s := rfl
@[simp] theorem exec_copyComplete (c : CoreId) (op : Nat) (s : State) :
    exec (.copyComplete c op) s = execCopyComplete c op s := rfl
@[simp] theorem exec_hAsyncComplete (c : CoreId) (op : Nat) (s : State) :
    exec (.hAsyncComplete c op) s = execHAsyncComplete c op s := rfl
@[simp] theorem exec_exposedWriteLand (c : CoreId) (s : State) :
    exec (.exposedWriteLand c) s = execExposedWriteLand c s := rfl
@[simp] theorem exec_strokeFetch (c : CoreId) (w : WarpId) (s : State) :
    exec (.strokeFetch c w) s = execStrokeFetch c w s := rfl
@[simp] theorem exec_quillRefill (c : CoreId) (w : WarpId) (slot : Fin 10) (index : Nat) (s : State) :
    exec (.quillRefill c w slot index) s = execQuillRefill c w slot index s := rfl
@[simp] theorem exec_strokeGrant (c : CoreId) (s : State) :
    exec (.strokeGrant c) s = execStrokeGrant c s := rfl
@[simp] theorem exec_userTrapDelivery (c : CoreId) (w : WarpId) (s : State) :
    exec (.userTrapDelivery c w) s = execUserTrapDelivery c w s := rfl
@[simp] theorem exec_warpRetire (c : CoreId) (w : WarpId) (s : State) :
    exec (.warpRetire c w) s = execWarpRetire c w s := rfl
@[simp] theorem exec_blockRetire (c : CoreId) (bid : Nat) (s : State) :
    exec (.blockRetire c bid) s = execBlockRetire c bid s := rfl
@[simp] theorem exec_launchComplete (l : Nat) (s : State) :
    exec (.launchComplete l) s = execLaunchComplete l s := rfl
@[simp] theorem exec_blockClaim (l : Nat) (d : DieId) (n : Nat) (s : State) :
    exec (.blockClaim l d n) s = execBlockClaim l d n s := rfl
@[simp] theorem exec_blockPlace (l : Nat) (d : DieId) (cores : List CoreId) (s : State) :
    exec (.blockPlace l d cores) s = execBlockPlace l d cores s := rfl
@[simp] theorem exec_ageingInterval (l : Nat) (s : State) :
    exec (.ageingInterval l) s = execAgeingInterval l s := rfl
@[simp] theorem exec_warpAgeing (c : CoreId) (w : WarpId) (s : State) :
    exec (.warpAgeing c w) s = execWarpAgeing c w s := rfl
@[simp] theorem exec_victimResume (p : PartId) (entry : Nat) (s : State) :
    exec (.victimResume p entry) s = execVictimResume p entry s := rfl
@[simp] theorem exec_pageWalk (c : CoreId) (w : WarpId) (va : Word) (s : State) :
    exec (.pageWalk c w va) s = execPageWalk c w va s := rfl
@[simp] theorem exec_replay (c : CoreId) (w : WarpId) (s : State) :
    exec (.replay c w) s = execReplay c w s := rfl
@[simp] theorem exec_blockRestore (p : PartId) (entry : Nat) (c : CoreId) (s : State) :
    exec (.blockRestore p entry c) s = execBlockRestore p entry c s := rfl
@[simp] theorem exec_thermalMigration (c : CoreId) (bid : Nat) (target : CoreId) (s : State) :
    exec (.thermalMigration c bid target) s = execThermalMigration c bid target s := rfl
@[simp] theorem exec_errorRetry (site : ErrorSite) (lasting : Bool) (s : State) :
    exec (.errorRetry site lasting) s = execErrorRetry site lasting s := rfl
@[simp] theorem exec_coreLoss (c : CoreId) (s : State) :
    exec (.coreLoss c) s = execCoreLoss c s := rfl
@[simp] theorem exec_leaseExpiry (cl : ClusterId) (melt : BitVec 11) (s : State) :
    exec (.leaseExpiry cl melt) s = execLeaseExpiry cl melt s := rfl
@[simp] theorem exec_divisorSwitch (cl : ClusterId) (s : State) :
    exec (.divisorSwitch cl) s = execDivisorSwitch cl s := rfl
@[simp] theorem exec_partitionEnable (p : PartId) (control : BitVec 32) (s : State) :
    exec (.partitionEnable p control) s = execPartitionEnable p control s := rfl
@[simp] theorem exec_partitionReset (p : PartId) (s : State) :
    exec (.partitionReset p) s = execPartitionReset p s := rfl
@[simp] theorem exec_qosChange (p : PartId) (record : BitVec 128) (s : State) :
    exec (.qosChange p record) s = execQosChange p record s := rfl
@[simp] theorem exec_ctxctlSuspend (p : PartId) (s : State) :
    exec (.ctxctlSuspend p) s = execCtxctlSuspend p s := rfl
@[simp] theorem exec_ctxctlResume (p : PartId) (s : State) :
    exec (.ctxctlResume p) s = execCtxctlResume p s := rfl
@[simp] theorem exec_hostRegisterWrite (offset : Nat) (size : Nat) (value : BitVec 64) (s : State) :
    exec (.hostRegisterWrite offset size value) s = execHostRegisterWrite offset size value s := rfl
@[simp] theorem exec_sqTail (p : PartId) (supervisor : Bool) (size : Nat) (value : BitVec 32) (s : State) :
    exec (.sqTail p supervisor size value) s = execSqTail p supervisor size value s := rfl
@[simp] theorem exec_nop (p : PartId) (s : State) :
    exec (.nop p) s = execNop p s := rfl
@[simp] theorem exec_load (p : PartId) (s : State) :
    exec (.load p) s = execLoad p s := rfl
@[simp] theorem exec_kick (p : PartId) (s : State) :
    exec (.kick p) s = execKick p s := rfl
@[simp] theorem exec_unload (p : PartId) (s : State) :
    exec (.unload p) s = execUnload p s := rfl
@[simp] theorem exec_ringEntryInvalid (p : PartId) (s : State) :
    exec (.ringEntryInvalid p) s = execRingEntryInvalid p s := rfl
@[simp] theorem exec_msixUnmask (p : PartId) (vector : Fin 32) (s : State) :
    exec (.msixUnmask p vector) s = execMsixUnmask p vector s := rfl
@[simp] theorem exec_remoteAccessArrival (p : PartId) (a : OutsideAccess) (s : State) :
    exec (.remoteAccessArrival p a) s = execRemoteAccessArrival p a s := rfl
@[simp] theorem exec_hostBridgeAccess (p : PartId) (a : OutsideAccess) (s : State) :
    exec (.hostBridgeAccess p a) s = execHostBridgeAccess p a s := rfl
@[simp] theorem exec_remoteRequestTimeout (c : CoreId) (op : Nat) (s : State) :
    exec (.remoteRequestTimeout c op) s = execRemoteRequestTimeout c op s := rfl
@[simp] theorem exec_traceSample (c : CoreId) (s : State) :
    exec (.traceSample c) s = execTraceSample c s := rfl
@[simp] theorem exec_breakpointHit (c : CoreId) (n : Fin 8) (s : State) :
    exec (.breakpointHit c n) s = execBreakpointHit c n s := rfl
@[simp] theorem exec_migrationLineCopy (m : Nat) (s : State) :
    exec (.migrationLineCopy m) s = execMigrationLineCopy m s := rfl
@[simp] theorem exec_freezeDone (p : PartId) (s : State) :
    exec (.freezeDone p) s = execFreezeDone p s := rfl
@[simp] theorem exec_partitionResetDone (p : PartId) (s : State) :
    exec (.partitionResetDone p) s = execPartitionResetDone p s := rfl
@[simp] theorem exec_ctxctlDone (p : PartId) (s : State) :
    exec (.ctxctlDone p) s = execCtxctlDone p s := rfl
@[simp] theorem exec_retentionEntry (cl : ClusterId) (s : State) :
    exec (.retentionEntry cl) s = execRetentionEntry cl s := rfl
@[simp] theorem exec_retentionExit (cl : ClusterId) (parityOk : Bool) (s : State) :
    exec (.retentionExit cl parityOk) s = execRetentionExit cl parityOk s := rfl
@[simp] theorem exec_lullEntry (cell : Fin 20) (melt : BitVec 11) (s : State) :
    exec (.lullEntry cell melt) s = execLullEntry cell melt s := rfl
@[simp] theorem exec_lullExit (cell : Fin 20) (melt : BitVec 11) (s : State) :
    exec (.lullExit cell melt) s = execLullExit cell melt s := rfl
@[simp] theorem exec_thermalThrottle (c : CoreId) (sensor : BitVec 16) (s : State) :
    exec (.thermalThrottle c sensor) s = execThermalThrottle c sensor s := rfl
@[simp] theorem exec_clusterTrip (c : CoreId) (sensor : BitVec 16) (s : State) :
    exec (.clusterTrip c sensor) s = execClusterTrip c sensor s := rfl
@[simp] theorem exec_tripEnd (cl : ClusterId) (sensors : List (BitVec 16)) (s : State) :
    exec (.tripEnd cl sensors) s = execTripEnd cl sensors s := rfl
@[simp] theorem exec_currentLevelUpdate (watts : Nat) (cores : List CoreId) (s : State) :
    exec (.currentLevelUpdate watts cores) s = execCurrentLevelUpdate watts cores s := rfl
@[simp] theorem exec_droopStretch (cl : ClusterId) (s : State) :
    exec (.droopStretch cl) s = execDroopStretch cl s := rfl
@[simp] theorem exec_ballastStart (drop : Nat) (s : State) :
    exec (.ballastStart drop) s = execBallastStart drop s := rfl
@[simp] theorem exec_l2Eviction (cl : ClusterId) (sector : Nat) (s : State) :
    exec (.l2Eviction cl sector) s = execL2Eviction cl sector s := rfl
@[simp] theorem exec_linkCrcRetry (link : Fin 32) (lane : Fin 8) (lasting : Bool) (s : State) :
    exec (.linkCrcRetry link lane lasting) s = execLinkCrcRetry link lane lasting s := rfl
@[simp] theorem exec_firmwareUpdate (image : FirmwareImage) (s : State) :
    exec (.firmwareUpdate image) s = execFirmwareUpdate image s := rfl
@[simp] theorem exec_packageBoot (inputs : BootInputs) (s : State) :
    exec (.packageBoot inputs) s = execPackageBoot inputs s := rfl
@[simp] theorem exec_negotiateAlgorithms (ecdsaP256 sha256 : Bool) (s : State) :
    exec (.negotiateAlgorithms ecdsaP256 sha256) s = execNegotiateAlgorithms ecdsaP256 sha256 s := rfl
@[simp] theorem exec_getCertificate (slot : BitVec 8) (offset length : BitVec 16) (s : State) :
    exec (.getCertificate slot offset length) s = execGetCertificate slot offset length s := rfl
@[simp] theorem exec_challenge (slot : BitVec 8) (nonce : BitVec 256) (s : State) :
    exec (.challenge slot nonce) s = execChallenge slot nonce s := rfl
@[simp] theorem exec_getMeasurements (index : BitVec 8) (s : State) :
    exec (.getMeasurements index) s = execGetMeasurements index s := rfl
@[simp] theorem exec_traceFillWrite (p : PartId) (fill : BitVec 32) (s : State) :
    exec (.traceFillWrite p fill) s = execTraceFillWrite p fill s := rfl
@[simp] theorem exec_breakpointResume (p : PartId) (n : Fin 8) (s : State) :
    exec (.breakpointResume p n) s = execBreakpointResume p n s := rfl
@[simp] theorem exec_throttleRelease (c : CoreId) (sensor : BitVec 16) (s : State) :
    exec (.throttleRelease c sensor) s = execThrottleRelease c sensor s := rfl
@[simp] theorem exec_hostCompletionTimeout (n : Nat) (s : State) :
    exec (.hostCompletionTimeout n) s = execHostCompletionTimeout n s := rfl
@[simp] theorem exec_ballastRampEnd (s : State) :
    exec (.ballastRampEnd) s = execBallastRampEnd s := rfl
@[simp] theorem exec_firmwareTakeover (s : State) :
    exec (.firmwareTakeover) s = execFirmwareTakeover s := rfl
@[simp] theorem exec_firmwareFailover (s : State) :
    exec (.firmwareFailover) s = execFirmwareFailover s := rfl
@[simp] theorem exec_getVersion (s : State) :
    exec (.getVersion) s = execGetVersion s := rfl
@[simp] theorem exec_getCapabilities (s : State) :
    exec (.getCapabilities) s = execGetCapabilities s := rfl
@[simp] theorem exec_getDigests (s : State) :
    exec (.getDigests) s = execGetDigests s := rfl

end Sys2Proof.Machine
end

