-- ==== Sys2Proof/Laws/Slot.lean ====
section
/-! SUPPORT. What a slot operation can do: it waits with its effects for the end of its bundle, or takes its fault; no
other state changes at issue (R25, R129). -/

namespace Sys2Proof.Machine

theorem runSlot_noBundle {s : State} (h : s.ctx? = none) (f : Ctx → SlotResult) : runSlot s f = .fault .noBundle := by
  simp [runSlot, h]
theorem runSlot_done {s : State} {c : Ctx} {f : Ctx → SlotResult} {e : Effects} (h : s.ctx? = some c) (hf : f c = .done e) :
    runSlot s f = .next (c.give e) := by
  simp [runSlot, h, hf]
theorem runSlot_fault {s : State} {c : Ctx} {f : Ctx → SlotResult} {cause : Nat} {detail : Word} (h : s.ctx? = some c)
    (hf : f c = .fault cause detail) :
    runSlot s f = .next (s.takeFault c.core c.wid cause detail (some c.ix.word.glyph)) := by
  simp [runSlot, h, hf]
/-- Everything that a slot operation's answer can be. -/
theorem runSlot_cases (s : State) (f : Ctx → SlotResult) :
    (s.ctx? = none ∧ runSlot s f = .fault .noBundle) ∨
    (∃ c e, s.ctx? = some c ∧ f c = .done e ∧ runSlot s f = .next (c.give e)) ∨
    (∃ c cause detail, s.ctx? = some c ∧ f c = .fault cause detail ∧
      runSlot s f = .next (s.takeFault c.core c.wid cause detail (some c.ix.word.glyph))) := by
  cases h : s.ctx? with
  | none => exact .inl ⟨rfl, runSlot_noBundle h f⟩
  | some c =>
    cases hf : f c with
    | done e => exact .inr (.inl ⟨c, e, rfl, hf, runSlot_done h hf⟩)
    | fault cause detail => exact .inr (.inr ⟨c, cause, detail, rfl, hf, runSlot_fault h hf⟩)

/-- The context of a bundle in issue names its state, its bundle, its core, its warp and its block. -/
theorem ctx?_some {s : State} {c : Ctx} (h : s.ctx? = some c) :
    c.s = s ∧ s.issue = some c.ix ∧ c.core = c.ix.core ∧ c.wid = c.ix.warp ∧ c.k = s.cores[c.core] ∧
      s.cores[c.core].warps[c.wid] = some c.w ∧ s.cores[c.core].block? c.w.bid = some c.b := by
  unfold State.ctx? at h
  split at h
  · cases h
  · split at h
    · cases h
    · split at h
      · cases h
      · rename_i h1 _ _ h2 _ _ h3
        cases h
        exact ⟨rfl, h1, rfl, rfl, rfl, h2, h3⟩

@[simp] theorem check_true (cause : Nat) (detail : Word) (r : SlotResult) : SlotResult.check true cause detail r = r := rfl
@[simp] theorem check_false (cause : Nat) (detail : Word) (r : SlotResult) :
    SlotResult.check false cause detail r = .fault cause detail := rfl

/-- An effect given to the bundle in issue changes that bundle alone. -/
theorem give_eq (c : Ctx) (e : Effects) : c.give e = { c.s with issue := (c.give e).issue } := rfl
@[simp] theorem give_mem (c : Ctx) (e : Effects) : (c.give e).mem = c.s.mem := rfl
@[simp] theorem give_cores (c : Ctx) (e : Effects) : (c.give e).cores = c.s.cores := rfl
@[simp] theorem give_clusters (c : Ctx) (e : Effects) : (c.give e).clusters = c.s.clusters := rfl
@[simp] theorem give_parts (c : Ctx) (e : Effects) : (c.give e).parts = c.s.parts := rfl

end Sys2Proof.Machine
end

