-- ==== Sys2Proof/Laws/Vector.lean ====
section
/-! SUPPORT. Elements of register images: packing digits and reading them back, splats, operand codes, and what the
element-wise operations give an active lane (R56, R190, R192, R194, R195). -/

namespace Sys2Proof.Machine

/-- Digit i of packed digits. -/
theorem packList_digit (w : Nat) : ∀ (l : List Nat) (i : Nat), packList w l / 2 ^ (w * i) % 2 ^ w = l.getD i 0 % 2 ^ w
  | [], i => by simp [packList]
  | x :: xs, 0 => by simp [packList, Nat.add_mul_mod_self_left]
  | x :: xs, i + 1 => by
    have h : packList w (x :: xs) / 2 ^ (w * (i + 1)) = packList w xs / 2 ^ (w * i) := by
      rw [Nat.mul_succ, Nat.add_comm, Nat.pow_add, ← Nat.div_div_eq_div_mul, packList,
        Nat.add_mul_div_left _ _ (Nat.two_pow_pos w), Nat.div_eq_of_lt (Nat.mod_lt _ (Nat.two_pow_pos w)), Nat.zero_add]
    rw [h, packList_digit w xs i, List.getD_cons_succ]

/-- Element e of an image made of packed digits. -/
theorem el_ofNat (w : Nat) (l : List Nat) (e : Nat) (h : w * e + w ≤ 2048) :
    el w (BitVec.ofNat 2048 (packList w l)) e = l.getD e 0 % 2 ^ w := by
  unfold el elem
  rw [BitVec.extractLsb'_toNat, BitVec.toNat_ofNat, Nat.shiftRight_eq_div_pow, ← packList_digit w l e]
  have h2 : (2 : Nat) ^ 2048 = 2 ^ (w * e) * 2 ^ (2048 - w * e) := by rw [← Nat.pow_add]; congr 1; omega
  rw [h2, Nat.mod_mul_right_div_self]
  exact Nat.mod_mod_of_dvd _ (Nat.pow_dvd_pow 2 (by omega))

/-- The three element widths, and why an element's bits lie in the image. -/
theorem ebits_cases (w : Warp) : w.ebits = 32 ∨ w.ebits = 16 ∨ w.ebits = 8 := by
  unfold Warp.ebits esizeBits; split <;> [simp; (split <;> simp)]
theorem el_fits {w e : Nat} (hw : w = 32 ∨ w = 16 ∨ w = 8) (he : e < 2048 / w) : w * e + w ≤ 2048 := by
  obtain rfl | rfl | rfl := hw <;> omega
theorem fmt_bits (k : Fmt) : 8 * k.bytes = 32 ∨ 8 * k.bytes = 16 ∨ 8 * k.bytes = 8 := by
  cases k <;> simp [Fmt.bytes]

theorem el_splat {w : Nat} (hw : w = 32 ∨ w = 16 ∨ w = 8) (x : Nat) {e : Nat} (he : e < 2048 / w) :
    el w (splat w x) e = x % 2 ^ w := by
  rw [splat, el_ofNat w _ e (el_fits hw he), List.getD_eq_getElem _ _ (by simpa using he)]
  simp

theorem el_zero (w e : Nat) : el w 0 e = 0 := by simp [el, elem]
theorem el_ones {w : Nat} (hw : w = 32 ∨ w = 16 ∨ w = 8) {e : Nat} (he : e < 2048 / w) :
    el w (BitVec.allOnes 2048) e = 2 ^ w - 1 := by
  have h : elem w (BitVec.allOnes 2048) e = BitVec.allOnes w := by
    apply BitVec.eq_of_getLsbD_eq
    intro i hi
    have := el_fits hw he
    rw [elem, BitVec.getLsbD_extractLsb', BitVec.getLsbD_allOnes, BitVec.getLsbD_allOnes]
    have : w * e + i < 2048 := by omega
    simp [hi, this]
  rw [el, h, BitVec.toNat_allOnes]

/-- The lane numbers as an operand. -/
theorem el_laneid {w : Nat} (hw : w = 32 ∨ w = 16 ∨ w = 8) {e : Nat} (he : e < 2048 / w) :
    el w (BitVec.ofNat 2048 (packList w ((List.range (2048 / w)).map fun e => laneOf w e))) e = e * w / 32 % 2 ^ w := by
  rw [el_ofNat w _ e (el_fits hw he), List.getD_eq_getElem _ _ (by simpa using he)]
  simp [laneOf]

/-- What `mapLanes` gives an element of an active lane. -/
theorem el_mapLanes {w : Nat} (hw : w = 32 ∨ w = 16 ∨ w = 8) (act : Mask) (f : Nat → Nat × Flags) {e : Nat}
    (he : e < 2048 / w) (ha : act.getLsbD (e * w / 32) = true) : el w (mapLanes w act f).1 e = (f e).1 % 2 ^ w := by
  unfold mapLanes
  rw [el_ofNat w _ e (el_fits hw he), List.getD_eq_getElem _ _ (by simpa using he)]
  simp [laneOf, ha]

/-- A bit of joined flags. -/
theorem foldl_or_bit {α : Type} (g : α → Flags) (b : Nat) : ∀ (l : List α) (a : Flags),
    (l.foldl (fun a r => a ||| g r) a).getLsbD b = true ↔ a.getLsbD b = true ∨ ∃ r ∈ l, (g r).getLsbD b = true
  | [], a => by simp
  | r :: l, a => by
    rw [List.foldl_cons, foldl_or_bit g b l]
    simp [or_assoc]

/-- The flags that `mapLanes` joins are those of the active lanes' elements. -/
theorem flags_mapLanes (w : Nat) (act : Mask) (f : Nat → Nat × Flags) (b : Nat) :
    (mapLanes w act f).2.getLsbD b = true ↔
      ∃ e, e < 2048 / w ∧ act.getLsbD (e * w / 32) = true ∧ (f e).2.getLsbD b = true := by
  unfold mapLanes
  simp only []
  rw [foldl_or_bit (fun r : Nat × Flags => r.2)]
  constructor
  · rintro (h | ⟨r, hr, hb⟩)
    · simp at h
    · obtain ⟨e, he, rfl⟩ := List.mem_map.1 hr
      by_cases ha : act.getLsbD (laneOf w e) = true
      · exact ⟨e, List.mem_range.1 he, ha, by simpa [ha] using hb⟩
      · simp [ha] at hb
  · rintro ⟨e, he, ha, hb⟩
    exact .inr ⟨_, List.mem_map.2 ⟨e, List.mem_range.2 he, rfl⟩, by simpa [laneOf, ha] using hb⟩

/-- With no flag from any element, `mapLanes` joins none. -/
theorem flags_mapLanes_zero (w : Nat) (act : Mask) (f : Nat → Nat) : (mapLanes w act fun e => (f e, 0)).2 = 0 := by
  apply BitVec.eq_of_getLsbD_eq
  intro i _
  rw [Bool.eq_iff_iff, flags_mapLanes]
  simp

end Sys2Proof.Machine
end

