-- ==== Sys2Proof/Tests/Slice0.lean ====
section
/-! SUPPORT. The model's own tests: each check of well-formedness, words from the manual's encodings, small steps whose results the
manual states, and for every obligation with hypotheses a state and operands that meet them. -/

namespace Sys2Proof.Tests

open Sys2Proof.Machine Sys2Proof.Claims

-- One theorem at a time: the kernel evaluates many of them, and each thread has a large stack.
set_option Elab.async false

/-! ## Well-formedness: each check refuses a term that breaks it alone (R113 to R115, R142 to R153) -/

def kb : KB := ⟨0, 0, 0⟩
def kr : KR := ⟨0, 0, 0, 0, 0, 0⟩
def r3 : R3 := ⟨0, 0, 0, 0, 0, 0⟩
def vi : VI := ⟨0, 0, 0, 0, 0⟩
def fr : FR := ⟨0, 0, 0, 0, 0, 0, 0⟩
def mr : MR := ⟨0, 0, 0, 0, 0, 0⟩
def ml : ML := ⟨0, 0, 0, 0, 0, 0⟩
def la : LA := ⟨0, 0, 0, 0, 0, 0⟩
def lt : LT := ⟨0, 0, 0, 0, 0, 0⟩
def xd : XD := ⟨0, 0, 0, 0, 0, 0, 0, 0⟩
def hr : HR := ⟨0, 0, 0, 0, 0, 0, 0⟩
def hq : HQ := ⟨0, 0, 1, 2, 0, 0, 0⟩
/-- CVT from binary32 to bf16, and PCVT4 from binary32 to a format of the P3109 family. -/
def vc : VC := ⟨0, 0, 0, 0, 0, 0, 0, 1, 0⟩
def pc4 : VC := ⟨1, 0, 1, 0, 40, 8, 3, 0x0C, 0⟩

theorem test_wellFormed_terms :
    [Instr.bra kb, .brc { kb with cond := 15 }, .brcN { kb with variant := 1 }, .brdAll { kb with variant := 1, cond := 7 },
     .mark { kr with imm := 7 }, .waitt ⟨0, 1, 0, 0, 0, 0, 5⟩, .fence { kr with imm := 0x0822 }, .grow { kr with d := 15, imm := 0x9210 },
     .clkdiv { kr with imm := 8 }, .intreq { kr with imm := 0x20 }, .dtinv { kr with imm := 0x40 }, .freezeSave { kr with imm := 3 },
     .sAdd r3, .cmp { r3 with d := 0x4F, variant := 15 }, .bfx { r3 with c := 64 }, .movq { r3 with d := 0x51 }, .li ⟨0, 0, 0⟩,
     .iadd .va { r3 with d := 127, a := 0xC3 }, .icmp .vb { r3 with d := 7, c := 5 }, .cvt .va vc, .pcvt4 .va pc4, .shape { vi with imm := 63 },
     .mprg { fr with n := 24 }, .rstat { fr with d := 126 }, .mloop ml, .mzero { mr with imm := 512 }, .ld { la with variant := 3 },
     .ldb { lt with buf := 2 }, .aadd { la with imm := 0x600 }, .copy xd, .signalAdd { xd with variant := 1 }, .hbun { hr with imm := 1 },
     .hnear hq].all (·.wellFormed) = true := by decide

/-- Control: variant, condition and target where the row gives none, registers that the row does not use, the mask of MARK, the
reserved bits of the waits, tokens under no enable, paths and scope of FENCE, amounts, divisors, system-register indices. -/
theorem test_illFormed_control :
    [Instr.bra { kb with variant := 1 }, .bra { kb with cond := 1 }, .exit { kb with target := 1 }, .brdAny { kb with cond := 8 },
     .ret { kr with d := 1 }, .ret { kr with b := 1 }, .ret { kr with rsv := 1 }, .ret { kr with imm := 1 }, .trap { kr with a := 1 },
     .mark kr, .mark { kr with imm := 9 }, .wait ⟨1, 0, 0, 0, 0, 0⟩, .wait ⟨0, 0, 0, 0, 0, 1⟩, .waitt ⟨1, 0, 0, 0, 0, 0, 0⟩,
     .waitt ⟨0, 0, 1, 0, 0, 0, 0⟩, .waitt ⟨0, 7, 0, 1, 0, 0, 0⟩, .waitt ⟨0, 11, 0, 0, 1, 0, 0⟩, .waitt ⟨0, 13, 0, 0, 0, 1, 0⟩,
     .waitt ⟨0, 14, 0, 0, 0, 0, 1⟩, .barw ⟨1, 0, 0, 0, 0⟩, .barw ⟨0, 0, 0, 1, 0⟩, .fence { kr with imm := 0x0820 },
     .fence { kr with imm := 0x0802 }, .fence { kr with imm := 0x2822 }, .fence { kr with imm := 0x1C22 }, .grow { kr with d := 16 },
     .grow { kr with a := 1 }, .grow { kr with imm := 17 }, .grow { kr with imm := 17 * 32 }, .shrink { kr with imm := 5 * 1024 },
     .shrink { kr with imm := 0xA000 }, .clkdiv { kr with imm := 7 }, .clkdiv { kr with imm := 0x14 }, .syswr { kr with imm := 0x20 },
     .syswr { kr with imm := 0x40 }, .intreq { kr with imm := 0x21 }, .dtinv { kr with imm := 0x41 }, .freezeStop { kr with imm := 2 },
     .freezeResume { kr with imm := 1 }, .freezeSave { kr with imm := 0 }].any (·.wellFormed) = false := by decide
/-- Scalar: predicate 0b1_0000, modifiers, operand codes of another kind, widths and shifts out of range. -/
theorem test_illFormed_scalar :
    [Instr.sAdd { r3 with pred := 0x10 }, .sAdd { r3 with variant := 2 }, .sAdd { r3 with variant := 4 }, .sAdd { r3 with d := 0x40 },
     .sAdd { r3 with a := 0x40 }, .sAdd { r3 with b := 0x40 }, .sAdd { r3 with c := 1 }, .sAdd { r3 with variant := 1, b := 1 },
     .cmp r3, .plog r3, .sSel { r3 with c := 16 }, .lea { r3 with c := 7 }, .bfx r3, .bfi { r3 with c := 65 }, .clz { r3 with b := 1 },
     .movv { r3 with a := 0xC1 }, .movv { r3 with c := 64 }, .movq r3, .movq { r3 with d := 0x50 }, .movq { r3 with d := 0x51, a := 0x51 },
     .srd { r3 with a := 1 }, .swr { r3 with d := 1 }, .li ⟨1, 0, 0⟩, .liS ⟨0, 0, 0⟩, .liHi ⟨3, 0, 0⟩].any (·.wellFormed) = false := by
  decide
/-- Vector: a destination beyond v127 or q7, reserved operand codes, conditions, views, formats and pairings, group alignment. -/
theorem test_illFormed_vector :
    [Instr.iadd .va { r3 with d := 0x80 }, .iadd .va { r3 with a := 0xC4 }, .iadd .va { r3 with variant := 2 }, .iadd .va { r3 with c := 1 },
     .icmp .va r3, .icmp .va { r3 with d := 8 }, .icmp .va { r3 with d := 1, c := 6 }, .fcmp .va { r3 with d := 1, c := 7 },
     .fadd .va { r3 with variant := 3 }, .iaddImm .va { vi with variant := 2 }, .movImm .va { vi with a := 1 }, .vSel .va { r3 with c := 8 },
     .bcast .va { r3 with c := 64 }, .qpop .va { r3 with a := 1 }, .rowshDown .va r3, .shape { vi with imm := 64 }, .shape { vi with d := 1 },
     .cvt .va { vc with tgt := 0 }, .cvt .va { vc with src := 5 }, .cvt .va { vc with sat := 1 }, .cvt .va { vc with fin := 1 },
     .cvt .va { vc with blk := 1 }, .cvt .va { vc with sc := 1 }, .pcvt4 .va { pc4 with d := 40, a := 9 }, .pcvt2 .va pc4,
     .pcvt4 .va { pc4 with src := 3 }, .pcvt8 .va { pc4 with d := 41 }, .vredMax .va r3, .kclr .va { r3 with c := 4 },
     .krd .va { r3 with a := 5 }].any (·.wellFormed) = false := by decide
/-- F, M, L, X and H. -/
theorem test_illFormed_units :
    [Instr.exp2 { fr with b := 1 }, .exp2 { fr with rsv := 1 }, .exp2 { fr with n := 1 }, .mprg { fr with n := 23 }, .rstat { fr with d := 127 },
     .rnormRms { fr with b := 127 }, .smaxM fr, .tswap { fr with pred := 1 }, .ldst { ml with sb := 1 }, .ldst { ml with rsv := 1 },
     .mloop { ml with imm := 0x40000 }, .mcfgFwd mr, .mswap { mr with imm := 1 }, .mzero mr, .mzero { mr with imm := 513 }, .madv { mr with ra := 1 },
     .ld { la with variant := 4 }, .ldu { la with a := 1 }, .pf { la with d := 1 }, .ldb { lt with buf := 3 }, .stb { lt with variant := 1 },
     .aadd { la with imm := 1 }, .aadd { la with imm := 0x700 }, .afadd { la with variant := 1 }, .acas { la with variant := 3 },
     .copy { xd with sc := 1 }, .copy { xd with rsv := 1 }, .resv { xd with tok := 1 }, .rels { xd with sa := 1 }, .launch { xd with sb := 1 },
     .signalSet { xd with variant := 1 }, .copy { xd with ra := 1 }, .hld { hr with ha := 1 }, .hmov { hr with imm := 1 }, .hbun hr,
     .hbun { hr with imm := 0x41 }, .hthr { hr with imm := 4 }, .hperm { hr with hb := 1 }, .htie { hr with hd := 1 },
     .hnear { hq with tok := 2 }, .hnear { hq with variant := 1 }, .hnear { hq with pred := 0x10 }].any (·.wellFormed) = false := by decide

/-! ## Decoding: words laid out bit by bit from R112 and R144 to R153 -/

/-- BRC.n p3 to 0x1234 (KB: opcode, variant, cond, target) and FENCE (KR). -/
theorem test_decode_control :
    decode .k (((0x02 : BitVec 8) ++ (1 : BitVec 4) ++ (3 : BitVec 4) ++ (0x1234 : BitVec 32) : BitVec 48)) = .ok (.brcN ⟨1, 3, 0x1234⟩) ∧
    decode .k ((0x1B : BitVec 8) ++ (0 : BitVec 4) ++ (9 : BitVec 6) ++ (8 : BitVec 6) ++ (0 : BitVec 6) ++ (0 : BitVec 2) ++ (0 : BitVec 16)) =
      .ok (.gust { kr with d := 9, a := 8 }) := by decide
/-- ADD s5 = s6 + s7 under not p2, and LI.s (SR and SI). -/
theorem test_decode_scalar :
    decode .s ((0x01 : BitVec 8) ++ (0 : BitVec 4) ++ (0x12 : BitVec 5) ++ (5 : BitVec 8) ++ (6 : BitVec 8) ++ (7 : BitVec 8) ++ (0 : BitVec 7)) =
      .ok (.sAdd ⟨0, 0x12, 5, 6, 7, 0⟩) ∧
    decode .s ((0x28 : BitVec 8) ++ (1 : BitVec 2) ++ (3 : BitVec 6) ++ (0xFFFFFFFE : BitVec 32)) = .ok (.liS ⟨1, 3, 0xFFFFFFFE⟩) := by decide
/-- MULH.u and MIN of R184; ICMP `le` unsigned and FCMP `uo` of bf16 into q5 (R144, R145, R147, R199). -/
theorem test_decode_shiftsAndCompares :
    decode .s ((0x04 : BitVec 8) ++ (2 : BitVec 4) ++ (0 : BitVec 5) ++ (5 : BitVec 8) ++ (6 : BitVec 8) ++ (7 : BitVec 8) ++ (0 : BitVec 7)) =
      .ok (.mulh ⟨2, 0, 5, 6, 7, 0⟩) ∧
    decode .s ((0x0D : BitVec 8) ++ (0 : BitVec 4) ++ (0 : BitVec 5) ++ (5 : BitVec 8) ++ (6 : BitVec 8) ++ (7 : BitVec 8) ++ (0 : BitVec 7)) =
      .ok (.sMin ⟨0, 0, 5, 6, 7, 0⟩) ∧
    decode .va ((0x0E : BitVec 8) ++ (2 : BitVec 4) ++ (0 : BitVec 5) ++ (5 : BitVec 8) ++ (6 : BitVec 8) ++ (7 : BitVec 8) ++ (3 : BitVec 7)) =
      .ok (.icmp .va ⟨2, 0, 5, 6, 7, 3⟩) ∧
    decode .vb ((0x36 : BitVec 8) ++ (2 : BitVec 4) ++ (0 : BitVec 5) ++ (5 : BitVec 8) ++ (6 : BitVec 8) ++ (7 : BitVec 8) ++ (6 : BitVec 7)) =
      .ok (.fcmp .vb ⟨2, 0, 5, 6, 7, 6⟩) := by decide
/-- FFMA of VA from R11's worked program, and IADD.imm of VB. -/
theorem test_decode_vector :
    decode .va 0x330004008108 = .ok (.ffma .va ⟨0, 0, 8, 1, 2, 8⟩) ∧ decode .vb 0x11110506FFFD = .ok (.iaddImm .vb ⟨1, 2, 5, 6, 0xFFFD⟩) ∧
    decode .va 0x529028100D80 = .ok (.pcvt4 .va pc4) := by decide
theorem test_decode_function : decode .f 0x191014204800 = .ok (.smaxM ⟨1, 0, 20, 16, 18, 0, 0⟩) := by decide
theorem test_decode_matrix : decode .m 0x03104A2C0000 = .ok (.mcfgFwd ⟨1, 0, 1, 10, 11, 0⟩) := by decide
theorem test_decode_access : decode .l 0x01200C082810 = .ok (.ld ⟨2, 0, 12, 4, 5, 16⟩) := by decide
theorem test_decode_copy : decode .x 0x0B000E300000 = .ok (.launch ⟨0, 0, 7, 6, 0, 0, 0, 0⟩) := by decide
/-- HDIST and HNEAR of the recall program (spec/14_program_recall.md). -/
theorem test_decode_hyper :
    decode .h 0x0A0014084000 = .ok (.hdist ⟨0, 0, 10, 0, 4, 2, 0⟩) ∧
    decode .h 0x10001049A800 = .ok (.hnear ⟨0, 0, 8, 9, 3, 2, 2048⟩) := by decide
/-- Opcodes that the map leaves undefined, a reserved value and a bad scope are refused by rules 1, 2 and 7 of R124. -/
theorem test_decode_refusals :
    decode .k 0x0B0000000000 = .error .undefinedOpcode ∧ decode .vb 0x460000000000 = .error .undefinedOpcode ∧
    decode .k 0x020800000000 ≠ .error .undefinedOpcode ∧ decode .k 0x012000000000 = .error .reserved ∧
    decode .k 0x150000001C22 = .error .format ∧ decode .s 0x010800000000 = .error .reserved := by decide
theorem test_encode_is_the_word : encode (.ffma .va ⟨0, 0, 8, 1, 2, 8⟩) = some (.va, 0x330004008108) := by decide

/-! ## Slot operations: results that the manual's rules give, worked out by hand -/

/-- Core 0 with one warp of a supervisor block and a bundle in issue, its trap vector at 0x1000; and the same with its warp or
block changed. -/
def bundle : State := (State.reset.withBundle 0 0).modBlock 0 1 fun b =>
  { b with kdesc := b.kdesc &&& ~~~(BitVec.ofNat 512 (0xFFFFEFFF * 2 ^ 256)) }
def bundleW (f : Warp → Warp) : State := bundle.modWarp 0 0 f
def bundleB (f : Block → Block) : State := bundle.modBlock 0 1 f
/-- The exposed writes and the end effects that an operation gave its bundle. -/
def given (o : Out) : List WriteVal × List EndEffect :=
  match o with
  | .next t => match t.issue with
    | some ix => (ix.writes.map (·.val), ix.ends)
    | none => ([], [])
  | _ => ([], [])
/-- Lane 0 of the vector write that an operation gave, and its flags. -/
def lane0 (o : Out) : Option (Nat × Flags) :=
  match o with
  | .next t => match t.issue with
    | some ix => match ix.writes with
      | [{ val := .vec _ img _, flags := fl, .. }] => some ((img.extractLsb' 0 32).toNat, fl)
      | _ => none
    | none => none
  | _ => none
/-- Cause and detail of the fault that a bundle of the supervisor block took. -/
def faultOf (o : Out) : Option (Word × Word) :=
  match o with
  | .next t => match t.issue with
    | some _ => none
    | none => (t.warp? 0 0).map fun x => (x.ecause, x.einfo)
  | _ => none
def withS (l : List (Fin 64 × Word)) : State := bundleW fun w => l.foldl (fun w x => { w with s := put w.s x.1 x.2 }) w
/-- Vector registers with a word in lane 0, the one live lane. -/
def withV (l : List (Fin 128 × Nat)) : State := bundleW fun w =>
  l.foldl (fun w x => { w with v := put w.v x.1 (BitVec.ofNat 2048 x.2) }) { w with dmask := 1 }
/-- The effect on a scalar destination s5 of operands s6 and s7. -/
def scalar (op : R3 → Instr) (variant : BitVec 4) (a b : Word) (c : BitVec 7 := 0) : Option Word :=
  match given (exec (op ⟨variant, 0, 5, 6, 7, c⟩) (withS [(6, a), (7, b)])) with
  | ([.scalar 5 v], []) => some v
  | _ => none
/-- Lane 0 of v5 from words of v6, v7 and v8. -/
def vector (op : VSlot → R3 → Instr) (variant : BitVec 4) (a b c : Nat) (k : BitVec 7 := 8) : Option (Nat × Flags) :=
  lane0 (exec (op .va ⟨variant, 0, 5, 6, 7, k⟩) (withV [(6, a), (7, b), (8, c)]))
def function (op : FR → Instr) (a : Nat) : Option (Nat × Flags) := lane0 (exec (op ⟨0, 0, 5, 6, 0, 0, 0⟩) (withV [(6, a)]))

theorem test_add_wraps : scalar .sAdd 0 0xFFFFFFFFFFFFFFFF 1 = some 0 := by decide +kernel
theorem test_sub_wraps : scalar .sSub 0 0 1 = some 0xFFFFFFFFFFFFFFFF := by decide +kernel
theorem test_mulh_signed_and_unsigned :
    scalar .mulh 0 0xFFFFFFFFFFFFFFFF 0xFFFFFFFFFFFFFFFF = some 0 ∧
    scalar .mulh 2 0xFFFFFFFFFFFFFFFF 0xFFFFFFFFFFFFFFFF = some 0xFFFFFFFFFFFFFFFE := by decide +kernel
theorem test_sar_by_63 : scalar .sSar 0 0x8000000000000000 63 = some 0xFFFFFFFFFFFFFFFF := by decide +kernel
theorem test_shl_counts_modulo_64 : scalar .sShl 0 1 65 = some 2 := by decide +kernel
theorem test_rotl_by_4 : scalar .rotl 0 0xF000000000000001 4 = some 0x1F := by decide +kernel
theorem test_min_signs : scalar .sMin 0 0x8000000000000000 1 = some 0x8000000000000000 ∧ scalar .sMin 2 0x8000000000000000 1 = some 1 := by
  decide +kernel
theorem test_bfx_cut_at_the_top : scalar .bfx 0 0xA000000000000000 60 8 = some 0xFFFFFFFFFFFFFFFA ∧
    scalar .bfx 2 0xA000000000000000 60 8 = some 0xA := by decide +kernel
theorem test_lea_scales : scalar .lea 0 0x100 3 6 = some 0x1C0 := by decide +kernel
theorem test_s0_reads_zero : given (exec (.sAdd ⟨0, 0, 5, 0, 7, 0⟩) (withS [(0, 9), (7, 4)])) = ([.scalar 5 4], []) := by decide +kernel
/-- R54: an index that the table does not name. -/
theorem test_srd_of_no_register : faultOf (exec (.srd ⟨0, 0, 5, 0, 0x13, 0⟩) bundle) = some (0x0500, 0x1319) := by decide +kernel
/-- R55: 128 rows of 32-bit elements. -/
theorem test_swr_of_a_bad_view : faultOf (exec (.swr ⟨0, 0, 0, 6, 2, 0⟩) (withS [(6, 0x1C)])) = some (0x0C10, 0) := by decide +kernel
theorem test_brd_any_of_no_live_lane :
    given (exec (.brdAny ⟨0, 1, 40⟩) (bundleW fun w => { w with q := put w.q 1 0 })) = ([], []) ∧
    given (exec (.brdAll ⟨1, 1, 40⟩) bundle) = ([], [.setPc 40]) := by decide +kernel
theorem test_join_of_an_empty_stack : faultOf (exec (.join ⟨0, 0, 0⟩) bundle) = some (0x0D02, 0) := by decide +kernel
theorem test_sysrd_of_pstat : given (exec (.sysrd { kr with d := 5, imm := 0 }) bundle) = ([.scalar 5 0x10], []) := by decide +kernel
theorem test_sysrd_outside_a_supervisor :
    (match exec (.sysrd { kr with d := 5 }) (bundleB fun b => { b with kdesc := b.kdesc &&& ~~~(BitVec.ofNat 512 (2 ^ 212)) }) with
      | .next t => (t.warp? 0 0).map fun x => x.state
      | _ => none) = some .halted := by decide +kernel

/-- 127 + 1 in the lowest of the lane's bytes, wrapped and saturated. -/
theorem test_iadd_of_bytes :
    lane0 (exec (.iadd .va ⟨0, 0, 5, 6, 7, 0⟩) (bundleW fun w =>
      { w with shape := 2, v := put (put w.v 6 0x017F) 7 0x0101 })) = some (0x0280, 0) ∧
    lane0 (exec (.iadd .va ⟨1, 0, 5, 6, 7, 0⟩) (bundleW fun w =>
      { w with shape := 2, v := put (put w.v 6 0x017F) 7 0x0101 })) = some (0x027F, 0) := by decide +kernel
theorem test_iabs_of_the_least : vector .iabs 0 0x80000000 0 0 = some (0x80000000, 0) ∧ vector .iabs 1 0x80000000 0 0 = some (0x7FFFFFFF, 0) := by
  decide +kernel
theorem test_vector_shift_by_the_width : vector .vShl 0 1 32 0 = some (0, 0) ∧ vector .vSar 0 0x80000000 99 0 = some (0xFFFFFFFF, 0) := by
  decide +kernel
/-- 1 + 2^-24 is a tie, rounded to even. -/
theorem test_fadd_tie : vector .fadd 0 0x3F800000 0x33800000 0 = some (0x3F800000, flNx) := by decide +kernel
/-- FFMA rounds once: (1 + 2^-23)^2 - (1 + 2^-22) is 2^-46. -/
theorem test_ffma_rounds_once : vector .ffma 0 0x3F800001 0x3F800001 0xBF800002 = some (0x28800000, 0) := by decide +kernel
theorem test_fmul_of_zero_and_infinity : vector .fmul 0 0 0x7F800000 0 = some (0x7FC00000, flNv) := by decide +kernel
theorem test_fmin_of_the_zeros : vector .fmin 0 0 0x80000000 0 = some (0x80000000, 0) := by decide +kernel
theorem test_fclass_of_a_subnormal : vector .fclass 0 0x80000001 0 0 = some (4, 0) := by decide +kernel
/-- binary32 1 + 2^-8 is a tie of bf16. -/
theorem test_cvt_tie : lane0 (exec (.cvt .va ⟨0, 0, 0, 0, 5, 6, 0, 2, 0⟩) (withV [(6, 0x3F808000)])) = some (0x3F80, flNx) := by decide +kernel
theorem test_exp2_of_whole_numbers : function .exp2 0x40400000 = some (0x41000000, 0) ∧ function .exp2 0xC3000000 = some (0, 0) := by decide +kernel
theorem test_log2_of_zero : function .log2 0 = some (0xFF800000, flDz) := by decide +kernel
theorem test_rcp_of_minus_zero : function .rcp 0x80000000 = some (0xFF800000, flDz) := by decide +kernel
theorem test_rsqrt_of_minus_one : function .rsqrt 0xBF800000 = some (0x7FC00000, flNv) := by decide +kernel
theorem test_sin_out_of_range : function .sin 0x47800001 = some (0x7FC00000, flNv) := by decide +kernel
theorem test_kclr_of_no_lane :
    (match exec (.kclr .va ⟨0, 0, 0, 0, 0, 1⟩) (bundleW fun w => { w with dmask := 0 }) with
      | .next t => t.issue.map fun ix => ix.writes.map fun p => (p.live, p.left)
      | _ => none) = some [(false, 2)] := by decide +kernel
/-- Address 2 of a word. -/
theorem test_ld_misaligned : faultOf (exec (.ldu ⟨2, 0, 5, 0, 6, 0⟩) (withS [(6, 2)])) = some (0x0800, 2) := by decide +kernel
theorem test_ldb_past_the_window :
    faultOf (exec (.ldb ⟨0, 0, 5, 6, 1, 4⟩) (withS [(6, BitVec.ofNat 64 (Config.abBytes - 256))])) =
      some (0x0A00, BitVec.ofNat 64 (Config.abBytes - 252)) := by decide +kernel
theorem test_mloop_without_a_configuration : faultOf (exec (.mloop { ml with sa := 6, sb := 7 }) (withS [(6, 1)])) = some (0x0B01, 0) := by
  decide +kernel
theorem test_tbld_of_a_bad_selector :
    given (exec (.tbld { xd with tok := 9, sa := 6, sb := 7 }) (withS [(7, 8)])) = ([], [.tokenDone 9 0x800000005]) := by decide +kernel
/-- A reserved bit of the record (R75). -/
theorem test_resv_of_a_reserved_bit : given (exec (.resv { xd with ra := 2, sa := 6 }) bundle) = ([], [.resv 2 0]) ∨
    faultOf (exec (.resv { xd with ra := 2, sa := 6 }) bundle) = some (0x0B00, 2) := by decide +kernel
theorem test_hbind_is_xor :
    given (exec (.hbind { hr with hd := 3, ha := 2, hb := 1 }) (bundleW fun w => { w with h := put (put w.h 2 0b0011) 1 0b0101 })) =
      ([.hyper 3 0b0110], []) := by decide +kernel
theorem test_hperm_by_one :
    given (exec (.hperm { hr with hd := 5, ha := 1, imm := 1 }) (bundleW fun w => { w with h := put w.h 1 (BitVec.ofNat 8192 (2 ^ 8191 + 2)) })) =
      ([.hyper 5 5], []) := by decide +kernel
/-- With no bundle in issue a slot operation stops the model. -/
theorem test_no_bundle : (exec (.bra kb) State.reset matches .fault .noBundle) = true := by decide +kernel

/-! ## Every obligation with hypotheses has a state and operands that meet them: slot operations

A hypothesis of a slot operation speaks of the context `c` of the bundle in issue; each theorem gives a state with such a
context in which a clause's hypotheses hold, at the values where neighbouring clauses meet. -/

theorem of_any {o : Option Ctx} {P : Ctx → Prop} [DecidablePred P] (h : (o.any fun x => decide (P x)) = true) :
    ∃ x, o = some x ∧ P x := by
  cases o with
  | none => cases h
  | some x => exact ⟨x, rfl, by simpa using h⟩
/-- The bundle's block without one bit of its descriptor. -/
def without (n : Nat) : State := bundleB fun b => { b with kdesc := b.kdesc &&& ~~~(BitVec.ofNat 512 (2 ^ n)) }
/-- Two rows of 32-bit elements. -/
def rows2 : State := bundleW fun w => { w with shape := 4 }
def bytes8 : State := bundleW fun w => { w with shape := 2 }
def noLane : State := bundleW fun w => { w with dmask := 0 }
def deep (n : Nat) : State := bundleW fun w => { w with dstack := List.replicate n ⟨1, 2, 3, 4, decide (n = 2)⟩ }

/-- Of every obligation about a slot operation: a bundle in issue; and of those about its end, that it is its stroke's last. -/
theorem test_meets_bundle_in_issue : ∃ c, bundle.ctx? = some c ∧ lastBundle c :=
  of_any (P := fun c => c.w.stroke.length ≤ c.w.pos + 1) (by decide +kernel)
theorem test_meets_decodeOfEncode :
    (Instr.li ⟨0, 5, 7⟩).wellFormed = true ∧ encode (.li ⟨0, 5, 7⟩) = some (.s, 0x280500000007) ∧
    decode .s 0x280500000007 = .ok (.li ⟨0, 5, 7⟩) := by decide
theorem test_meets_invertedTruePredicate : decode .va 0x330004008108 = .ok (.ffma .va ⟨0, 0, 8, 1, 2, 8⟩) ∧ Slot.va ≠ .k ∧ Slot.va ≠ .m ∧
    decode .s 0x010002818380 = .ok (.sAdd ⟨0, 0, 5, 3, 7, 0⟩) ∧ opcodeOf (0x010002818380 : Field) ≠ 0x28 := by decide
theorem test_meets_bitFields : ∃ c, bundle.ctx? = some c ∧ 1 ≤ (1 : BitVec 7).toNat ∧ 1 ≤ (64 : BitVec 7).toNat := of_any (by decide +kernel)
theorem test_meets_scalarMoves :
    (∃ c, bundle.ctx? = some c ∧ (0x7F : BitVec 8).toNat < 0x80 ∧ c.b.usesM = true ∧ isS 0x3F = true ∧ isQ 0x51 = true) ∧
    ∃ c, (without 208).ctx? = some c ∧ c.b.usesM = false := ⟨of_any (by decide +kernel), of_any (by decide +kernel)⟩
/-- Conditions that hold and do not; the last index of the table and the first beyond it; a writable and a read-only register;
the greatest view of 32-bit elements and the first beyond it. -/
theorem test_meets_specialRegisters : ∃ c, bundle.ctx? = some c ∧ c.holds 0 = true ∧ c.holds 0x11 = false ∧
    (specialValue c 0).isSome = true ∧ (specialValue c 0x12).isSome = true ∧ specialValue c 0x13 = none ∧ 0x12 ∈ writableSpecials ∧
    0x10 ∉ writableSpecials ∧ 2 ∈ writableSpecials ∧ shapeOk (0x18 &&& 0x3F) = true ∧ shapeOk (0x1C &&& 0x3F) = false :=
  of_any (by decide +kernel)
theorem test_meets_compares : ∃ c, bundle.ctx? = some c ∧ bitsN (5 : BitVec 7) 2 0 ≤ 5 ∧ bitsN (6 : BitVec 7) 2 0 ≤ 6 := of_any (by decide +kernel)
/-- Of two rows: a shift by 1 and by 2; no active lane; whole rows; views at the limits of 32-, 16- and 8-bit elements. -/
theorem test_meets_rearrangements :
    (∃ c, rows2.ctx? = some c ∧ (1 : BitVec 7).toNat < 2 ^ bitsN c.w.shape 5 2 ∧ 2 ^ bitsN c.w.shape 5 2 ≤ (2 : BitVec 7).toNat ∧
      c.active 0 ≠ 0 ∧ 2048 / c.w.ebits / 2 ^ bitsN c.w.shape 5 2 * 2 ^ bitsN c.w.shape 5 2 = 2048 / c.w.ebits) ∧
    (∃ c, noLane.ctx? = some c ∧ c.active 0 = 0) ∧ (∃ c, bundle.ctx? = some c ∧ c.holds 0 = true ∧ c.holds 0x11 = false) ∧
    ∀ x ∈ [(24, true), (28, false), (29, true), (33, false), (34, true), (38, false), (3, false), (64, false)],
      (x.1 < 64 ∧ ((x.1 % 4 = 0 ∧ x.1 / 4 % 16 ≤ 6) ∨ (x.1 % 4 = 1 ∧ x.1 / 4 % 16 ≤ 7) ∨ (x.1 % 4 = 2 ∧ x.1 / 4 % 16 ≤ 8)) ↔ x.2 = true) :=
  ⟨of_any (by decide +kernel), of_any (by decide +kernel), of_any (by decide +kernel), by decide⟩
/-- Of CVT binary32 to bfloat16; of PCVT narrowing binary32 and widening to it. -/
theorem test_meets_conversions : ∃ src tgt p8, Fmt.ofSel 0 false = some src ∧ Fmt.ofSel 2 false = some tgt ∧ Fmt.ofSel 0x0C false = some p8 ∧
    p8.isP8 ≠ src.isP8 ∧ src.isInt = false ∧ p8.isInt = false :=
  ⟨(Fmt.ofSel 0 false).getD .b32, (Fmt.ofSel 2 false).getD .b32, (Fmt.ofSel 0x0C false).getD .b32, by decide +kernel⟩
theorem test_meets_rowReductions :
    (∃ c, bundle.ctx? = some c ∧ bitsN c.w.shape 5 2 ≤ 6 + bitsN c.w.shape 1 0 ∧ 8 * (fmtOf 0).bytes = c.w.ebits ∧ c.active 0 ≠ 0 ∧
      8 * (fmtOf 1).bytes ≠ c.w.ebits ∧ c.w.ebits = 32) ∧
    (∃ c, bytes8.ctx? = some c ∧ bitsN c.w.shape 5 2 ≤ 6 + bitsN c.w.shape 1 0 ∧ c.active 0 ≠ 0 ∧ c.w.ebits ≠ 32) ∧
    ∃ c, noLane.ctx? = some c ∧ bitsN c.w.shape 5 2 ≤ 6 + bitsN c.w.shape 1 0 ∧ c.active 0 = 0 :=
  ⟨of_any (by decide +kernel), of_any (by decide +kernel), of_any (by decide +kernel)⟩
/-- Five is the greatest code of rows that RSTAT takes; six and the other widths are Shape Faults. -/
theorem test_meets_rowFunctions :
    (∃ c, (bundleW fun w => { w with shape := 20 }).ctx? = some c ∧ (c.w.ebits == 32 && decide (bitsN c.w.shape 5 2 ≤ 5)) = true ∧
      c.b.usesFmicro = true) ∧
    (∃ c, (bundleW fun w => { w with shape := 24 }).ctx? = some c ∧ (c.w.ebits == 32 && decide (bitsN c.w.shape 5 2 ≤ 5)) = false ∧
      c.active 0 ≠ 0) ∧
    (∃ c, noLane.ctx? = some c ∧ c.active 0 = 0) ∧ ∃ c, (without 210).ctx? = some c ∧ c.b.usesFmicro = false :=
  ⟨of_any (by decide +kernel), of_any (by decide +kernel), of_any (by decide +kernel), of_any (by decide +kernel)⟩
/-- Whatever the live lanes and the mask of a BRD are, one answer to each question meets its hypothesis. -/
theorem test_meets_branches (live m : Mask) : ∃ any all : Bool,
    (any = true ↔ ∃ l, l < 64 ∧ live.getLsbD l = true ∧ m.getLsbD l = true) ∧
    (all = true ↔ ∀ l, l < 64 → live.getLsbD l = true → m.getLsbD l = true) := by
  classical exact ⟨decide _, decide _, decide_eq_true_iff, decide_eq_true_iff⟩
/-- The bundle's end: lanes taken and none; a pending and a taken top of the stack; no lease. -/
theorem test_meets_bundleEnd :
    (∃ c, bundle.ctx? = some c ∧ lastBundle c ∧ c.w.dmask &&& c.w.q[(1 : Fin 8)] ≠ 0 ∧ bundle.clusters[clusterOf c.core].lease = none) ∧
    (∃ c, noLane.ctx? = some c ∧ lastBundle c ∧ c.w.dmask &&& c.w.q[(1 : Fin 8)] = 0) ∧
    (∃ c, (deep 1).ctx? = some c ∧ lastBundle c ∧ c.w.dstack = [⟨1, 2, 3, 4, false⟩]) ∧
    ∃ c, (deep 2).ctx? = some c ∧ lastBundle c ∧ c.w.dstack = ⟨1, 2, 3, 4, true⟩ :: [⟨1, 2, 3, 4, true⟩] :=
  ⟨of_any (P := fun c => c.w.stroke.length ≤ c.w.pos + 1 ∧ c.w.dmask &&& c.w.q[(1 : Fin 8)] ≠ 0 ∧
      bundle.clusters[clusterOf c.core].lease = none) (by decide +kernel),
   of_any (P := fun c => c.w.stroke.length ≤ c.w.pos + 1 ∧ c.w.dmask &&& c.w.q[(1 : Fin 8)] = 0)
      (by decide +kernel),
   of_any (P := fun c => c.w.stroke.length ≤ c.w.pos + 1 ∧ c.w.dstack = [⟨1, 2, 3, 4, false⟩])
      (by decide +kernel),
   of_any (P := fun c => c.w.stroke.length ≤ c.w.pos + 1 ∧ c.w.dstack = ⟨1, 2, 3, 4, true⟩ :: [⟨1, 2, 3, 4, true⟩])
      (by decide +kernel)⟩
/-- The bundle with rot set in its g, and one that is not the last of its stroke. -/
def rotating : State := { bundle with issue := bundle.issue.map fun ix => { ix with word := { ix.word with g := 0x10 } } }
theorem test_meets_otherBundles :
    (∃ c, rotating.ctx? = some c ∧ c.w.stroke.length ≤ c.w.pos + 1 ∧ c.ix.word.g.getLsbD 4 = true) ∧
    ∃ c, (bundleW fun w => { w with stroke := List.replicate 3 ⟨0, Vector.replicate 9 0, 0⟩ }).ctx? = some c ∧
      ¬c.w.stroke.length ≤ c.w.pos + 1 :=
  ⟨of_any (P := fun c => c.w.stroke.length ≤ c.w.pos + 1 ∧ c.ix.word.g.getLsbD 4 = true) (by decide +kernel),
   of_any (P := fun c => ¬c.w.stroke.length ≤ c.w.pos + 1) (by decide +kernel)⟩
theorem test_meets_divergence : (∃ c, (deep 15).ctx? = some c ∧ c.w.dstack.length < 16 ∧ c.w.dstack.length ≠ 0) ∧
    (∃ c, (deep 16).ctx? = some c ∧ 16 ≤ c.w.dstack.length) ∧ ∃ c, bundle.ctx? = some c ∧ c.w.dstack.length = 0 :=
  ⟨of_any (by decide +kernel), of_any (by decide +kernel), of_any (by decide +kernel)⟩

/-- A barrier of 3 expected arrivals, 1 arrived, at AB offset 16, 2^31 - 1 bytes pending; another complete but for one arrival. -/
def barrier : State := bundle.modCore 0 fun k =>
  { k with ab := (k.ab.write 16 (leBytes 4 3 ++ leBytes 4 1 ++ leBytes 4 7 ++ leBytes 4 0x7FFFFFFF)).write 32 (leBytes 4 2 ++ leBytes 4 1) }
theorem test_meets_barriers :
    (∃ c, barrier.ctx? = some c ∧ c.b.ab.size < (c.b.ab.size - 15) + 16 ∧ 32 + 16 ≤ c.b.ab.size ∧ c.b.ab.base = 0 ∧ c.k.ab.wf = true ∧
      (c.k.ab.num 16 4 ≠ 0 ∧ c.k.ab.num 20 4 < c.k.ab.num 16 4 ∧ c.k.ab.num 28 4 + 0 < 2 ^ 31 ∧ 2 ^ 31 ≤ c.k.ab.num 28 4 + 1) ∧
      (c.k.ab.num 36 4 + 1 = c.k.ab.num 32 4 ∧ c.k.ab.num 44 4 = 0) ∧ c.k.ab.num 48 4 = 0 ∧ c.b.group = none) ∧
    ∃ c, (bundleB fun b => { b with group := some 0 }).ctx? = some c ∧ c.b.group ≠ none :=
  ⟨of_any (by decide +kernel), of_any (by decide +kernel)⟩
/-- Allotments that just fit and just do not; a lease in the cluster, a lull, a cap, the ceiling, and none of them. -/
def gusty (cells power : Nat) : State :=
  { bundle with cells := put bundle.cells 0 (BitVec.ofNat 64 cells), powerLog := List.replicate 91 power
                parts := put bundle.parts 0 { bundle.parts[(0 : PartId)] with qos := BitVec.ofNat 128 (100 * 2 ^ 96 + 2 ^ 88), control := 8 } }
theorem test_meets_allotments :
    (∃ c, (bundleW fun w => { w with curV := 120, curH := 15, curC := 3, curK := 3 }).ctx? = some c ∧
      c.w.curV + 8 ≤ c.b.maxV ∧ c.w.curH + 1 ≤ c.b.maxH ∧ c.w.curC + 1 ≤ c.b.maxC ∧ c.w.curK + 1 ≤ c.b.maxK ∧
      ¬c.w.curV + 16 ≤ c.b.maxV ∧ 120 ≤ c.w.curV ∧ ¬128 ≤ c.w.curV ∧
      (((List.finRange 8).filterMap fun w => c.k.warps[w]).map (·.curV)).foldl (· + ·) 0 + 8 ≤ 512 ∧
      (((List.finRange 8).filterMap fun w => c.k.warps[w]).map (·.curH)).foldl (· + ·) 0 + 1 ≤ 64 ∧
      (((List.finRange 8).filterMap fun w => c.k.warps[w]).map (·.curC)).foldl (· + ·) 0 + 1 ≤ 8) ∧
    (∃ c, (bundleB fun b => { b with node := BitVec.ofNat 512 (2 ^ 163) }).ctx? = some c ∧ c.b.clockOk = true) ∧
    (gusty 0 0).parts[(0 : PartId)].control.getLsbD 3 = true ∧ (∃ c, bundle.ctx? = some c ∧ c.b.clockOk = false) :=
  ⟨of_any (by decide +kernel), of_any (by decide +kernel), by decide +kernel, of_any (by decide +kernel)⟩
/-- Gusts: none of the reasons, at the ceiling exactly; one watt above it; a lull; a trip; no clusters allowed; a lease. -/
theorem test_meets_gusts :
    let p (s : State) : Partition := s.parts[(0 : PartId)]
    let cluster (s : State) : Cluster := s.clusters[(0 : ClusterId)]
    let fine (s : State) : Prop := (cluster s).lease = none ∧ s.lull 0 = false ∧ (cluster s).tripped = false ∧
      (p s).gustUs ≠ 0 ∧ ¬(p s).gustClusters ≤ s.leasesOf 0 ∧ (cluster s).freed = none
    let average (s : State) : Nat := ((List.range 10).map fun i => s.powerLog.getD (10 * i) 0).foldl (· + ·) 0
    fine (gusty 0 3765) ∧ ¬10 * 3800 < average (gusty 0 3765) + 10 * 35 * ((gusty 0 3765).leases + 1) ∧
    fine (gusty 0 3766) ∧ 10 * 3800 < average (gusty 0 3766) + 10 * 35 * ((gusty 0 3766).leases + 1) ∧
    (gusty 4096 0).lull 0 = true ∧ (p bundle).gustUs = 0 := by
  decide +kernel
theorem test_meets_lease :
    (bundle.modCluster 0 fun k => { k with lease := some ⟨0, 0, 0, 1, 9000⟩ }).clusters[(0 : ClusterId)].lease.isSome = true ∧
    (let s := bundle.modCluster 0 fun k => { k with freed := some (0, 3) }
     s.clusters[(0 : ClusterId)].freed = some (s.cores[(0 : CoreId)].tick, 3) ∧ (3 : CoreId) ≠ 0) := by
  decide +kernel
/-- The last cell of the lane-cycle record, one whose slot, class or bin R483 does not define, and indices outside the tables. -/
theorem test_meets_counters :
    0x400 + 128 * 16 + 8 * 8 + 4 = 0xC44 ∧ 8 < 0x448 / 8 % 16 ∧ 4 < 0x405 % 8 ∧ (0xC80 ≤ 0xC80 ∧ 0xC80 < 0x1000) ∧
    23 ≤ 0x17 ∧ 0x3FF < 0x400 ∧ 0x1003 < 0x1004 ∧ 0x2000 < 0x2001 := by decide
/-- A supervisor's block in and out of a handler, and another's; admitted and refused indices at the edges of their ranges. -/
theorem test_meets_privileged :
    (∃ c, bundle.ctx? = some c ∧ c.b.supervisor = true ∧ c.w.handler = false) ∧
    (∃ c, (bundleW fun w => { w with handler := true }).ctx? = some c ∧ c.b.supervisor = true ∧ c.w.handler = true) ∧
    (∃ c, (without 212).ctx? = some c ∧ c.b.supervisor = false) ∧
    (4 ≤ (4 : Word).toNat % 32 ∧ ¬4 ≤ (3 : Word).toNat % 32) ∧
    ((0xFFFFFFFFFFFC0 : Word).toNat < 2 ^ 52 ∧ (0xFFFFFFFFFFFC0 : Word).toNat / 8 % 8 = 0 ∧ ¬(0x10000000000000 : Word).toNat < 2 ^ 52 ∧
      (3 : Word).toNat % 8 < 4 ∧ ¬(4 : Word).toNat % 8 < 4) :=
  ⟨of_any (by decide +kernel), of_any (by decide +kernel), of_any (by decide +kernel), by decide, by decide⟩
/-- A matrix bundle with rows and with none, with a plane poisoned and not, with a row that a fence holds back and not, and the formats
of integers and of the P3109 family. -/
theorem test_meets_matrix :
    (∃ c, bundle.ctx? = some c ∧ (c.w.sreg 1).toNat = 0) ∧ (∃ c, (withS [(1, 1)]).ctx? = some c ∧ (c.w.sreg 1).toNat ≠ 0) ∧
    (∃ c, (bundle.modCore 0 fun k => { k with planes := Vector.replicate 2 ⟨0, 0, 16⟩ }).ctx? = some c ∧
      (c.k.planes[c.k.active]).tag.getLsbD 4 = true) ∧
    (∃ c, (bundleW fun w => { w with fences := [⟨4, [1], false, false⟩] }).ctx? = some c ∧ (c.k.planes[c.k.active]).tag.getLsbD 4 = false ∧
      ∃ g ∈ c.w.fences, g.after.getLsbD 2 = true) ∧
    (∃ c, bundle.ctx? = some c ∧ (c.k.planes[c.k.active]).tag.getLsbD 4 = false ∧ c.w.fences = []) ∧
    Fmt.ofCode (bitsN (BitVec.ofNat 160 (0x50 * 2 ^ 15)) 22 15) = some .i8 ∧
    Fmt.ofCode (bitsN (BitVec.ofNat 160 (0x14 * 2 ^ 4)) 11 4) = some (.p8 true false 4) :=
  ⟨of_any (by decide +kernel), of_any (by decide +kernel), of_any (by decide +kernel), of_any (by decide +kernel), of_any (by decide +kernel),
    by decide, by decide⟩
/-- Lane 1 the first that is misaligned for 4 bytes; every lane aligned; no lane active. -/
theorem test_meets_globalAccesses :
    (∃ c, (bundleW fun w => { w with v := put w.v 3 (BitVec.ofNat 2048 (2 * 2 ^ 32)) }).ctx? = some c ∧ (c.active 0).getLsbD 1 = true ∧
      element c 32 3 1 % 4 ≠ 0 ∧ element c 32 3 0 % 4 = 0) ∧
    (∃ c, bundle.ctx? = some c ∧ c.active 0 ≠ 0 ∧ (∀ l : Fin 64, element c 32 3 l.val % 4 = 0) ∧ (5 : BitVec 4).toNat ≤ 5) ∧
    ∃ c, noLane.ctx? = some c ∧ c.active 0 = 0 := ⟨of_any (by decide +kernel), of_any (by decide +kernel), of_any (by decide +kernel)⟩
/-- The last window address that a buffer access may use, the next, a misaligned one, and a poisoned row of CB. -/
theorem test_meets_typedAccesses :
    (∃ c, bundle.ctx? = some c ∧ c.active 0 ≠ 0 ∧ (c.b.ab.size - 256) % 4 = 0 ∧ (c.b.ab.size - 256) + 256 ≤ c.b.ab.size ∧
      c.b.ab.size < (c.b.ab.size - 252) + 256 ∧ 2 % 4 ≠ 0 ∧ c.k.poison = []) ∧
    (∃ c, (bundle.modCore 0 fun k => { k with poison := [512] }).ctx? = some c ∧ c.active 0 ≠ 0 ∧
      c.k.poison.contains (c.b.cb.base + (508 + 4 * 1) / 512 * 512) = true ∧ c.k.poison.contains (c.b.cb.base + (508 + 4 * 0) / 512 * 512) = false) ∧
    ∃ c, noLane.ctx? = some c ∧ c.active 0 = 0 := ⟨of_any (by decide +kernel), of_any (by decide +kernel), of_any (by decide +kernel)⟩
/-- Tensor records of one element at AB address 0, by their first word: from AB to AB of one byte and of four, from AB to global memory
and from there to AB; and at 512 one with an extent of 0. Conditions that hold and do not. -/
def recorded (first : Nat) : State := bundle.modCore 0 fun k =>
  { k with ab := k.ab.write 0 (leBytes 38 first ++ leBytes 2 1 ++ leBytes 2 1 ++ leBytes 2 1 ++ leBytes 4 1) }
/-- Of COPY, COPYR, GATH, PUT and GET, without and with a barrier and an index list: every check holds. -/
theorem test_meets_copies :
    (∀ y ∈ [(0x28, true, false, false), (0x2A, true, false, true), (0x28, true, true, true), (0x08, true, false, false), (0x20, true, false, false)],
      ∃ c, (recorded y.1).ctx? = some c ∧ c.holds 0 = true ∧ c.holds 0x11 = false ∧
        (let r : BitVec 512 := BitVec.ofNat 512 (c.k.ab.num (c.b.ab.base + 0) 64)
         copyCount r ≠ 0 ∧ ∀ x ∈ copyShape c 0 r 0 0 y.2.1 ++ copyRest c r 0 0 y.2.2.1 y.2.2.2 0 0 0, x.1 = true)) ∧
    (∃ c, (recorded 0x28).ctx? = some c ∧
      (let r : BitVec 512 := BitVec.ofNat 512 (c.k.ab.num (c.b.ab.base + 512) 64)
       copyCount r = 0 ∧ ∀ x ∈ copyShape c 512 r 0 0 true, x.1 = true)) := by
  refine ⟨fun y hy => ?_, of_any (by decide +kernel)⟩
  simp only [List.mem_cons, List.not_mem_nil, or_false] at hy
  rcases hy with rfl | rfl | rfl | rfl | rfl <;> exact of_any (by decide +kernel)
theorem test_meets_hyper : ∃ c, bundle.ctx? = some c ∧ c.holds 0 = true ∧ c.holds 0x11 = false := of_any (by decide +kernel)
theorem test_meets_slotOperations : encode (.bra kb) = some (.k, 0x010000000000) ∧ State.reset.ctx? = none ∧
    ∃ c, bundle.ctx? = some c := ⟨by decide, by decide +kernel, (of_any (P := fun _ => True) (by decide +kernel)).imp fun _ h => h.1⟩

/-! ## Witnesses: warps, operations and memory -/

def x0 : Warp :=
  { Warp.blank with
    bid := 1, q := Vector.replicate 8 (BitVec.allOnes 64), dmask := BitVec.allOnes 64, curV := 128, curH := 16, curC := 4, curK := 4 }
/-- A dictionary of one G entry at offset 256. -/
def header0 : BitVec 2048 := BitVec.ofNat 2048 (0x49444A47 + 2 ^ 32 + 2 ^ 48 + 256 * 2 ^ (8 * 0x24) + 512 * 2 ^ (8 * 0xEC))
/-- A supervisor's block of one warp with every register, its trap vector at 0x1000 and 64 bytes of code from 0. -/
def b0 : Block :=
  { bid := 1, part := 0, launch := 5, nodeAddr := 0x80000, node := 0, level7 := false, moveTo := none
    kdesc := BitVec.ofNat 512 (128 * 2 ^ 168 + 64 * 2 ^ 176 + 16 * 2 ^ 184 + 4 * 2 ^ 192 + 4 * 2 ^ 200 + 31 * 2 ^ 208 + 0x1000 * 2 ^ 256 +
      64 * 2 ^ 320)
    header := header0, headerOk := true, index := 0, bx := 0, by_ := 0, bz := 0, warps := [0], wb := ⟨0, Config.wbBytes⟩
    ab := ⟨0, Config.abBytes⟩, cb := ⟨0, Config.cbBytes⟩, halted := false, group := none, broken := false, microWait := none
    restoring := false }
/-- A core with one block and one warp, and the package with core 0 so. -/
def coreWith (x : Warp) (b : Block) : Core := { Core.reset with blocks := [b], warps := put Core.reset.warps 0 (some x) }
def pkg (k : Core) : State := { State.reset with cores := put State.reset.cores 0 k }
theorem pkg_core (k : Core) (c : CoreId) : (pkg k).cores[c] = if c = 0 then k else Core.reset := by
  by_cases h : c = 0
  · subst h; rfl
  · have hne : (0 : Nat) ≠ c.val := fun e => h (Fin.ext e.symm)
    simp [pkg, put, State.reset, h, hne]
/-- The listing of a number's bytes from an address. -/
def listing (a n x : Nat) : Memory := ((List.range n).map fun i => (a + i, BitVec.ofNat 8 (x / 2 ^ (8 * i)))).filter fun c => c.2 != 0
/-- A root table at 0x4000, tables at 0x8000 and 0xC000, and the leaves of pages: page number, entry. -/
def tables (l : List (Nat × Nat)) : Memory :=
  listing 0x4000 8 0x8001 ++ listing 0x8000 8 0xC001 ++ l.flatMap fun x => listing (0xC000 + 8 * x.1) 8 x.2
/-- A leaf of a frame with every permission, accessed and dirty. -/
def leaf (frame : Nat) : Nat := 2 ^ 19 * frame + 0x1F9
/-- The package with partition 0 enabled over tables that map pages 0 to 3 to frames 4 to 7. -/
def mapped (s : State) : State :=
  { s with
    mem := tables [(0, leaf 4), (1, leaf 5), (2, leaf 6), (3, leaf 7)]
    parts := put s.parts 0 { Partition.reset with ptRoot := 0x4001, enabled := true } }
/-- A TLB entry of page 1. -/
def entry1 : TlbEntry := { part := 0, vpage := 1, leaf := BitVec.ofNat 64 (leaf 5), leafAt := 0xC008, dirty := true, owner := 1 }
def op (cls : OpClass) (path : Path) (k : OpKind) : AsyncOp :=
  { id := 7, warp := 0, bid := 1, cls := cls, path := path, glyph := 0, field := 0, waits := [], sent := 0, fault := none, wiped := []
    counts := [], stroke := 0, kind := k }
/-- The core with one operation outstanding. -/
def busy (cls : OpClass) (path : Path) (k : OpKind) : State :=
  mapped (pkg { coreWith ((x0.modCount cls (· + 1))) b0 with ops := [op cls path k], tlb := [entry1] })
/-- An access of lane 63, the last, of 32 bytes at the end of page 1. -/
def access (kind : MemKind) (left : Mask) : MemAccess :=
  { kind := kind, width := 32, uniform := false, left := left, addrs := Vector.replicate 64 0xFFFE0, data := Vector.replicate 64 5
    dests := [4, 5, 6, 7, 8, 9, 10, 11] }

/-- Of ExposedWritesLandInTheirBundle: whatever the write; with one bundle left, with two; live and not. -/
theorem test_meets_exposedWrites (p : Pending) :
    let x := { x0 with pending := [p] }
    (coreWith x b0).warps[(0 : WarpId)] = some x ∧ (coreWith x b0).block? x.bid = some b0 ∧ b0.restoring = false ∧ x.pending = [p] ∧
    { x with pending := [p, p] }.pending = p :: [p] :=
  ⟨rfl, rfl, rfl, rfl, rfl⟩
/-- No row is read late; infinities of both signs, NaN over infinity, and an infinity over a number. -/
theorem test_meets_specialSums :
    (WriteVal.scalar 0 0).late = false ∧ (({ x0 with ka := put x0.ka 1 ⟨0, 1⟩ }.ka[(1 : Fin 4)]).kind = 1 ∧ (⟨0, 2⟩ : Kulisch).kind = 2) ∧
    (⟨0, 3⟩ : Kulisch).kind = 3 ∧ (x0.ka[(1 : Fin 4)].kind = 0 ∧ (⟨0, 2⟩ : Kulisch).kind ≠ 0) := by decide +kernel
/-- Sums of an accumulator at the ends of its range and beyond them. -/
theorem test_meets_accumulatorSums :
    let top : BitVec 640 := BitVec.ofNat 640 (2 ^ 639 - 1)
    let low : BitVec 640 := BitVec.ofNat 640 (2 ^ 639)
    (top.toInt + (0 : BitVec 640).toInt < 2 ^ 639) ∧ 2 ^ 639 ≤ top.toInt + (1 : BitVec 640).toInt ∧
    -2 ^ 639 ≤ low.toInt + (0 : BitVec 640).toInt ∧ low.toInt + (BitVec.allOnes 640).toInt < -2 ^ 639 := by decide +kernel
/-- The bundle with its core changed, and a block of the partition on core 1. -/
def ending (f : Core → Core) : State := (bundle.modCore 0 f).modCore 1 fun k => { k with blocks := [b0] }
/-- Of OtherEffectsOfTheBundleEnd: system operations, fences and leases of a last bundle. A message with an operation of the warp
outstanding and without; a target that no core has, the warp's own, one with a block of the partition and one without, stopped and not;
a request in progress; a fence that names an operation and one that does not; the lease of the warp and of another; a slot of the
queue. -/
theorem test_meets_bundleEnds :
    let s := ending id
    let o := op .store .l (.stb .ab 0 7 9)
    let q := s.parts[(0 : PartId)]
    (∃ c, s.ctx? = some c ∧ lastBundle c ∧ c.w.fences = [] ∧ c.k.ops = [] ∧ c.core = 0 ∧ c.b.part = 0) ∧
    (∃ c, (ending fun k => { k with ops := [o] }).ctx? = some c ∧ o ∈ c.k.ops ∧ o.warp = c.wid ∧ (1 : BitVec 5).getLsbD 0 = true) ∧
    q.messages = [] ∧ q.resetting = false ∧ q.intMask.getLsbD 4 = true ∧ { q with intMask := 0 }.intMask.getLsbD 4 = false ∧
    (s.migrations = [] ∧ s.movedFrames = [] ∧ s.poisonSectors = [] ∧ s.mem.wf = true ∧ s.devWaits = false) ∧ q.freeze = none ∧
    { q with freeze := some ⟨1, 3, false⟩ }.freeze.isSome = true ∧ (∀ t : CoreId, lcidOf t ≠ 511) ∧ lcidOf 1 = 1 ∧
    (∃ b ∈ s.cores[(1 : CoreId)].blocks, b.part = 0) ∧ (∀ b ∈ s.cores[(2 : CoreId)].blocks, b.part ≠ 0) ∧
    s.cores[(1 : CoreId)].stopped = none ∧ { s.cores[(1 : CoreId)] with stopped := some .freeze }.stopped.isSome = true ∧
    (0x47 : Word).toNat % 8 = 7 ∧ ((0x43 : Word).toNat % 8 = (3 : Fin 4).val ∧ (0x43 : Word).toNat < 2 ^ 52) ∧
    (∀ lease ∈ [(⟨0, 0, 0, 1, 9000⟩ : Lease), ⟨0, 0, 0, 1, 4⟩, ⟨0, 3, 0, 1, 9000⟩],
      (s.modCluster 0 fun k => { k with lease := some lease }).clusters[(0 : ClusterId)].lease = some lease) ∧
    s.clusters[(0 : ClusterId)].lease = none ∧ (q.fqProd - q.fqCons).toNat < 2 ^ q.fqSize :=
  ⟨of_any (P := fun c => c.w.stroke.length ≤ c.w.pos + 1 ∧ c.w.fences = [] ∧ c.k.ops = [] ∧ c.core = 0 ∧
      c.b.part = 0) (by decide +kernel), of_any (by decide +kernel), by decide +kernel⟩
theorem test_meets_bundleEnds_uncached : ∀ cl : ClusterId, (ending id).clusters[cl].l2 = [] := by
  intro cl
  simp [ending, bundle, State.withBundle, State.modCore, State.modBlock, State.reset, Cluster.reset]
/-- Of SupervisorFaultEntersTheHandler and OtherFaultsHaltTheBlock: a supervisor's block with a trap vector, one without, another
block, and a warp in a handler. -/
theorem test_meets_faults :
    let s := pkg (coreWith x0 b0)
    s.warp? 0 0 = some x0 ∧ s.cores[(0 : CoreId)].block? x0.bid = some b0 ∧ b0.supervisor = true ∧ b0.hasTrap = true ∧ x0.handler = false ∧
    { b0 with kdesc := 0 }.supervisor = false ∧ { b0 with kdesc := b0.kdesc ||| BitVec.ofNat 512 (0xFFFFFFFF * 2 ^ 256) }.hasTrap = false ∧
    s.clusters[clusterOf 0].lease = none ∧ b0.group = none ∧
    (let u := s.modCluster 0 fun k => { k with lease := some ⟨0, 0, 0, 1, 9000⟩ }
     u.clusters[clusterOf 0].lease = some ⟨0, 0, 0, 1, 9000⟩ ∧ u.warp? 0 0 = some x0 ∧ x0.bid = 1) ∧
    (0 : Word).toNat % 64 = 0 ∧ (pkg (coreWith x0 b0)).migrations = [] := by decide +kernel
/-- Of TrapDelivery: a TRAP before a lease's trap, a supervisor's trap alone, none; with a trap vector and without; a lease's trap that
waits. -/
theorem test_meets_trapDelivery :
    (∀ x ∈ [{ x0 with traps := [⟨0, 3⟩, ⟨1, 5⟩] }, { x0 with traps := [⟨1, 5⟩, ⟨1, 5⟩] }, { x0 with traps := [⟨2, 0x0500⟩] }, x0],
      let s := pkg (coreWith x b0)
      s.warp? 0 0 = some x ∧ s.cores[(0 : CoreId)].block? x.bid = some b0 ∧ s.coreRuns 0 = true ∧ s.cores[(0 : CoreId)].holder ≠ some 0 ∧
      x.state = .boundary ∧ x.pending = [] ∧ x.csync = none ∧
      (∀ t ∈ x.traps.drop 1, (x.traps.headD ⟨0, 0⟩).kind ≤ 1 ∧ t.kind = 1) ∧ x.trapTaken = false ∧ s.cores[(0 : CoreId)].holder = none) ∧
    { x0 with traps := [⟨1, 5⟩], trapTaken := true }.trapTaken = true ∧ b0.restoring = false ∧
    { b0 with kdesc := b0.kdesc ||| BitVec.ofNat 512 (0xFFFFFFFF * 2 ^ 256) }.hasTrap = false ∧
    b0.halted = false ∧ b0.hasTrap = true := by decide +kernel
/-- What GlobalAccessesLand asks of a package with the core's one operation an access of lane 63. -/
theorem test_meets_globalAccesses_land :
    (∀ a ∈ [(OpClass.load, MemKind.load), (.store, .store), (.load, .atomic .add false 2 true true)],
      let s := busy a.1 .l (.mem (access a.2 (BitVec.ofNat 64 (2 ^ 63))))
      (s.warp? 0 0 = some (x0.modCount a.1 (· + 1)) ∧ s.cores[(0 : CoreId)].block? 1 = some b0 ∧ b0.restoring = false) ∧
      s.cores[(0 : CoreId)].ops = [op a.1 .l (.mem (access a.2 (BitVec.ofNat 64 (2 ^ 63))))] ∧ x0.fences = [] ∧ s.parts[(0 : PartId)].messages = [] ∧
      (s.migrations = [] ∧ s.movedFrames = [] ∧ s.poisonSectors = [] ∧ s.mem.wf = true ∧ s.devWaits = false) ∧ x0.held = [] ∧ x0.records = [] ∧
      (access a.2 0).width = 2 ^ 5 ∧ (access a.2 0).dests.Nodup ∧ (0xFFFE0 : Word).toNat % 32 = 0 ∧
      (s.cores[(0 : CoreId)].tlb.find? (fun e => e.owner == 1 && e.part == 0 && e.vpage == (0xFFFE0 : Word).toNat / 2 ^ 19) = some entry1 ∧
        entry1.dirty = true) ∧ s.clusters[clusterOf 0].l2.length + 64 ≤ 65536 ∧ s.noRoute (s.leafBase entry1.leaf + 0x7FFE0) = false) ∧
    entry1.leaf.getLsbD 3 = true ∧ entry1.leaf.getLsbD 4 = true ∧
    atomicRule .cas true 256 (2 ^ 255) (2 ^ 255) 9 = some 9 := by decide +kernel
/-- And of its lanes: LDU's one address, AFADD at binary32, an atomic of die scope over a slice with a sector, and two lanes at one
address of which an event names the higher alone. -/
theorem test_meets_globalAccesses_lanes :
    let a := access .store (BitVec.ofNat 64 (2 ^ 62 + 2 ^ 63))
    let ldu := { access .load 3 with uniform := true, width := 4 }
    let x : Sector := { num := 5, part := 0, data := 7, valid := 1, marked := 1 }
    (∀ k : Fin 64, ldu.addrs[k] = ldu.addrs[(0 : Fin 64)]) ∧ ldu.left.getLsbD 0 = true ∧ ldu.width = 2 ^ 2 ∧
    a.left.getLsbD 62 = true ∧ (∀ k : Fin 64, k < 62 → a.left.getLsbD k.val = false) ∧
    a.left = BitVec.ofNat 64 (2 ^ (62 : Fin 64).val + 2 ^ (63 : Fin 64).val) ∧ a.addrs[(63 : Fin 64)] = a.addrs[(62 : Fin 64)] ∧
    (BitVec.ofNat 64 (2 ^ 63) : Mask).getLsbD 63 = true ∧ (BitVec.ofNat 64 (2 ^ 63) : Mask).getLsbD 62 = false ∧
    ([x].map (·.num)).Nodup ∧ x.marked &&& ~~~x.valid = 0 ∧
    atomicRule .add true 256 1 2 9 = some 3 ∧ atomicRule .add true 256 3 2 9 = some 5 := by decide +kernel
/-- And of its replay record. -/
theorem test_meets_replay :
    let r : ReplayRecord :=
      { glyph := 0, subCause := 1, field := 0, firstVa := 0xFFFE0, access := access .load (BitVec.ofNat 64 (2 ^ 63)), opId := 7, resolved := true }
    let x := { x0 with loads := 1, records := [r] }
    let s := pkg { coreWith x b0 with ops := [op .load .l (.mem { access .load 0 with left := 0 })] }
    s.warp? 0 0 = some x ∧ x.records = [r] ∧ r.resolved = true ∧ r.opId = 7 ∧ x0.taken.count 0 < 2 ∧ s.cores[(0 : CoreId)].holder ≠ some 0 ∧ b0.halted = false := by
  decide +kernel
/-- Of PageWalkServesAMiss: a page with a leaf, and one without. -/
theorem test_meets_pageWalk :
    let a := access .load (BitVec.ofNat 64 (2 ^ 63))
    let s : State := mapped (pkg { coreWith { x0 with loads := 1 } b0 with ops := [op .load .l (.mem a)] })
    (0xFFFE0 : Word).toNat < 2 ^ 52 ∧ s.walkCache = [] ∧ (∀ e ∈ s.cores[(0 : CoreId)].tlb ++ s.clusters[clusterOf 0].tlb, e.vpage ≠ 1) ∧
    (∃ l : Fin 64, (a.left.getLsbD l.val && a.addrs[l].toNat / 2 ^ 19 == (0xFFFE0 : Word).toNat / 2 ^ 19) = true) ∧
    s.walk s.parts[b0.part].ptRoot 0xFFFE0 = .leaf (BitVec.ofNat 64 (leaf 5)) 0xC008 false ∧ (BitVec.ofNat 64 (leaf 5)).getLsbD 3 = true ∧
    s.walk s.parts[b0.part].ptRoot 0x200000 = .fault := by decide +kernel

def tile (kind : TileKind) (rows : Nat) (begun : Bool) : TileOp :=
  { kind := kind, config := 0, record := 0, start := 512, start2 := 0, rows := rows, done := 0, rm := 0, ftz := false, rngk := 0, rngc := 0
    begun := begun, flags := 0, poisoned := [] }
/-- Of BuffersAndEnginesComplete: each kind of operation as a core's only one; HNEAR with a row within the threshold and without one. -/
theorem test_meets_buffersAndEngines :
    (∀ o ∈ [(OpClass.load, Path.l, OpKind.ldb .cb 256 5 3 4), (.store, .l, .stb .ab 0 7 9), (.tile, .m, .ldst 0x8001 64 1 true),
        (.tile, .m, .tile (tile .mzero 2 false)), (.tile, .m, .tile (tile .mzero 2 true)), (.load, .h, .hld 64 15), (.store, .h, .hst 64 3),
        (.store, .h, .hclrc 3), (.load, .h, .hrand 2 5), (.load, .h, .htie 0 9), (.load, .h, .htie 63 9), (.load, .h, .hnear 8 9 1 0)],
      let s := busy o.1 o.2.1 o.2.2
      s.warp? 0 0 = some (x0.modCount o.1 (· + 1)) ∧ s.cores[(0 : CoreId)].ops = [op o.1 o.2.1 o.2.2]) ∧
    (let k := (busy .load .l (.htie 0 9)).cores[(0 : CoreId)]
     k.wb.wf = true ∧ k.ab.wf = true ∧ k.cb.wf = true ∧ k.written = [] ∧ k.acted = []) ∧
    (let s := (busy .load .l (.ldb .ab 256 5 3 4)).modCore 0 fun k => { k with written := [(b0.ab.base + 508, 4)] }
     s.coreRuns 0 = true ∧ s.cores[(0 : CoreId)].written = [(b0.ab.base + 508, 4)]) := by decide +kernel
/-- Of its rows and planes: an MLOOP and an MCVT whose last row is left, each with poison and without; scales of an LDST. -/
theorem test_meets_lastRows :
    let last (kind : TileKind) : TileOp := { tile kind 3 true with done := 2 }
    let k := (busy .tile .m (.tile (last .mcvt))).cores[(0 : CoreId)]
    (∀ kind ∈ [TileKind.mloop, .mcvt], let s := busy .tile .m (.tile (last kind))
      s.warp? 0 0 = some (x0.modCount .tile (· + 1)) ∧ s.cores[(0 : CoreId)].ops = [op .tile .m (.tile (last kind))] ∧
      (last kind).begun = true ∧ (last kind).done + 1 = (last kind).rows ∧ (last kind).poisoned = [] ∧ (last kind).kind = kind) ∧
    k.planes[k.active].tag.getLsbD 4 = false ∧ { k with planes := Vector.replicate 2 ⟨0, 0, 16⟩ }.planes[k.active].tag.getLsbD 4 = true ∧
    k.poison = [] ∧ b0.cb.base + 512 + 512 * 2 ∈ { k with poison := [b0.cb.base + 512 + 512 * 2] }.poison ∧
    Fmt.ofCode (bitsN (BitVec.ofNat 128 (0x51 * 2 ^ 40)) 47 40) = some .u8 ∧
    Fmt.ofCode (bitsN (BitVec.ofNat 128 (0x24 * 2 ^ 40 + 2 ^ 34)) 47 40) = some (.p8 true true 4) ∧
    (BitVec.ofNat 128 (0x24 * 2 ^ 40 + 2 ^ 34)).getLsbD 34 = true ∧ (BitVec.ofNat 128 (0x60 * 2 ^ 40)).getLsbD 34 = false ∧
    (Fmt.p8 true true 4).isP8 = true ∧ Fmt.bf16.isInt = false ∧ Fmt.u8.isInt = true := by decide +kernel
theorem test_meets_hnear :
    let rows (r : BitVec 128) : Nat := (bitsN r 87 68 + 1) / 1024
    rows (BitVec.ofNat 128 (1023 * 2 ^ 68)) = 1 ∧ rows 0 = 0 ∧ bitsN (0 : Field) 11 0 = 0 := by decide

def shape1 (from_ into_ n : Nat) : BitVec 512 :=
  BitVec.ofNat 512 (into_ * 16 + from_ * 4 + 2 ^ 304 + 2 ^ 320 + 2 ^ 336 + n * 2 ^ 352 + 2 ^ 384 * 128)
def copyOp (kind : CopyKind) (shape : BitVec 512) (begun : Bool) (cursor : Nat) (into_ : Word) : CopyOp :=
  { kind := kind, shape := shape, fromBase := 0, toBase := into_, barrier := none, list := 0, signal := none, cursor := cursor, quarantine := []
    begun := begun, rbanks := [], locks := [], stopped := false, status := 0, detail := 0, after := [] }
/-- Of CopiesMoveAndComplete: a copy of two bytes from WB to AB before its start, before its last element and after it; a PUT to a
package that does not answer; a LAUNCH. -/
theorem test_meets_copiesMove :
    (∀ k ∈ [OpKind.copy (copyOp .copy (shape1 1 2 2) false 0 128), .copy (copyOp .copy (shape1 1 2 2) true 1 128),
        .copy (copyOp .copy (shape1 1 2 2) true 2 128), .copy (copyOp .put (shape1 1 0 2) true 0 0x8010000000000000), .launch 0x80000],
      let s := busy .copy .x k
      s.warp? 0 0 = some (x0.modCount .copy (· + 1)) ∧ s.cores[(0 : CoreId)].ops = [op .copy .x k] ∧ s.launches = [] ∧
      s.parts[b0.part].graphs = [] ∧ s.clusters[clusterOf 0].l2 = []) ∧
    spaceBuf (shFromSpace (shape1 1 2 2)) = some .wb ∧ spaceBuf (shToSpace (shape1 1 2 2)) = some .ab ∧ shCount (shape1 1 2 2) = 2 ∧
    shToSpace (shape1 1 0 2) = 0 ∧
    (let t := copyOp .put (shape1 1 0 2) true 0 0x8010000000000000
     (t.target 0).getLsbD 63 = true ∧ (t.target 0).extractLsb' 52 11 ≠ State.reset.packageId ∧ t.signal = none ∧
     (∀ link, (((t.target 0).extractLsb' 52 11, link) : BitVec 11 × Fin 32) ∉ State.reset.routes) ∧ State.reset.lanes[(3 : Fin 32)] ≠ 0 ∧
     ((t.target 0).extractLsb' 52 11, (3 : Fin 32)) ∈ { State.reset with routes := [(1, 3)] }.routes) := by decide +kernel

/-- And of its elements: addresses that the core's entry serves, one of them through the package's own number; a GATH row inside its
window and outside; a barrier counter that an element of one byte just leaves in range and just not, and one with bytes due. -/
theorem test_meets_copyElements :
    let s := busy .copy .x (.copy { copyOp .copy (shape1 1 2 2) true 0 128 with barrier := some 16 })
    let k := s.cores[(0 : CoreId)]
    let va : Word := 0x80008
    (s.noRoute (s.leafBase entry1.leaf + va.toNat % 2 ^ 19) = false ∧ va.toNat < 2 ^ 52 ∧ va.toNat % 8 = 0 ∧
      k.tlb.find? (fun e => e.owner == 1 && e.part == 0 && e.vpage == va.toNat / 2 ^ 19) = some entry1 ∧ entry1.dirty = true ∧
      permits entry1.leaf Need.read = true ∧ permits entry1.leaf Need.write = true ∧ permits entry1.leaf Need.both = true) ∧
    ((0x8000000000080008 : Word).getLsbD 63 = true ∧ (0x8000000000080008 : Word).extractLsb' 52 11 = s.packageId ∧
      (0x8000000000080008 : Word) &&& 0x000FFFFFFFFFFFFF = va) ∧
    ((0x8010000000000000 : Word).extractLsb' 52 11 ≠ s.packageId ∧ s.noRoute (remotePa 0x8010000000000000 0) = true ∧
      { s with routes := [(1, 3)] }.noRoute (remotePa 0x8010000000000000 0) = false) ∧
    ((b0.window .wb).size < (b0.window .wb).size + 0 * 64 + 1 * 1 ∧ ¬(b0.window .wb).size < ((b0.window .wb).size - 1) + 0 * 64 + 1 * 1) ∧
    (-2 ^ 31 ≤ signedOf 32 0x80000001 - 1 ∧ ¬-2 ^ 31 ≤ signedOf 32 0x80000000 - 1) ∧
    (k.acted = [] ∧ { k with acted := [(b0.ab.base + 16, 7)] }.acted = [(b0.ab.base + 16, 7)]) ∧ k.holder = none ∧
    (∀ buf ∈ [Buf.wb, .ab, .cb], (k.buf buf).wf = true) ∧ s.migrations = [] ∧ s.mem.wf = true ∧
    va.toNat % 2 ^ 19 + 1024 ≤ 2 ^ 19 ∧ ((280 : BitVec 9).getLsbD 8 = true ∧ (319 : BitVec 9).toNat < 320) ∧
    ((7 : BitVec 9).getLsbD 8 = false ∧ (7 : BitVec 9).toNat < 8) := by decide +kernel

/-- A warp at a boundary over one glyph that holds no slot, its G entry installed or not. -/
def fetching (decode : List DecodeEntry) : State :=
  let s := mapped (pkg { coreWith { x0 with pc := 0 } { b0 with kdesc := b0.kdesc ||| BitVec.ofNat 512 (0x100 * 2 ^ 64) } with
    tlb := [{ entry1 with vpage := 0, leaf := BitVec.ofNat 64 (leaf 4), leafAt := 0xC000 }], decode := decode })
  { s with mem := s.mem.write (4 * 2 ^ 19) [1, 0] }
def g0 : DecodeEntry := { part := 0, dictId := 0, slot := 9, index := 0, entry := 0 }
theorem test_meets_strokeFetch :
    let b := { b0 with kdesc := b0.kdesc ||| BitVec.ofNat 512 (0x100 * 2 ^ 64) }
    (fetching [g0]).warp? 0 0 = some x0 ∧ (fetching [g0]).cores[(0 : CoreId)].block? x0.bid = some b ∧ awaitsFetch x0 = true ∧ b.halted = false ∧
    (fetching [g0]).sliceStuck (clusterOf 0) = false ∧ (fetching []).sliceStuck (clusterOf 0) = false ∧
    ((fetching [g0]).fetchStroke 0 x0 b).2 = .ok ([{ glyph := 0, slots := Vector.replicate 9 0, g := 0 }], 2) ∧ x0.stroke = [] ∧
    (let s := fetching [g0]
     let e : TlbEntry := { entry1 with vpage := 0, leaf := BitVec.ofNat 64 (leaf 4), leafAt := 0xC000 }
     (s.migrations = [] ∧ s.movedFrames = [] ∧ s.poisonSectors = [] ∧ s.mem.wf = true ∧ s.devWaits = false) ∧
     s.clusters[clusterOf 0].l2.length + 64 ≤ 65536 ∧ bitsN b.kdesc 63 0 + x0.pc.toNat < 2 ^ 52 ∧
     (bitsN b.kdesc 63 0 + x0.pc.toNat) % 2 ^ 19 + 24 * 88 ≤ 2 ^ 19 ∧
     (e.dirty = true ∧ s.cores[(0 : CoreId)].tlb.find? (fun e => e.owner == 1 && e.part == 0 && e.vpage == 0) = some e) ∧
     permits e.leaf Need.exec = true ∧ (∀ i, i < 9 → bitsN b.header (8 * (0x1A + i) + 7) (8 * (0x1A + i)) ≤ 12) ∧
     ∀ d ∈ s.cores[(0 : CoreId)].decode, holesOk d.entry = true) := by decide +kernel
theorem test_meets_refill :
    let b := { b0 with kdesc := b0.kdesc ||| BitVec.ofNat 512 (0x100 * 2 ^ 64) }
    let u := ((fetching []).fetchStroke 0 x0 b).1
    let v := (u.codeRead 0 b (entryAddr b 9 0) 2).1
    ((fetching []).fetchStroke 0 x0 b).2 = .miss 9 0 0 ∧ (u.codeRead 0 b (entryAddr b 9 0) 2).2 = .inl [0, 0] ∧ v.poisonSectors = [] ∧
    installRule b 9 (ofBytes 64 [0, 0]) = none ∧ v.cores[(0 : CoreId)].entry? b.part b 9 0 = none := by decide +kernel

/-- A stroke of one bundle whose K slot holds an operation. -/
def strokeOf (i : Instr) : List Cword := [{ glyph := 0, slots := put (Vector.replicate 9 0) 0 (fieldOf i), g := 0 }]
/-- What AtRest, Unoccupied and HeadOver ask of a warp whose stroke holds no MADV, no TSWAP and no use of F or M. -/
theorem atRest_of {k : Core} {x : Warp} {b : Block}
    (h : x.state = .boundary ∧ x.decoded = true ∧ x.pending = [] ∧ x.shrink = none ∧ x.records = [] ∧ x.held = [] ∧ x.withheld = 0 ∧
      x.fetchFault = none ∧ x.csync = none ∧ b.halted = false ∧ b.restoring = false ∧ b.microWait = none ∧ b.moveTo = none ∧ x.traps = [])
    (hc : ∀ cls, x.count cls + ((strokeOps x).filter fun i => asyncClass i == some cls).length ≤ 63)
    (ho : (strokeOps x).all (fun i => match i with | .madv _ | .tswap _ => false | _ => true) = true) (hg : ∀ y ∈ k.blocks, y.group = none) :
    AtRest k x b := by
  obtain ⟨h1, h2, h3, h4, h5, h6, h7, h8, h9, h10, h11, h12, h13, h14⟩ := h
  have ho := List.all_eq_true.mp ho
  exact ⟨h1, h2, h3, h4, h5, h6, h7, h8, h9, h10, h11, h12, h13, .inl h14, hc, fun f hf => absurd (ho _ hf) Bool.false_ne_true,
    fun f hf => absurd (ho _ hf) Bool.false_ne_true, fun y hy hl => hl.1 (hg y hy)⟩
theorem unoccupied_of {k : Core} {x : Warp} (hk : k.ops = []) (hb : k.fBusy = 0)
    (ho : (strokeOps x).all (fun i => match i with | .mloop _ | .mzero _ | .mcvt _ => false | _ => true) = true) : Unoccupied k x := by
  have hz : ((strokeOps x).filter fun i => match i with | .mloop _ | .mzero _ | .mcvt _ => true | _ => false) = [] := by
    rw [List.filter_eq_nil_iff]
    intro i hi
    have := List.all_eq_true.mp ho i hi
    revert this
    cases i <;> simp
  exact ⟨fun n _ _ _ _ => by omega, fun _ _ => ⟨by simp [hk], by simp [hk]⟩, fun _ _ => by simp [hk], by
    rw [hk]; exact (Nat.zero_add _).le.trans ((congrArg List.length hz).le.trans (by decide))⟩
/-- HeadOver, by the operation that stands at the head. -/
theorem headOver_of {k : Core} {x : Warp} {b : Block}
    (h : (match x.headOp with
      | some (.wait f) => decide (x.loads ≤ f.load.toNat ∧ x.stores ≤ f.store.toNat ∧ x.copies ≤ f.copy.toNat ∧ x.tiles ≤ f.tile.toNat)
      | some (.waitt f) => [(0, f.t0), (1, f.t1), (2, f.t2), (3, f.t3)].all fun y => !f.enable.getLsbD y.1 || !x.tokens.getLsbD y.2.toNat
      | some (.barw f) => k.ab.num (b.ab.base + (x.sreg f.addr.toNat).toNat + f.off.toNat + 8) 4 != (x.sreg f.phase.toNat).toNat % 2 ^ 32
      | _ => true) = true) : HeadOver k x b := by
  refine ⟨fun f hf => ?_, fun f hf => ?_, fun f hf => ?_⟩
  · rw [hf] at h; exact of_decide_eq_true h
  · rw [hf] at h
    intro i t hi he
    simpa [he] using List.all_eq_true.mp h _ hi
  · rw [hf] at h; simpa using h
def ready (i : Instr) : Warp := { x0 with decoded := true, stroke := strokeOf i }
/-- Of TheArbiterGrantsOrABundlePasses: a warp whose stroke begins with a WAIT, a WAITT or a BARW that is over; one whose BARW has a
pending scalar, one whose barrier lies outside its window and one whose barrier is misaligned; and a warp whose stroke is not decoded. -/
theorem test_meets_arbiter :
    (∀ i ∈ [Instr.mark ⟨0, 0, 0, 0, 0, 7⟩, .wait ⟨0, 0, 0, 0, 0, 0⟩, .waitt ⟨0, 1, 0, 0, 0, 0, 5⟩, .barw ⟨0, 5, 6, 0, 16⟩],
      let x := { ready i with s := put x0.s 5 1 }
      let k := coreWith x b0
      (k.arrived = [] ∧ x.state ≠ .midStroke ∧ x.pos = 0 ∧ x.traps = []) ∧ (pkg k).coreRuns 0 = true ∧ k.holder = none ∧ k.first = none ∧
      k.sticky = [] ∧ b0.restoring = false ∧ (pkg k).warp? 0 0 = some x ∧ k.block? x.bid = some b0 ∧ AtRest k x b0 ∧ Unoccupied k x ∧
      HeadOver k x b0 ∧ barwRaises x b0 = none) ∧
    (∀ y ∈ [({ ready (.barw ⟨0, 5, 6, 0, 16⟩) with tokens := 0x20 }, (0x0600, 5)), (ready (.barw ⟨0, 5, 6, 0, 0xFFFFF⟩), (0x0A00, 0xFFFFF)),
        (ready (.barw ⟨0, 5, 6, 0, 8⟩), (0x0E00, (8 : Word)))],
      let k := coreWith y.1 b0
      (pkg k).warp? 0 0 = some y.1 ∧ k.block? y.1.bid = some b0 ∧ AtRest k y.1 b0 ∧ Unoccupied k y.1 ∧ barwRaises y.1 b0 = some y.2) ∧
    ¬AtRest (coreWith x0 b0) x0 b0 ∧ x0.fences = [] ∧ (coreWith x0 b0).rowUnread = false ∧ (pkg (coreWith x0 b0)).coreRuns 0 = true := by
  refine ⟨fun i hi => ?_, fun y hy => ?_, fun h => absurd h.2.1 (by decide), by decide +kernel⟩
  · simp only [List.mem_cons, List.not_mem_nil, or_false] at hi
    rcases hi with rfl | rfl | rfl | rfl <;>
      exact ⟨by decide +kernel, by decide +kernel, rfl, rfl, rfl, rfl, rfl, rfl,
        atRest_of (by decide +kernel) (by intro cls; cases cls <;> decide +kernel) (by decide +kernel) (by decide +kernel),
        unoccupied_of rfl rfl (by decide +kernel), headOver_of (by decide +kernel), by decide +kernel⟩
  · simp only [List.mem_cons, List.not_mem_nil, or_false] at hy
    rcases hy with rfl | rfl | rfl <;>
      exact ⟨rfl, rfl, atRest_of (by decide +kernel) (by intro cls; cases cls <;> decide +kernel) (by decide +kernel) (by decide +kernel),
        unoccupied_of rfl rfl (by decide +kernel), by decide +kernel⟩
/-- Of WarpsAtTheirBoundaries: an allotment to lower, an exited warp, and a warp that has waited 18,000 ticks and one less. -/
theorem test_meets_boundaries :
    let x := { x0 with shrink := some ⟨false, 1, 8, 1, 1, 1⟩ }
    (pkg (coreWith x b0)).warp? 0 0 = some x ∧ x.pending = [] ∧ x.state = .boundary ∧ (coreWith x b0).ops = [] ∧ x.records = [] ∧ x.held = [] ∧
    x.curV ≤ 128 ∧ { x0 with state := .exited }.state = .exited ∧
    (let n := 18000 * min 65535 ((bitsN (pkg (coreWith x0 b0)).parts[b0.part].qos 47 40 % 16 + 1) *
       2 ^ (bitsN (pkg (coreWith x0 b0)).parts[b0.part].qos 47 40 / 16))
     n ≤ 18000 ∧ ¬n ≤ 17999 ∧ x0.level < 6) := by decide +kernel
/-- A co-scheduled group on cluster 0, every warp at CSYNC, none of it broken. -/
def grouped (broken : Bool) (waits : Fin 8 → Bool) : State :=
  { State.reset with
    cores := State.reset.cores.mapFinIdx fun i k _ =>
      if h : i < 8 then
        { coreWith { x0 with csync := if waits ⟨i, h⟩ then some 5 else none } { b0 with group := some 0, broken := broken } with tick := i }
      else k }
/-- And with a STB outstanding on its last core. -/
def groupedBusy : State := (grouped false fun _ => true).modCore 7 fun k => { k with ops := [op .store .l (.stb .ab 0 7 9)] }
theorem test_meets_csync :
    (∀ i : Fin 8, let s := grouped false fun _ => true
      s.cores[coreOf 0 i].blocks = [{ b0 with group := some 0 }] ∧ s.warp? (coreOf 0 i) 0 = some { x0 with csync := some 5 } ∧
      (grouped true fun _ => true).cores[coreOf 0 i].blocks = [{ b0 with group := some 0, broken := true }]) ∧
    (grouped false fun i => i != 3).warp? 3 0 = some x0 ∧ (grouped false fun _ => true).parts[(0 : PartId)].saved = [] ∧
    (∀ j : Fin 8, (grouped false fun _ => true).cores[coreOf 0 j].ops = []) ∧ x0.fences = [] ∧
    groupedBusy.cores[coreOf 0 7].ops = [op .store .l (.stb .ab 0 7 9)] ∧ (op .store .l (.stb .ab 0 7 9)).warp = 0 := by decide +kernel

/-! ## Witnesses: launches, contexts and the package -/

/-- What a memory holds where it lists nothing. -/
theorem num_unlisted {m : Memory} {x n : Nat} (h : ∀ c ∈ m, c.1 < x ∨ x + n ≤ c.1) : m.num x n = 0 := by
  have get0 : ∀ (m : Memory) (y : Nat), (∀ c ∈ m, c.1 ≠ y) → m.get y = 0 := by
    intro m
    induction m with
    | nil => intro y _; rfl
    | cons c m ih =>
      intro y hy
      have h1 : y ≠ c.1 := fun e => hy c (List.mem_cons_self ..) e.symm
      simp only [Memory.get, h1, if_false]
      split
      · rfl
      · exact ih y fun d hd => hy d (List.mem_cons_of_mem _ hd)
  have zero : ∀ bs : List Byte, (∀ b ∈ bs, b = 0) → natOfBytes bs = 0 := by
    intro bs
    induction bs with
    | nil => intro _; rfl
    | cons b bs ih =>
      intro hb
      rw [natOfBytes, hb b (List.mem_cons_self ..), ih fun d hd => hb d (List.mem_cons_of_mem _ hd)]
      rfl
  unfold Memory.num
  apply zero
  intro b hb
  simp only [Memory.read, List.mem_map, List.mem_range] at hb
  obtain ⟨i, hi, rfl⟩ := hb
  apply get0
  intro c hc e
  have := h c hc
  omega

/-- A partition's page 0: a graph of one node at 0x1000, the node's descriptor at 0x2000 and dictionary header at 0x3000; its
completion record lies at 0x4000 and the graph's status record at 0x5000. The host's ring at 0x100 of its memory holds a LOAD. -/
def kdesc0 : BitVec 512 :=
  BitVec.ofNat 512 (0x3000 * 2 ^ 64 + 128 * 2 ^ 168 + 64 * 2 ^ 176 + 16 * 2 ^ 184 + 4 * 2 ^ 192 + 4 * 2 ^ 200 + 2 ^ 216 +
    0xFFFFFFFF * 2 ^ 256 + 64 * 2 ^ 320)
def node0 (flags : Nat) : BitVec 512 :=
  BitVec.ofNat 512 (0x2000 + 3 * 2 ^ 64 + 2 ^ 144 + 2 * 2 ^ 152 + 8 * 2 ^ 176 + 0x4000 * 2 ^ 448 + flags)
def graphWith (more : Memory) : Memory :=
  tables [(0, leaf 4), (1, leaf 5), (2, leaf 6), (3, leaf 7)] ++ listing (2 ^ 21 + 0x1030) 16 (0x52474A47 + 2 ^ 32 + 0x5000 * 2 ^ 64) ++
    listing (2 ^ 21 + 0x1040) 64 (node0 0).toNat ++ listing (2 ^ 21 + 0x2000) 64 kdesc0.toNat ++ listing (2 ^ 21 + 0x3000) 256 header0.toNat ++
    more ++ listing (4 * 2 ^ 50 + 0x100) 32 (1 + 0x77 * 2 ^ 128 + 0x1000 * 2 ^ 192)
@[irreducible] def graphMem : Memory := graphWith []
def launch0 (flags : Nat) : Launch :=
  { lid := 5, part := 0, graph := 0, nodeAddr := 0x1040, node := node0 flags, kdesc := kdesc0, header := header0, latched := true, home := 0, supervisor := false, level := 2
    queued := true, since := 0, order := 0, next := 0, claims := Vector.replicate 4 [], resident := 0, saved := 0, retired := 0, lost := 0
    placedOn := 0 }
def part0 : Partition :=
  { Partition.reset with ptRoot := 0x4001, enabled := true, saveBase := 0x80000, saveSize := 0x80000, fqBase := 0x100000, fqSize := 4
                         sqBase := 0x100, sqSize := 16, sqTail := 1, sqPriv := [false] }
def served (p : Partition) (ls : List Launch) (k : Core) : State :=
  { pkg k with mem := graphMem, parts := put State.reset.parts 0 p, launches := ls }

/-- Of LaunchesArePlacedAndComplete: claims of 1, 8 and 16 indices; a claimed block with room; one to retire; ageing; the end. -/
theorem test_meets_launches :
    (let x := launch0 0
     (served part0 [x] Core.reset).launches = [x] ∧ part0.enabled = true ∧ part0.resetting = false ∧ part0.suspended = false ∧ x.queued = true ∧
     bitsN x.node 219 216 = 0 ∧ x.next < bitsN x.node 95 64 ∧ x.node.getLsbD 160 = false ∧ (launch0 (2 ^ 160)).node.getLsbD 160 = true ∧
     x.node.getLsbD 161 = false ∧ x.kdesc.getLsbD 210 = false ∧ x.level < 6) ∧
    (let x := { x0 with state := .retired }
     let s := served part0 [launch0 0] (coreWith x b0)
     s.cores[(0 : CoreId)].block? 1 = some b0 ∧ b0.part = 0 ∧ b0.launch = 5 ∧ s.cores[(0 : CoreId)].blockWarps 1 = [(0, x)] ∧
     x.loads = 0 ∧ x.stores = 0 ∧ x.copies = 0 ∧ x.tiles = 0 ∧ x.tokens = 0 ∧ x.withheld = 0 ∧ s.cores[(0 : CoreId)].ops = []) ∧
    (∀ d : DieId, (0xF : BitVec 4).getLsbD d.val = true) := by decide +kernel
/-- A room on core 0, where a block without buffers stands, for the claimed block. -/
theorem test_meets_blockPlace :
    let x := { launch0 0 with next := 1, claims := put (Vector.replicate 4 []) 0 [0] }
    ((served part0 [x] (coreWith x0 { b0 with wb := ⟨0, 0⟩, ab := ⟨0, 0⟩, cb := ⟨0, 0⟩ })).canPlace x 0).isSome = true ∧ x.claims[dieOf 0] = 0 :: [] ∧ 0 ∉ ([] : List Nat) := by decide +kernel
/-- Two groups of a co-scheduled launch, each on a cluster of die 0, and the three blocks of a co-resident launch on three dies. -/
def jointCores : List CoreId := ((List.finRange 8).map (coreOf 0)) ++ (List.finRange 8).map (coreOf 1)
theorem test_meets_jointPlacement :
    (let x := { launch0 (2 ^ 160) with next := 16, claims := put (Vector.replicate 4 []) 0 (List.range 16) }
     let s := served part0 [x] Core.reset
     bitsN part0.qos 72 64 = 0 ∧ (∀ r : PartId, s.parts[r].saved = []) ∧ jointCores.Nodup ∧ (∀ c ∈ jointCores, dieOf c = 0) ∧
     List.range 16 = x.claims[(0 : DieId)].take jointCores.length ∧
     (∀ j : Fin 16, ∃ c ∈ jointCores[j.val]?, j.val % 8 = c.val % 8 ∧ (clusterOf c).val = j.val / 8)) ∧
    (let x := { launch0 (2 ^ 161) with next := 3, claims := #v[[0], [1], [2], []] }
     let cores : List CoreId := [0, 80, 160]
     let s := served part0 [x] Core.reset
     cores.Nodup ∧ x.node.getLsbD 161 = true ∧ List.range 3 = List.range (bitsN x.node 95 64) ∧ (∀ c ∈ cores, (s.canPlace x c).isSome = true) ∧
     ∀ j : Fin 3, ∃ c ∈ cores[j.val]?, j.val ∈ x.claims[dieOf c]) := by decide +kernel
theorem test_meets_groupRoom : let x := { launch0 (2 ^ 160) with next := 16, claims := put (Vector.replicate 4 []) 0 (List.range 16) }
    ∀ c ∈ jointCores, ((served part0 [x] Core.reset).canPlace x c).isSome = true := by decide +kernel
/-- A device access of the partition is mapped. -/
theorem test_meets_mapped (need : Need) : Mapped (served part0 [] Core.reset) 0 0x4000 need (2 ^ 21 + 0x4000) :=
  ⟨BitVec.ofNat 64 (leaf 4), 0xC000, false, by decide +kernel, by rcases need with ⟨r, w, x⟩; cases r <;> cases w <;> cases x <;> decide,
    by decide, fun _ => by decide, by decide +kernel⟩
theorem quiet_served (p : Partition) (ls : List Launch) (k : Core) (h : p.dirty = none) : Quiet (served p ls k) 0 :=
  ⟨⟨rfl, rfl, rfl, show graphMem.wf = true by decide +kernel, rfl⟩, fun cl => by simp [served, pkg, State.reset, Cluster.reset], by simpa [served, put] using h⟩
/-- Of OtherFaultsHaltTheBlock: a record slot that is mapped with w, a full ring, and a slot of no page. -/
theorem test_meets_faultRecord :
    let s := served part0 [] (coreWith x0 { b0 with kdesc := 0 })
    let slot : Word := part0.fqBase + BitVec.ofNat 64 (64 * (part0.fqProd.toNat % 2 ^ part0.fqSize))
    ¬2 ^ part0.fqSize ≤ (part0.fqProd - part0.fqCons).toNat ∧ Quiet s 0 ∧ slot.toNat % 64 = 0 ∧ Mapped s 0 slot Need.write (6 * 2 ^ 19) ∧
    2 ^ part0.fqSize ≤ ({ part0 with fqProd := 16 }.fqProd - part0.fqCons).toNat ∧ s.walk s.parts[(0 : PartId)].ptRoot 0x200000 = .fault :=
  ⟨by decide +kernel, quiet_served _ _ _ rfl, by decide +kernel,
    ⟨BitVec.ofNat 64 (leaf 6), 0xC010, false, by decide +kernel, by decide, by decide, fun _ => by decide, by decide +kernel⟩,
    by decide +kernel, by decide +kernel⟩
theorem test_meets_launchComplete :
    let x := { launch0 0 with next := 3, queued := false }
    Quiet (served part0 [x] Core.reset) 0 ∧ part0.graphs = [] ∧ bitsN x.node 95 64 ≤ x.next ∧ (∀ d : DieId, x.claims[d] = []) ∧ x.resident = 0 ∧
    x.saved = 0 ∧ x.queued = false ∧ bitsN x.node 452 448 = 0 :=
  ⟨quiet_served _ _ _ rfl, by decide +kernel⟩

/-- The end of a launch whose node names one successor, node 1 of its graph, which has two predecessors left. -/
def succMem : Memory := (graphMem.write (2 ^ 21 + 0x10A4) [2]).write (2 ^ 21 + 0x6000) [1, 0, 0, 0, 1]
def ended : List Byte := leBytes 4 1 ++ leBytes 2 0xFFFF ++ leBytes 2 0 ++ leBytes 4 3 ++ leBytes 4 0 ++ leBytes 8 0 ++ leBytes 8 0
theorem test_meets_graphComplete :
    let x := { launch0 (0x6000 * 2 ^ 320) with next := 3, queued := false, graph := 0x1000, retired := 3 }
    let g : Graph :=
      { header := 0x1000, state := 2, supervisor := false, statusAddr := 0x5000, nodes := 2, tag := 0, done := 0, failed := 0, rejected := 0xFFFFFFFF
        field := 0xFFFF, prio7 := false }
    let q := { part0 with graphs := [g] }
    let u (m : Memory) : State := { served q [x] Core.reset with mem := m }
    let m := succMem.write (2 ^ 21 + 0x4000) ended
    let m' := m.write (2 ^ 21 + 0x10A4) (leBytes 4 1)
    Quiet (u succMem) 0 ∧ (u succMem).time = 0 ∧ bitsN x.node 95 64 ≤ x.next ∧ (∀ d : DieId, x.claims[d] = []) ∧ x.resident = 0 ∧ x.saved = 0 ∧
    x.lost = 0 ∧ bitsN x.node 452 448 = 0 ∧ Mapped (u succMem) 0 (x.node.extractLsb' 448 64) Need.write (2 ^ 21 + 0x4000) ∧ m.wf = true ∧
    Wrote succMem m (2 ^ 21 + 0x4000) ended ∧ x.node.extractLsb' 320 64 = 0x6000 ∧ Mapped (u m) 0 0x6000 Need.exec (2 ^ 21 + 0x6000) ∧
    m.num (2 ^ 21 + 0x6000) 4 = 1 ∧ m.num (2 ^ 21 + 0x6004) 4 = 1 ∧ x.graph + BitVec.ofNat 64 (64 + 64 * 1) + 36 = 0x10A4 ∧
    Mapped (u m) 0 0x10A4 Need.execWrite (2 ^ 21 + 0x10A4) ∧ m.num (2 ^ 21 + 0x10A4) 4 = 2 ∧ m'.wf = true ∧
    Wrote m m' (2 ^ 21 + 0x10A4) (leBytes 4 1) ∧ Mapped (u m') 0 g.statusAddr Need.write (2 ^ 21 + 0x5000) := by
  have h : succMem.wf = true := by decide +kernel
  have page (s : State) (va : Word) (need : Need) (n : Nat)
      (hw : s.walk s.parts[(0 : PartId)].ptRoot va = .leaf (BitVec.ofNat 64 (leaf 4)) 0xC000 false)
      (hn : s.leafBase (BitVec.ofNat 64 (leaf 4)) + va.toNat % 2 ^ 19 = n) : Mapped s 0 va need n :=
    ⟨BitVec.ofNat 64 (leaf 4), 0xC000, false, hw, by rcases need with ⟨r, w, x⟩; cases r <;> cases w <;> cases x <;> decide, by decide,
      fun _ => by decide, hn.symm⟩
  exact ⟨⟨⟨rfl, rfl, rfl, h, rfl⟩, fun cl => by simp [served, pkg, State.reset, Cluster.reset], by simp [served, put, part0, Partition.reset]⟩, rfl,
    by decide +kernel, by decide, rfl, rfl, rfl, by decide +kernel, page _ _ _ _ (by decide +kernel) (by decide +kernel), by decide +kernel,
    fun q => Memory.get_write _ _ _ h, by decide +kernel, page _ _ _ _ (by decide +kernel) (by decide +kernel), by decide +kernel, by decide +kernel,
    by decide +kernel, page _ _ _ _ (by decide +kernel) (by decide +kernel), by decide +kernel, by decide +kernel,
    fun q => Memory.get_write _ _ _ (by decide +kernel), page _ _ _ _ (by decide +kernel) (by decide +kernel)⟩

/-- A suspended launch's entry in page 1, the save area. -/
@[irreducible] def saveMem : Memory := graphWith (listing (5 * 2 ^ 19 + 0x10000) 17 (0x1040 + 2 ^ 64 + 3 * 2 ^ 128))
theorem test_meets_suspend :
    let s := { served part0 [launch0 0] Core.reset with mem := saveMem }
    part0.enabled = true ∧ part0.resetting = false ∧ part0.ctxStatus ≠ 1 ∧ 0x80000 % 2 ^ 19 = 0 ∧ 0x80000 + 2 ^ 19 ≤ 2 ^ 52 ∧
    s.walk part0.ptRoot (at_ (0x80000 + 0x10000)) = .leaf (BitVec.ofNat 64 (leaf 5)) 0xC008 false ∧
    s.mem.num (5 * 2 ^ 19 + 0x10000) 8 = (launch0 0).nodeAddr.toNat ∧ (launch0 0).nodeAddr ≠ 0 ∧
    ∀ i, 0 < i → i < 1024 → s.mem.num (5 * 2 ^ 19 + 0x10000 + 32 * i) 8 = 0 := by
  refine ⟨by decide +kernel, by decide +kernel, by decide +kernel, by decide +kernel, by decide +kernel, by decide +kernel, by decide +kernel, by decide +kernel,
    fun i h0 h1 => num_unlisted fun c hc => ?_⟩
  have : ∀ c ∈ saveMem, c.1 < 5 * 2 ^ 19 + 0x10000 + 32 ∨ 6 * 2 ^ 19 ≤ c.1 := by decide +kernel
  have := this c hc
  omega
/-- A suspend with nothing left to save, and a resume with no image. -/
theorem test_meets_ctxctlDone :
    let q := { part0 with ctxStatus := 1, ctxOp := 1, suspended := true }
    let s := served q [launch0 0] Core.reset
    q.resetting = false ∧ q.freeze = none ∧ (launch0 0).level < 7 ∧ Quiet s 0 ∧ { q with ctxOp := 2 }.ctxOp = 2 ∧
    s.walk q.ptRoot 0x80000 = .leaf (BitVec.ofNat 64 (leaf 5)) 0xC008 false ∧
    (∀ c : CoreId, s.cores[c].blocks = []) ∧ (∀ d : DieId, (launch0 0).claims[d] = []) ∧
    ∀ i, i < 4096 → s.mem.num (5 * 2 ^ 19 + 16 * i) 8 = 0 := by
  refine ⟨rfl, rfl, by decide +kernel, quiet_served _ _ _ rfl, rfl, by decide +kernel, fun c => ?_, by decide +kernel,
    fun i h1 => num_unlisted fun c hc => ?_⟩
  · rw [show (served _ _ Core.reset).cores = (pkg Core.reset).cores from rfl, pkg_core]; simp [Core.reset]
  · have : ∀ c ∈ graphMem, c.1 < 5 * 2 ^ 19 ∨ 6 * 2 ^ 19 ≤ c.1 := by decide +kernel
    have := this c hc
    omega
theorem test_meets_freeze : (served { part0 with freeze := some ⟨1, 3, false⟩ } [] Core.reset).parts[(0 : PartId)].freeze = some ⟨1, 3, false⟩ ∧
    (served { part0 with freeze := some ⟨2, 3, true⟩ } [] Core.reset).launches = [] := by decide +kernel

/-- A saved block's image in the save area, of one warp whose scalar register 5 is pending, and its entry. -/
@[irreducible] def imageMem (state : Nat) : Memory :=
  graphWith (listing (5 * 2 ^ 19) 16 (0x18000 + 3 * 2 ^ 64 + state * 2 ^ 96 + 3 * 2 ^ 104) ++
    listing (5 * 2 ^ 19 + 0x18000) 0x50
      (0x58434A47 + 2 ^ 32 + 3 * 2 ^ 48 + 3 * 4096 * 2 ^ 64 + 2 ^ 104 + 0x1040 * 2 ^ 128 + 0x1000 * 2 ^ 512 + 0x1000 * 2 ^ 544 +
        0x2000 * 2 ^ 576 + 48 * 2 ^ 608) ++
    listing (5 * 2 ^ 19 + 0x1A000) 48 (1 + 2 ^ 128 + 3 * 2 ^ 136 + 5 * 2 ^ 144 + 8 * 2 ^ 160 + 2 ^ 192 + 77 * 2 ^ 256))
@[irreducible] def image0 : List Byte := (imageMem 2).read (5 * 2 ^ 19 + 0x18000) (4096 * 3)
def extra0 : SavedExtra :=
  { entry := 0, launch := 5, core := 0, group := none, broken := false, bid := 9, microWait := none, warps := [], ops := [], arrived := [] }
def imaged (p : Partition) (state : Nat) : State := { served p [launch0 0] Core.reset with mem := imageMem state }
/-- Of ContextsSuspendAndMove: the image is sound, a victim's and a READY one; the core is vacant. -/
theorem test_meets_soundImage : SoundImage image0 0 ∧ numAt image0 0x10 8 = 0x1040 ∧ numAt image0 (bufferAt image0 0) 4 = 1 := by
  have d : ∀ j, j < 1 → allotOf image0 0 13 j ≤ 128 ∧ allotOf image0 13 5 j ≤ 16 ∧ allotOf image0 18 3 j ≤ 4 ∧ allotOf image0 21 3 j ≤ 4 ∧
      ∀ i, i < numAt image0 (bufferAt image0 j) 4 → 1 ≤ numAt image0 (entryAt image0 (bufferAt image0 j) i) 1 ∧
        numAt image0 (entryAt image0 (bufferAt image0 j) i) 1 ≤ 9 ∧
        (numAt image0 (entryAt image0 (bufferAt image0 j) i) 1 = 2 → numAt image0 (entryAt image0 (bufferAt image0 j) i + 2) 2 < 24) ∧
        numAt image0 (entryAt image0 (bufferAt image0 j) i + 4) 4 =
          [0, 8, 1, 8, 256, 1024, 1025, 82, 512, 8].getD (numAt image0 (entryAt image0 (bufferAt image0 j) i) 1) 0 := by decide +kernel
  have n : numAt image0 0x0D 1 = 1 := by decide +kernel
  unfold SoundImage
  rw [n]
  exact ⟨⟨by decide +kernel, by decide +kernel, by decide +kernel, by decide, by decide, by decide +kernel, by decide +kernel, by decide +kernel, d,
    by decide +kernel, by decide +kernel, by decide +kernel, by decide +kernel, by decide +kernel, by decide +kernel,
    fun buf => by cases buf <;> decide +kernel, by decide +kernel, by decide +kernel, by decide +kernel⟩, by decide +kernel, by decide +kernel⟩
theorem vacant_of {s : State} {p : Partition} {k : Core} {c : CoreId} (hs : s.cores = (pkg k).cores) (hl : s.clusters = State.reset.clusters)
    (hq : s.parts = put State.reset.parts 0 p) (hp : bitsN p.qos 72 64 = 0) (hc : c ≠ 0 ∨ k = Core.reset) : Vacant s 0 c := by
  have h : s.cores[c] = Core.reset := by
    rw [hs, pkg_core]
    rcases hc with h | rfl
    · rw [if_neg h]
    · split <;> rfl
  have hn : ((List.finRange 320).filter fun d : CoreId => s.cores[d].blocks.any fun b => b.part == (0 : PartId)).length < 320 := by
    refine Nat.lt_of_lt_of_eq (List.length_filter_lt_length_iff_exists.mpr ⟨1, List.mem_finRange 1, ?_⟩) (List.length_finRange ..)
    rw [hs, pkg_core, if_neg (by decide)]
    decide
  unfold Vacant
  rw [h]
  refine ⟨rfl, fun w => ?_, rfl, rfl, rfl, rfl, ?_, fun r hr => (nomatch hr), fun buf => by cases buf <;> rfl, ?_⟩
  · revert w; decide +kernel
  · simp [hl, State.reset, Cluster.reset]
  · rw [show s.parts[(0 : PartId)] = p from by simp [hq, put], hp]
    exact hn
/-- The two images are the same bytes. -/
theorem image_read (n : Nat) (h : n = 2 ∨ n = 4) : (imageMem n).read (5 * 2 ^ 19 + 0x18000) (4096 * 3) = image0 := by
  unfold image0
  rcases h with rfl | rfl
  · rfl
  · rw [show imageMem 4 = (imageMem 2).write (5 * 2 ^ 19 + 12) [4] from by decide +kernel]
    refine List.map_congr_left fun i _ => Memory.get_write_outside _ _ _ (by decide +kernel) (.inr ?_)
    rw [List.length_singleton]
    exact Nat.le_add_right_of_le (by norm_num)
theorem test_meets_images :
    ∀ y ∈ [({ part0 with saved := [extra0] }, 2), ({ part0 with saved := [extra0], ctxOp := 2, ctxStatus := 1 }, 4)],
      let s := imaged y.1 y.2
      Quiet s 0 ∧ Vacant s 0 0 ∧ s.walk part0.ptRoot 0x80000 = .leaf (BitVec.ofNat 64 (leaf 5)) 0xC008 false ∧
      s.mem.num (5 * 2 ^ 19) 8 = 0x18000 ∧ s.mem.num (5 * 2 ^ 19 + 8) 4 = 3 ∧ s.mem.num (5 * 2 ^ 19 + 12) 1 = y.2 ∧
      s.mem.read (5 * 2 ^ 19 + 0x18000) (4096 * 3) = image0 := by
  intro y hy
  simp only [List.mem_cons, List.not_mem_nil, or_false] at hy
  rcases hy with rfl | rfl <;>
    exact ⟨⟨⟨rfl, rfl, rfl, by decide +kernel, rfl⟩, fun cl => by simp [imaged, served, pkg, State.reset, Cluster.reset],
        by simp [imaged, served, put, part0, Partition.reset]⟩,
      vacant_of (k := Core.reset) rfl rfl rfl (by decide +kernel) (.inr rfl), by decide +kernel, by decide +kernel, by decide +kernel, by decide +kernel,
      image_read _ (by decide)⟩
theorem test_meets_images_launch : (launch0 0).latched = true ∧ (launch0 0).nodeAddr = 0x1040 ∧ bitsN (launch0 0).node 219 216 = 0 ∧
    extra0.entry = 0 ∧ extra0.core = 0 ∧ extra0.launch = (launch0 0).lid ∧ extra0.microWait = none ∧ 0x18000 + 4096 * 3 ≤ 2 ^ 19 := by decide +kernel
def thin : Block := { b0 with kdesc := kdesc0, node := node0 0, wb := ⟨0, 0⟩, ab := ⟨0, 0⟩, cb := ⟨0, 0⟩ }
def bare : Warp := { x0 with curV := 8, curH := 0, curC := 0, curK := 0 }
/-- Core 0 holds a block of one warp with 8 vector registers; its sensor reads t_mig, and core 1 of its die is vacant. -/
def hot : State := served part0 [{ launch0 0 with resident := 1 }] { coreWith bare thin with sensor := 0x05F0 }
theorem test_meets_thermalMigration :
    let l := { launch0 0 with resident := 1 }
    Quiet hot 0 ∧ Vacant hot 0 1 ∧ hot.cores[(0 : CoreId)].blocks = [thin] ∧ hot.launches = [l] ∧ l.lid = thin.launch ∧ l.node = thin.node ∧
    l.kdesc = thin.kdesc ∧ l.latched = true ∧ thin.restoring = false ∧ thin.halted = false ∧ thin.microWait = none ∧ thin.group = none ∧
    thin.node.getLsbD 160 = false ∧ thin.node.getLsbD 161 = false ∧ part0.enabled = true ∧ part0.freeze = none ∧
    hot.clusters[clusterOf 0].lease = none ∧ dieOf 0 = dieOf 1 ∧
    (hot.therm.extractLsb' 0 16).toInt ≤ hot.cores[(0 : CoreId)].sensor.toInt ∧ { thin with moveTo := some 1 }.moveTo = some 1 ∧
    (bitsN thin.node 239 224 = 0 ∧ bitsN thin.node 255 240 = 0 ∧ bitsN thin.node 271 256 = 0) ∧
    thin.warps.map (fun w => hot.cores[(0 : CoreId)].warps[w]) = [bare].map some ∧
    (bare.bid = thin.bid ∧ bare.state = .boundary ∧ bare.pos = 0 ∧ bare.pending = [] ∧ bare.records = [] ∧ bare.held = [] ∧ bare.withheld = 0 ∧
      bare.wid < 8 ∧ bare.dstack.length ≤ 16 ∧ bare.shape.toNat < 64 ∧ bare.fpc &&& 0xFFFFFFFF000003FF = bare.fpc ∧ bitsN bare.fpc 2 0 ≤ 4) := by
  refine ⟨quiet_served _ _ _ rfl, vacant_of rfl rfl rfl (by decide +kernel) (.inl (by decide)), rfl, rfl, by decide +kernel, by decide +kernel, rfl, rfl, rfl, rfl,
    rfl, rfl, by decide +kernel, by decide +kernel, rfl, rfl, ?_, rfl, by decide +kernel, rfl, by decide +kernel, rfl, by decide +kernel⟩
  simp [hot, served, pkg, State.reset, Cluster.reset]

/-- Of ClocksHeatAndCurrent: a lease at its end, held by a core of its cluster; a cell at melt_hi, at 1,024 and below melt_lo; sensors
at the thresholds; a trip with eight cool sensors; a switch due; a droop after the last; a step above 200 W; a rise on one ramp. -/
theorem test_meets_clocks :
    let s := pkg (coreWith x0 b0)
    let k : Cluster := { Cluster.reset with lease := some ⟨0, 0, 0, 1, 9000⟩ }
    k.lease = some ⟨0, 0, 0, 1, 9000⟩ ∧ Cluster.reset.tripped = false ∧ s.warp? 0 0 = some x0 ∧ x0.bid = 1 ∧ s.cores[(0 : CoreId)].block? 1 = some b0 ∧
    (∀ cl' : ClusterId, ∀ l' : Lease, { s with clusters := put s.clusters 0 k }.clusters[cl'].lease = some l' → clusterOf l'.core = cl') ∧
    { s with parts := put s.parts 0 { Partition.reset with suspended := true, ctxOp := 1 } }.parts[b0.part].suspended = true ∧
    s.parts[b0.part].suspended = false ∧ s.cores[(0 : CoreId)].stopped = none ∧ b0.moveTo = none ∧
    clusterOf 0 = 0 ∧ (1024 : BitVec 11).toNat = 1024 ∧ bitsN cellReset 26 16 ≤ (896 : BitVec 11).toNat ∧ (896 : BitVec 11).toNat < 1024 ∧
    bitsN cellReset 42 32 < bitsN cellReset 26 16 ∧ bitsN cellReset 26 16 ≤ 1024 ∧ (255 : BitVec 11).toNat < bitsN cellReset 42 32 ∧
    (0x0660 : BitVec 16).toInt < (thermReset.extractLsb' 32 16).toInt ∧
    (thermReset.extractLsb' 0 16).toInt < (thermReset.extractLsb' 16 16).toInt ∧ (thermReset.extractLsb' 16 16).toInt ≤ (0x0660 : BitVec 16).toInt ∧ (0x05EF : BitVec 16).toInt < (thermReset.extractLsb' 0 16).toInt ∧
    (thermReset.extractLsb' 32 16).toInt ≤ (0x06E0 : BitVec 16).toInt ∧ (thermReset.extractLsb' 16 16).toInt < (thermReset.extractLsb' 32 16).toInt ∧
    (List.replicate 8 (0x05EF : BitVec 16)).length = 8 ∧ { k with tripped := true }.tripped = true ∧ { k with pendingDiv := true }.pendingDiv = true ∧
    ({ k with stretched := some 0 }.stretched = some 0 ∧ 0 + 8 * k.div ≤ 32) ∧ 200 < 201 ∧ Core.reset.retired = false ∧
    Core.reset.blocks = [] ∧ { s with ballast := [(0, 201)] }.ballast = (0, 201) :: [] ∧ s.power < 100 := by
  refine ⟨rfl, rfl, rfl, rfl, rfl, fun cl' l' h => ?_, by decide +kernel⟩
  by_cases hc : cl' = 0
  · subst hc
    have : l' = ⟨0, 0, 0, 1, 9000⟩ := by simpa [put] using h.symm
    subst this; rfl
  · have hne : (0 : Nat) ≠ cl'.val := fun e => hc (Fin.ext e.symm)
    simp [put, hne, pkg, State.reset, Cluster.reset] at h
/-- Of ErrorsLossesAndEvictions. -/
theorem test_meets_errors :
    let s := pkg (coreWith x0 b0)
    let x : Sector := { num := 5, part := 0, data := 7, valid := 1, marked := 1 }
    let cached := s.modCluster 0 fun k => { k with l2 := [x] }
    s.launches = [] ∧ (3 * 2 ^ 50 + 5) / 2 ^ 50 = (3 : Fin 4).val ∧ s.cores[(0 : CoreId)].retired = false ∧
    s.clusters[clusterOf 0].lease = none ∧ b0.group = none ∧ (∀ link : Fin 32, s.lanes[link].getLsbD 7 = true) ∧
    (∀ i : Fin 8, s.cores[coreOf 1 i].holder = none ∧ s.cores[coreOf 1 i].standings = []) ∧ (s.modCluster 1 fun k => { k with retention := true }).clusters[
      (1 : ClusterId)].retention = true ∧
    (s.modCluster 1 fun k => { k with retention := true }).clusters[(1 : ClusterId)].lease = none ∧
    { s with lanes := put s.lanes 3 0x7F }.lanes[(3 : Fin 32)].getLsbD 7 = false ∧
    s.mem.wf = true ∧ cached.refuses (64 * 5) = false ∧ cached.clusters[(0 : ClusterId)].sector? 5 = some x := by decide +kernel
/-- Of HostControlOfPartitions: a request that nothing refuses and one for each reason; a reset; QoS records; a pending vector. -/
theorem test_meets_hostControl :
    let off : Partition := { part0 with enabled := false }
    let s (q : Partition) : State := served q [] Core.reset
    (∀ i : PartId, i ≠ 0 → (s off).parts[i].enabled = false) ∧ (s off).launches = [] ∧ off.enabled = false ∧ (1 : BitVec 32).getLsbD 0 = true ∧
    (bitsN (1 : BitVec 32) 31 4 = 0 ∧ bitsN off.ptRoot 63 53 = 0 ∧ bitsN off.ptRoot 50 40 = 0 ∧ bitsN off.ptRoot 7 1 = 0 ∧ off.sqSize = 2 ^ 4 ∧
      off.fqSize = 4 ∧ off.saveSize % 4096 = 0 ∧ bitsN off.ptRoot 13 9 = 0 ∧ off.fqBase.toNat % 4096 = 0 ∧ off.saveBase.toNat % 4096 = 0 ∧
      off.sqBase.toNat % 32 = 0 ∧ tableOk off.ptRoot = true ∧ bitsN off.qos 63 56 ≤ bitsN off.qos 55 48) ∧
    (s off).failedStacks = [] ∧ (s off).areaMapped off.ptRoot off.fqBase (64 * 2 ^ off.fqSize) = true ∧ (s off).areaMapped off.ptRoot off.saveBase off.saveSize = true ∧
    bitsN (0x11 : BitVec 32) 31 4 ≠ 0 ∧ tableOk 0x4101 = false ∧ bitsN (BitVec.ofNat 128 (2 ^ 56)) 55 48 < bitsN (BitVec.ofNat 128 (2 ^ 56)) 63 56 ∧
    (s off).areaMapped off.ptRoot 0x200000 64 = false ∧ qosLimits 0 = true ∧ bitsN cellReset 10 0 < 1024 ∧
    (∀ op ∈ [0, 1, 2, 3], bitsN (BitVec.ofNat 64 (0x8000000040000 + op) : BitVec 64) 2 0 = op) ∧ bitsN State.reset.firmware.mbStat 7 0 ≠ 1 ∧
    (bitsN (0x10003800000 : BitVec 64) 42 32 < bitsN (0x10003800000 : BitVec 64) 26 16 ∧ bitsN (0x10003800000 : BitVec 64) 26 16 ≤ 1024) ∧
    bitsN (0x10001000000 : BitVec 64) 26 16 ≤ bitsN (0x10001000000 : BitVec 64) 42 32 ∧
    { part0 with intPend := 0x80000000 }.intPend.getLsbD 31 = true := by decide +kernel
theorem test_meets_partitionResetDone : Quiet (served { part0 with resetting := true } [launch0 0] (coreWith x0 b0)) 0 ∧
    { part0 with resetting := true }.resetting = true ∧ (served { part0 with resetting := true } [launch0 0] (coreWith x0 b0)).waitsFar 0 = false :=
  ⟨quiet_served _ _ _ rfl, rfl, by decide +kernel⟩
/-- Of TraceSamplesAndBreakpoints: the last record of a trace; a breakpoint whose fields are all exact, and one whose fields are open. -/
def traced : Partition :=
  { part0 with
    trace := BitVec.ofNat 256 (9 * 2 ^ 64 + 2 ^ 128 + 64 * 2 ^ 160 + (2 ^ 50 + 0x9000) * 2 ^ 192)
    breaks := put part0.breaks 0 (BitVec.ofNat 256 (1 + 0xFFFFFFFF * 2 ^ 128 + 0x80000 * 2 ^ 192)) }
def holding : Core :=
  { coreWith { x0 with stroke := [{ glyph := 0, slots := Vector.replicate 9 0, g := 0 }], decoded := true, state := .midStroke } b0 with
    holder := some 0 }
theorem test_meets_trace :
    let s := served traced [] holding
    let q := s.parts[(0 : PartId)]
    let base := bitsN q.trace 255 192
    let fill := bitsN q.trace 159 128
    let r := q.breaks[(0 : Fin 8)]
    (s.cores[(0 : CoreId)].block? 1 = some b0 ∧ b0.restoring = false ∧ b0.part = 0) ∧ s.coreRuns 0 = true ∧ s.cores[(0 : CoreId)].holder = some 0 ∧
    s.clusters[clusterOf 0].l2 = [] ∧ s.heldTrace = [] ∧ bitsN q.trace 95 64 ≠ 0 ∧ s.cores[(0 : CoreId)].sampleIn = 0 ∧ 32 * fill < bitsN q.trace 191 160 ∧ (base + 32 * fill) / 2 ^ 50 % 2 = 1 ∧
    (base + 32 * fill) % 2 ^ 50 + 32 ≤ 2 ^ 50 ∧ s.issue = none ∧ s.cores[(0 : CoreId)].breakSkip = false ∧ r.getLsbD 0 = true ∧
    bitsN r 95 64 = (0 : BitVec 32).toNat ∧ bitsN r 127 96 = bitsN b0.kdesc 319 288 ∧ bitsN r 159 128 = x0.baraPhase.toNat ∧
    bitsN r 191 160 = b0.index % 2 ^ 32 ∧ bitsN r 255 192 = b0.nodeAddr.toNat ∧ s.mem.wf = true := by decide +kernel

/-- Of RingCommandsAreConsumed: the doorbell at the ring's size and one beyond it; each command at the head. -/
theorem test_meets_ring :
    (0x11 - 1 - part0.sqHead : BitVec 32).toNat ≤ part0.sqSize ∧ part0.sqSize < (0x11 - part0.sqHead : BitVec 32).toNat ∧
    (0x10 - part0.sqTail : BitVec 32).toNat ≤ part0.sqSize ∧ part0.sqHead ≠ part0.sqTail ∧ part0.sqSize ≠ 0 ∧
    (∀ cmd ∈ [0, 1, 2, 3], let e : BitVec 256 := BitVec.ofNat 256 (cmd + 0x77 * 2 ^ 128 + 0x1000 * 2 ^ 192)
      bitsN e 127 8 = 0 ∧ bitsN e 197 192 = 0 ∧ bitsN e 7 0 = cmd) ∧
    (let s := served part0 [] Core.reset
     let e : BitVec 256 := BitVec.ofNat 256 (s.mem.num (4 * 2 ^ 50 + 0x100) 32)
     let hd : BitVec 512 := BitVec.ofNat 512 (s.mem.num (2 ^ 21 + 0x1000) 64)
     e = BitVec.ofNat 256 (1 + 0x77 * 2 ^ 128 + 0x1000 * 2 ^ 192) ∧ bitsN hd 452 448 = 0 ∧ bitsN hd 447 416 = 1 ∧
     bitsN hd 415 384 = 0x52474A47 ∧ bitsN hd 383 0 = 0 ∧ hd.extractLsb' 448 64 = 0x5000) ∧ 4 ≤ bitsN (4 : BitVec 256) 7 0 := by decide +kernel
/-- The node of the ring's graph is read without a change of the package, and nothing rejects it. -/
def nodeRead0 : NodeRead := { node := node0 0, kdesc := some kdesc0, header := some header0, succs := some [], completionOk := true }
def graph0 (state : Nat) : Graph :=
  { header := 0x1000, state := state, supervisor := false, statusAddr := 0x5000, nodes := 1, tag := 0, done := 0, failed := 0, rejected := 0xFFFFFFFF
    field := 0xFFFF, prio7 := false }
/-- The partition with that graph loaded, or in progress. -/
def loaded (g : List Graph) : State := served { part0 with graphs := g } [] Core.reset
/-- The device reads page 0 without a change. -/
theorem devGet_loaded {g : List Graph} {node va : Word} {n : Nat} (h0 : 0 < n) (hv : va.toNat + n ≤ 2 ^ 19)
    (hw : (loaded g).walk part0.ptRoot va = .leaf (BitVec.ofNat 64 (leaf 4)) 0xC000 false)
    (hb : (loaded g).leafBase (BitVec.ofNat 64 (leaf 4)) + bitsN va 18 0 = 2 ^ 21 + va.toNat) :
    (loaded g).devGet 0 0 node va n = (loaded g, some (graphMem.read (2 ^ 21 + va.toNat) n)) := by
  have hd := devRead_page (die := 0) (need := Need.exec) (s := loaded g) (p := 0) (n := n)
    (show graphMem.wf = true by decide +kernel) rfl (fun cl => by simp [loaded, served, pkg, State.reset, Cluster.reset]) rfl rfl
    (show (loaded g).walk (loaded g).parts[(0 : PartId)].ptRoot va = _ from hw) (by decide) rfl (by decide) h0
    (by rw [Nat.mod_eq_of_lt (by omega)]; omega)
  unfold State.devGet
  rw [hd]
  simp only [if_neg (show ¬(false = true) by decide), hb]
  rfl
theorem test_meets_readNode : ∀ g ∈ [[], [graph0 1], [graph0 2]],
    (loaded g).readNode 0 0 0x1040 = (loaded g, some nodeRead0) ∧ (loaded g).nodeFault 0 nodeRead0 1 false false = none := by
  intro g hg
  simp only [List.mem_cons, List.not_mem_nil, or_false] at hg
  refine ⟨?_, by rcases hg with rfl | rfl | rfl <;> decide +kernel⟩
  have h1 : ofBytes 512 (graphMem.read (2 ^ 21 + (0x1040 : Word).toNat) 64) = node0 0 := by decide +kernel
  have h2 : ofBytes 512 (graphMem.read (2 ^ 21 + (ndKdesc (node0 0)).toNat) 64) = kdesc0 := by decide +kernel
  have h3 : ofBytes 2048 (graphMem.read (2 ^ 21 + (kdesc0.extractLsb' 64 64).toNat) 256) = header0 := by decide +kernel
  have h4 : (loaded g).writable 0 (ndCompletion (node0 0)) = true := by rcases hg with rfl | rfl | rfl <;> decide +kernel
  have w1 : (loaded g).walk part0.ptRoot 0x1040 = .leaf (BitVec.ofNat 64 (leaf 4)) 0xC000 false := by
    rcases hg with rfl | rfl | rfl <;> decide +kernel
  have w2 : (loaded g).walk part0.ptRoot (ndKdesc (node0 0)) = .leaf (BitVec.ofNat 64 (leaf 4)) 0xC000 false := by
    rcases hg with rfl | rfl | rfl <;> decide +kernel
  have w3 : (loaded g).walk part0.ptRoot (kdesc0.extractLsb' 64 64) = .leaf (BitVec.ofNat 64 (leaf 4)) 0xC000 false := by
    rcases hg with rfl | rfl | rfl <;> decide +kernel
  have b1 : (loaded g).leafBase (BitVec.ofNat 64 (leaf 4)) + bitsN (0x1040 : Word) 18 0 = 2 ^ 21 + (0x1040 : Word).toNat := by
    rcases hg with rfl | rfl | rfl <;> decide +kernel
  have b2 : (loaded g).leafBase (BitVec.ofNat 64 (leaf 4)) + bitsN (ndKdesc (node0 0)) 18 0 = 2 ^ 21 + (ndKdesc (node0 0)).toNat := by
    rcases hg with rfl | rfl | rfl <;> decide +kernel
  have b3 : (loaded g).leafBase (BitVec.ofNat 64 (leaf 4)) + bitsN (kdesc0.extractLsb' 64 64) 18 0 =
      2 ^ 21 + (kdesc0.extractLsb' 64 64).toNat := by rcases hg with rfl | rfl | rfl <;> decide +kernel
  have h5 : ndSucc (node0 0) = 0 := by decide +kernel
  unfold State.readNode
  rw [devGet_loaded (by decide) (by decide) w1 b1]
  simp only [h1]
  rw [devGet_loaded (by decide) (by decide +kernel) w2 b2]
  simp only [Option.map_some, h2]
  rw [devGet_loaded (by decide) (by decide +kernel) w3 b3]
  simp only [Option.map_some, h3, State.readSuccs, h5, if_true, h4]
  rfl
/-- Of the LAUNCH of CopiesMoveAndComplete: the node of that graph with one predecessor left, the memory once it is counted, and a
node that no page maps. -/
theorem test_meets_launchAnswers :
    let m := graphMem.write (2 ^ 21 + 0x1040 + 36) [1]
    let s := loaded [graph0 1]
    (∀ st ∈ [1, 2], (graph0 st).state = 1 ∨ (graph0 st).state = 2) ∧ (0x1040 : Word).toNat = (graph0 1).header.toNat + 64 + 64 * 0 ∧
    (0x1040 : Word).toNat % 64 = 0 ∧ m.num (2 ^ 21 + 0x1040 + 36) 4 = 1 ∧ graphMem.num (2 ^ 21 + 0x1040 + 36) 4 = 0 ∧
    (m.num (2 ^ 21 + 0x1040) 64).testBit 162 = false ∧ (node0 (2 ^ 162)).toNat.testBit 162 = true ∧
    Wrote m graphMem (2 ^ 21 + 0x1040 + 36) (leBytes 4 0) ∧ s.parts[(0 : PartId)].graphs = [graph0 1] ∧
    s.walk s.parts[(0 : PartId)].ptRoot 0x200000 = .fault ∧ bitsN nodeRead0.node 154 152 < 7 := by
  refine ⟨by decide, by decide, by decide, by decide +kernel, by decide +kernel, by decide +kernel, by decide +kernel, fun q => ?_, by decide +kernel,
    by decide +kernel, by decide +kernel⟩
  have hw : graphMem.wf = true := by decide +kernel
  rw [Memory.get_write _ _ _ hw]
  have zero : ∀ i, i < 4 → graphMem.get (2 ^ 21 + 0x1040 + 36 + i) = (leBytes 4 0).getD i 0 := by decide +kernel
  have h4 : (leBytes 4 0).length = 4 := by decide
  have h1 : ([1] : List Byte).length = 1 := rfl
  rw [h4, h1]
  split
  · rw [← zero (q - (2 ^ 21 + 0x1040 + 36)) (by omega), show 2 ^ 21 + 0x1040 + 36 + (q - (2 ^ 21 + 0x1040 + 36)) = q by omega]
  · rw [if_neg (by omega)]
theorem test_meets_graphs : (graph0 1).state = 1 ∧ (graph0 2).state = 2 ∧ (graph0 1).header = 0x1000 ∧ (graph0 1).statusAddr.toNat % 32 = 0 ∧
    (graph0 1).nodes = 1 ∧ (0x1000 + 64 : Word).toNat % 64 = 0 ∧ (served part0 [] Core.reset).mem.num (2 ^ 21 + 0x1040 + 36) 4 = 0 ∧
    bitsN nodeRead0.node 154 152 < 7 := by decide +kernel

/-- Of TranslationRequestsOfTheHost: a request for each operation; a migration of page 2 to frame 9 and its last line. The host's
descriptor lies at 0x6000 of die 0. -/
@[irreducible] def descMem : Memory := graphWith (listing 0x600000 16 (0x100000 + (2 ^ 19 * 9 + 0x119 + 0x20) * 2 ^ 64))
theorem test_meets_migration :
    let s := { served part0 [] Core.reset with mem := descMem, requests := [{ op := .migratePage 0 0x600000 .host, after := [] }] }
    s.heldHost = [] ∧ s.heldDev = [] ∧ s.heldTrace = [] ∧ s.failedStacks = [] ∧ 0x600000 % 2 ^ 50 + 64 ≤ Config.dieBytes ∧ s.badMigration (s.mem.read 0x600000 64) = none ∧ BitVec.ofNat 64 (s.mem.num 0x600000 8) = (0x100000 : Word) ∧
    s.walk s.parts[(0 : PartId)].ptRoot 0x100000 = .leaf (BitVec.ofNat 64 (leaf 6)) 0xC010 false ∧ bitsN (BitVec.ofNat 64 (leaf 6)) 18 17 = 0 ∧
    s.mem.num (0x600000 + 32) 32 = 0 := by decide +kernel
theorem test_meets_dirtyLog :
    let s := { served part0 [] Core.reset with requests := [{ op := .setDirtyLog 0 0x700000 .host, after := [] }] }
    BitVec.ofNat 64 (s.mem.num 0x700000 8) = 0 ∧ BitVec.ofNat 64 (s.mem.num 0x700008 8) = 0 ∧ s.mem.num 0x700010 8 ≤ 2 ^ 33 ∧ 0x700000 % 2 ^ 50 + 64 ≤ Config.dieBytes ∧
    s.mem.num (0x700000 + 32) 32 = 0 := by decide +kernel
theorem test_meets_invalidation :
    (served part0 [] Core.reset).walk part0.ptRoot 0x80000 = .leaf (BitVec.ofNat 64 (leaf 5)) 0xC008 false ∧
    (∀ c : CoreId, (served part0 [] Core.reset).cores[c].blocks = []) ∧ Quiet (served part0 [] Core.reset) 0 := by
  refine ⟨by decide +kernel, fun c => ?_, quiet_served _ _ _ rfl⟩
  · rw [show (served part0 [] Core.reset).cores = (pkg Core.reset).cores from rfl, pkg_core]; simp [Core.reset]
def migration0 (line : Nat) : Migration :=
  { mid := 1, part := 0, page := 0x100000, leafAt := 0xC010, oldFrame := 6, newLeaf := 2 ^ 19 * 9 + 0x119 + 0x20, notice := 0, statusAddr := 0x600000
    host := true, who := .host, nextLine := line, poisonedLines := 0 }
theorem test_meets_lineCopy : (migration0 4094).nextLine < 4095 ∧ (migration0 4095).nextLine = 4095 ∧ (migration0 4095).nextLine < 4096 ∧
    (served part0 [] Core.reset).mem.num 0xC010 8 % 2 = 1 ∧ 0xC010 / 2 ^ 19 ≠ (migration0 0).oldFrame ∧ 0x600018 / 2 ^ 19 ≠ (migration0 0).oldFrame ∧
    0xC010 + 8 ≤ 0x600018 ∧ 0x600018 % 2 ^ 50 + 8 ≤ Config.dieBytes ∧
    0xC010 + 8 ≤ (served part0 [] Core.reset).leafBase (migration0 0).newLeaf + 128 * 4095 := by decide +kernel

/-- Of AccessesFromOutside: the last byte of page 0 and the whole of it; a signal; an unplaced managed page; a home beyond the host's. -/
theorem test_meets_outside :
    let s := { served part0 [] Core.reset with
      mem := tables [(0, leaf 4), (1, 2 ^ 16 + 2 ^ 8), (2, leaf 6)], heldHost := [{ n := 3, part := 0, access := .read 0x80000 4, sub := 1, ready := false }]
      parts := put State.reset.parts 0 { part0 with fqProd := 16 } }
    s.remoteHeld 0 = false ∧ (0x7FFFF : Word).toNat % 2 ^ 19 + [(0 : Byte)].length ≤ 2 ^ 19 ∧ (0 : Word).toNat % 2 ^ 19 + 2 ^ 19 ≤ 2 ^ 19 ∧ (0x7FFF8 : Word).toNat % 8 = 0 ∧
    (4 * 2 ^ 50 + 5) / 2 ^ 50 = 4 ∧ (4 * 2 ^ 50 + 5) % 2 ^ 50 + [(0 : Byte)].length < 2 ^ 50 ∧
    s.walk s.parts[(0 : PartId)].ptRoot 0x80000 = .managed 0x10100 0xC008 ∧ bitsN (0x10100 : Word) 15 13 = 0 ∧
    s.heldHost = [{ n := 3, part := 0, access := .read 0x80000 4, sub := 1, ready := false }] ∧ (∀ h ∈ s.heldHost, h.ready = false) ∧
    2 ^ s.parts[(0 : PartId)].fqSize ≤ (s.parts[(0 : PartId)].fqProd - s.parts[(0 : PartId)].fqCons).toNat ∧
    (part0.fqProd - part0.fqCons).toNat < 2 ^ part0.fqSize ∧ part0.fqBase.toNat % 64 = 0 ∧
    s.walk s.parts[(0 : PartId)].ptRoot (part0.fqBase + BitVec.ofNat 64 (64 * (part0.fqProd.toNat % 2 ^ part0.fqSize))) =
      .leaf (BitVec.ofNat 64 (leaf 6)) 0xC010 false ∧ 0xC008 + 8 ≤ 6 * 2 ^ 19 ∧ 5 ≤ (5 * 2 ^ 50) / 2 ^ 50 := by decide +kernel
/-- Of BootFirmwareAndAttestation. -/
theorem test_meets_boot :
    let f := State.reset.firmware
    State.reset.bootStage = 0 ∧ State.reset.keptReset = false ∧ State.reset.migrations = [] ∧ State.reset.movedFrames = [] ∧ bitsN f.mbStat 7 0 ≠ 1 ∧
    (bitsN { f with mbStat := 0x401 }.mbStat 7 0 = 1 ∧ (0x401 : BitVec 32) ≠ 0x101) ∧ State.reset.negotiated = false ∧
    { State.reset with negotiated := true }.negotiated = true ∧ f.mbAddr.toNat + 0x70 + State.reset.mem.num (4 * 2 ^ 50 + 8) 4 ≤ 2 ^ 50 ∧ f.pendingSvn = none ∧ f.standbyOk = true ∧
    { f with standbyOk := false }.standbyOk = false ∧ { f with pendingSvn := some (3, 1, 5) }.pendingSvn = some (3, 1, 5) ∧
    { State.reset with spdmReady := true }.spdmReady = true ∧ (1 : BitVec 8) ≠ 0 ∧ 5 < (6 : BitVec 8).toNat ∧ (6 : BitVec 8) ≠ 255 ∧
    f.mbAddr.toNat % 4096 = 0 ∧ f.mbLen.toNat ≠ 0x70 + State.reset.mem.num (4 * 2 ^ 50 + f.mbAddr.toNat + 8) 4 := by decide +kernel

/-! ## Witnesses: the step -/

/-- A bundle whose slot S holds an operation, K being idle; a bundle with every slot idle; an agenda. -/
def adding : State := (State.reset.withBundle 1 0x010002818380)
theorem test_meets_step :
    (∃ ix, adding.issue = some ix ∧ ix.slot ≤ 1 ∧ opcodeOf ix.word.slots[(0 : Fin 9)] = 0 ∧ opcodeOf ix.word.slots[(1 : Fin 9)] ≠ 0 ∧
      Slot.ofNum 1 = some .s ∧ decode .s ix.word.slots[(1 : Fin 9)] = .ok (.sAdd ⟨0, 0, 5, 3, 7, 0⟩)) ∧
    (∃ ix, bundle.issue = some ix ∧ ∀ m : Fin 9, opcodeOf ix.word.slots[m] = 0) ∧
    ({ State.reset with agenda := [.nop 0] }.issue = none ∧ { State.reset with agenda := [.nop 0] }.agenda = .nop 0 :: []) := by
  refine ⟨⟨adding.issue.getD ⟨0, 0, ⟨0, Vector.replicate 9 0, 0⟩, 0, 0, [], [], []⟩, by decide +kernel⟩,
    ⟨bundle.issue.getD ⟨0, 0, ⟨0, Vector.replicate 9 0, 0⟩, 0, 0, [], [], []⟩, by decide +kernel⟩, rfl, rfl⟩
/-- The package with a bundle under way on core 0, none in issue and nothing else to happen. -/
def idle : State := { State.reset.withBundle 0 0 with issue := none }
theorem firstEvent_cons {s : State} {e : Instr} {es : List Instr} (h : exec e s = .next s) : s.firstEvent (e :: es) = s.firstEvent es := by
  simp [State.firstEvent, h]
theorem idle_events : idle.events = [.userTrapDelivery 0 0, .shrinkRelease 0 0, .warpRetire 0 0, .replay 0 0, .warpAgeing 0 0, .blockRetire 0 1,
    .breakpointHit 0 0, .breakpointHit 0 1, .breakpointHit 0 2, .breakpointHit 0 3, .breakpointHit 0 4, .breakpointHit 0 5, .breakpointHit 0 6,
    .breakpointHit 0 7, .traceSample 0, .strokeGrant 0] := by decide +kernel
theorem test_meets_step_without_event : idle.issue = none ∧ idle.agenda = [] ∧ idle.firstEvent idle.events = none ∧ idle.nextCore = some 0 ∧
    idle.cores[(0 : CoreId)].holder = some 0 := by
  refine ⟨rfl, rfl, ?_, by decide +kernel, rfl⟩
  rw [idle_events]
  iterate 16 rw [firstEvent_cons rfl]
  rfl
/-- Of StepKeepsMemoriesCanonical: a package in the form, with bytes listed, that takes a step. -/
theorem test_meets_stepKeepsMemories : (served part0 [] Core.reset).mem.wf = true ∧ Core.reset.memWf = true ∧ adding.mem.wf = true ∧
    (step adding matches .next _) = true := by decide +kernel

end Sys2Proof.Tests
end

/-! PROOFS. Boot, the firmware mailbox and the SPDM messages: the bytes of a firmware image, the measurement slots, what each of
these events does, and the statement about them (spec/23_links_firmware.md R494 to R499, R507, spec/00_scope.md R10). -/

namespace Sys2Proof.Machine

open Sys2Proof.Claims

/-! ### Bytes and numbers -/

/-- The bytes within bytes read from a memory are those read at their place. -/
theorem Memory.read_drop_take (m : Memory) (x : Nat) {n i k : Nat} (h : i + k ≤ n) :
    ((m.read x n).drop i).take k = m.read (x + i) k := by
  apply List.ext_getElem
  · simp; omega
  · intro j _ _
    simp [Memory.read, Nat.add_assoc]

/-- Little-endian bytes hold a number below 2 to their count of bits. -/
theorem natOfBytes_lt (bs : List Byte) : natOfBytes bs < 2 ^ (8 * bs.length) := by
  induction bs with
  | nil => simp [natOfBytes]
  | cons b bs ih =>
    have hb : b.toNat < 256 := b.isLt
    rw [natOfBytes, List.length_cons, Nat.mul_succ, pow_add]
    omega

/-- The model's bytes of a value are the little-endian bytes of its number. -/
theorem bytesOf_eq_leBytes {m : Nat} (n : Nat) (x : BitVec m) : bytesOf n x = leBytes n x.toNat := by
  refine List.map_congr_left fun i _ => BitVec.eq_of_toNat_eq ?_
  simp [elem, Nat.shiftRight_eq_div_pow]

theorem bytesOf_zero (n m : Nat) : bytesOf n (0 : BitVec m) = List.replicate n 0 := by
  simp [bytesOf_eq_leBytes, leBytes, List.map_const']

/-- The low byte of MB_STAT is the code (R495). -/
theorem bitsN_mbStatus {code : Nat} (h : code < 256) (detail : Nat) : bitsN (mbStatus code detail) 7 0 = code := by
  simp only [bitsN, mbStatus, BitVec.toNat_ofNat]
  omega

/-! ### Images (R497) -/

theorem imSvn_toNat (h : List Byte) : (imSvn h).toNat = natOfBytes ((h.drop 4).take 4) := by
  refine Nat.mod_eq_of_lt ((natOfBytes_lt _).trans_le (Nat.pow_le_pow_right (by decide) ?_))
  have := List.length_take_le 4 (h.drop 4)
  omega

theorem imSvn_toNat_mod (h : List Byte) : (imSvn h).toNat = natOfBytes ((h.drop 4).take 4) % 2 ^ 32 := BitVec.toNat_ofNat ..

theorem imSvn_read (m : Memory) (a : Nat) : imSvn (m.read a 0x70) = BitVec.ofNat 32 (m.num (a + 4) 4) := by
  rw [imSvn, Memory.read_drop_take m a (by decide), ofBytes, Memory.num]

theorem imLength_read (m : Memory) (a : Nat) : imLength (m.read a 0x70) = m.num (a + 8) 4 := by
  rw [imLength, Memory.read_drop_take m a (by decide), Memory.num]

/-- An image that may run: its seal is good, its version is not below the floor, and its body is as long as its header says. -/
theorem storedOk_iff (im : StoredImage) : storedOk im = true ↔ fwImageOk Config.fusedKey im.header im.body = true ∧
    Config.fusedSvn.toNat ≤ natOfBytes ((im.header.drop 4).take 4) ∧ im.body.length = natOfBytes ((im.header.drop 8).take 4) := by
  simp [storedOk, BitVec.le_def, imSvn_toNat, imLength, and_assoc]

/-- Where no page migrates or has moved, host memory reads as its home holds it. -/
theorem hostBytes_still {s : State} (hg : s.migrations = []) (hv : s.movedFrames = []) {a n : Nat} (h : a + n ≤ 2 ^ 50) :
    s.hostBytes a n = s.mem.read (4 * 2 ^ 50 + a) n := by
  have hr : s.refusesAny (4 * 2 ^ 50 + a) n = false := by simp [State.refusesAny, State.refuses, hg, hv]
  rw [State.hostBytes, if_pos ⟨h, by rw [hr]; rfl⟩, State.homeRead]

/-! ### Measurement slots (R498) -/

/-- A slot's value extended with a digest. -/
def extendedBy (d m : BitVec 256) : BitVec 256 :=
  ofBytes 256 (sha256 ((bytesOf 32 m).reverse ++ (bytesOf 32 d).reverse)).reverse

theorem extend_measurements (s : State) (slot : Nat) (d : BitVec 256) :
    (s.extend slot d).measurements = upd s.measurements (fin 5 (slot - 1)) (extendedBy d) := rfl

theorem extend_measurements_other (s : State) {slot : Nat} (d : BitVec 256) {i : Fin 5} (h : i ≠ fin 5 (slot - 1)) :
    (s.extend slot d).measurements[i] = s.measurements[i] := by
  rw [extend_measurements, upd_other _ _ h]

/-- A slot extended from zero: the hash of 32 zero bytes and the digest's, the most significant byte first. -/
theorem extendedBy_zero (d : BitVec 256) : extendedBy d 0 =
    BitVec.ofNat 256 (natOfBytes (sha256 (List.replicate 32 (0 : Byte) ++ (leBytes 32 d.toNat).reverse)).reverse) := by
  rw [extendedBy, bytesOf_zero, List.reverse_replicate, bytesOf_eq_leBytes, ofBytes]

/-- Five elements, each updated once. -/
theorem upd_each_of_five {α : Type} (z : α) (f1 f2 f3 f4 f5 : α → α) :
    (upd (upd (upd (upd (upd (Vector.replicate 5 z) 0 f1) 1 f2) 2 f3) 3 f4) 4 f5).toList = [f1 z, f2 z, f3 z, f4 z, f5 z] := rfl

/-! ### Boot (R499, R507) -/

theorem booted_measurements (s : State) (b : BootInputs) : (s.booted b).measurements.toList =
    [extendedBy b.romDigest 0, extendedBy (storedDigest b.active) 0, extendedBy (storedDigest b.standby) 0,
      extendedBy b.configDigest 0, extendedBy b.routesDigest 0] := by
  simp only [State.booted, extend_measurements]
  exact upd_each_of_five 0 _ _ _ _ _

@[simp] theorem booted_mem (s : State) (b : BootInputs) : (s.booted b).mem = s.mem := by simp only [State.booted, State.extend]
@[simp] theorem booted_cores (s : State) (b : BootInputs) : (s.booted b).cores = s.cores := by simp only [State.booted, State.extend]
@[simp] theorem booted_firmware (s : State) (b : BootInputs) : (s.booted b).firmware = { s.firmware with
    svn := imSvn b.active.header, format := b.active.format, standbySvn := imSvn b.standby.header,
    standbyFormat := b.standby.format, standbyOk := storedOk b.standby } := rfl

theorem booted_lanes (s : State) (b : BootInputs) (l : Fin 32) :
    (s.booted b).lanes[l] = if l ∈ b.failedLinks then 0 else s.lanes[l] := by
  simp [State.booted, State.extend]

theorem bootId_eq (b : BootInputs) : bootId b = if ∀ r ∈ b.routes, r.1 = b.packageId then 0 else b.packageId := by
  simp [bootId]

theorem execPackageBoot_passes {s : State} {b : BootInputs} (h0 : s.bootStage = 0) (hk : s.keptReset = false)
    (hr : b.rootOk = true) (ha : storedOk b.active = true) : execPackageBoot b s = .next (s.booted b) := by
  simp [execPackageBoot, h0, hk, hr, ha]

theorem execPackageBoot_fails {s : State} {b : BootInputs} (h0 : s.bootStage = 0) (hk : s.keptReset = false)
    (h : ¬(b.rootOk = true ∧ storedOk b.active = true)) : execPackageBoot b s = .next { s with keptReset := true } := by
  have hf : (!b.rootOk || !storedOk b.active) = true := by
    rw [← Bool.not_and, Bool.not_eq_true', ← Bool.not_eq_true, Bool.and_eq_true]
    exact h
  simp [execPackageBoot, h0, hk, hf]

/-! ### Update, takeover and failover (R494 to R496) -/

/-- An update is ignored while a later step of one is in progress. -/
theorem execFirmwareUpdate_busy (im : FirmwareImage) {s : State} (h : bitsN s.firmware.mbStat 7 0 = 1 ∧ s.firmware.mbStat ≠ 0x101) :
    execFirmwareUpdate im s = .next s :=
  if_pos (Or.inl h)

/-- An update that is taken ends with the code and the detail of what it comes to, its image read from host memory. -/
theorem execFirmwareUpdate_taken (im : FirmwareImage) {s : State} {h body : List Byte}
    (hb : ¬(bitsN s.firmware.mbStat 7 0 = 1 ∧ s.firmware.mbStat ≠ 0x101)) (hg : s.migrations = [])
    (hh : s.hostBytes s.firmware.mbAddr.toNat 0x70 = h) (hbody : s.hostBytes (s.firmware.mbAddr.toNat + 0x70) (imLength h) = body) :
    execFirmwareUpdate im s = .next { s with firmware := { s.firmware with
      mbStat := mbStatus (s.updateCode im h body).1 (s.updateCode im h body).2
      pendingSvn := if (s.updateCode im h body).1 = mbBusy then
        some (imSvn h, im.formatWritten, ofBytes 256 (imDigest h).reverse) else none } } := by
  have hn : ¬(s.firmware.code = mbBusy ∧ s.firmware.mbStat ≠ mbStatus mbBusy 1 ∨
      (s.physFrame (4 * 2 ^ 50 + s.firmware.mbAddr.toNat) s.firmware.mbLen.toNat).isSome = true) := by
    rintro (hl | hp)
    · exact hb hl
    · simp [State.physFrame, hg] at hp
  unfold execFirmwareUpdate
  simp only [if_neg hn, hh, hbody]

section
variable {s : State} {im : FirmwareImage} {h body : List Byte}

/-- A request is bad where its image is not aligned to 4096 bytes or its length is not the header's. -/
theorem updateCode_bad (hbad : s.firmware.mbAddr.toNat % 4096 ≠ 0 ∨ s.firmware.mbLen.toNat ≠ 0x70 + imLength h) :
    s.updateCode im h body = (mbBadRequest, 0) :=
  if_pos (by simpa [bitsN] using hbad)

variable (hbad : ¬(s.firmware.mbAddr.toNat % 4096 ≠ 0 ∨ s.firmware.mbLen.toNat ≠ 0x70 + imLength h))
include hbad

/-- A request that is not bad is refused for the first of the other reasons that holds. -/
theorem updateCode_wellFormed : s.updateCode im h body =
    if !s.firmware.standbyOk then (mbNoStandby, 0)
    else if !fwImageOk Config.fusedKey h body then (mbAuth, 0)
    else if imSvn h < Config.fusedSvn then (mbSvn, Config.fusedSvn.toNat)
    else if !im.formatsRead.contains s.firmware.format then (mbVersion, s.firmware.format.toNat)
    else (mbBusy, 4) :=
  if_neg (by simpa [bitsN] using hbad)

theorem updateCode_noStandby (hs : s.firmware.standbyOk = false) : s.updateCode im h body = (mbNoStandby, 0) := by
  simp [updateCode_wellFormed hbad, hs]

theorem updateCode_unsigned (hs : s.firmware.standbyOk = true) (hi : fwImageOk Config.fusedKey h body = false) :
    s.updateCode im h body = (mbAuth, 0) := by
  simp [updateCode_wellFormed hbad, hs, hi]

theorem updateCode_old (hs : s.firmware.standbyOk = true) (hi : fwImageOk Config.fusedKey h body = true)
    (ho : imSvn h < Config.fusedSvn) : s.updateCode im h body = (mbSvn, Config.fusedSvn.toNat) := by
  simp [updateCode_wellFormed hbad, hs, hi, ho]

theorem updateCode_unread (hs : s.firmware.standbyOk = true) (hi : fwImageOk Config.fusedKey h body = true)
    (ho : ¬imSvn h < Config.fusedSvn) (hu : (!im.formatsRead.contains s.firmware.format) = true) :
    s.updateCode im h body = (mbVersion, s.firmware.format.toNat) := by
  rw [updateCode_wellFormed hbad]
  simp only [hs, hi, ho, hu, Bool.not_true, Bool.false_eq_true, if_false, if_true]

theorem updateCode_good (hs : s.firmware.standbyOk = true) (hi : fwImageOk Config.fusedKey h body = true)
    (ho : ¬imSvn h < Config.fusedSvn) (hu : (!im.formatsRead.contains s.firmware.format) = false) :
    s.updateCode im h body = (mbBusy, 4) := by
  rw [updateCode_wellFormed hbad]
  simp only [hs, hi, ho, hu, Bool.not_true, Bool.false_eq_true, if_false]

end

theorem updateCode_lt (s : State) (im : FirmwareImage) (h body : List Byte) : (s.updateCode im h body).1 < 256 := by
  unfold State.updateCode
  dsimp only
  split_ifs <;> exact of_decide_eq_true rfl

theorem takeOver_pending {s : State} {svn : BitVec 32} {format : BitVec 16} {d : BitVec 256}
    (h : s.firmware.pendingSvn = some (svn, format, d)) : s.takeOver =
      (State.extend { s with firmware := { s.firmware with
        mbStat := 2, svn := svn, format := format, standbySvn := svn, standbyFormat := format, pendingSvn := none } } 2 d).extend 3 d := by
  simp only [State.takeOver, h]
  rfl

theorem takeOver_idle {s : State} (h : s.firmware.pendingSvn = none) : s.takeOver = s := by
  simp only [State.takeOver, h]

/-! ### SPDM (R10, R498) -/

section
variable {s : State} (hr : s.spdmReady = true)
include hr

theorem answer_ready (m : OutMsg) : s.answer m = { s with sent := s.sent ++ [m] } := if_pos hr

theorem answerAfter_negotiated (hn : s.negotiated = true) (m : OutMsg) : s.answerAfter m = { s with sent := s.sent ++ [m] } := by
  rw [State.answerAfter, if_pos hn, answer_ready hr]

theorem answerAfter_before (hn : s.negotiated = false) (m : OutMsg) :
    s.answerAfter m = { s with sent := s.sent ++ [.spdmError] } := by
  rw [State.answerAfter, if_neg (by simp [hn]), answer_ready hr]

end

/-- The signed answer that gives some measurement slots. -/
def State.signedSlots (s : State) (l : List (Nat × BitVec 256)) : OutMsg :=
  .spdmMeasurements l (s.sign (l.flatMap fun x => BitVec.ofNat 8 x.1 :: (bytesOf 32 x.2).reverse))

/-- The measurement slots, numbered from 1. -/
def State.slots (s : State) : List (Nat × BitVec 256) := (List.finRange 5).map fun i : Fin 5 => (i.val + 1, s.measurements[i])

theorem slots_eq_mapIdx (s : State) : s.measurements.toList.mapIdx (fun i m => (i + 1, m)) = s.slots := by
  apply List.ext_getElem <;> simp [State.slots]

/-- Slot i + 1 is the one slot of that number. -/
theorem slots_filter (s : State) (i : Fin 5) : (s.slots.filter fun x => x.1 == i.val + 1) = [(i.val + 1, s.measurements[i])] := by
  have hi : ((List.finRange 5).filter fun j : Fin 5 => j.val + 1 == i.val + 1) = [i] := by decide +revert
  rw [State.slots, List.filter_map, Function.comp_def, hi, List.map_singleton]

theorem execGetMeasurements_all (s : State) : execGetMeasurements 255 s = .next (s.answerAfter (s.signedSlots s.slots)) := by
  rw [← slots_eq_mapIdx]
  rfl

theorem execGetMeasurements_one (s : State) (i : Fin 5) : execGetMeasurements (BitVec.ofNat 8 (i.val + 1)) s =
    .next (s.answerAfter (s.signedSlots [(i.val + 1, s.measurements[i])])) := by
  have hn : (BitVec.ofNat 8 (i.val + 1)).toNat = i.val + 1 := by
    rw [BitVec.toNat_ofNat]
    omega
  unfold execGetMeasurements
  simp only [hn, slots_eq_mapIdx, slots_filter]
  rw [if_neg (by omega), if_neg (by omega), if_pos (by omega), State.signedSlots]

theorem execGetMeasurements_beyond (s : State) {i : BitVec 8} (h : 5 < i.toNat) (ha : i ≠ 255) :
    execGetMeasurements i s = .next (s.answerAfter .spdmError) := by
  have hn : i.toNat ≠ 255 := fun e => ha (BitVec.eq_of_toNat_eq e)
  unfold execGetMeasurements
  dsimp only
  rw [if_neg (by omega), if_neg hn, if_neg (by omega)]

/-- Whatever it asks for, GET_MEASUREMENTS is a request that the negotiation must precede. -/
theorem execGetMeasurements_answers (i : BitVec 8) (s : State) : ∃ m, execGetMeasurements i s = .next (s.answerAfter m) := by
  unfold execGetMeasurements
  dsimp only
  split_ifs <;> exact ⟨_, rfl⟩

theorem execGetCertificate_refused (s : State) {slot : BitVec 8} {offset : BitVec 16} (length : BitVec 16)
    (h : slot ≠ 0 ∨ Config.certChain.length ≤ offset.toNat) :
    execGetCertificate slot offset length s = .next (s.answerAfter .spdmError) := if_pos h

/-- A part of the chain, with how much of the chain follows it. -/
theorem execGetCertificate_part (s : State) {offset : BitVec 16} (length : BitVec 16) (h : offset.toNat < Config.certChain.length) :
    execGetCertificate 0 offset length s = .next (s.answerAfter (.spdmCertificate
      ((Config.certChain.drop offset.toNat).take length.toNat) (Config.certChain.length - (offset.toNat + length.toNat)))) := by
  have hrest : Config.certChain.length - offset.toNat - ((Config.certChain.drop offset.toNat).take length.toNat).length =
      Config.certChain.length - (offset.toNat + length.toNat) := by
    rw [List.length_take, List.length_drop]
    omega
  rw [← hrest]
  exact if_neg (by simpa using h)

theorem execGetCertificate_answers (slot : BitVec 8) (offset length : BitVec 16) (s : State) :
    ∃ m, execGetCertificate slot offset length s = .next (s.answerAfter m) := by
  unfold execGetCertificate
  dsimp only
  split_ifs <;> exact ⟨_, rfl⟩

theorem execChallenge_refused (s : State) {slot : BitVec 8} (nonce : BitVec 256) (h : slot ≠ 0) :
    execChallenge slot nonce s = .next (s.answerAfter .spdmError) := if_pos h

theorem execChallenge_signed (s : State) (nonce : BitVec 256) : execChallenge 0 nonce s =
    .next (s.answerAfter (.spdmChallenge chainDigest (s.sign (bytesOf 32 nonce)))) := rfl

theorem execChallenge_answers (slot : BitVec 8) (nonce : BitVec 256) (s : State) :
    ∃ m, execChallenge slot nonce s = .next (s.answerAfter m) := by
  unfold execChallenge
  split_ifs <;> exact ⟨_, rfl⟩

/-- Settles O57: the clauses are those of boot, of an update ignored and taken, of the takeover, of the failover, and of the SPDM
messages before and after the negotiation. -/
theorem bootFirmwareAndAttestation : Obligations.BootFirmwareAndAttestation := by
  unfold Obligations.BootFirmwareAndAttestation
  intro s
  dsimp only
  refine ⟨fun b h0 hk => ?boot, fun im hfit hg hv => ⟨fun hb => ?ignored, fun hb => ?taken⟩, fun svn format d hp => ?takeover,
    fun hp => ⟨?idle, fun hs => ?failover⟩, fun hs => ?noStandby,
    fun hr => ⟨?version, ?capabilities, fun a b => ?algorithms, fun hn => ?before, fun hn => ?after⟩⟩
  case boot =>
    simp only [← storedOk_iff, ← extendedBy_zero, exec_packageBoot]
    by_cases hok : b.rootOk = true ∧ storedOk b.active = true
    · refine ⟨s.booted b, execPackageBoot_passes h0 hk hok.1 hok.2, fun h => absurd hok h, fun _ => ?_⟩
      rw [booted_firmware]
      exact ⟨rfl, rfl, bootId_eq b, rfl, rfl, booted_mem s b, booted_cores s b, imSvn_toNat_mod _, rfl, imSvn_toNat_mod _, rfl, Iff.rfl,
        booted_measurements s b, booted_lanes s b⟩
    · exact ⟨_, execPackageBoot_fails h0 hk hok, fun _ => rfl, fun h => absurd h hok⟩
  case ignored => exact execFirmwareUpdate_busy im hb
  case taken =>
    rw [← imLength_read] at hfit
    rw [← imLength_read, ← imSvn_read]
    have hh := hostBytes_still hg hv (a := s.firmware.mbAddr.toNat) (n := 0x70) (by omega)
    have hbody := hostBytes_still hg hv hfit
    rw [← Nat.add_assoc] at hbody
    refine ⟨_, execFirmwareUpdate_taken im hb hg hh hbody, rfl, ?_⟩
    simp only [bitsN_mbStatus (updateCode_lt _ _ _ _)]
    refine ⟨fun hbad => ?_, fun hbad hs => ?_, fun hbad hs hi => ?_, fun hbad hs hi ho => ?_, fun hbad hs hi ho hu => ?_,
      fun hbad hs hi ho hu => ?_⟩
    · rw [updateCode_bad hbad]; rfl
    · rw [updateCode_noStandby hbad hs]; rfl
    · rw [updateCode_unsigned hbad hs hi]; rfl
    · rw [updateCode_old hbad hs hi (of_decide_eq_true ho)]; rfl
    · rw [updateCode_unread hbad hs hi (of_decide_eq_false ho) hu]; rfl
    · rw [updateCode_good hbad hs hi (of_decide_eq_false ho) hu]; exact ⟨rfl, _, rfl⟩
  case takeover =>
    refine ⟨s.takeOver, rfl, ?_⟩
    rw [takeOver_pending hp]
    refine ⟨rfl, fun i h1 h2 => ?_, rfl, rfl⟩
    rw [extend_measurements_other _ _ h2, extend_measurements_other _ _ h1]
  case idle => rw [exec_firmwareTakeover, execFirmwareTakeover, takeOver_idle hp]
  case failover => simp [execFirmwareFailover, hs, takeOver_idle hp]
  case noStandby => simp [execFirmwareFailover, hs]
  case version => rw [exec_getVersion, execGetVersion, answer_ready hr]
  case capabilities => rw [exec_getCapabilities, execGetCapabilities, answer_ready hr]
  case algorithms => rw [exec_negotiateAlgorithms, execNegotiateAlgorithms, answer_ready hr, hr, Bool.true_and]
  case before =>
    have refuses {o : Out} (h : ∃ m, o = .next (s.answerAfter m)) : o = .next { s with sent := s.sent ++ [.spdmError] } := by
      obtain ⟨m, rfl⟩ := h
      rw [answerAfter_before hr hn]
    exact ⟨refuses ⟨_, rfl⟩, fun slot offset length => refuses (execGetCertificate_answers slot offset length s),
      fun slot nonce => refuses (execChallenge_answers slot nonce s), fun i => refuses (execGetMeasurements_answers i s)⟩
  case after =>
    have answers := answerAfter_negotiated hr hn
    simp only [exec_getDigests, exec_getCertificate, exec_challenge, exec_getMeasurements, ← answers]
    refine ⟨rfl, fun slot offset length => ⟨fun h => execGetCertificate_refused s length (.inl h), ?_⟩,
      fun slot nonce => ⟨execChallenge_refused s nonce, ?_⟩, rfl, fun i => ⟨_, execGetMeasurements_one s i⟩,
      ⟨_, execGetMeasurements_all s⟩, fun i => execGetMeasurements_beyond s⟩
    · rintro rfl h
      exact execGetCertificate_part s length h
    · rintro rfl
      exact ⟨_, execChallenge_signed s nonce⟩

end Sys2Proof.Machine

/-! PROOFS. The special registers, the rearrangements and SHAPE, the allotments, the clock, gusts and counters, and what RESV, RELS,
TBLD, SIGNAL and LAUNCH give at issue: the statements about each (spec/02_program_state.md R53 to R78, spec/06, spec/07, spec/08). -/

namespace Sys2Proof.Machine

open Sys2Proof.Claims

/-! ### Answers of a slot operation -/

/-- A slot operation whose checks pass gives its effects; the first check that fails is its fault (R129). -/
theorem runSlot_checked {s : State} {c : Ctx} {i : Instr} {g : Ctx → SlotResult} {checks : List (Bool × Nat × Word)} {e : Effects}
    (hc : s.ctx? = some c) (hi : exec i s = runSlot s g)
    (hg : g c = checks.foldr (fun x r => SlotResult.check x.1 x.2.1 x.2.2 r) (.done e)) : CheckedResult s c i checks e := by
  induction checks with
  | nil => exact hi.trans (runSlot_done hc hg)
  | cons x xs ih =>
    obtain ⟨ok, cause, detail⟩ := x
    cases ok with
    | true => exact ih hg
    | false => exact hi.trans (runSlot_fault hc hg)

/-! ### Special registers (R53 to R55) -/

/-- The table of R53 by index. -/
theorem specialValue_eq (c : Ctx) (i : Nat) : specialValue c i = c.special i := by
  have low : BitVec.ofNat 64 (c.w.rngk.toNat % 2 ^ 64) = c.w.rngk.extractLsb' 0 64 := BitVec.eq_of_toNat_eq (by simp)
  have high : BitVec.ofNat 64 (c.w.rngk.toNat / 2 ^ 64) = c.w.rngk.extractLsb' 64 64 :=
    BitVec.eq_of_toNat_eq (by simp [Nat.shiftRight_eq_div_pow])
  unfold Ctx.special
  split
  case h_6 => exact congrArg some low
  case h_7 => exact congrArg some high
  case h_20 =>
    simp only [specialValue, Option.map_eq_none_iff, List.lookup_eq_none_iff, List.forall_mem_cons, bne_iff_ne,
      List.not_mem_nil, IsEmpty.forall_iff, implies_true, and_true]
    and_intros <;> assumption
  all_goals simp [specialValue, List.lookup]

theorem specialRw_iff (i : Nat) : specialRw i = true ↔ i ∈ writableSpecials := by
  simp only [specialRw, writableSpecials, Bool.or_eq_true, decide_eq_true_eq, beq_iff_eq, List.mem_cons, List.not_mem_nil, or_false]
  omega

section
variable {s : State} {c : Ctx} {f : R3} (hc : s.ctx? = some c)
include hc

theorem execSrd_idle (hp : c.holds f.pred = false) : execSrd f s = .next (c.give (scalarOut c f 0)) :=
  runSlot_done hc (by simp [hp, oneWrite, writeS, Pending.when, expose, scalarOut])

theorem execSrd_reads (hp : c.holds f.pred = true) {x : Word} (hx : c.special f.b.toNat = some x) :
    execSrd f s = .next (c.give (scalarOut c f x)) :=
  runSlot_done hc (by simp [hp, hx, oneWrite, writeS, expose, scalarOut])

theorem execSrd_faults (hp : c.holds f.pred = true) (hx : c.special f.b.toNat = none) :
    execSrd f s = faultOut s c 0x0500 (privDetail 0x19 f.b.toNat) :=
  runSlot_fault hc (by simp [hp, hx])

theorem execSwr_idle (hp : c.holds f.pred = false) : execSwr f s = .next (c.give {}) :=
  runSlot_done hc (by simp [hp, SlotResult.nothing])

theorem execSwr_readOnly (hp : c.holds f.pred = true) (hr : specialRw f.b.toNat = false) :
    execSwr f s = faultOut s c 0x0500 (privDetail 0x1A f.b.toNat) :=
  runSlot_fault hc (by simp [hp, hr])

theorem execSwr_writes (hp : c.holds f.pred = true) (hr : specialRw f.b.toNat = true)
    (hv : f.b = 2 → shapeOk (c.w.sreg f.a.toNat &&& 0x3F) = true) :
    execSwr f s = .next (c.give { ends := [.swr f.b.toNat (c.w.sreg f.a.toNat)] }) :=
  runSlot_done hc (by simp [hp, hr]; exact hv)

/-- SWR refuses `shape` a view that R55 does not allow. -/
theorem execSwr_badView (hp : c.holds f.pred = true) (hb : f.b = 2) (hv : shapeOk (c.w.sreg f.a.toNat &&& 0x3F) = false) :
    execSwr f s = faultOut s c 0x0C10 c.w.shape :=
  runSlot_fault hc (by simp [hp, hb, specialRw]; exact hv)

end

/-- Settles O11: SRD and SWR without their condition, SRD by the table of R53, and SWR by what R53 and R55 let it write. -/
theorem specialRegisterReadsAndWrites : Obligations.SpecialRegisterReadsAndWrites := by
  unfold Obligations.SpecialRegisterReadsAndWrites
  intro s c f hc
  have shape_iff : f.b.toNat = 2 ↔ f.b = 2 := ⟨fun h => BitVec.eq_of_toNat_eq h, fun h => by rw [h]; rfl⟩
  simp only [specialValue_eq, ← specialRw_iff, Bool.not_eq_true, shape_iff]
  exact ⟨fun hp => ⟨execSrd_idle hc hp, execSwr_idle hc hp⟩, fun hp => ⟨fun _ => execSrd_reads hc hp, execSrd_faults hc hp,
    execSwr_writes hc hp, execSwr_readOnly hc hp, execSwr_badView hc hp⟩⟩

/-! ### Rearrangements and SHAPE (R204, R205) -/

/-- Bits within extracted bits are bits at their place. -/
theorem extractLsb'_of_extractLsb' {m a n b w : Nat} (x : BitVec m) (h : b + w ≤ n) :
    (x.extractLsb' a n).extractLsb' b w = x.extractLsb' (a + b) w := by
  apply BitVec.eq_of_getLsbD_eq
  intro i hi
  simp [hi, show b + i < n by omega, Nat.add_assoc]

/-- An element of the half of `fl` that a vector slot reads (R67). -/
theorem el_flHalf {c : Ctx} (sl : VSlot) {w e : Nat} (hm : c.b.usesM = true) (h : w * e + w ≤ 2048) : el w (c.flHalf sl) e =
    (c.k.fl.extractLsb' ((match sl with | .va => 0 | .vb => 2048) + w * e) w).toNat := by
  cases sl <;> simp only [el, elem, Ctx.flHalf, hm, Bool.not_true, Bool.false_eq_true, if_false, extractLsb'_of_extractLsb' _ h]

/-- An element of an operand image is the element that the operand code names (R192). -/
theorem el_vop {c : Ctx} (sl : VSlot) {w : Nat} (hw : w = 32 ∨ w = 16 ∨ w = 8) (code : BitVec 8) {e : Nat} (he : e < 2048 / w) :
    el w (c.vop sl w code) e = source c sl w code e := by
  unfold Ctx.vop source
  dsimp only
  split_ifs with hv hs hf hm hz ho
  case pos => rfl
  case pos => exact el_splat hw _ he
  case pos => exact el_flHalf sl hm (el_fits hw he)
  case neg => simp only [Ctx.flHalf, hm, Bool.not_false, if_true]; exact el_zero w e
  case pos => exact el_zero w e
  case pos => exact el_ones hw he
  case neg => exact el_laneid hw he

section
variable {s : State} {c : Ctx} (hc : s.ctx? = some c)
include hc

/-- A rearrangement is one write of latency 3 of the active lanes, with no flag. -/
theorem rearrange_result {i : Instr} {f : R3} {v val : Nat → Nat}
    (hr : ∃ g, exec i s = runSlot s g ∧ g c = rearrange f c.w.ebits v c) (hv : ∀ e, e < 2048 / c.w.ebits → v e = val e) :
    VectorResult s c i f.pred 0 3 f.d.toNat c.w.ebits val noFlag := by
  obtain ⟨g, hi, hg⟩ := hr
  refine ⟨_, _, hi.trans (runSlot_done hc hg), fun e he ha => ?_, fun b => ?_⟩
  · rw [← hv e he, ← el_mapLanes (ebits_cases c.w) _ (fun e => (v e, 0)) he ha]
    rfl
  · rw [flags_mapLanes]
    rfl

theorem execRowsh_faults {sl : VSlot} {f : R3} (hr : c.w.rows ≤ f.c.toNat) (ha : c.active f.pred ≠ 0) :
    execRowshUp sl f s = faultOut s c 0x0C10 c.w.shape ∧ execRowshDown sl f s = faultOut s c 0x0C10 c.w.shape :=
  ⟨runSlot_fault hc (if_pos ⟨ha, hr⟩), runSlot_fault hc (if_pos ⟨ha, hr⟩)⟩

theorem execShape_idle {f : VI} (hp : c.holds f.pred = false) : execShape f s = .next (c.give {}) :=
  runSlot_done hc (by simp [hp, SlotResult.nothing])

theorem execShape_sets {f : VI} (hp : c.holds f.pred = true) (hv : shapeOk (f.imm.setWidth 64) = true) :
    execShape f s = .next (c.give { ends := [.setShape (f.imm.setWidth 6)] }) :=
  runSlot_done hc (by simp [hp, hv])

theorem execShape_faults {f : VI} (hp : c.holds f.pred = true) (hv : shapeOk (f.imm.setWidth 64) = false) :
    execShape f s = faultOut s c 0x0C10 c.w.shape :=
  runSlot_fault hc (by simp [hp, hv])

end

/-- A view that R55 allows: 64 rows of 32-bit elements, 128 of 16-bit ones or 256 of bytes at most. -/
theorem shapeOk_imm (x : BitVec 16) : shapeOk (x.setWidth 64) = true ↔ x.toNat < 64 ∧
    ((bitsN x 1 0 = 0 ∧ bitsN x 5 2 ≤ 6) ∨ (bitsN x 1 0 = 1 ∧ bitsN x 5 2 ≤ 7) ∨ (bitsN x 1 0 = 2 ∧ bitsN x 5 2 ≤ 8)) := by
  have hn : (x.setWidth 64).toNat = x.toNat := by simp; omega
  have he : bitsN x 1 0 < 4 := Nat.mod_lt _ (by decide)
  have hb (hi lo : Nat) : bitsN (x.setWidth 64) hi lo = bitsN x hi lo := by rw [bitsN, hn, bitsN]
  simp only [shapeOk, hn, hb, Bool.and_eq_true, decide_eq_true_eq, bne_iff_ne, and_assoc]
  refine and_congr_right fun _ => ?_
  have pow_le (n : Nat) : 2 ^ bitsN x 5 2 ≤ 64 * 2 ^ n ↔ bitsN x 5 2 ≤ 6 + n := by
    rw [show 64 = 2 ^ 6 from rfl, ← Nat.pow_add, Nat.pow_le_pow_iff_right (by decide)]
  rw [pow_le]
  omega

/-- Settles O17: each rearrangement by the element that it reads, ROWSH beyond its rows, and SHAPE by the views of R55. -/
theorem rearrangementsAndShape : Obligations.RearrangementsAndShape := by
  unfold Obligations.RearrangementsAndShape
  intro s c sl hc
  have hw := ebits_cases c.w
  have hn : 0 < 2048 / c.w.ebits := by obtain h | h | h := hw <;> simp [h]
  have rows_ok {f : R3} (h : f.c.toNat < c.w.rows ∨ c.active f.pred = 0) : ¬(c.active f.pred ≠ 0 ∧ c.w.rows ≤ f.c.toNat) :=
    fun ⟨ha, hr⟩ => h.elim (Nat.not_lt.2 hr) ha
  refine ⟨fun f => ⟨?perm, fun hr => ?up, fun hr => ?down, fun hr ha => execRowsh_faults hc hr ha, fun hcols => ?trans⟩,
    fun f => ⟨execShape_idle hc, fun hp hv => ?sets, fun hp hv => execShape_faults hc hp ?_⟩⟩
  case perm =>
    refine rearrange_result hc ⟨_, exec_perm .., rfl⟩ fun e he => ?_
    rw [el_vop sl hw _ (Nat.mod_lt _ hn), el_vop sl hw _ he]
  case up =>
    refine rearrange_result hc ⟨_, rfl, if_neg (rows_ok hr)⟩ fun e he => ?_
    exact ite_congr rfl (fun _ => rfl) fun h => el_vop sl hw _ (Nat.not_le.1 h)
  case down =>
    refine rearrange_result hc ⟨_, rfl, if_neg (rows_ok hr)⟩ fun e he => ?_
    exact ite_congr rfl (fun _ => rfl) fun h => el_vop sl hw _ (by omega)
  case trans =>
    refine rearrange_result hc ⟨_, exec_trans .., rfl⟩ fun e he => el_vop sl hw _ ?_
    have hr : 0 < c.w.rows := Nat.two_pow_pos _
    have hj : e / c.w.rows < c.w.cols := (Nat.div_lt_iff_lt_mul hr).2 (he.trans_eq hcols.symm)
    calc e % c.w.rows * c.w.cols + e / c.w.rows < e % c.w.rows * c.w.cols + c.w.cols := Nat.add_lt_add_left hj _
      _ = (e % c.w.rows + 1) * c.w.cols := (Nat.succ_mul ..).symm
      _ ≤ c.w.rows * c.w.cols := Nat.mul_le_mul_right _ (Nat.mod_lt _ hr)
      _ = 2048 / c.w.ebits := by rw [Nat.mul_comm]; exact hcols
  case sets =>
    rw [show f.imm.extractLsb' 0 6 = f.imm.setWidth 6 from BitVec.eq_of_toNat_eq (by simp)]
    exact execShape_sets hc hp ((shapeOk_imm _).2 hv)
  exact Bool.eq_false_iff.2 fun h => hv ((shapeOk_imm _).1 h)

/-! ### Allotments, the clock, gusts and counters (R65, R172 to R180) -/

section
variable {s : State} {c : Ctx} {f : KR} (hc : s.ctx? = some c)
include hc

theorem execGrow_answers {ok : Bool} (h : c.canAllot (amounts true f) = ok) : execGrow f s = .next (c.give
    { writes := [expose 1 0 (.pred (fin 16 f.d.toNat) ok)], ends := if ok then [.allot (amounts true f)] else [] }) :=
  runSlot_done hc (by rw [allotRun, h]; rfl)

theorem execShrink_answers {ok : Bool} (h : c.canAllot (amounts false f) = ok) : execShrink f s = .next (c.give
    { writes := [expose 1 0 (.pred (fin 16 f.d.toNat) ok)], ends := if ok then [.allot (amounts false f)] else [] }) :=
  runSlot_done hc (by rw [allotRun, h]; rfl)

theorem execClkdiv_permitted (h : (c.b.clockOk && s.parts[c.b.part].control.getLsbD 3) = true) :
    execClkdiv f s = .next (c.give { ends := [.clkdiv (f.imm.toNat % 16)] }) :=
  runSlot_done hc (by rw [(ctx?_some hc).1, h, check_true, bitsN, pow_zero, Nat.div_one]; rfl)

theorem execClkdiv_forbidden (h : (c.b.clockOk && s.parts[c.b.part].control.getLsbD 3) = false) :
    execClkdiv f s = faultOut s c 0x0500 0x1A :=
  runSlot_fault hc (by rw [(ctx?_some hc).1, h, check_false]; rfl)

theorem execGust_zero (h : c.w.sreg f.a.toNat = 0) : execGust f s = .next (c.give { writes := [writeS f.d.toNat 0] }) :=
  runSlot_done hc (by rw [gustRun, if_pos h]; rfl)

theorem execGust_refused (h : c.w.sreg f.a.toNat ≠ 0) {cause : Nat} (ha : c.gustAnswer (c.w.sreg f.a.toNat) = .inr cause) :
    execGust f s = .next (c.give { writes := [writeS f.d.toNat 0], ends := [.gustRefuse cause] }) :=
  runSlot_done hc (by rw [gustRun, if_neg h]; simp only [ha])

theorem execGust_granted (h : c.w.sreg f.a.toNat ≠ 0) {us : Nat} (ha : c.gustAnswer (c.w.sreg f.a.toNat) = .inl us) :
    execGust f s = .next (c.give { writes := [writeS f.d.toNat (BitVec.ofNat 64 us)], ends := [.gustGrant us] }) :=
  runSlot_done hc (by rw [gustRun, if_neg h]; simp only [ha])

theorem execRdcnt_reads : execRdcnt f s = .next (c.give { writes := [writeS f.d.toNat (c.counter f.imm)] }) :=
  runSlot_done hc rfl

end

/-- What the warps of a core hold of a class, summed over their slots. -/
theorem warpList_map (k : Core) (g : Warp → Nat) :
    k.warpList.map (fun x => g x.2) = ((List.finRange 8).filterMap fun w => k.warps[w]).map g := by
  simp [Core.warpList, List.map_filterMap, Function.comp_def]

/-- GROW is met where the descriptor's maxima and the core's pools hold the amounts. -/
theorem canAllot_grow (c : Ctx) (f : KR) : c.canAllot (amounts true f) = true ↔
    let held (g : Warp → Nat) : Nat := (((List.finRange 8).filterMap fun w => c.k.warps[w]).map g).foldl (· + ·) 0
    let a := amounts true f
    (c.w.curV + a.v ≤ c.b.maxV ∧ c.w.curH + a.h ≤ c.b.maxH ∧ c.w.curC + a.c ≤ c.b.maxC ∧ c.w.curK + a.k ≤ c.b.maxK) ∧
      held (·.curV) + a.v ≤ 512 ∧ held (·.curH) + a.h ≤ 64 ∧ held (·.curC) + a.c ≤ 8 ∧ c.w.curK + a.k ≤ 4 := by
  simp only [and_assoc, ← warpList_map]
  exact decide_eq_true_iff

/-- The two parts of a counter index (R180). -/
theorem counterIndex (x : BitVec 16) : bitsN x 15 12 = x.toNat / 0x1000 ∧ bitsN x 11 0 = x.toNat % 0x1000 := by
  simp only [bitsN]
  omega

section
variable {c : Ctx} {x : BitVec 16}

/-- Below 0x1000 stand the event counters and, from 0x400 on, the cells of the lane-cycle record. -/
theorem counter_low (h : x.toNat < 0x1000) : c.counter x =
    if x.toNat < 0x400 then (c.k.counters.toList)[x.toNat]?.getD 0
    else if laneCell x.toNat then (c.k.laneCycles.lookup x.toNat).getD 0 else 0 := by
  obtain ⟨hi, lo⟩ := counterIndex x
  rw [Nat.div_eq_of_lt h] at hi
  rw [Nat.mod_eq_of_lt h] at lo
  have hl : (c.k.laneCycles.find? fun y => y.1 == x.toNat).map (·.2) = c.k.laneCycles.lookup x.toNat := by
    induction c.k.laneCycles with
    | nil => rfl
    | cons y ys ih => grind
  simp only [Ctx.counter, hi, lo, hl]

theorem laneCell_iff (i : Nat) : laneCell i = true ↔ 0x400 ≤ i ∧ i < 0xC80 ∧ i / 8 % 16 ≤ 8 ∧ i % 8 ≤ 4 := by
  simp only [laneCell, decide_eq_true_eq]
  omega

theorem counter_event (i : Fin 23) (h : x.toNat = i.val) : c.counter x = c.k.counters[i] := by
  rw [counter_low (by omega), if_pos (by omega), h]
  simp

theorem counter_undefinedEvent (h1 : 23 ≤ x.toNat) (h2 : x.toNat < 0x400) : c.counter x = 0 := by
  rw [counter_low (by omega), if_pos h2]
  simp [h1]

theorem counter_cell {n : Nat} (hn : x.toNat = n) (h : laneCell n = true) : c.counter x = (c.k.laneCycles.lookup n).getD 0 := by
  have hr := (laneCell_iff n).1 h
  rw [counter_low (by omega), if_neg (by omega), hn, if_pos h]

theorem counter_noCell (h1 : 0x400 ≤ x.toNat) (h2 : x.toNat < 0x1000) (h : laneCell x.toNat = false) : c.counter x = 0 := by
  rw [counter_low h2, if_neg (by omega), if_neg (by simp [h])]

theorem counter_sensor (h : x = 0x1000) : c.counter x = c.k.sensor.signExtend 64 := by
  subst h
  rfl

/-- The three fields of the heat-store cell. -/
theorem counter_heat (n : Fin 3) (h : x.toNat = 0x1001 + n.val) : (c.counter x).toNat =
    (c.s.cells[cellOf (clusterOf c.core)]).toNat / 2 ^ (16 * n.val) % 2 ^ 11 := by
  obtain ⟨hi, lo⟩ := counterIndex x
  rw [h] at hi lo
  have small (y : Nat) : (BitVec.ofNat 64 (y % 2 ^ 11)).toNat = y % 2 ^ 11 := by
    rw [BitVec.toNat_ofNat]
    omega
  match n with
  | 0 => simp only [Ctx.counter, hi, lo]; exact small _
  | 1 => simp only [Ctx.counter, hi, lo]; exact small _
  | 2 => simp only [Ctx.counter, hi, lo]; exact small _

theorem counter_time (h : x = 0x2000) : c.counter x = BitVec.ofNat 64 (c.s.time / 18) := by
  subst h
  rfl

theorem counter_beyond (h : 0x2000 < x.toNat ∨ (0x1003 < x.toNat ∧ x.toNat < 0x2000)) : c.counter x = 0 := by
  obtain ⟨hi, lo⟩ := counterIndex x
  unfold Ctx.counter
  dsimp only
  split
  case h_7 => rfl
  all_goals omega

end

/-- Another core gave back the cluster's lease in a bundle that ends after a clock (R477). -/
theorem heldAt_iff (k : Cluster) (c : CoreId) (t : Nat) :
    k.heldAt c t = true ↔ ∃ ends other, k.freed = some (ends, other) ∧ t < ends ∧ other ≠ c := by
  simp [Cluster.heldAt, Option.any_eq_true]

/-- Settles O27: GROW and SHRINK by their classes, CLKDIV by its permissions, GUST by the order of its refusals, and RDCNT by the
table of indices. -/
theorem allotmentsClockGustAndCounters : Obligations.AllotmentsClockGustAndCounters := by
  unfold Obligations.AllotmentsClockGustAndCounters
  intro s c f hc
  obtain ⟨rfl, -⟩ := ctx?_some hc
  simp only [exec_grow, exec_shrink, exec_clkdiv, exec_gust, exec_rdcnt, ← heldAt_iff]
  have word_ne {us : Word} (h : us.toNat ≠ 0) : us ≠ 0 := fun h0 => h (by rw [h0]; rfl)
  have none_held {l : Option Lease} {b : Bool} (hl : l = none) (hb : ¬b = true) : ¬(l.isSome || b) = true := by simp [hl, hb]
  have no_lull {a b : Bool} (h : ¬(a = true ∨ b = true)) : ¬(a || b) = true := by simpa using h
  refine ⟨fun h => ?grow, fun h => ?noGrow, fun h => execShrink_answers hc (decide_eq_true h),
    fun h => execShrink_answers hc (decide_eq_false h), fun h1 h2 => ?div, fun h => ?noDiv, ⟨fun h => ?zero, fun h hl => ?leased,
      fun h hl hf => ⟨fun hu => ?lull, fun hu hk => ?capped, fun hu hk hb => ?beyond, fun hu hk hb => ?granted⟩⟩,
    c.counter f.imm, ?read, fun i => counter_event i, fun h => ?sensor, fun n => counter_heat n, counter_time,
      fun bin slot cls hb hs hk hi => ?cell, fun h1 h2 h => ?noCell, fun h => counter_undefinedEvent h.1 h.2, counter_beyond⟩
  case grow => exact execGrow_answers hc ((canAllot_grow c f).2 h)
  case noGrow => exact execGrow_answers hc (Bool.eq_false_iff.2 fun hg => h ((canAllot_grow c f).1 hg))
  case div => exact execClkdiv_permitted hc (by rw [h1, h2]; rfl)
  case noDiv => exact execClkdiv_forbidden hc (by simpa using h)
  case zero => exact execGust_zero hc (BitVec.eq_of_toNat_eq h)
  case leased => exact execGust_refused hc (word_ne h) (if_pos (by simpa using hl))
  case lull => exact execGust_refused hc (word_ne h) ((if_neg (none_held hl hf)).trans (if_pos (by simpa using hu)))
  case capped =>
    exact execGust_refused hc (word_ne h) ((if_neg (none_held hl hf)).trans <| (if_neg (no_lull hu)).trans (if_pos hk))
  case beyond =>
    exact execGust_refused hc (word_ne h)
      ((if_neg (none_held hl hf)).trans <| (if_neg (no_lull hu)).trans <| (if_neg hk).trans (if_pos hb))
  case granted =>
    exact execGust_granted hc (word_ne h)
      ((if_neg (none_held hl hf)).trans <| (if_neg (no_lull hu)).trans <| (if_neg hk).trans (if_neg hb))
  case read => rw [BitVec.ofNat_toNat, BitVec.setWidth_eq]; exact execRdcnt_reads hc
  case sensor => rw [counter_sensor h]; exact BitVec.toInt_signExtend_of_le (by decide)
  case cell => exact counter_cell rfl ((laneCell_iff _).2 (by omega))
  case noCell =>
    exact counter_noCell h1 h2 (Bool.eq_false_iff.2 fun hl => by have := (laneCell_iff _).1 hl; omega)

/-! ### Reservations, tables, signals and launches at issue (R74, R75, R245 to R250) -/

theorem append_eq_ofNat (hi lo : Word) : hi ++ lo = BitVec.ofNat 128 (lo.toNat + 2 ^ 64 * hi.toNat) := by
  apply BitVec.eq_of_toNat_eq
  rw [BitVec.toNat_append, BitVec.toNat_ofNat, ← Nat.shiftLeft_add_eq_or_of_lt lo.isLt, Nat.shiftLeft_eq]
  omega

/-- A choice of two tests as a conjunction. -/
theorem ite_eq_and (h a b : Bool) : (if h = true then a else b) = ((!h || a) && (h || b)) := by cases h <;> simp

theorem selectorOk_eq (x : Word) :
    selectorOk x = (decide (x.toNat < 8) || (decide (280 ≤ x.toNat) && decide (x.toNat < 320))) := by
  simp [selectorOk]

section
variable {s : State} {c : Ctx} {f : XD} (hc : s.ctx? = some c)
include hc

/-- Without its condition an operation of the X slot does nothing (R113). -/
theorem execX_idle (hp : c.holds f.pred = false) {i : Instr}
    (hi : i = .resv f ∨ i = .rels f ∨ i = .tbld f ∨ i = .signalSet f ∨ i = .signalAdd f ∨ i = .launch f) :
    exec i s = .next (c.give {}) := by
  have idle (r : SlotResult) : (if (!c.holds f.pred) = true then SlotResult.nothing else r) = .done {} := by rw [hp]; rfl
  obtain rfl | rfl | rfl | rfl | rfl | rfl := hi <;> exact runSlot_done hc (idle _)

end

/-- Settles O33: nothing without the condition, and with it each operation's checks in order and then its effects. -/
theorem reservationsTablesSignalsAndLaunches : Obligations.ReservationsTablesSignalsAndLaunches := by
  unfold Obligations.ReservationsTablesSignalsAndLaunches
  intro s c f hc
  dsimp only
  refine ⟨fun hp i hi => execX_idle hc hp hi, fun hp => ?_⟩
  have runs (r : SlotResult) : (if (!c.holds f.pred) = true then SlotResult.nothing else r) = r := by rw [hp]; rfl
  refine ⟨runSlot_checked hc rfl ?resv, runSlot_done hc (runs _), runSlot_checked hc rfl ?tbld, runSlot_checked hc rfl (runs _),
    runSlot_checked hc rfl (runs _), runSlot_checked hc rfl (runs _)⟩
  case resv =>
    refine (runs _).trans ?_
    dsimp only
    rw [append_eq_ofNat, resvOk, ite_eq_and, ← Bool.and_assoc]
    rfl
  case tbld =>
    refine (runs _).trans ?_
    dsimp only
    rw [← selectorOk_eq, BitVec.ofNat_toNat]
    cases selectorOk (c.w.sreg f.sb.toNat) <;> rfl

end Sys2Proof.Machine

/-! PROOFS. A copy that lands on the barrier it counts to: the element's bytes take the pending counter to its least value, and the
subtraction that the element owes is dropped (spec/08_memory_copy_instructions.md R242, spec/02_program_state.md R78). -/

namespace Sys2Proof.Machine

open Sys2Proof.Claims

/-! ### The package of the refutation -/

/-- A copy of one 4-byte element, its first, from the start of WB to byte 12 of AB: the pending counter of its barrier at byte 0. -/
def ontoBarrier : CopyOp :=
  { kind := .copy, shape := BitVec.ofNat 512 (2 ^ 352 + 2 ^ 336 + 2 ^ 320 + 2 ^ 304 + 2 * 2 ^ 4 + 2 ^ 2 + 2), fromBase := 0, toBase := 12
    barrier := some 0, list := 0, signal := none, cursor := 0, quarantine := [], begun := true, rbanks := [], locks := [0]
    stopped := false, status := 0, detail := 0, after := [] }
/-- The operation that it is, its block, whose windows are the whole buffers, and its warp. -/
def ontoBarrierOp : AsyncOp :=
  { id := 1, warp := 0, bid := 1, cls := .copy, path := .x, glyph := 0, field := 0, waits := [], sent := 0, fault := none, wiped := []
    counts := [], stroke := 0, kind := .copy ontoBarrier }
def ontoBarrierBlock : Block :=
  { bid := 1, part := 0, launch := 1, nodeAddr := 0, node := 0, kdesc := 0, header := 0, headerOk := true, index := 0, bx := 0, by_ := 0
    bz := 0, warps := [0], wb := ⟨0, Config.wbBytes⟩, ab := ⟨0, Config.abBytes⟩, cb := ⟨0, Config.cbBytes⟩, halted := false
    group := none, broken := false, microWait := none, restoring := false, level7 := false, moveTo := none }
def ontoBarrierWarp : Warp := { Warp.blank with bid := 1, copies := 1 }
/-- The package with that copy alone outstanding on core 0: WB holds the word 0x80000000 at 0, AB a barrier with nothing pending. -/
def ontoBarrierState : State :=
  State.reset.modCore 0 fun k => { k with
    blocks := [ontoBarrierBlock], warps := upd k.warps 0 fun _ => some ontoBarrierWarp, wb := [(3, 0x80)], ops := [ontoBarrierOp] }

theorem ontoBarrier_alone : Alone ontoBarrierState 0 0 ontoBarrierWarp ontoBarrierBlock ontoBarrierOp := by
  refine ⟨⟨?_, ?_, ?_⟩, ?_⟩ <;> decide +kernel

/-- The barriers that a step leaves to be tested on core 0. -/
def actedAfter : Out → Option (List (Nat × Nat))
  | .next u => some u.cores[(0 : CoreId)].acted
  | _ => none

/-- The element lands, and its barrier is not acted on: the bytes landed have taken the pending counter to -2^31. -/
theorem ontoBarrier_drops : actedAfter (exec (.copyBytesLand 0 1 1) ontoBarrierState) = some [] := by decide +kernel

/-- Refutes O44: the bytes of an element that lands on its copy's own barrier are not due to be subtracted from it, though the counter
could take the subtraction before the element landed. -/
theorem not_copiesMoveAndComplete : ¬ Obligations.CopiesMoveAndComplete := by
  unfold Obligations.CopiesMoveAndComplete
  intro h
  obtain ⟨-, moves, -⟩ := h ontoBarrierState 0 0 ontoBarrierWarp ontoBarrierBlock ontoBarrierOp ontoBarrier_alone
  have calm : Calm ontoBarrierState := ⟨rfl, rfl, rfl, rfl, rfl⟩
  have canonical : ∀ buf, (ontoBarrierState.cores[(0 : CoreId)].buf buf).wf = true := by intro buf; cases buf <;> decide +kernel
  obtain ⟨-, -, lands, -⟩ := moves ontoBarrier rfl rfl rfl rfl rfl (by decide +kernel) (by decide +kernel) calm (by decide +kernel)
    canonical
  have room : ∀ a, ontoBarrier.barrier = some a → (-2 ^ 31 : Int) ≤ signedOf 32
      (ontoBarrierState.cores[(0 : CoreId)].ab.num (ontoBarrierBlock.ab.base + a + 4 * 3) 4) - shE ontoBarrier.shape := by
    rintro _ ⟨⟩
    decide +kernel
  obtain ⟨u, ⟨⟨hu, -, -, acted⟩, -⟩⟩ := lands room ⟨by decide, by decide⟩ (by rintro ⟨hk, -⟩; cases hk) .wb .ab (by decide +kernel)
    (by decide +kernel)
  have dropped : actedAfter (.next u) = some [] := hu ▸ ontoBarrier_drops
  cases acted.symm.trans (Option.some.inj dropped)

end Sys2Proof.Machine

/-! PROOFS. Exact values: what the operations on decoded numbers are worth (spec/03_numbers.md R79 to R84). -/

namespace Sys2Proof.Machine

open Sys2Proof.Claims

/-! ### Powers of two -/

theorem two_pow_toNat {K : Type} [DivisionRing K] {k : Int} (h : 0 ≤ k) : (2 : K) ^ k.toNat = 2 ^ k := by
  rw [← zpow_natCast, Int.toNat_of_nonneg h]

/-- The model shifts left or right by an exponent of either sign. -/
theorem two_pow_toNat_div {K : Type} [DivisionRing K] [CharZero K] (k : Int) : (2 : K) ^ k.toNat / 2 ^ (-k).toNat = 2 ^ k := by
  rw [← zpow_natCast, ← zpow_natCast, ← zpow_sub₀ two_ne_zero]
  congr 1
  omega

/-- A whole number scaled down to a lower exponent is worth the same. -/
theorem mul_two_pow_sub {K : Type} [DivisionRing K] [CharZero K] (x : K) {e lo : Int} (h : lo ≤ e) :
    x * 2 ^ (e - lo).toNat * 2 ^ lo = x * 2 ^ e := by
  rw [two_pow_toNat (by omega), mul_assoc, ← zpow_add₀ two_ne_zero, sub_add_cancel]

theorem mul_two_pow_neg_iff (x : ℚ) (e : Int) : x * 2 ^ e < 0 ↔ x < 0 := by
  have h : (0 : ℚ) < 2 ^ e := by positivity
  simp [mul_neg_iff, h, h.not_gt]

theorem zshift_cast {K : Type} [DivisionRing K] [CharZero K] (x : Int) {k : Int} (h : 0 ≤ k) : ((zshift x k : Int) : K) = x * 2 ^ k := by
  rw [zshift, ← two_pow_toNat h]
  push_cast
  rfl

/-! ### Worth -/

/-- The factor of a sign. -/
def signed (neg : Bool) : ℚ := if neg then -1 else 1

@[simp] theorem signed_false : signed false = 1 := rfl
@[simp] theorem signed_true : signed true = -1 := rfl
theorem signed_not (neg : Bool) : signed (!neg) = -signed neg := by cases neg <;> simp
theorem abs_signed (neg : Bool) : |signed neg| = 1 := by cases neg <;> simp
theorem signed_bne (u n : Bool) : signed (u != n) = signed u * signed n := by cases u <;> cases n <;> simp

theorem worth_fin (neg : Bool) (m : Nat) (e : Int) : worth (.fin neg m e) = signed neg * m * 2 ^ e := rfl

theorem abs_worth_fin (neg : Bool) (m : Nat) (e : Int) : |worth (.fin neg m e)| = m * 2 ^ e := by
  rw [worth_fin, mul_assoc, abs_mul, abs_signed, one_mul, abs_of_nonneg (by positivity)]

theorem worth_eq_zero_iff (neg : Bool) (m : Nat) (e : Int) : worth (.fin neg m e) = 0 ↔ m = 0 := by
  rw [← abs_eq_zero, abs_worth_fin]
  simp [zpow_ne_zero]

theorem worth_neg_iff (neg : Bool) {m : Nat} (e : Int) (hm : m ≠ 0) : worth (.fin neg m e) < 0 ↔ neg = true := by
  have h : (0 : ℚ) < m * 2 ^ e := by positivity
  cases neg <;> simp [worth_fin] <;> linarith

theorem worth_pos_iff (neg : Bool) {m : Nat} (e : Int) (hm : m ≠ 0) : 0 < worth (.fin neg m e) ↔ neg = false := by
  have h : (0 : ℚ) < m * 2 ^ e := by positivity
  cases neg <;> simp [worth_fin] <;> linarith

/-- The whole number of a sign and a magnitude. -/
theorem worth_int (x : Int) (e : Int) : worth (.fin (decide (x < 0)) x.natAbs e) = x * 2 ^ e := by
  have h : signed (decide (x < 0)) * (x.natAbs : ℚ) = x := by
    rcases lt_or_ge x 0 with h | h
    · simp [h, Nat.cast_natAbs, abs_of_neg h]
    · simp [not_lt.2 h, Nat.cast_natAbs, abs_of_nonneg h]
  rw [worth_fin, h]

theorem worth_negate (v : FVal) : worth v.negate = -worth v := by
  cases v with
  | fin neg m e => rw [FVal.negate, worth_fin, worth_fin, signed_not, neg_mul, neg_mul]
  | _ => simp [FVal.negate, worth]

theorem worth_scale (neg : Bool) (m : Nat) (e k : Int) : worth (FVal.scale (.fin neg m e) k) = worth (.fin neg m e) * 2 ^ k := by
  rw [FVal.scale, worth_fin, worth_fin, zpow_add₀ two_ne_zero, mul_assoc (signed neg * m)]

/-! ### Sums, products and order (R80, R82) -/

theorem worth_mul (u n : Bool) (k l : Nat) (e g : Int) :
    worth (.fin (u != n) (k * l) (e + g)) = worth (.fin u k e) * worth (.fin n l g) := by
  rw [worth_fin, worth_fin, worth_fin, signed_bne, zpow_add₀ two_ne_zero]
  push_cast
  ring

/-- The exact sum of two numbers, a zero being +0 but toward -infinity. -/
theorem addFin_finite (m : Mode) (u n : Bool) (k l : Nat) (e g : Int) :
    let sum := worth (.fin u k e) + worth (.fin n l g)
    Finite (addFin m u k e n l g) (if sum = 0 then decide (m = .down) else decide (sum < 0)) sum := by
  intro sum
  obtain ⟨lo, hlo⟩ : ∃ lo, lo = min e g := ⟨_, rfl⟩
  obtain ⟨x, hx⟩ : ∃ x : Int, x = (if u then -1 else 1) * (k * 2 ^ (e - lo).toNat : Nat) +
    (if n then -1 else 1) * (l * 2 ^ (g - lo).toNat : Nat) := ⟨_, rfl⟩
  have hsum : sum = x * 2 ^ lo := by
    have hu := mul_two_pow_sub (signed u * k) (show lo ≤ e by omega)
    have hn := mul_two_pow_sub (signed n * l) (show lo ≤ g by omega)
    simp only [sum, worth_fin, ← hu, ← hn, hx, ← add_mul]
    cases u <;> cases n <;> simp
  have h0 : sum = 0 ↔ x = 0 := by simp [hsum, zpow_ne_zero]
  have hneg : sum < 0 ↔ x < 0 := by rw [hsum, mul_two_pow_neg_iff]; exact_mod_cast Iff.rfl
  unfold addFin
  dsimp only
  rw [← hlo, ← hx]
  by_cases hz : x = 0
  · rw [if_pos hz, if_pos (h0.2 hz)]
    exact ⟨0, 0, by cases m <;> rfl, by rw [h0.2 hz]; simp [worth]⟩
  · rw [if_neg hz, if_neg (mt h0.1 hz), show decide (sum < 0) = decide (x < 0) from decide_eq_decide.2 hneg]
    exact ⟨_, _, rfl, by rw [worth_int, hsum]⟩

theorem ltPow_iff (m1 : Nat) (e1 : Int) (m2 : Nat) (e2 : Int) :
    ltPow m1 e1 m2 e2 = true ↔ (m1 : ℚ) * 2 ^ e1 < m2 * 2 ^ e2 := by
  have hp : (0 : ℚ) < 2 ^ min e1 e2 := by positivity
  rw [← mul_two_pow_sub (m1 : ℚ) (min_le_left e1 e2), ← mul_two_pow_sub (m2 : ℚ) (min_le_right e1 e2), mul_lt_mul_iff_left₀ hp]
  unfold ltPow
  rw [decide_eq_true_iff]
  exact_mod_cast Iff.rfl

/-- The order of two numbers is that of their worth. -/
theorem lt_fin_iff (u n : Bool) (k l : Nat) (e g : Int) :
    FVal.lt (.fin u k e) (.fin n l g) = true ↔ worth (.fin u k e) < worth (.fin n l g) := by
  by_cases hk : k = 0 <;> by_cases hl : l = 0
  · simp [FVal.lt, hk, hl, worth_fin]
  · rw [(worth_eq_zero_iff u k e).2 hk, worth_pos_iff n g hl]
    cases n <;> simp [FVal.lt, hk, hl]
  · rw [(worth_eq_zero_iff n l g).2 hl, worth_neg_iff u e hk]
    cases u <;> simp [FVal.lt, hk, hl]
  · cases u <;> cases n
    · simp [FVal.lt, hk, hl, ltPow_iff, worth_fin]
    · simpa [FVal.lt, hk, hl] using ((worth_neg_iff true g hl).2 rfl).le.trans ((worth_pos_iff false e hk).2 rfl).le
    · simpa [FVal.lt, hk, hl] using ((worth_neg_iff true e hk).2 rfl).trans ((worth_pos_iff false g hl).2 rfl)
    · simp [FVal.lt, hk, hl, ltPow_iff, worth_fin]

theorem eq_fin_iff (u n : Bool) (k l : Nat) (e g : Int) :
    FVal.eq (.fin u k e) (.fin n l g) = true ↔ worth (.fin u k e) = worth (.fin n l g) := by
  have h (a b : FVal) (p : Prop) (hi : a.lt b = true ↔ p) : (!a.lt b) = true ↔ ¬p := by rw [← hi]; simp
  simp only [FVal.eq, FVal.isNan, Bool.not_false, Bool.and_self, Bool.true_and, Bool.and_eq_true, h _ _ _ (lt_fin_iff ..), not_lt]
  exact ⟨fun ⟨h1, h2⟩ => le_antisymm h2 h1, fun h => ⟨h.ge, h.le⟩⟩

/-- A number compared with a whole multiple of a power of two. -/
theorem lt_real_iff (u n : Bool) (k l : Nat) (e g : Int) :
    FVal.lt (.fin u k e) (real n l g) = true ↔ worth (.fin u k e) < signed n * l * 2 ^ g := lt_fin_iff ..

end Sys2Proof.Machine

/-! PROOFS. Rounding: a whole-number rounding on a grid is the rounding that R82 gives (spec/03_numbers.md R81 to R83). -/

namespace Sys2Proof.Machine

open Sys2Proof.Claims

/-! ### Rounding to whole numbers -/

/-- Whether rounding a number, not negative, goes from its floor to the next whole number. -/
def GoesUp (m : Mode) (f : Nat) (x : ℚ) : Prop :=
  match m with
  | .nearest => (f : ℚ) + 1 / 2 < x ∨ (x = f + 1 / 2 ∧ f % 2 = 1)
  | .up => (f : ℚ) < x
  | _ => False

/-- A mode seen from the other side of zero. -/
def Mode.flip : Mode → Mode
  | .up => .down | .down => .up | m => m

/-- Whether `roundInt` goes up from a floor with a remainder that is not 0. -/
def remainderUp (m : Mode) (r : Nat) (neg : Bool) (den rem : Nat) (odd : Bool) : Bool :=
  match m with
  | .nearest => decide (den < 2 * rem) || (decide (2 * rem = den) && odd)
  | .zero => false
  | .up => !neg
  | .down => neg
  | .stochastic => decide (r < rem * 2 ^ 16 / den)

theorem roundInt_eq (m : Mode) (r : Nat) (neg : Bool) (n d : Nat) (s : Int) (odd : Nat → Bool) : roundInt m r neg n d s odd =
    let num := n * 2 ^ s.toNat
    let den := d * 2 ^ (-s).toNat
    if num % den = 0 then (num / den, false)
    else (if remainderUp m r neg den (num % den) (odd (num / den)) then num / den + 1 else num / den, true) := rfl

theorem roundInt_neg (m : Mode) (r : Nat) (n d : Nat) (s : Int) (odd : Nat → Bool) :
    roundInt m r true n d s odd = roundInt m.flip r false n d s odd := by cases m <;> rfl

/-- Going up, said of the remainder. -/
theorem goesUp_iff {m : Mode} (hm : m ≠ .stochastic) (r f : Nat) {den rem : Nat} (hd : 0 < den) :
    GoesUp m f (f + rem / den) ↔ rem ≠ 0 ∧ remainderUp m r false den rem (f % 2 == 1) = true := by
  have hdq : (0 : ℚ) < den := by exact_mod_cast hd
  cases m with
  | nearest =>
    have h1 : 1 / 2 < (rem : ℚ) / den ↔ den < 2 * rem := by
      rw [div_lt_div_iff₀ two_pos hdq, one_mul, mul_comm]
      exact_mod_cast Iff.rfl
    have h2 : (rem : ℚ) / den = 1 / 2 ↔ 2 * rem = den := by
      rw [div_eq_div_iff hdq.ne' two_ne_zero, one_mul, mul_comm]
      exact_mod_cast Iff.rfl
    simp only [GoesUp, remainderUp, Bool.or_eq_true, Bool.and_eq_true, decide_eq_true_eq, beq_iff_eq, add_lt_add_iff_left,
      add_right_inj, h1, h2]
    omega
  | up => simp [GoesUp, remainderUp, hdq, Nat.pos_iff_ne_zero]
  | stochastic => exact absurd rfl hm
  | zero => simp [GoesUp, remainderUp]
  | down => simp [GoesUp, remainderUp]

/-- The floor that `roundInt` starts from, and where it goes. -/
theorem roundInt_floor {m : Mode} (hm : m ≠ .stochastic) (r n : Nat) {d : Nat} (hd : d ≠ 0) (s : Int) {odd : Nat → Bool}
    (hodd : ∀ k, odd k = (k % 2 == 1)) :
    let x : ℚ := n / d * 2 ^ s
    let o := roundInt m r false n d s odd
    ∃ f : Nat, (f : ℚ) ≤ x ∧ x < f + 1 ∧ (o.2 = true ↔ x ≠ f) ∧ (GoesUp m f x → o.1 = f + 1) ∧ (¬GoesUp m f x → o.1 = f) := by
  intro x o
  obtain ⟨num, hnum⟩ : ∃ num, num = n * 2 ^ s.toNat := ⟨_, rfl⟩
  obtain ⟨den, hden⟩ : ∃ den, den = d * 2 ^ (-s).toNat := ⟨_, rfl⟩
  have hpos : 0 < den := by rw [hden]; positivity
  have hdq : (0 : ℚ) < den := by exact_mod_cast hpos
  have ho : o = if num % den = 0 then (num / den, false)
      else (if remainderUp m r false den (num % den) (num / den % 2 == 1) then num / den + 1 else num / den, true) := by
    simp only [o, roundInt_eq, hodd, ← hnum, ← hden]
  have hx : x = (num / den : Nat) + (num % den : Nat) / den := by
    have h := two_pow_toNat_div (K := ℚ) s
    have hdm : ((den * (num / den) + num % den : Nat) : ℚ) = num := by rw [Nat.div_add_mod]
    calc x = num / den := by
          simp only [x, hnum, hden, ← h]
          push_cast
          ring
      _ = _ := by
          rw [← hdm]
          push_cast
          field_simp
  have hlt : ((num % den : Nat) : ℚ) / den < 1 := by
    rw [div_lt_one hdq]
    exact_mod_cast Nat.mod_lt _ hpos
  have hz : x = (num / den : Nat) ↔ num % den = 0 := by simp [hx, hdq.ne']
  have up := hx ▸ goesUp_iff hm r (num / den) (rem := num % den) hpos
  refine ⟨num / den, by rw [hx]; simp; positivity, by rw [hx]; linarith, ?_⟩
  rw [up, ne_eq, hz, ho]
  by_cases h0 : num % den = 0
  · simp [h0]
  · simp only [h0, if_false, ne_eq, not_false_eq_true, true_and]
    exact ⟨fun h => by rw [if_pos h], fun h => by rw [if_neg h]⟩

/-! ### The grid of a format (R82) -/

section
variable {p : Nat} {lo : Option Int}

theorem onGrid_neg {z : ℚ} (h : OnGrid p lo z) : OnGrid p lo (-z) := by
  obtain ⟨m, q, hm, hq, rfl⟩ := h
  exact ⟨-m, q, by simpa using hm, hq, by push_cast; ring⟩

theorem onGrid_neg_iff {z : ℚ} : OnGrid p lo (-z) ↔ OnGrid p lo z := ⟨fun h => neg_neg z ▸ onGrid_neg h, onGrid_neg⟩

theorem onGrid_mul {q : Int} (hq : ∀ l, lo = some l → l + 1 - p ≤ q) {k : Nat} (hk : k ≤ 2 ^ p) : OnGrid p lo (k * 2 ^ q) :=
  ⟨k, q, by simpa using hk, hq, by simp⟩

/-- Between a number of the grid and the next, at the spacing that holds there, the grid has none. -/
theorem onGrid_gap {q : Int} {f : Nat} (hp : 1 ≤ p) (hmin : lo = some (q + p - 1) ∨ 2 ^ (p - 1) ≤ f) {z : ℚ} (hz : OnGrid p lo z) :
    z / 2 ^ q ≤ f ∨ (f : ℚ) + 1 ≤ z / 2 ^ q := by
  obtain ⟨m, r, hm, hr, rfl⟩ := hz
  have hdiv : (m : ℚ) * 2 ^ r / 2 ^ q = m * 2 ^ (r - q) := by rw [mul_div_assoc, ← zpow_sub₀ two_ne_zero]
  rw [hdiv]
  rcases le_or_gt q r with h | h
  · have hw : (m : ℚ) * 2 ^ (r - q) = ((m * 2 ^ (r - q).toNat : Int) : ℚ) := by
      push_cast
      rw [two_pow_toNat (by omega)]
    rw [hw]
    rcases le_or_gt (m * 2 ^ (r - q).toNat) f with hle | hgt
    · exact .inl (by exact_mod_cast hle)
    · exact .inr (by exact_mod_cast hgt)
  · left
    have hf : 2 ^ (p - 1) ≤ f := hmin.resolve_left fun hl => by have := hr _ hl; omega
    have hm' : (m : ℚ) ≤ 2 ^ p := by
      have h1 : m ≤ (2 ^ p : Nat) := le_trans Int.le_natAbs (by exact_mod_cast hm)
      exact_mod_cast h1
    calc (m : ℚ) * 2 ^ (r - q) ≤ 2 ^ p * 2 ^ (-1 : Int) :=
          mul_le_mul hm' (zpow_le_zpow_right₀ one_le_two (by omega)) (by positivity) (by positivity)
      _ = 2 ^ (p - 1) := by
          rw [← zpow_natCast, ← zpow_natCast, ← zpow_add₀ two_ne_zero]
          congr 1
          omega
      _ ≤ f := by exact_mod_cast hf

/-- Rounding is the same on both sides of zero, with the directions exchanged. -/
theorem roundedTo_neg {m : Mode} (hm : m ≠ .stochastic) {r : Nat} {x y : ℚ} (h : RoundedTo p lo m.flip r x y) :
    RoundedTo p lo m r (-x) (-y) := by
  obtain ⟨hy, hx, h⟩ := h
  refine ⟨onGrid_neg hy, fun hx' => by rw [hx (onGrid_neg_iff.1 hx')], ?_⟩
  cases m with
  | nearest =>
    intro z hz
    have e1 : |-x - -y| = |x - y| := by rw [← abs_neg]; ring_nf
    have e2 : |-x - z| = |x - -z| := by rw [← abs_neg]; ring_nf
    rw [e1, e2]
    rcases h _ (onGrid_neg hz) with h | h | ⟨h, i, hi⟩
    · exact .inl (by rw [← h, neg_neg])
    · exact .inr (.inl h)
    · exact .inr (.inr ⟨h, i, by linarith⟩)
  | zero =>
    obtain ⟨h1, h2, h3⟩ := h
    refine ⟨by simpa using h1, by simpa using h2, fun z hz hle => ?_⟩
    simpa using h3 z hz (by simpa using hle)
  | up => exact ⟨neg_le_neg h.1, fun z hz hle => neg_le.1 (h.2 _ (onGrid_neg hz) (neg_le.1 hle))⟩
  | down => exact ⟨neg_le_neg h.1, fun z hz hle => le_neg.1 (h.2 _ (onGrid_neg hz) (le_neg.1 hle))⟩
  | stochastic => exact absurd rfl hm

/-- What is nearest to x among the whole numbers beside it is nearest of all that does not lie between these. -/
theorem nearest_of_goesUp {f M : Nat} {x z : ℚ} (h1 : (f : ℚ) ≤ x) (h2 : x < f + 1) (hup : GoesUp .nearest f x → M = f + 1)
    (hdown : ¬GoesUp .nearest f x → M = f) (hz : z ≤ f ∨ (f : ℚ) + 1 ≤ z) :
    z = M ∨ |x - M| < |x - z| ∨ (|x - M| = |x - z| ∧ ∃ i : Int, (M : ℚ) = 2 * i * (z - M)) := by
  by_cases h : GoesUp .nearest f x
  · obtain rfl := hup h
    push_cast
    have hM : |x - (f + 1)| = f + 1 - x := by rw [abs_sub_comm, abs_of_nonneg (by linarith)]
    rw [hM]
    rcases hz with hz | hz
    · rw [abs_of_nonneg (by linarith : (0 : ℚ) ≤ x - z)]
      rcases h with h | ⟨h, hf⟩
      · exact .inr (.inl (by linarith))
      · rcases hz.lt_or_eq with hz | rfl
        · exact .inr (.inl (by linarith))
        · obtain ⟨j, hj⟩ : ∃ j, f + 1 = 2 * j := ⟨(f + 1) / 2, by omega⟩
          have hj' : (f : ℚ) + 1 = 2 * j := by exact_mod_cast hj
          exact .inr (.inr ⟨by linarith, -j, by push_cast; linarith⟩)
    · rcases hz.lt_or_eq with hz | rfl
      · rw [abs_sub_comm, abs_of_nonneg (by linarith : (0 : ℚ) ≤ z - x)]
        exact .inr (.inl (by linarith))
      · exact .inl rfl
  · obtain rfl := hdown h
    rw [abs_of_nonneg (by linarith : (0 : ℚ) ≤ x - M)]
    simp only [GoesUp, not_or, not_lt, not_and] at h
    obtain ⟨hle, hodd⟩ := h
    rcases hz with hz | hz
    · rw [abs_of_nonneg (by linarith : (0 : ℚ) ≤ x - z)]
      rcases hz.lt_or_eq with hz | rfl
      · exact .inr (.inl (by linarith))
      · exact .inl rfl
    · rw [abs_sub_comm, abs_of_nonneg (by linarith : (0 : ℚ) ≤ z - x)]
      rcases hle.lt_or_eq with hle | hle
      · exact .inr (.inl (by linarith))
      · rcases hz.lt_or_eq with hz | rfl
        · exact .inr (.inl (by linarith))
        · have hM : M % 2 ≠ 1 := hodd hle
          obtain ⟨j, hj⟩ : ∃ j, M = 2 * j := ⟨M / 2, by omega⟩
          have hj' : (M : ℚ) = 2 * j := by exact_mod_cast hj
          exact .inr (.inr ⟨by linarith, j, by push_cast; linarith⟩)

/-- A whole-number rounding at the spacing of the grid rounds to the grid: a number that is not negative. -/
theorem roundedTo_of_goesUp {m : Mode} (hm : m ≠ .stochastic) (hp : 1 ≤ p) {r f M : Nat} {q : Int} {x : ℚ}
    (hq : ∀ l, lo = some l → l + 1 - p ≤ q) (hf : f < 2 ^ p) (hmin : lo = some (q + p - 1) ∨ 2 ^ (p - 1) ≤ f)
    (h1 : (f : ℚ) ≤ x) (h2 : x < f + 1) (hup : GoesUp m f x → M = f + 1) (hdown : ¬GoesUp m f x → M = f) :
    RoundedTo p lo m r (x * 2 ^ q) (M * 2 ^ q) := by
  have hpos : (0 : ℚ) < 2 ^ q := by positivity
  have gap (z : ℚ) (hz : OnGrid p lo (z * 2 ^ q)) : z ≤ f ∨ (f : ℚ) + 1 ≤ z := by
    simpa [hpos.ne'] using onGrid_gap hp hmin hz
  have scale (z : ℚ) : ∃ t, z = t * 2 ^ q := ⟨z / 2 ^ q, (div_mul_cancel₀ z hpos.ne').symm⟩
  have habs (z : ℚ) : |z * 2 ^ q| = |z| * 2 ^ q := by rw [abs_mul, abs_of_pos hpos]
  have hx0 : 0 ≤ x := le_trans (by positivity) h1
  have hM0 : (0 : ℚ) ≤ M := by positivity
  refine ⟨onGrid_mul hq ?_, fun hx => ?_, ?_⟩
  · by_cases h : GoesUp m f x
    · rw [hup h]; omega
    · rw [hdown h]; omega
  · have hxf : x = f := le_antisymm ((gap x hx).resolve_right (by linarith)) h1
    rw [hdown, hxf]
    rw [hxf]
    cases m <;> simp [GoesUp]
  · cases m with
    | nearest =>
      intro z hz
      obtain ⟨t, rfl⟩ := scale z
      simp only [← sub_mul, habs, mul_lt_mul_iff_left₀ hpos, mul_left_inj' hpos.ne']
      refine (nearest_of_goesUp h1 h2 hup hdown (gap t hz)).imp_right (.imp_right fun ⟨he, i, hi⟩ => ⟨he, i, ?_⟩)
      rw [← mul_assoc, ← hi]
    | zero =>
      rw [hdown not_false, habs, habs, abs_of_nonneg hx0, Nat.abs_cast]
      refine ⟨mul_le_mul_of_nonneg_right h1 hpos.le, by positivity, fun z hz hle => ?_⟩
      have hz' : OnGrid p lo |z| := by rcases abs_choice z with h | h <;> rw [h]; exacts [hz, onGrid_neg hz]
      obtain ⟨t, ht⟩ := scale |z|
      rw [ht] at hle hz' ⊢
      exact mul_le_mul_of_nonneg_right ((gap t hz').resolve_right fun h => by nlinarith) hpos.le
    | up =>
      simp only [GoesUp, not_lt] at hup hdown
      refine ⟨mul_le_mul_of_nonneg_right ?_ hpos.le, fun z hz hle => ?_⟩
      · rcases h1.lt_or_eq with h | h
        · rw [hup h]; push_cast; exact h2.le
        · rw [hdown h.ge, h]
      · obtain ⟨t, rfl⟩ := scale z
        have hxt : x ≤ t := le_of_mul_le_mul_right hle hpos
        refine mul_le_mul_of_nonneg_right ?_ hpos.le
        rcases h1.lt_or_eq with h | h
        · rw [hup h]; push_cast; exact (gap t hz).resolve_left (by linarith)
        · rw [hdown h.ge, h]; exact hxt
    | down =>
      rw [hdown not_false]
      refine ⟨mul_le_mul_of_nonneg_right h1 hpos.le, fun z hz hle => ?_⟩
      obtain ⟨t, rfl⟩ := scale z
      have hxt : t ≤ x := le_of_mul_le_mul_right hle hpos
      exact mul_le_mul_of_nonneg_right ((gap t hz).resolve_right (by linarith)) hpos.le
    | stochastic => exact absurd rfl hm

/-- A number has one nearest number of the grid, of two the even multiple. -/
theorem roundedTo_nearest_unique {r : Nat} {x y z : ℚ} (hy : RoundedTo p lo .nearest r x y) (hz : RoundedTo p lo .nearest r x z) :
    y = z := by
  rcases hy.2.2 z hz.1 with h | h | ⟨h, i, hi⟩
  · exact h.symm
  · rcases hz.2.2 y hy.1 with h' | h' | ⟨h', -⟩
    · exact h'
    · exact absurd h' h.not_gt
    · exact absurd h' h.ne'
  · rcases hz.2.2 y hy.1 with h' | h' | ⟨-, j, hj⟩
    · exact h'
    · exact absurd h h'.ne'
    · have hodd : ((1 + 2 * (i + j) : Int) : ℚ) * (z - y) = 0 := by push_cast; linarith
      rcases mul_eq_zero.1 hodd with h0 | h0
      · have : 1 + 2 * (i + j) = 0 := by exact_mod_cast h0
        omega
      · linarith

end

end Sys2Proof.Machine

namespace Sys2Proof.Machine

open Sys2Proof.Claims

/-! ### `roundInt` on the grid -/

theorem flip_ne {m : Mode} (hm : m ≠ .stochastic) : m.flip ≠ .stochastic := by cases m <;> simp_all [Mode.flip]

section
variable {m : Mode} (hm : m ≠ .stochastic) (r : Nat) (neg : Bool) (n : Nat) {d : Nat} (hd : d ≠ 0) {odd : Nat → Bool}
  (hodd : ∀ k, odd k = (k % 2 == 1))
include hm hd hodd

/-- As `roundInt_floor`, for either sign: the mode is seen from the number's side of zero. -/
theorem roundInt_floor_signed (s : Int) :
    let x : ℚ := n / d * 2 ^ s
    let o := roundInt m r neg n d s odd
    let m' := if neg then m.flip else m
    ∃ f : Nat, (f : ℚ) ≤ x ∧ x < f + 1 ∧ (o.2 = true ↔ x ≠ f) ∧ (GoesUp m' f x → o.1 = f + 1) ∧ (¬GoesUp m' f x → o.1 = f) := by
  cases neg with
  | false => exact roundInt_floor hm r n hd s hodd
  | true =>
    rw [roundInt_neg]
    exact roundInt_floor (flip_ne hm) r n hd s hodd

theorem roundInt_le (s : Int) {b : Nat} (h : (n : ℚ) / d * 2 ^ s ≤ b) : (roundInt m r neg n d s odd).1 ≤ b := by
  obtain ⟨f, h1, -, -, hup, hdown⟩ := roundInt_floor_signed hm r neg n hd hodd s
  by_cases hg : GoesUp (if neg then m.flip else m) f (n / d * 2 ^ s)
  · rw [hup hg]
    have hf : (f : ℚ) < n / d * 2 ^ s := by
      revert hg
      generalize (if neg then m.flip else m) = m'
      cases m' with
      | nearest => rintro (h | ⟨h, -⟩) <;> linarith
      | up => exact id
      | _ => exact False.elim
    have : f < b := by exact_mod_cast hf.trans_le h
    omega
  · rw [hdown hg]
    exact_mod_cast h1.trans h

theorem le_roundInt (s : Int) {b : Nat} (h : (b : ℚ) ≤ n / d * 2 ^ s) : b ≤ (roundInt m r neg n d s odd).1 := by
  obtain ⟨f, -, h2, -, hup, hdown⟩ := roundInt_floor_signed hm r neg n hd hodd s
  have hb : b < f + 1 := by exact_mod_cast h.trans_lt h2
  by_cases hg : GoesUp (if neg then m.flip else m) f (n / d * 2 ^ s)
  · rw [hup hg]; omega
  · rw [hdown hg]; omega

/-- `roundInt` at the spacing q of the grid gives the rounding of R82, and tells whether it is inexact. -/
theorem roundInt_roundedTo {p : Nat} {lo : Option Int} (hp : 1 ≤ p) {e q : Int} (hq : ∀ l, lo = some l → l + 1 - p ≤ q)
    (hlt : (n : ℚ) / d * 2 ^ e < 2 ^ p * 2 ^ q) (hmin : lo = some (q + p - 1) ∨ 2 ^ (p - 1) * 2 ^ q ≤ (n : ℚ) / d * 2 ^ e) :
    let o := roundInt m r neg n d (e - q) odd
    let x := signed neg * (n / d * 2 ^ e)
    let y := signed neg * (o.1 * 2 ^ q)
    RoundedTo p lo m r x y ∧ (o.2 = true ↔ y ≠ x) := by
  have hpos : (0 : ℚ) < 2 ^ q := by positivity
  have hx : (n : ℚ) / d * 2 ^ e = n / d * 2 ^ (e - q) * 2 ^ q := by
    rw [mul_assoc, ← zpow_add₀ two_ne_zero, sub_add_cancel]
  rw [hx] at hlt hmin
  rw [hx]
  obtain ⟨f, h1, h2, ho, hup, hdown⟩ := roundInt_floor_signed hm r neg n hd hodd (e - q)
  have hf : f < 2 ^ p := by exact_mod_cast h1.trans_lt (lt_of_mul_lt_mul_right hlt hpos.le)
  have hmin' : lo = some (q + p - 1) ∨ 2 ^ (p - 1) ≤ f := hmin.imp_right fun h => by
    have hb : 2 ^ (p - 1) < f + 1 := by exact_mod_cast (le_of_mul_le_mul_right h hpos).trans_lt h2
    omega
  refine ⟨?_, ?_⟩
  · cases neg with
    | false => simpa using roundedTo_of_goesUp hm hp hq hf hmin' h1 h2 hup hdown
    | true => simpa using roundedTo_neg hm (roundedTo_of_goesUp (r := r) (flip_ne hm) hp hq hf hmin' h1 h2 hup hdown)
  · have hs : signed neg ≠ 0 := by cases neg <;> simp
    rw [ho, ne_eq, ne_eq, mul_right_inj' hs, mul_left_inj' hpos.ne', not_iff_not]
    by_cases hg : GoesUp (if neg then m.flip else m) f (n / d * 2 ^ (e - q))
    · rw [hup hg]
      push_cast
      refine ⟨fun h => absurd hg ?_, fun h => by linarith⟩
      rw [h]
      generalize (if neg then m.flip else m) = m'
      cases m' <;> simp [GoesUp]
    · rw [hdown hg]
      exact eq_comm

end

/-! ### Rounding into a wide format (R79, R82) -/

/-- The shape of a wide format in the model's terms. -/
theorem wideShape_eq {k : Fmt} (hk : k.wide = true) : (wideShape k).1 = k.frac + 1 ∧ (wideShape k).2.1 = k.emin ∧ k.frac ≠ 0 ∧
    (2 ^ (k.frac + 1) - 1 : ℚ) * 2 ^ ((wideShape k).2.2 - (k.frac + 1)) = (k.plain k.maxCode).1 * 2 ^ (k.plain k.maxCode).2 := by
  cases k with
  | i8 | u8 | p8 => cases hk
  | _ =>
    refine ⟨rfl, by decide, by decide, ?_⟩
    simp [wideShape, Fmt.frac, Fmt.plain, Fmt.maxCode, Fmt.infCode, Fmt.ebits, Fmt.bias]
    norm_num

end Sys2Proof.Machine

namespace Sys2Proof.Machine

open Sys2Proof.Claims

theorem log2Q_one {n : Nat} (hn : n ≠ 0) : log2Q n 1 = n.log2 := by
  have h : Nat.log2 1 = 0 := by decide
  simp [log2Q, h, Nat.log2_self_le hn]

/-- A number lies in the binade of its leading bit. -/
theorem binade_of_log2 {n : Nat} (hn : n ≠ 0) (e : Int) :
    (2 : ℚ) ^ ((n.log2 : Int) + e) ≤ n * 2 ^ e ∧ (n : ℚ) * 2 ^ e < 2 ^ ((n.log2 : Int) + e + 1) := by
  have h1 : (2 : ℚ) ^ n.log2 ≤ n := by exact_mod_cast Nat.log2_self_le hn
  have h2 : (n : ℚ) < 2 ^ (n.log2 + 1) := by exact_mod_cast Nat.lt_log2_self
  have hp : (0 : ℚ) < 2 ^ e := by positivity
  constructor
  · rw [zpow_add₀ two_ne_zero, zpow_natCast]
    exact mul_le_mul_of_nonneg_right h1 hp.le
  · rw [show (n.log2 : Int) + e + 1 = ((n.log2 + 1 : Nat) : Int) + e by push_cast; ring, zpow_add₀ two_ne_zero, zpow_natCast]
    exact mul_lt_mul_of_pos_right h2 hp

/-- `roundInt` at a spacing, with the parity that a format's ties look at. -/
def Fmt.roundAt (k : Fmt) (m : Mode) (r : Nat) (neg : Bool) (n : Nat) (e q : Int) : Nat × Bool :=
  roundInt m r neg n 1 (e - q) fun j => if k.frac = 0 ∧ j ≠ 0 then (q + k.bias) % 2 != 0 else j % 2 == 1

theorem round_eq (k : Fmt) {m : Mode} (hm : m ≠ .stochastic) (r : Nat) (neg : Bool) {n : Nat} (hn : n ≠ 0) (e : Int) :
    k.round m r neg n 1 e =
      let top := (n.log2 : Int) + e
      let u := k.roundAt m r neg n e (top - k.frac)
      let q := max top k.emin - k.frac
      let v := k.roundAt m r neg n e q
      { m := v.1, q := q, inexact := v.2, tiny := ltPow u.1 (top - k.frac) 1 k.emin,
        large := ltPow (k.plain k.maxCode).1 (k.plain k.maxCode).2 u.1 (top - k.frac) } := by
  simp only [Fmt.round, log2Q_one hn, Fmt.roundAt, hm, false_and, if_false]

section
variable {k : Fmt} (hk : k.wide = true) {m : Mode} (hm : m ≠ .stochastic) (r : Nat) (neg : Bool) (n : Nat) (e : Int)
include hk hm

theorem roundAt_le {q : Int} {b : Nat} (h : (n : ℚ) * 2 ^ e ≤ b * 2 ^ q) : (k.roundAt m r neg n e q).1 ≤ b := by
  refine roundInt_le hm r neg n one_ne_zero (by simp [(wideShape_eq hk).2.2.1]) _ ?_
  rwa [Nat.cast_one, div_one, zpow_sub₀ two_ne_zero, ← mul_div_assoc, div_le_iff₀ (by positivity)]

theorem le_roundAt {q : Int} {b : Nat} (h : (b : ℚ) * 2 ^ q ≤ n * 2 ^ e) : b ≤ (k.roundAt m r neg n e q).1 := by
  refine le_roundInt hm r neg n one_ne_zero (by simp [(wideShape_eq hk).2.2.1]) _ ?_
  rwa [Nat.cast_one, div_one, zpow_sub₀ two_ne_zero, ← mul_div_assoc, le_div_iff₀ (by positivity)]

theorem roundAt_roundedTo {lo : Option Int} {q : Int} (hq : ∀ l, lo = some l → l - k.frac ≤ q)
    (hlt : (n : ℚ) * 2 ^ e < 2 ^ (k.frac + 1) * 2 ^ q) (hmin : lo = some (q + k.frac) ∨ 2 ^ k.frac * 2 ^ q ≤ (n : ℚ) * 2 ^ e) :
    let o := k.roundAt m r neg n e q
    let y := worth (.fin neg o.1 q)
    RoundedTo (k.frac + 1) lo m r (worth (.fin neg n e)) y ∧ (o.2 = true ↔ y ≠ worth (.fin neg n e)) := by
  have h := roundInt_roundedTo hm r neg n one_ne_zero (odd := fun j => if k.frac = 0 ∧ j ≠ 0 then (q + k.bias) % 2 != 0 else j % 2 == 1)
    (by simp [(wideShape_eq hk).2.2.1]) (p := k.frac + 1) (lo := lo) (by omega) (e := e) (q := q)
    (fun l hl => by have := hq l hl; push_cast; omega) (by simpa using hlt)
    (hmin.imp (fun h => by rw [h]; push_cast; congr 1; ring) (fun h => by simpa using h))
  simp only [Nat.cast_one, div_one, ← mul_assoc] at h
  exact h

/-- What rounding a number that is not 0 gives: `y` on the format's grid and `z` with an unbounded exponent, equal from the least
normal on, and no larger than it below. -/
theorem round_spec (hn : n ≠ 0) :
    let o := k.round m r neg n 1 e
    let x := worth (.fin neg n e)
    let y := worth (.fin neg o.m o.q)
    let lo := k.emin
    ∃ z, RoundedTo (k.frac + 1) none m r x z ∧ RoundedTo (k.frac + 1) (some lo) m r x y ∧ (o.inexact = true ↔ y ≠ x) ∧
      (o.tiny = true ↔ |z| < 2 ^ lo) ∧ (o.large = true ↔ (k.plain k.maxCode).1 * 2 ^ (k.plain k.maxCode).2 < |z|) ∧
      o.m ≤ 2 ^ (k.frac + 1) ∧ lo - k.frac ≤ o.q ∧
      ((z = y ∧ 2 ^ k.frac ≤ o.m ∧ (2 : ℚ) ^ lo ≤ n * 2 ^ e) ∨
        (o.q = lo - k.frac ∧ o.m ≤ 2 ^ k.frac ∧ |z| ≤ 2 ^ lo ∧ (n : ℚ) * 2 ^ e < 2 ^ lo)) := by
  obtain ⟨h1, h2⟩ := binade_of_log2 hn e
  obtain ⟨top, htop⟩ : ∃ top : Int, top = n.log2 + e := ⟨_, rfl⟩
  rw [← htop] at h1 h2
  have spacing (q : Int) (a : Nat) : (2 : ℚ) ^ a * 2 ^ q = 2 ^ (q + a) := by rw [← zpow_natCast, ← zpow_add₀ two_ne_zero, add_comm]
  have hlt {q : Int} (h : top ≤ q + k.frac) : (n : ℚ) * 2 ^ e < 2 ^ (k.frac + 1) * 2 ^ q := by
    rw [spacing]
    exact h2.trans_le (zpow_le_zpow_right₀ one_le_two (by push_cast; omega))
  have hge : (2 : ℚ) ^ k.frac * 2 ^ (top - k.frac) ≤ n * 2 ^ e := by rwa [spacing, sub_add_cancel]
  have hle {q : Int} (h : top ≤ q + k.frac) : (k.roundAt m r neg n e q).1 ≤ 2 ^ (k.frac + 1) :=
    roundAt_le hk hm r neg n e (by push_cast; exact (hlt h).le)
  obtain ⟨u, hu⟩ : ∃ u, u = k.roundAt m r neg n e (top - k.frac) := ⟨_, rfl⟩
  obtain ⟨hz, -⟩ := roundAt_roundedTo hk hm r neg n e (lo := none) (q := top - k.frac) (by simp) (hlt (by omega)) (.inr hge)
  rw [round_eq k hm r neg hn e]
  dsimp only
  rw [← htop]
  rw [← hu] at hz ⊢
  have habs : |worth (.fin neg u.1 (top - k.frac))| = u.1 * 2 ^ (top - k.frac) := abs_worth_fin ..
  refine ⟨_, hz, ?_⟩
  rw [habs]
  rcases le_or_gt k.emin top with hc | hc
  · rw [max_eq_left hc]
    obtain ⟨hy, hinexact⟩ := roundAt_roundedTo hk hm r neg n e (lo := some k.emin) (q := top - k.frac)
      (fun l hl => by cases hl; omega) (hlt (by omega)) (.inr hge)
    rw [← hu] at hy hinexact ⊢
    refine ⟨hy, hinexact, by simp [ltPow_iff], by simp [ltPow_iff], ?_, by omega,
      .inl ⟨rfl, ?_, (zpow_le_zpow_right₀ one_le_two hc).trans h1⟩⟩
    · rw [hu]; exact hle (by omega)
    · rw [hu]; exact le_roundAt hk hm r neg n e (by push_cast; exact hge)
  · rw [max_eq_right hc.le]
    have hx : (n : ℚ) * 2 ^ e < 2 ^ k.emin := h2.trans_le (zpow_le_zpow_right₀ one_le_two (by omega))
    obtain ⟨hy, hinexact⟩ := roundAt_roundedTo hk hm r neg n e (lo := some k.emin) (q := k.emin - k.frac)
      (fun l hl => by cases hl; omega) (hlt (by omega)) (.inl (by simp))
    refine ⟨hy, hinexact, by simp [ltPow_iff], by simp [ltPow_iff], hle (by omega), by omega, .inr ⟨rfl, ?_, ?_, hx⟩⟩
    · refine roundAt_le hk hm r neg n e ?_
      push_cast
      rw [spacing, sub_add_cancel]
      exact hx.le
    · have hu2 : (u.1 : ℚ) ≤ 2 ^ (k.frac + 1) := by rw [hu]; exact_mod_cast hle (by omega)
      calc (u.1 : ℚ) * 2 ^ (top - k.frac) ≤ 2 ^ (k.frac + 1) * 2 ^ (top - k.frac) := mul_le_mul_of_nonneg_right hu2 (by positivity)
        _ = 2 ^ (top + 1) := by rw [spacing]; congr 1; push_cast; ring
        _ ≤ 2 ^ k.emin := zpow_le_zpow_right₀ one_le_two (by omega)

end

end Sys2Proof.Machine

namespace Sys2Proof.Machine

open Sys2Proof.Claims

/-! ### Codes of a wide format (R79) -/

/-- The largest finite magnitude of a format. -/
def Fmt.maxMag (k : Fmt) : ℚ := (k.plain k.maxCode).1 * 2 ^ (k.plain k.maxCode).2

theorem maxMag_bounds {k : Fmt} (hk : k.wide = true) : (2 : ℚ) ^ k.emin ≤ k.maxMag ∧ k.maxMag < 2 ^ (wideShape k).2.2 ∧
    (3 : ℚ) * 2 ^ ((wideShape k).2.2 - 2) ≤ k.maxMag := by
  cases k with
  | i8 | u8 | p8 => cases hk
  | _ =>
    simp only [Fmt.maxMag, Fmt.plain, Fmt.maxCode, Fmt.infCode, Fmt.ebits, Fmt.frac, Fmt.bias, Fmt.emin, wideShape]
    norm_num

theorem infCode_eq {k : Fmt} (hk : k.wide = true) :
    (k.infCode : Int) = ((wideShape k).2.2 + k.bias) * 2 ^ k.frac ∧ k.infCode + 2 ^ k.frac = k.signBit ∧ k.maxCode = k.infCode - 1 := by
  cases k with
  | i8 | u8 | p8 => cases hk
  | _ => decide

theorem plain_subnormal {k : Fmt} {c : Nat} (hc : c < 2 ^ k.frac) : k.plain c = (c, k.emin - k.frac) := by
  simp [Fmt.plain, Nat.mod_eq_of_lt hc, Nat.div_eq_of_lt hc]

theorem plain_normal {k : Fmt} {ex sig : Nat} (he : 1 ≤ ex) (h1 : 2 ^ k.frac ≤ sig) (h2 : sig < 2 ^ (k.frac + 1)) :
    k.plain (ex * 2 ^ k.frac + (sig - 2 ^ k.frac)) = (sig, (ex : Int) - k.bias - k.frac) := by
  have ht : sig - 2 ^ k.frac < 2 ^ k.frac := by rw [pow_succ] at h2; omega
  have hmod : (ex * 2 ^ k.frac + (sig - 2 ^ k.frac)) % 2 ^ k.frac = sig - 2 ^ k.frac := by
    rw [mul_comm, Nat.mul_add_mod, Nat.mod_eq_of_lt ht]
  have hdiv : (ex * 2 ^ k.frac + (sig - 2 ^ k.frac)) / 2 ^ k.frac = ex := by
    rw [mul_comm, Nat.mul_add_div (by positivity), Nat.div_eq_of_lt ht, add_zero]
  simp only [Fmt.plain, hmod, hdiv, if_neg (show ¬ex = 0 by omega)]
  rw [Nat.add_sub_cancel' h1]

/-- The two forms of a packed number: a subnormal significand, or an exponent and a significand. -/
theorem pack_cases {k : Fmt} {m : Nat} {q : Int} (hm : m ≤ 2 ^ (k.frac + 1)) (hq : k.emin - k.frac ≤ q) (hn : 2 ^ k.frac ≤ m ∨ q = k.emin - k.frac) :
    (k.pack m q = m ∧ m < 2 ^ k.frac ∧ q = k.emin - k.frac) ∨
    ∃ ex sig : Nat, k.pack m q = ex * 2 ^ k.frac + (sig - 2 ^ k.frac) ∧ 1 ≤ ex ∧ 2 ^ k.frac ≤ sig ∧ sig < 2 ^ (k.frac + 1) ∧
      (sig : ℚ) * 2 ^ ((ex : Int) - k.bias - k.frac) = m * 2 ^ q := by
  have hpos : 0 < 2 ^ k.frac := by positivity
  rcases Nat.eq_zero_or_pos m with rfl | hm0
  · exact .inl ⟨by simp [Fmt.pack], hpos, hn.resolve_left (by omega)⟩
  have h1 : 2 ^ m.log2 ≤ m := Nat.log2_self_le hm0.ne'
  have h2 : m < 2 ^ (m.log2 + 1) := Nat.lt_log2_self
  have hlog : k.frac ≤ m.log2 ∨ q = k.emin - k.frac := hn.imp_left fun h => by
    have := (Nat.pow_lt_pow_iff_right (by omega : 1 < 2)).1 (h.trans_lt h2)
    omega
  have hlog' : m.log2 ≤ k.frac + 1 := (Nat.pow_le_pow_iff_right (by omega : 1 < 2)).1 (h1.trans hm)
  unfold Fmt.pack
  rw [if_neg hm0.ne']
  dsimp only
  by_cases ht : (m.log2 : Int) + q < k.emin
  · have hq' : q = k.emin - k.frac := hlog.resolve_left (by omega)
    have hl : m.log2 + 1 ≤ k.frac := by omega
    refine .inl ⟨?_, h2.trans_le (Nat.pow_le_pow_right (by omega) hl), hq'⟩
    rw [if_pos ht, hq', sub_self]
    simp
  · rw [if_neg ht]
    have hex : (((m.log2 : Int) + q + k.bias).toNat : Int) = m.log2 + q + k.bias := Int.toNat_of_nonneg (by simp only [Fmt.emin] at ht; omega)
    have hl : m.log2 = k.frac ∨ m.log2 = k.frac + 1 := by omega
    right
    have hemin : k.emin = 1 - k.bias := rfl
    rcases hl with hl | hl
    · rw [hl] at h1 h2 hex ht ⊢
      refine ⟨((k.frac : Int) + q + k.bias).toNat, m, by simp, by omega, h1, h2, ?_⟩
      rw [hex]
      congr 2
      ring
    · rw [hl] at h1 h2 hex ht ⊢
      obtain rfl : m = 2 ^ (k.frac + 1) := le_antisymm hm h1
      refine ⟨(((k.frac + 1 : Nat) : Int) + q + k.bias).toNat, 2 ^ k.frac, by simp [pow_succ], by omega, le_rfl,
        by rw [pow_succ]; omega, ?_⟩
      rw [hex]
      push_cast
      rw [← zpow_natCast, ← zpow_natCast, ← zpow_add₀ two_ne_zero, ← zpow_add₀ two_ne_zero]
      congr 1
      push_cast
      ring

section
variable {k : Fmt} (hk : k.wide = true)
include hk

/-- The word of a sign and a finite code. -/
theorem decode_wide (neg : Bool) {c : Nat} (hc : c < k.infCode) :
    k.decode false ((if neg then k.signBit else 0) + c) = .fin neg (k.plain c).1 (k.plain c).2 := by
  obtain ⟨-, hs, -⟩ := infCode_eq hk
  have hlt : c < k.signBit := by
    have : 0 < 2 ^ k.frac := by positivity
    omega
  have hneg : decide (k.signBit ≤ (if neg then k.signBit else 0) + c) = neg := by cases neg <;> simp [hlt]
  have hmod : ((if neg then k.signBit else 0) + c) % k.signBit = c := by cases neg <;> simp [Nat.mod_eq_of_lt hlt]
  cases k with
  | i8 | u8 | p8 => cases hk
  | _ => simp only [Fmt.decode, hneg, hmod, hc.not_gt, hc.ne, if_false, Bool.false_eq_true, false_and]

/-- A number that a format holds, packed, is worth itself; its exponent field is 0 where it is subnormal. -/
theorem plain_pack {m : Nat} {q : Int} (hm : m ≤ 2 ^ (k.frac + 1)) (hq : k.emin - k.frac ≤ q)
    (hn : 2 ^ k.frac ≤ m ∨ q = k.emin - k.frac) (hmax : (m : ℚ) * 2 ^ q ≤ k.maxMag) :
    let c := k.pack m q
    c < k.infCode ∧ ((k.plain c).1 : ℚ) * 2 ^ (k.plain c).2 = m * 2 ^ q ∧ (c < 2 ^ k.frac ↔ (m : ℚ) * 2 ^ q < 2 ^ k.emin) := by
  obtain ⟨hinf, -, -⟩ := infCode_eq hk
  obtain ⟨hlow, hhigh, -⟩ := maxMag_bounds hk
  have hpow : (2 : ℚ) ^ k.emin = 2 ^ k.frac * 2 ^ (k.emin - k.frac) := by
    rw [← zpow_natCast, ← zpow_add₀ two_ne_zero, add_sub_cancel]
  have hexp : k.emin < (wideShape k).2.2 := (zpow_lt_zpow_iff_right₀ one_lt_two).1 (hlow.trans_lt hhigh)
  rcases pack_cases hm hq hn with ⟨hc, hlt, rfl⟩ | ⟨ex, sig, hc, he, h1, h2, hv⟩
  · rw [hc]
    intro c
    refine ⟨?_, by rw [plain_subnormal hlt], ?_⟩
    · have : 2 ^ k.frac ≤ ((wideShape k).2.2 + k.bias) * 2 ^ k.frac := le_mul_of_one_le_left (by positivity) (by simp only [Fmt.emin] at hexp; omega)
      have : ((2 ^ k.frac : Nat) : Int) ≤ k.infCode := by rw [hinf]; exact_mod_cast this
      omega
    · rw [hpow, mul_lt_mul_iff_left₀ (by positivity)]
      exact_mod_cast Iff.rfl
  · rw [hc]
    intro c
    have hsig : (2 : ℚ) ^ k.frac ≤ sig := by exact_mod_cast h1
    have hge : (2 : ℚ) ^ ((ex : Int) - k.bias) ≤ m * 2 ^ q := by
      rw [← hv, show (ex : Int) - k.bias = k.frac + (ex - k.bias - k.frac) by ring, zpow_add₀ two_ne_zero, zpow_natCast]
      simpa using mul_le_mul_of_nonneg_right hsig (by positivity)
    have hex : (ex : Int) - k.bias < (wideShape k).2.2 := (zpow_lt_zpow_iff_right₀ one_lt_two).1 ((hge.trans hmax).trans_lt hhigh)
    have hpos : 0 < 2 ^ k.frac := by positivity
    have ht : sig - 2 ^ k.frac < 2 ^ k.frac := by rw [pow_succ] at h2; omega
    refine ⟨?_, by rw [plain_normal he h1 h2, hv], ?_⟩
    · have hle : ((ex : Int) + 1) * 2 ^ k.frac ≤ k.infCode := by
        rw [hinf]
        exact mul_le_mul_of_nonneg_right (by omega) (by positivity)
      have hle' : (ex + 1) * 2 ^ k.frac ≤ k.infCode := by exact_mod_cast hle
      rw [add_mul, one_mul] at hle'
      omega
    · have hcl : 2 ^ k.frac ≤ ex * 2 ^ k.frac := Nat.le_mul_of_pos_left _ he
      have hm' : (2 : ℚ) ^ k.emin ≤ m * 2 ^ q := (zpow_le_zpow_right₀ one_le_two (by simp only [Fmt.emin]; omega)).trans hge
      exact ⟨fun h => by omega, fun h => absurd h hm'.not_gt⟩

end

end Sys2Proof.Machine

namespace Sys2Proof.Machine

open Sys2Proof.Claims

/-! ### Words of a wide format (R81 to R83) -/

/-- The sign of a word of a wide format. -/
def Fmt.sign (k : Fmt) (neg : Bool) : Nat := if neg then k.signBit else 0

theorem infCode_pos {k : Fmt} (hk : k.wide = true) : 0 < k.infCode := by
  cases k with
  | i8 | u8 | p8 => cases hk
  | _ => decide

/-- A word of a finite code: what it decodes to, and what it is worth. -/
theorem decode_sign_add {k : Fmt} (hk : k.wide = true) (neg : Bool) {c : Nat} (hc : c < k.infCode) :
    Finite (k.decode false (k.sign neg + c)) neg (signed neg * ((k.plain c).1 * 2 ^ (k.plain c).2)) :=
  ⟨_, _, decode_wide hk neg hc, by rw [Fmt.sign, decode_wide hk neg hc, worth_fin, mul_assoc]⟩

/-- What a wide format gives a number that is not 0: `y` is its rounding, `z` that with an unbounded exponent. -/
inductive Encoded (k : Fmt) (m : Mode) (ftz neg : Bool) (x y z : ℚ) : Nat × Flags → Prop
  | overflow (h : k.maxMag < |z|) (hy : y = z) :
      Encoded k m ftz neg x y z (k.sign neg + (if infOver m neg then k.infCode else k.maxCode), flOf ||| flNx)
  | flushed (h : |z| ≤ k.maxMag) (hz : |z| < 2 ^ k.emin) (hf : ftz = true) : Encoded k m ftz neg x y z (k.sign neg, flUf ||| flNx)
  | held (c : Nat) (h : |z| ≤ k.maxMag) (hc : c < k.infCode) (hf : ¬(ftz = true ∧ |z| < 2 ^ k.emin))
      (hw : signed neg * ((k.plain c).1 * 2 ^ (k.plain c).2) = y) (hsub : c < 2 ^ k.frac ↔ |y| < 2 ^ k.emin) :
      Encoded k m ftz neg x y z (k.sign neg + c, if y = x then 0 else if |z| < 2 ^ k.emin then flNx ||| flUf else flNx)

section
variable {k : Fmt} (hk : k.wide = true) {m : Mode} (hm : m ≠ .stochastic) (r : Nat) (ftz neg : Bool) {n : Nat} (hn : n ≠ 0) (e : Int)
include hk hm hn

theorem encodeWide_encoded : ∃ y z, RoundedTo (k.frac + 1) (some k.emin) m r (worth (.fin neg n e)) y ∧
    RoundedTo (k.frac + 1) none m r (worth (.fin neg n e)) z ∧
    ((y = z ∧ (2 : ℚ) ^ k.emin ≤ |z|) ∨ (|y| ≤ 2 ^ k.emin ∧ |z| ≤ 2 ^ k.emin ∧ (n : ℚ) * 2 ^ e < 2 ^ k.emin)) ∧
    Encoded k m ftz neg (worth (.fin neg n e)) y z (k.encodeWide m r ftz neg n 1 e) := by
  obtain ⟨z, hz, hy, hinexact, htiny, hlarge, hle, hq, hcase⟩ := round_spec hk hm r neg n e hn
  obtain ⟨o, ho⟩ : ∃ o, o = k.round m r neg n 1 e := ⟨_, rfl⟩
  rw [← ho] at hy hinexact htiny hlarge hle hq hcase
  obtain ⟨y, hy'⟩ : ∃ y, y = worth (.fin neg o.m o.q) := ⟨_, rfl⟩
  rw [← hy'] at hy hinexact hcase
  have habs : |y| = o.m * 2 ^ o.q := by rw [hy', abs_worth_fin]
  have hpow : (2 : ℚ) ^ k.emin = 2 ^ k.frac * 2 ^ (k.emin - k.frac) := by
    rw [← zpow_natCast, ← zpow_add₀ two_ne_zero, add_sub_cancel]
  have hboth : (y = z ∧ (2 : ℚ) ^ k.emin ≤ |z|) ∨ (|y| ≤ 2 ^ k.emin ∧ |z| ≤ 2 ^ k.emin ∧ (n : ℚ) * 2 ^ e < 2 ^ k.emin) := by
    rcases hcase with ⟨h, hm', -⟩ | ⟨hq', hm', hz', hx⟩
    · refine .inl ⟨h.symm, ?_⟩
      rw [h, habs, hpow]
      exact mul_le_mul (by exact_mod_cast hm') (zpow_le_zpow_right₀ one_le_two hq) (by positivity) (by positivity)
    · refine .inr ⟨?_, hz', hx⟩
      rw [habs, hq', hpow]
      exact mul_le_mul_of_nonneg_right (by exact_mod_cast hm') (by positivity)
  refine ⟨y, z, hy, hz, hboth, ?_⟩
  have hmax := (maxMag_bounds hk).1
  unfold Fmt.encodeWide
  rw [if_neg hn, ← ho]
  by_cases hl : o.large = true
  · rw [if_pos hl]
    have hl' : k.maxMag < |z| := hlarge.1 hl
    exact .overflow hl' (hboth.resolve_right fun h => by linarith [h.2.1]).1
  · rw [if_neg hl]
    have hz' : |z| ≤ k.maxMag := not_lt.1 (mt hlarge.2 hl)
    by_cases hf : ftz = true ∧ o.tiny = true
    · rw [if_pos hf]
      exact .flushed hz' (htiny.1 hf.2) hf.1
    · rw [if_neg hf]
      have hymax : |y| ≤ k.maxMag := by rcases hboth with ⟨rfl, -⟩ | ⟨h, -⟩ <;> linarith
      obtain ⟨hc, hw, hsub⟩ := plain_pack hk hle hq (hcase.elim (fun h => .inl h.2.1) fun h => .inr h.1) (habs ▸ hymax)
      have hfl : (flIf o.inexact flNx ||| flIf (o.inexact && o.tiny) flUf : Flags) =
          if y = worth (.fin neg n e) then 0 else if |z| < 2 ^ k.emin then flNx ||| flUf else flNx := by
        simp only [← htiny]
        by_cases hi : o.inexact = true
        · rw [if_neg (hinexact.1 hi)]
          by_cases ht : o.tiny = true <;> simp [hi, ht, flIf]
        · rw [if_pos (not_not.1 (mt hinexact.2 hi))]
          simp [hi, flIf]
      rw [hfl]
      exact .held _ hz' hc (fun h => hf ⟨h.1, htiny.2 h.2⟩) (by rw [hw, hy', worth_fin, mul_assoc]) (by rw [hsub, habs])

/-- A number that is not 0 takes a wide format's word by R81 to R83. -/
theorem wideResult_ofVal : WideResult k m r ftz (worth (.fin neg n e)) (k.ofVal m r ftz (.fin neg n e)) := by
  obtain ⟨y, z, hy, hz, -, h⟩ := encodeWide_encoded hk hm r ftz neg hn e
  obtain ⟨hp, hlo, -, hmax⟩ := wideShape_eq hk
  obtain ⟨-, hinf, hmaxc⟩ := infCode_eq hk
  obtain ⟨⟨p, lo, hi⟩, hs⟩ : ∃ s, s = wideShape k := ⟨_, rfl⟩
  rw [← hs] at hp hlo hmax
  obtain rfl : p = k.frac + 1 := hp
  obtain rfl : lo = k.emin := hlo
  have hneg : decide (worth (.fin neg n e) < 0) = neg := by rw [Bool.eq_iff_iff, decide_eq_true_iff, worth_neg_iff neg e hn]
  have hover (b : Bool) : infOver m b = overInf m b := by cases m <;> rfl
  unfold WideResult
  rw [← hs]
  dsimp only at hmax ⊢
  rw [hneg, Nat.add_sub_cancel, show (2 ^ (8 * k.bytes - 1) : Nat) = k.signBit from rfl]
  refine ⟨y, z, hy, hz, ?_⟩
  push_cast at hmax ⊢
  rw [hmax, ← Fmt.maxMag, Fmt.ofVal]
  generalize ho : k.encodeWide m r ftz neg n 1 e = o at h
  cases h with
  | overflow h hyz =>
    rw [if_pos h, hover]
    have hpos := infCode_pos hk
    congr 1
    simp only [Fmt.sign]
    split_ifs <;> omega
  | flushed h hz hf =>
    rw [if_neg h.not_gt, if_pos ⟨hf, hz⟩]
    rfl
  | held c h hc hf hw hsub =>
    rw [if_neg h.not_gt, if_neg hf]
    exact ⟨hw ▸ decode_sign_add hk neg hc, rfl⟩

end

/-- A zero keeps its sign in a wide format, with no flag. -/
theorem ofVal_zero {k : Fmt} (hk : k.wide = true) (m : Mode) (r : Nat) (ftz neg : Bool) (e : Int) :
    k.ofVal m r ftz (.fin neg 0 e) = (k.sign neg, 0) ∧ Finite (k.decode false (k.sign neg)) neg 0 := by
  refine ⟨by simp [Fmt.ofVal, Fmt.encodeWide, Fmt.sign], ?_⟩
  have h := decode_sign_add hk neg (infCode_pos hk)
  rwa [plain_subnormal (by positivity), Nat.cast_zero, zero_mul, mul_zero, add_zero] at h

end Sys2Proof.Machine

/-! PROOFS. Floating elements (spec/07_vector_instructions.md R201 to R203). -/

namespace Sys2Proof.Machine

open Sys2Proof.Claims

/-! ### One write made of the active lanes' elements -/

/-- An operation that computes the elements of the active lanes and writes them once (R194, R195). -/
theorem vectorResult_of_mapLanes {s : State} {c : Ctx} (hc : s.ctx? = some c) {i : Instr} {g : Ctx → SlotResult} {pred : BitVec 5}
    {draws lat d w : Nat} {F : Nat → Nat × Flags} {val : Nat → Nat} {flags : Nat → Flags} (hi : exec i s = runSlot s g)
    (hg : g c = .done { draws := draws, writes := [c.writeV lat d (c.active pred) (mapLanes w (c.active pred) F).1
      (mapLanes w (c.active pred) F).2] })
    (hw : w = 32 ∨ w = 16 ∨ w = 8) (hF : ∀ e, e < 2048 / w → F e = (val e, flags e)) :
    VectorResult s c i pred draws lat d w val flags := by
  refine ⟨_, _, hi.trans (runSlot_done hc hg), fun e he ha => ?_, fun b => ?_⟩
  · have h := el_mapLanes hw (c.active pred) F he ha
    rwa [hF e he] at h
  · rw [flags_mapLanes]
    exact exists_congr fun e => and_congr_right fun he => by rw [hF e he]

/-! ### Sums and products (R80, R82) -/

theorem flIf_eq (b : Bool) (f : Flags) : flIf b f = if b then f else 0 := rfl

theorem add_of_nan (m : Mode) {x y : FVal} (h : x.isNan || y.isNan) :
    x.add m y = (.nan false, if x.isSnan || y.isSnan then flNv else 0) := if_pos h

theorem mul_of_nan {x y : FVal} (h : x.isNan || y.isNan) :
    x.mul y = (.nan false, if x.isSnan || y.isSnan then flNv else 0) := if_pos h

theorem add_fin (m : Mode) (u n : Bool) (k l : Nat) (e g : Int) :
    FVal.add m (.fin u k e) (.fin n l g) = (addFin m u k e n l g, 0) := rfl

theorem mul_fin (u n : Bool) (k l : Nat) (e g : Int) :
    FVal.mul (.fin u k e) (.fin n l g) = (.fin (u != n) (k * l) (e + g), 0) := by
  simp [FVal.mul, FVal.isNan, FVal.isInf]

theorem mul_inf_fin (u n : Bool) (k : Nat) (e : Int) :
    FVal.mul (.inf u) (.fin n k e) = if k = 0 then (.nan false, flNv) else (.inf (u != n), 0) := by
  by_cases hk : k = 0 <;> simp [FVal.mul, FVal.isNan, FVal.isInf, FVal.isZero, FVal.isNeg, hk]

theorem mul_fin_inf (u n : Bool) (k : Nat) (e : Int) :
    FVal.mul (.fin n k e) (.inf u) = if k = 0 then (.nan false, flNv) else (.inf (u != n), 0) := by
  by_cases hk : k = 0
  · simp [FVal.mul, FVal.isNan, FVal.isInf, FVal.isZero, hk]
  · simp [FVal.mul, FVal.isNan, FVal.isInf, FVal.isZero, FVal.isNeg, hk, bne_comm (a := n)]

/-- The lesser or the greater of two values, with the cases of a NaN (R202). -/
theorem fminmax_eq (isMax : Bool) (x y : FVal) :
    let below := x.lt y || (x.isZero && y.isZero && x.isNeg && !y.isNeg)
    let other := if isMax then (if below then y else x) else if below then x else y
    fminmax isMax x y = (if x.isNan && y.isNan then .nan false else if x.isNan then y else if y.isNan then x else other,
      if x.isSnan || y.isSnan then flNv else 0) := by
  intro below other
  have hother : (if below != isMax then x else y) = other := by cases isMax <;> cases hb : below <;> simp [other, hb]
  unfold fminmax
  dsimp only
  rw [← hother, flIf_eq]
  cases x.isNan <;> cases y.isNan <;> rfl

theorem wide_of_fmt {k : Fmt} (h : k = .b32 ∨ k = .b16 ∨ k = .bf16) : k.wide = true := by
  rcases h with rfl | rfl | rfl <;> rfl

/-- The class of an encoding (R203). -/
theorem classBit_eq (k : Fmt) (x : Nat) : classBit k x = match k.decode false x with
    | .inf true => 0
    | .fin true 0 _ => 3
    | .fin false 0 _ => 4
    | .fin true x q => if ltPow x q 1 (1 - k.bias) then 2 else 1
    | .fin false x q => if ltPow x q 1 (1 - k.bias) then 5 else 6
    | .inf false => 7
    | .nan true => 8
    | .nan false => 9 := by
  unfold classBit
  rcases k.decode false x with (_ | _) | (_ | _) | ⟨_ | _, _ | m, e⟩ <;> rfl

/-- A floating operation of two sources (R201). -/
theorem floatVR_result {s : State} {c : Ctx} (hc : s.ctx? = some c) {sl : VSlot} {f : R3} {i : Instr}
    (op : Mode → FVal → FVal → FVal × Flags) (hi : exec i s = runSlot s (floatVR sl f op)) {r : Nat → FVal × Flags}
    (hr : let k := fmtOf f.variant
      ∀ e, op c.w.mode.plain (valueOf c k (source c sl (8 * k.bytes) f.a e)) (valueOf c k (source c sl (8 * k.bytes) f.b e)) = r e) :
    VectorResult s c i f.pred 0 4 f.d.toNat (8 * (fmtOf f.variant).bytes) (fun e => (formed c (fmtOf f.variant) (r e)).1)
      fun e => (formed c (fmtOf f.variant) (r e)).2 := by
  refine vectorResult_of_mapLanes hc hi rfl (fmt_bits _) fun e he => ?_
  rw [el_vop sl (fmt_bits _) f.a he, el_vop sl (fmt_bits _) f.b he]
  exact congrArg (formed c (fmtOf f.variant)) (hr e)

/-- FFMA rounds the exact a * b + c once (R202). -/
theorem execFfma_result {s : State} {c : Ctx} (hc : s.ctx? = some c) (sl : VSlot) (f : R3) :
    let k := fmtOf f.variant
    let w := 8 * k.bytes
    let r (e : Nat) : Nat × Flags :=
      let p := (valueOf c k (source c sl w f.a e)).mul (valueOf c k (source c sl w f.b e))
      let q := p.1.add c.w.mode.plain (valueOf c k (element c w f.c.toNat e))
      formed c k (q.1, p.2 ||| q.2)
    VectorResult s c (.ffma sl f) f.pred 0 4 f.d.toNat w (fun e => (r e).1) fun e => (r e).2 := by
  refine vectorResult_of_mapLanes hc (exec_ffma sl f s) rfl (fmt_bits _) fun e he => ?_
  rw [el_vop sl (fmt_bits _) f.a he, el_vop sl (fmt_bits _) f.b he]
  rfl

theorem execFclass_result {s : State} {c : Ctx} (hc : s.ctx? = some c) (sl : VSlot) (f : R3) :
    let k := fmtOf f.variant
    let w := 8 * k.bytes
    VectorResult s c (.fclass sl f) f.pred 0 4 f.d.toNat w (fun e => 2 ^ classBit k (el w (c.vop sl w f.a) e)) fun _ => 0 :=
  vectorResult_of_mapLanes hc (exec_fclass sl f s) rfl (fmt_bits _) fun _ _ => rfl

/-- Settles O15: each operation computes its elements from those of its sources; the exact sums and products and the rounding of
their values are those of the model's arithmetic. -/
theorem floatingElements : Obligations.FloatingElements := by
  unfold Obligations.FloatingElements
  refine ⟨fun s c sl f hc => ?elements, fun m x y => ?exact, fun k m ftz neg n e hk hm => ?rounded⟩
  case elements =>
    intro k w m a b z result nv below pick
    refine ⟨floatVR_result hc (fun m a b => a.add m b) (exec_fadd sl f s) fun _ => rfl,
      floatVR_result hc (fun m a b => a.add m b.negate) (exec_fsub sl f s) fun _ => rfl,
      floatVR_result hc (fun _ a b => a.mul b) (exec_fmul sl f s) fun _ => rfl, execFfma_result hc sl f,
      floatVR_result hc (fun _ a b => fminmax false a b) (exec_fmin sl f s) fun e => fminmax_eq false (a e) (b e),
      floatVR_result hc (fun _ a b => fminmax true a b) (exec_fmax sl f s) fun e => fminmax_eq true (a e) (b e),
      _, execFclass_result hc sl f, fun e he => ?_⟩
    exact (congrArg (classBit k) (el_vop sl (fmt_bits k) f.a he)).trans (classBit_eq k _)
  case exact =>
    intro sum product nv
    refine ⟨fun h => ⟨add_of_nan m h, mul_of_nan h⟩, ?_, ?_, ?_⟩
    · rintro u v rfl rfl
      exact ⟨rfl, rfl⟩
    · rintro u n k e rfl rfl
      exact ⟨rfl, rfl, mul_inf_fin u n k e, (mul_fin_inf u n k e).trans (mul_inf_fin u n k e).symm⟩
    · rintro u k e n l g rfl rfl
      rw [show product = _ from mul_fin u n k l e g]
      exact ⟨rfl, rfl, ⟨_, _, rfl, worth_mul u n k l e g⟩, addFin_finite m u n k l e g⟩
  case rounded =>
    have hk' := wide_of_fmt hk
    have h0 := ofVal_zero hk' m 0 ftz neg e
    exact ⟨by rw [h0.1], by rw [h0.1]; exact h0.2, fun hn => wideResult_ofVal hk' hm 0 ftz neg hn e⟩

end Sys2Proof.Machine

/-! PROOFS. Random bits and the Kulisch accumulators (spec/07_vector_instructions.md R211 to R215, spec/03_numbers.md R97 to R102). -/

namespace Sys2Proof.Machine

open Sys2Proof.Claims

/-- Of a set of lanes that is not empty some lane is active. -/
theorem exists_active {act : Mask} (h : act ≠ 0) : ∃ l, l < 64 ∧ act.getLsbD l = true := by
  by_contra hn
  simp only [not_exists, not_and, Bool.not_eq_true] at hn
  exact h (BitVec.eq_of_getLsbD_eq fun i hi => by rw [hn i hi]; exact BitVec.getLsbD_zero.symm)

/-! ### Random bits (R101, R102, R211) -/

/-- The word of a lane at the first step that an operation of the bundle draws. -/
def Ctx.draw (c : Ctx) (l : Nat) : Word := mix c.w.rngk (c.w.rngc + BitVec.ofNat 64 c.ix.draws) l

/-- A binary32 probability, compared with the 24 bits of a word. -/
theorem rngbLane_eq (p : FVal) (z : Word) :
    rngbLane p z = if !p.isNan && (real false (bitsN z 63 40) (-24)).lt p then 0xFFFFFFFF else 0 := by
  cases p with
  | nan s => rfl
  | inf neg =>
    cases neg
    · by_cases h : bitsN z 63 40 = 0 <;> simp [rngbLane, FVal.isNan, FVal.lt, real, h]
    · by_cases h : bitsN z 63 40 = 0 <;> simp [rngbLane, FVal.isNan, FVal.lt, real, h]
  | fin neg m e =>
    have hz : 0 ≤ worth (real false (bitsN z 63 40) (-24)) := by rw [real, worth_fin, signed_false]; positivity
    have hlt := lt_fin_iff false neg (bitsN z 63 40) m (-24) e
    simp only [rngbLane, FVal.isNan, Bool.not_false, Bool.true_and, real] at hz ⊢
    by_cases hp : neg = true ∨ m = 0
    · have hle : worth (.fin neg m e) ≤ 0 := by
        rcases Nat.eq_zero_or_pos m with rfl | hm
        · exact ((worth_eq_zero_iff neg 0 e).2 rfl).le
        · exact ((worth_neg_iff neg e hm.ne').2 (hp.resolve_right hm.ne')).le
      rw [if_pos hp, if_neg (fun h => by linarith [hlt.1 h])]
    · simp only [not_or, Bool.not_eq_true] at hp
      rw [if_neg (by simpa using hp)]
      congr 1
      rw [eq_iff_iff, hlt, ltPow_iff, hp.1, worth_fin, worth_fin, signed_false, one_mul, one_mul]

section
variable {s : State} {c : Ctx} (hc : s.ctx? = some c) (sl : VSlot) (f : R3)
include hc

theorem execRngu_result : VectorResult s c (.rngu sl f) f.pred 1 3 f.d.toNat 32 (fun l => (c.draw l).toNat) noFlag :=
  vectorResult_of_mapLanes hc (F := fun l => ((c.draw l).toNat, 0)) (exec_rngu sl f s)
    (by rw [flags_mapLanes_zero]; rfl) (.inl rfl) fun _ _ => rfl

theorem execRngb_result : VectorResult s c (.rngb sl f) f.pred 1 3 f.d.toNat 32 (fun l =>
    let p := valueOf c .b32 (source c sl 32 f.a l)
    if !p.isNan && (real false (bitsN (c.draw l) 63 40) (-24)).lt p then 0xFFFFFFFF else 0) noFlag := by
  refine vectorResult_of_mapLanes hc (F := fun l => (rngbLane (Fmt.b32.decode c.w.ftz (el 32 (c.vop sl 32 f.a) l)) (c.draw l), 0))
    (exec_rngb sl f s) (by rw [flags_mapLanes_zero]; rfl) (.inl rfl) fun l hl => ?_
  rw [el_vop sl (.inl rfl) f.a hl, rngbLane_eq]
  rfl

/-! ### Accumulators (R97 to R99, R213 to R215) -/

theorem execKclr_result : exec (.kclr sl f) s = .next (c.give { writes :=
    [{ left := 2, live := c.active f.pred != 0, flags := 0, val := .kclr (fin 4 f.c.toNat) (c.active f.pred) }] }) :=
  (exec_kclr sl f s).trans (runSlot_done hc rfl)

/-- An addition to an accumulator takes the exact sum of what the active elements give, with their flags and that sum's. -/
theorem kAddend_result {i : Instr} {g : Ctx → SlotResult} {el1 el2 : Nat → FVal × Flags} (hi : exec i s = runSlot s g)
    (hg : g c = kAddend f c el1) (hel : ∀ e, e < 2048 / (8 * (fmtOf f.variant).bytes) → el1 e = el2 e) :
    let w := 8 * (fmtOf f.variant).bytes
    let es := (List.range (2048 / w)).filter fun e => (c.active f.pred).getLsbD (e * w / 32)
    let sum := exactSum .nearest (es.map fun e => (el2 e).1)
    ∃ fl : Flags, exec i s = .next (c.give { writes :=
        [{ left := 2, live := true, flags := fl, val := .kadd (fin 4 f.c.toNat) (Kulisch.ofVal sum.1) (c.active f.pred) }] }) ∧
      ∀ n, fl.getLsbD n = true ↔ sum.2.getLsbD n = true ∨ ∃ e ∈ es, (el2 e).2.getLsbD n = true := by
  intro w es sum
  have hmap : es.map el1 = es.map el2 :=
    List.map_congr_left fun e he => hel e (List.mem_range.1 (List.mem_filter.1 he).1)
  have hadd : kAddend f c el1 = oneWrite (expose 2 ((es.map el2).foldl (fun a v => a ||| v.2) sum.2)
      (.kadd (fin 4 f.c.toNat) (Kulisch.ofVal sum.1) (c.active f.pred))) := by
    simp only [sum, ← Function.comp_def Prod.fst el2, ← List.map_map, ← hmap]
    rfl
  refine ⟨_, hi.trans (runSlot_done hc (hg.trans hadd)), fun n => ?_⟩
  rw [foldl_or_bit (fun v : FVal × Flags => v.2)]
  simp only [List.mem_map, exists_exists_and_eq_and]

/-- KRD gives every active element the accumulator, rounded once in the mode that a names (R99, R215). -/
theorem execKrd_result :
    let k := fmtOf f.variant
    let w := 8 * k.bytes
    let mode := Mode.ofCode f.a.toNat
    let o := k.ofVal mode (if mode = .stochastic then randomBits c 0 0 else 0) c.w.ftz (c.w.kreg f.c.toNat).value
    VectorResult s c (.krd sl f) f.pred (if mode = .stochastic then 1 else 0) 6 f.d.toNat w (fun _ => o.1) fun _ => o.2 := by
  intro k w mode o
  have hw := fmt_bits k
  have he : krdRun f c = .done { draws := if mode = .stochastic then 1 else 0, writes :=
      [c.writeV 6 f.d.toNat (c.active f.pred) (splat w o.1) (if c.active f.pred != 0 then o.2 else 0)] } := rfl
  refine ⟨_, _, (exec_krd sl f s).trans (runSlot_done hc he), fun e he _ => el_splat hw _ he, fun b => ?_⟩
  by_cases h0 : c.active f.pred = 0
  · simp [h0]
  · rw [if_pos (bne_iff_ne.2 h0)]
    obtain ⟨l, hl, ha⟩ := exists_active h0
    refine ⟨fun h => ⟨l * (32 / w), ?_, ?_, h⟩, fun ⟨_, _, _, h⟩ => h⟩
    · rcases hw with h | h | h <;> simp only [w, h] <;> omega
    · rwa [show l * (32 / w) * w / 32 = l by rcases hw with h | h | h <;> simp only [w, h] <;> omega]

end

/-- The worth of an accumulator of kind 0 (R97). -/
theorem kulisch_value (k : Kulisch) :
    (k.kind = 0 → Finite k.value (decide (k.val.toInt < 0)) (k.val.toInt * 2 ^ (-320 : Int))) ∧
    (k.kind = 1 → k.value = .inf false) ∧ (k.kind = 2 → k.value = .inf true) ∧ (k.kind = 3 → k.value.isNan = true) := by
  obtain ⟨val, kind⟩ := k
  refine ⟨?_, ?_, ?_, ?_⟩ <;> rintro rfl
  · exact ⟨_, _, rfl, worth_int _ _⟩
  all_goals rfl

/-- An addend that lies on the grid of an accumulator and fits it is taken exactly (R97). -/
theorem kulisch_ofVal {neg : Bool} {m : Nat} {e g : Int} (h : worth (.fin neg m e) = (g : ℚ) * 2 ^ (-320 : Int)) :
    Kulisch.ofVal (.fin neg m e) = ⟨BitVec.ofInt 640 g, 0⟩ := by
  have hm : (m : ℚ) * 2 ^ (e + 320) = g.natAbs := by
    have habs := congrArg abs h
    rw [abs_worth_fin, abs_mul, abs_of_pos (by positivity : (0 : ℚ) < 2 ^ (-320 : Int)), ← Int.cast_abs, Int.abs_eq_natAbs] at habs
    rw [zpow_add₀ two_ne_zero, ← mul_assoc, habs, mul_assoc, ← zpow_add₀ two_ne_zero]
    simp
  have hx : m * 2 ^ (e + 320).toNat / 2 ^ (-(e + 320)).toNat = g.natAbs := by
    have hq : (m : ℚ) * 2 ^ (e + 320).toNat = g.natAbs * 2 ^ (-(e + 320)).toNat := by
      rw [← hm, ← two_pow_toNat_div (e + 320)]
      field_simp
    have hn : m * 2 ^ (e + 320).toNat = g.natAbs * 2 ^ (-(e + 320)).toNat := by exact_mod_cast hq
    rw [hn, Nat.mul_div_cancel _ (by positivity)]
  have hg : (if neg then -(g.natAbs : Int) else g.natAbs) = g := by
    rcases Nat.eq_zero_or_pos m with rfl | hm0
    · have : g.natAbs = 0 := by rw [← hx]; simp
      cases neg <;> simp_all
    · have hneg := worth_neg_iff neg e hm0.ne'
      rw [h, mul_two_pow_neg_iff] at hneg
      have hneg' : g < 0 ↔ neg = true := by rw [← hneg]; exact_mod_cast Iff.rfl
      cases neg <;> simp only [Bool.false_eq_true, if_false, if_true, iff_false, iff_true] at hneg' ⊢ <;> omega
  unfold Kulisch.ofVal
  dsimp only
  rw [hx, hg]

/-- Settles O20: each operation computes what R211 to R215 give from its step or its sources, and accumulators hold exact numbers. -/
theorem randomNumbersAndAccumulators : Obligations.RandomNumbersAndAccumulators := by
  unfold Obligations.RandomNumbersAndAccumulators
  refine ⟨fun s c sl f hc => ?_, kulisch_value, fun neg m e g h _ _ => kulisch_ofVal h⟩
  intro act z k w a b es added
  have added_of {i : Instr} {g : Ctx → SlotResult} {el1 el2 : Nat → FVal × Flags} (hi : exec i s = runSlot s g)
      (hg : g c = kAddend f c el1) (hel : ∀ e, e < 2048 / w → el1 e = el2 e) : added i el2 := kAddend_result hc f hi hg hel
  refine ⟨execRngu_result hc sl f, execRngb_result hc sl f, execKclr_result hc sl f,
    added_of (exec_kacc sl f s) rfl fun e he => ?_, added_of (exec_kmac sl f s) rfl fun e he => ?_, execKrd_result hc sl f⟩
  · rw [el_vop sl (fmt_bits k) f.a he]
    rfl
  · rw [el_vop sl (fmt_bits k) f.a he, el_vop sl (fmt_bits k) f.b he]
    rfl

end Sys2Proof.Machine

/-! PROOFS. The F unit's bound: a word that `within` admits and the rounding of a near value both lie within the ulps of R104
(spec/03_numbers.md R103, R104). -/

namespace Sys2Proof.Machine

open Sys2Proof.Claims

/-! ### Binary32 words -/

/-- The value of a binary32 word by its sign, its exponent field and its fraction (R79, R81). -/
theorem decode_b32 (ftz : Bool) (w : Nat) : Fmt.b32.decode ftz w =
    let neg := decide (2 ^ 31 ≤ w)
    let t := w % 2 ^ 23
    let ex : Nat := w / 2 ^ 23 % 256
    if ex = 255 then (if t = 0 then .inf neg else .nan (t / 2 ^ 22 % 2 == 0))
    else if ex = 0 then (if ftz then .fin neg 0 0 else .fin neg t (-149))
    else .fin neg (2 ^ 23 + t) ((ex : Int) - 150) := by
  have hd : w % 2 ^ 31 / 2 ^ 23 = w / 2 ^ 23 % 256 := by omega
  have ht : w % 2 ^ 31 % 2 ^ 23 = w % 2 ^ 23 := by omega
  have hnan : 255 * 2 ^ 23 < w % 2 ^ 31 ↔ w / 2 ^ 23 % 256 = 255 ∧ w % 2 ^ 23 ≠ 0 := by omega
  have hinf : w % 2 ^ 31 = 255 * 2 ^ 23 ↔ w / 2 ^ 23 % 256 = 255 ∧ w % 2 ^ 23 = 0 := by omega
  have hsub : w % 2 ^ 31 < 2 ^ 23 ↔ w / 2 ^ 23 % 256 = 0 := by omega
  have hq : w % 2 ^ 31 / 2 ^ 22 % 2 = w % 2 ^ 23 / 2 ^ 22 % 2 := by omega
  have hdec : Fmt.b32.decode ftz w = if 255 * 2 ^ 23 < w % 2 ^ 31 then .nan (w % 2 ^ 31 / 2 ^ 22 % 2 == 0)
      else if w % 2 ^ 31 = 255 * 2 ^ 23 then .inf (decide (2 ^ 31 ≤ w))
      else if ftz = true ∧ w % 2 ^ 31 < 2 ^ 23 then .fin (decide (2 ^ 31 ≤ w)) 0 0
      else let x := if w % 2 ^ 31 / 2 ^ 23 = 0 then (w % 2 ^ 31 % 2 ^ 23, (-149 : Int))
        else (2 ^ 23 + w % 2 ^ 31 % 2 ^ 23, ((w % 2 ^ 31 / 2 ^ 23 : Nat) : Int) - 127 - 23)
      .fin (decide (2 ^ 31 ≤ w)) x.1 x.2 := rfl
  rw [hdec]
  simp only [hnan, hinf, hsub, hq, hd, ht]
  clear hd ht hnan hinf hsub hq hdec
  generalize w / 2 ^ 23 % 256 = ex
  generalize w % 2 ^ 23 = t
  rcases eq_or_ne ex 255 with rfl | h1
  · by_cases h2 : t = 0 <;> simp [h2]
  · rcases eq_or_ne ex 0 with rfl | h0
    · cases ftz <;> simp
    · simp only [h0, h1, false_and, and_false, if_false]
      congr 1
      ring

/-- A finite binary32 word is on the grid of 2^-149 and below 2^128. -/
theorem decode_b32_bounds {ftz neg : Bool} {w m : Nat} {e : Int} (h : Fmt.b32.decode ftz w = .fin neg m e) :
    -149 ≤ e ∧ e ≤ 104 ∧ m < 2 ^ 24 := by
  rw [decode_b32] at h
  dsimp only at h
  generalize hex : w / 2 ^ 23 % 256 = ex at h
  have hlt : ex < 256 := by omega
  rcases eq_or_ne ex 255 with h255 | h255
  · rw [if_pos h255] at h
    split_ifs at h
  · rw [if_neg h255] at h
    rcases eq_or_ne ex 0 with h0 | h0
    · rw [if_pos h0] at h
      split_ifs at h <;> cases h <;> omega
    · rw [if_neg h0] at h
      cases h
      omega

/-- Rounding to nearest on a grid as fine as the number's binade is off by at most half of its last place. -/
theorem roundedTo_nearest_error {p : Nat} {lo : Option Int} {r : Nat} {x y : ℚ} (h : RoundedTo p lo .nearest r x y) {top : Int}
    (hx : |x| < 2 ^ (top + 1)) (hlo : ∀ l, lo = some l → l ≤ top) : |y - x| ≤ 2 ^ (top - p) := by
  obtain ⟨q, hq⟩ : ∃ q, q = top + 1 - p := ⟨_, rfl⟩
  have hpos : (0 : ℚ) < 2 ^ q := by positivity
  obtain ⟨a, ha⟩ : ∃ a, a = round (x / 2 ^ q) := ⟨_, rfl⟩
  have hround : |x / 2 ^ q - a| ≤ 1 / 2 := ha ▸ abs_sub_round _
  have hlt : |x / 2 ^ q| < 2 ^ p := by
    rw [abs_div, abs_of_pos hpos, div_lt_iff₀ hpos, ← zpow_natCast, ← zpow_add₀ two_ne_zero]
    exact hx.trans_eq (by congr 1; omega)
  have hgrid : OnGrid p lo (a * 2 ^ q) := by
    refine ⟨a, q, ?_, fun l hl => by have := hlo l hl; omega, rfl⟩
    have h1 : |(a : ℚ)| < 2 ^ p + 1 := by
      rw [abs_le] at hround
      rw [abs_lt] at hlt ⊢
      constructor <;> linarith
    have h2 : |a| < 2 ^ p + 1 := by exact_mod_cast h1
    rw [Int.abs_eq_natAbs] at h2
    have h3 : a.natAbs < 2 ^ p + 1 := by exact_mod_cast h2
    omega
  have hz : |x - a * 2 ^ q| ≤ 2 ^ (top - p) := by
    have he : x - a * 2 ^ q = (x / 2 ^ q - a) * 2 ^ q := by field_simp
    rw [he, abs_mul, abs_of_pos hpos, show top - p = q - 1 by omega, zpow_sub_one₀ two_ne_zero]
    nlinarith
  rw [abs_sub_comm]
  rcases h.2.2 _ hgrid with h | h | ⟨h, -⟩
  · rwa [← h]
  · exact h.le.trans hz
  · exact h.le.trans hz

section
variable {k : Fmt} (hk : k.wide = true) (r : Nat) (ftz neg : Bool) {n : Nat} (hn : n ≠ 0) {e : Int}
include hk hn

/-- A number in the normal range, rounded to nearest, is off by at most half of the last place of a binade at or above its own. -/
theorem encodeWide_error_of_lt {top : Int} (h1 : k.emin ≤ n.log2 + e) (hx : (n : ℚ) * 2 ^ e < 2 ^ (top + 1))
    (hmax : (n : ℚ) * 2 ^ e + 2 ^ (top - (k.frac + 1 : Nat)) ≤ k.maxMag) :
    ∃ y, Finite (k.decode false (k.encodeWide .nearest r ftz neg n 1 e).1) neg y ∧
      |y - worth (.fin neg n e)| ≤ 2 ^ (top - (k.frac + 1 : Nat)) := by
  obtain ⟨y, z, hy, -, hcase, henc⟩ := encodeWide_encoded hk (m := .nearest) (by decide) r ftz neg hn e
  have hb1 := (binade_of_log2 hn e).1
  have htop : k.emin ≤ top := by
    have := (zpow_lt_zpow_iff_right₀ (one_lt_two (α := ℚ))).1 (hb1.trans_lt hx)
    omega
  obtain ⟨hyz, hz⟩ := hcase.resolve_right fun h =>
    absurd ((zpow_le_zpow_right₀ (one_le_two (α := ℚ)) h1).trans hb1) (not_le.2 h.2.2)
  have herr := roundedTo_nearest_error hy (top := top) (by rwa [abs_worth_fin]) (fun l hl => by cases hl; exact htop)
  generalize ho : k.encodeWide .nearest r ftz neg n 1 e = o at henc
  cases henc with
  | overflow h hyz =>
    have habs := abs_sub_abs_le_abs_sub y (worth (.fin neg n e))
    rw [abs_worth_fin] at habs
    rw [← hyz] at h
    linarith
  | flushed h hlt hf => exact absurd hz hlt.not_ge
  | held c h hc hf hw hsub => exact ⟨y, hw ▸ decode_sign_add hk neg hc, herr⟩

/-- As `encodeWide_error_of_lt`, for the number's own binade. -/
theorem encodeWide_error (h1 : k.emin ≤ n.log2 + e) (h2 : (n.log2 : Int) + e + 1 < (wideShape k).2.2) :
    ∃ y, Finite (k.decode false (k.encodeWide .nearest r ftz neg n 1 e).1) neg y ∧
      |y - worth (.fin neg n e)| ≤ 2 ^ ((n.log2 : Int) + e - (k.frac + 1 : Nat)) := by
  have hb2 := (binade_of_log2 hn e).2
  refine encodeWide_error_of_lt hk r ftz neg hn h1 hb2 ?_
  obtain ⟨-, -, hmax⟩ := maxMag_bounds hk
  have hle1 : (2 : ℚ) ^ ((n.log2 : Int) + e + 1) ≤ 2 ^ ((wideShape k).2.2 - 1) := zpow_le_zpow_right₀ one_le_two (by omega)
  have hle2 : (2 : ℚ) ^ ((n.log2 : Int) + e - (k.frac + 1 : Nat)) ≤ 2 ^ ((wideShape k).2.2 - 2) :=
    zpow_le_zpow_right₀ one_le_two (by push_cast; omega)
  have htwo : (2 : ℚ) ^ ((wideShape k).2.2 - 1) = 2 * 2 ^ ((wideShape k).2.2 - 2) := by
    rw [← zpow_one_add₀ two_ne_zero]
    congr 1
    ring
  linarith

end

end Sys2Proof.Machine

namespace Sys2Proof.Machine

open Sys2Proof.Claims

/-! ### What `within` admits (R104) -/

/-- A comparison tells on which side of every multiple of 2^-200 a number lies. -/
def Tells (cmp : Int → Int → Option Ordering) (v : ℝ) : Prop :=
  ∀ t : Int, (cmp t (-200) ≠ some .lt → (t : ℝ) * 2 ^ (-200 : Int) ≤ v) ∧ (cmp t (-200) ≠ some .gt → v ≤ t * 2 ^ (-200 : Int))

/-- A multiple of 2^-200 written as a whole number. -/
theorem zshift_200 (x : Int) {k : Int} (h : -200 ≤ k) : ((zshift x (k + 200) : Int) : ℝ) * 2 ^ (-200 : Int) = x * 2 ^ k := by
  rw [zshift_cast _ (by omega), mul_assoc, ← zpow_add₀ two_ne_zero]
  congr 2
  ring

/-- The worth of a value among the reals. -/
theorem worth_cast (neg : Bool) (m : Nat) (e : Int) :
    ((worth (.fin neg m e) : ℚ) : ℝ) = ((if neg then -(m : Int) else m : Int) : ℝ) * 2 ^ e := by
  rw [worth_fin]
  cases neg <;> simp

/-- The bound of `within` for a word that is a number, neither zero nor subnormal; of a result in the normal range it admits no other. -/
theorem within_bound {cmp : Int → Int → Option Ordering} {v : ℝ} (hT : Tells cmp v) {ulps w : Nat} {k : Int} (hulps : ulps ≤ 4)
    (h1 : -125 ≤ k) (h2 : k ≤ 126) (hv1 : 2 ^ k ≤ |v|) (hv2 : |v| < 2 ^ (k + 1)) (hw : within cmp (k - 23) ulps none w = true) :
    ∃ neg y, Finite (Fmt.b32.decode false w) neg y ∧ |(y : ℝ) - v| ≤ ulps * 2 ^ (k - 23) := by
  have hlo : min (-200) (min (k - 23) ((none : Option Int).getD (k - 23))) = -200 := by simp only [Option.getD_none, min_self]; omega
  obtain ⟨tol, htol⟩ : ∃ tol, tol = zshift ulps (k - 23 + 200) := ⟨_, rfl⟩
  have hshift : (0 : Int) < 2 ^ (k - 23 + 200).toNat := by positivity
  have htol0 : max tol 0 = tol := max_eq_left (by rw [htol, zshift]; positivity)
  have etol : (tol : ℝ) * 2 ^ (-200 : Int) = ulps * 2 ^ (k - 23) := by
    rw [htol, zshift_200 _ (by omega)]
    norm_cast
  obtain ⟨tiny, htiny⟩ : ∃ tiny, tiny = zshift 1 (-126 + 200) := ⟨_, rfl⟩
  have etiny : (tiny : ℝ) * 2 ^ (-200 : Int) = 2 ^ (-126 : Int) := by rw [htiny, zshift_200 _ (by omega), Int.cast_one, one_mul]
  obtain ⟨huge, hhuge⟩ : ∃ huge, huge = zshift 1 (128 + 200) := ⟨_, rfl⟩
  have ehuge : (huge : ℝ) * 2 ^ (-200 : Int) = 2 ^ (128 : Int) := by rw [hhuge, zshift_200 _ (by omega), Int.cast_one, one_mul]
  have hpk : (0 : ℝ) < 2 ^ k := by positivity
  have htolk : (ulps : ℝ) * 2 ^ (k - 23) ≤ 2 ^ k / 4 := by
    have hu : (ulps : ℝ) ≤ 4 := by exact_mod_cast hulps
    rw [zpow_sub₀ two_ne_zero]
    norm_num
    nlinarith
  have hk1 : (2 : ℝ) * 2 ^ (-126 : Int) ≤ 2 ^ k := by
    rw [← zpow_one_add₀ two_ne_zero]
    exact zpow_le_zpow_right₀ one_le_two (by omega)
  have hk2 : (2 : ℝ) * (2 * 2 ^ k) ≤ 2 ^ (128 : Int) := by
    rw [← zpow_one_add₀ two_ne_zero, ← zpow_one_add₀ two_ne_zero]
    exact zpow_le_zpow_right₀ one_le_two (by omega)
  rw [zpow_add_one₀ two_ne_zero] at hv2
  unfold within at hw
  simp only [hlo, sub_neg_eq_add, ← htol, ← htiny, ← hhuge, htol0] at hw
  generalize hd : Fmt.b32.decode false w = d at hw ⊢
  cases d with
  | nan s => cases hw
  | inf neg =>
    exfalso
    cases neg with
    | true =>
      have h := (hT _).2 (bne_iff_ne.1 hw)
      rw [Int.cast_sub, sub_mul, etol, ehuge] at h
      have := neg_abs_le v
      linarith
    | false =>
      have h := (hT _).1 (bne_iff_ne.1 hw)
      rw [Int.cast_sub, sub_mul, etol, ehuge] at h
      have := le_abs_self v
      linarith
  | fin neg m e =>
    by_cases hm : m = 0
    · exfalso
      simp only [hm, if_true, Bool.and_eq_true, Bool.or_eq_true, beq_iff_eq] at hw
      obtain ⟨⟨hless, hmore⟩, -⟩ := hw
      have hle := (hT _).2 (by rcases hless with h | h <;> rw [h] <;> decide)
      have hge := (hT _).1 (by rcases hmore with h | h <;> rw [h] <;> decide)
      rw [Int.cast_add, add_mul, etol, etiny] at hle
      rw [Int.cast_neg, Int.cast_add, neg_mul, add_mul, etol, etiny] at hge
      have : |v| ≤ 2 ^ (-126 : Int) + ulps * 2 ^ (k - 23) := abs_le.2 ⟨hge, hle⟩
      linarith
    · simp only [hm, if_false, Bool.and_eq_true, bne_iff_ne] at hw
      obtain ⟨⟨-, hge⟩, hle⟩ := hw
      obtain ⟨he, -, -⟩ := decode_b32_bounds hd
      have h1 := (hT _).1 hge
      have h2 := (hT _).2 hle
      rw [Int.cast_sub, sub_mul, etol, zshift_200 _ (by omega), ← worth_cast] at h1
      rw [Int.cast_add, add_mul, etol, zshift_200 _ (by omega), ← worth_cast] at h2
      exact ⟨neg, _, ⟨m, e, rfl, rfl⟩, abs_le.2 ⟨by linarith, by linarith⟩⟩

end Sys2Proof.Machine

namespace Sys2Proof.Machine

open Sys2Proof.Claims

/-! ### What `Near.deliver` delivers (R104) -/

/-- A number at which no multiple of 2^-200 lies but itself is told from all of them. -/
theorem near_tells {n : Near} {v : ℝ} (h1 : ((n.mid - n.below : Int) : ℝ) * 2 ^ (n.e - 640) < v)
    (h2 : v < ((n.mid + n.above : Int) : ℝ) * 2 ^ (n.e - 640))
    (hsep : ∀ t : Int, ((n.mid - n.below : Int) : ℝ) * 2 ^ (n.e - 640) < t * 2 ^ (-200 : Int) →
      (t : ℝ) * 2 ^ (-200 : Int) < ((n.mid + n.above : Int) : ℝ) * 2 ^ (n.e - 640) → v = t * 2 ^ (-200 : Int)) : Tells n.cmp v := by
  intro t
  obtain ⟨unit, hunit⟩ : ∃ unit, unit = n.e - 640 := ⟨_, rfl⟩
  rw [← hunit] at h1 h2 hsep
  have hpos : (0 : ℝ) < 2 ^ min unit (-200) := by positivity
  have scale (a b : Int) {x y : Int} (hx : min unit (-200) ≤ x) (hy : min unit (-200) ≤ y) :
      zshift a (x - min unit (-200)) ≤ zshift b (y - min unit (-200)) ↔ (a : ℝ) * 2 ^ x ≤ b * 2 ^ y := by
    have ha := mul_two_pow_sub (a : ℝ) hx
    have hb := mul_two_pow_sub (b : ℝ) hy
    rw [← ha, ← hb, mul_le_mul_iff_left₀ hpos]
    simp only [zshift]
    exact_mod_cast Iff.rfl
  have hcmp : n.cmp t (-200) = if (t : ℝ) * 2 ^ (-200 : Int) ≤ (n.mid - n.below : Int) * 2 ^ unit then some .gt
      else if ((n.mid + n.above : Int) : ℝ) * 2 ^ unit ≤ t * 2 ^ (-200 : Int) then some .lt else none := by
    simp only [Near.cmp, ← hunit, scale _ _ (min_le_left ..) (min_le_right ..), scale _ _ (min_le_right ..) (min_le_left ..)]
  rw [hcmp]
  split_ifs with hgt hlt
  · exact ⟨fun _ => (hgt.trans_lt h1).le, fun h => absurd rfl h⟩
  · exact ⟨fun h => absurd rfl h, fun _ => (h2.trans_le hlt).le⟩
  · have h := hsep t (not_le.1 hgt) (not_le.1 hlt)
    exact ⟨fun _ => h.ge, fun _ => h.le⟩

/-- The factor of a sign among the reals. -/
def signedR (neg : Bool) : ℝ := if neg then -1 else 1

theorem abs_signedR (neg : Bool) : |signedR neg| = 1 := by cases neg <;> simp [signedR]

theorem binade_of_log2_real {n : Nat} (hn : n ≠ 0) (e : Int) :
    (2 : ℝ) ^ ((n.log2 : Int) + e) ≤ n * 2 ^ e ∧ (n : ℝ) * 2 ^ e < 2 ^ ((n.log2 : Int) + e + 1) := by
  obtain ⟨h1, h2⟩ := binade_of_log2 hn e
  have h1' := (Rat.cast_le (K := ℝ)).2 h1
  have h2' := (Rat.cast_lt (K := ℝ)).2 h2
  push_cast at h1' h2'
  exact ⟨h1', h2'⟩

/-- A near value of a number: cut from it toward zero, but for what its interval allows, and told from every multiple of 2^-200. -/
structure IsNear (n : Near) (neg : Bool) (v : ℝ) : Prop where
  pos : 0 < v
  sign : (n.mid : ℝ) = signedR neg * n.mid.natAbs
  below : 0 ≤ n.below
  above : 0 ≤ n.above
  low : ((n.mid - n.below : Int) : ℝ) * 2 ^ (n.e - 640) < signedR neg * v
  high : signedR neg * v < ((n.mid + n.above : Int) : ℝ) * 2 ^ (n.e - 640)
  cut : v < (n.mid.natAbs + 1) * 2 ^ (n.e - 640)
  unit : n.e ≤ 440
  precise : (n.below + n.above) * 2 ^ 30 ≤ n.mid.natAbs
  apart : ∀ t : Int, |v - t * 2 ^ (-200 : Int)| < (n.below + n.above) * 2 ^ (n.e - 640) → v = t * 2 ^ (-200 : Int)

section
variable {n : Near} {neg : Bool} {v : ℝ} (h : IsNear n neg v)
include h

theorem IsNear.error : |(n.mid : ℝ) * 2 ^ (n.e - 640) - signedR neg * v| < (n.below + n.above) * 2 ^ (n.e - 640) := by
  have hpos : (0 : ℝ) < 2 ^ (n.e - 640) := by positivity
  have hb : (0 : ℝ) ≤ n.below := by exact_mod_cast h.below
  have ha : (0 : ℝ) ≤ n.above := by exact_mod_cast h.above
  have h1 := h.low
  have h2 := h.high
  push_cast at h1 h2
  rw [abs_lt]
  constructor <;> nlinarith

theorem IsNear.apart_signed (t : Int) (ht : |signedR neg * v - t * 2 ^ (-200 : Int)| < (n.below + n.above) * 2 ^ (n.e - 640)) :
    signedR neg * v = t * 2 ^ (-200 : Int) := by
  cases neg with
  | false => simpa [signedR] using h.apart t (by simpa [signedR] using ht)
  | true =>
    have := h.apart (-t) (by rw [← abs_neg]; simpa [signedR, sub_eq_add_neg, add_comm] using ht)
    simp only [signedR, if_true]
    push_cast at this
    linarith

theorem IsNear.tells : Tells n.cmp (signedR neg * v) :=
  near_tells h.low h.high fun t h1 h2 => h.apart_signed t (by
    have hpos : (0 : ℝ) < 2 ^ (n.e - 640) := by positivity
    have h3 := h.low
    have h4 := h.high
    push_cast at h1 h2 h3 h4
    rw [abs_lt]
    constructor <;> nlinarith)

/-- The near value lies in the binade of the number. -/
theorem IsNear.log2 {k : Int} (hk1 : -125 ≤ k) (hv1 : 2 ^ k ≤ v) (hv2 : v < 2 ^ (k + 1)) :
    n.mid.natAbs ≠ 0 ∧ (n.mid.natAbs.log2 : Int) + (n.e - 640) = k := by
  obtain ⟨u, hu⟩ : ∃ u, u = n.e - 640 := ⟨_, rfl⟩
  have hunit := h.unit
  have hpos : (0 : ℝ) < 2 ^ u := by positivity
  have hlow : (2 : ℝ) ^ k ≤ n.mid.natAbs * 2 ^ u := by
    have hku : (2 : ℝ) ^ k = ((2 ^ (k - u).toNat : Nat) : ℝ) * 2 ^ u := by
      push_cast
      rw [two_pow_toNat (by omega), ← zpow_add₀ two_ne_zero, sub_add_cancel]
    have hlt := lt_of_mul_lt_mul_right (hku ▸ hv1.trans_lt (hu ▸ h.cut)) hpos.le
    have hlt' : 2 ^ (k - u).toNat < n.mid.natAbs + 1 := by exact_mod_cast hlt
    have hle : ((2 ^ (k - u).toNat : Nat) : ℝ) ≤ n.mid.natAbs := by exact_mod_cast Nat.lt_succ_iff.1 hlt'
    rw [hku]
    exact mul_le_mul_of_nonneg_right hle hpos.le
  have hhigh : (n.mid.natAbs : ℝ) * 2 ^ u < 2 ^ (k + 1) := by
    by_contra hge
    rw [not_lt] at hge
    have herr := h.error
    rw [h.sign, mul_assoc, ← mul_sub, abs_mul, abs_signedR, one_mul, ← hu, abs_of_nonneg (by linarith)] at herr
    have ht : (((2 ^ (k + 1 + 200).toNat : Int) : ℝ)) * 2 ^ (-200 : Int) = 2 ^ (k + 1) := by
      push_cast
      rw [two_pow_toNat (by omega), ← zpow_add₀ two_ne_zero]
      congr 1
      ring
    have hv := h.apart (2 ^ (k + 1 + 200).toNat) (by
      rw [ht, abs_sub_comm, abs_of_nonneg (by linarith), ← hu]
      linarith)
    rw [ht] at hv
    linarith
  have hM : n.mid.natAbs ≠ 0 := by
    intro h0
    rw [h0, Nat.cast_zero, zero_mul] at hlow
    exact absurd hlow (not_le.2 (by positivity))
  refine ⟨hM, ?_⟩
  obtain ⟨hb1, hb2⟩ := binade_of_log2_real hM u
  have hi1 := (zpow_lt_zpow_iff_right₀ (one_lt_two (α := ℝ))).1 (hb1.trans_lt hhigh)
  have hi2 := (zpow_lt_zpow_iff_right₀ (one_lt_two (α := ℝ))).1 (hlow.trans_lt hb2)
  omega

end

/-- The rounding of a near value that lies in the normal range. -/
theorem near_round_error {n : Near} (negZero : Bool) {k : Int}
    (hk1 : -126 ≤ k) (hk2 : k ≤ 126) (hM : n.mid.natAbs ≠ 0) (hlog : (n.mid.natAbs.log2 : Int) + (n.e - 640) = k) :
    ∃ (neg : Bool) (y : ℚ), Finite (Fmt.b32.decode false (n.round negZero)) neg y ∧ |(y : ℝ) - n.mid * 2 ^ (n.e - 640)| ≤ 2 ^ (k - 24) := by
  obtain ⟨y, hy, herr⟩ := encodeWide_error (k := .b32) rfl 0 true (decide (n.mid < 0)) hM (e := n.e - 640)
    (by rw [hlog]; exact hk1) (by rw [hlog]; simp only [wideShape]; omega)
  refine ⟨decide (n.mid < 0), y, ?_, ?_⟩
  · rw [Near.round, if_neg (by omega)]
    exact hy
  · rw [worth_int, hlog] at herr
    have h := (Rat.cast_le (K := ℝ)).2 herr
    push_cast at h
    exact h

/-- Whatever the free value, what is delivered of a near value lies within the bound. -/
theorem IsNear.deliver {n : Near} {neg : Bool} {v : ℝ} (h : IsNear n neg v) {ulps : Nat} (h1 : 1 ≤ ulps) (h4 : ulps ≤ 4)
    (negZero : Bool) (free : BitVec 32) : WithinUlps ulps (n.deliver ulps none negZero free) (signedR neg * v) := by
  intro k hk1 hk2 hv1 hv2
  have habs : |signedR neg * v| = v := by rw [abs_mul, abs_signedR, one_mul, abs_of_pos h.pos]
  obtain ⟨hM, hlog⟩ := h.log2 hk1 (habs ▸ hv1) (habs ▸ hv2)
  have hulp : n.ulpAt = k - 23 := by rw [Near.ulpAt, hlog]
  unfold Near.deliver
  rw [hulp]
  split_ifs with hw
  · exact within_bound h.tells h4 hk1 hk2 hv1 hv2 hw
  · obtain ⟨neg', y, hy, herr⟩ := near_round_error negZero (by omega) hk2 hM hlog
    refine ⟨neg', y, hy, ?_⟩
    have hpos : (0 : ℝ) < 2 ^ (n.e - 640) := by positivity
    have hprec : ((n.below : ℝ) + n.above) * 2 ^ 30 ≤ n.mid.natAbs := by
      rw [Nat.cast_natAbs]
      exact_mod_cast h.precise.trans_eq (Int.natCast_natAbs n.mid)
    have hM2 : (n.mid.natAbs : ℝ) * 2 ^ (n.e - 640) < 2 ^ (k + 1) := by
      have := (binade_of_log2_real hM (n.e - 640)).2
      rwa [hlog] at this
    have e1 : (2 : ℝ) ^ (k + 1) = 2 ^ (k - 24) * 2 ^ 25 := by
      rw [← zpow_natCast, ← zpow_add₀ two_ne_zero]
      congr 1
      push_cast
      ring
    have e2 : (2 : ℝ) ^ (k - 23) = 2 ^ (k - 24) * 2 := by
      rw [← zpow_add_one₀ two_ne_zero]
      congr 1
      ring
    have hk : (0 : ℝ) < 2 ^ (k - 24) := by positivity
    have hnear : ((n.below : ℝ) + n.above) * 2 ^ (n.e - 640) ≤ 2 ^ (k - 24) := by
      have := mul_le_mul_of_nonneg_right hprec hpos.le
      nlinarith
    have hulps : (1 : ℝ) ≤ ulps := by exact_mod_cast h1
    calc |(y : ℝ) - signedR neg * v| ≤ |(y : ℝ) - n.mid * 2 ^ (n.e - 640)| + |n.mid * 2 ^ (n.e - 640) - signedR neg * v| := abs_sub_le ..
      _ ≤ 2 ^ (k - 24) + 2 ^ (k - 24) := add_le_add herr (h.error.le.trans hnear)
      _ ≤ ulps * 2 ^ (k - 23) := by rw [e2]; nlinarith

end Sys2Proof.Machine

/-! PROOFS. The square root that bounds of F are made from is the whole part of the root (spec/03_numbers.md R104). -/

namespace Sys2Proof.Machine

open Sys2Proof.Claims

/-! ### Newton's steps -/

section
variable {n s : Nat} (h1 : s ^ 2 ≤ n) (h2 : n < (s + 1) ^ 2)

section
include h1

/-- A step does not pass below the root. -/
theorem newton_ge {x : Nat} (hx : 0 < x) : s ≤ (x + n / x) / 2 := by
  rw [Nat.le_div_iff_mul_le two_pos]
  rcases le_or_gt (s * 2) x with h | h
  · exact h.trans (Nat.le_add_right ..)
  · have : s * 2 - x ≤ n / x := by
      rw [Nat.le_div_iff_mul_le hx]
      refine le_trans ?_ h1
      obtain ⟨d, hd⟩ : ∃ d, s * 2 = x + d := ⟨s * 2 - x, by omega⟩
      rw [hd, Nat.add_sub_cancel_left]
      nlinarith [sq_nonneg ((x : Int) - d)]
    omega

/-- At the root Newton's steps end. -/
theorem isqrtFrom_root (hs : 0 < s) (k : Nat) : isqrtFrom n k s = s := by
  cases k with
  | zero => rfl
  | succ k =>
    have := newton_ge h1 hs
    simp only [isqrtFrom]
    rw [if_neg (by omega)]

end

section
include h2

/-- Above the root a step goes down, and what is left of the distance is at most its square over twice the root. -/
theorem newton_step {x : Nat} (hx : s + 1 ≤ x) :
    (x + n / x) / 2 < x ∧ (s + 1 ≤ (x + n / x) / 2 → 2 * (s + 1) * ((x + n / x) / 2 - (s + 1)) < (x - (s + 1)) ^ 2) := by
  have hdiv : n / x < x := by
    rw [Nat.div_lt_iff_lt_mul (by omega)]
    nlinarith
  refine ⟨by omega, fun hy => ?_⟩
  obtain ⟨d, rfl⟩ : ∃ d, x = s + 1 + d := ⟨x - (s + 1), by omega⟩
  generalize hyd : (s + 1 + d + n / (s + 1 + d)) / 2 = y at hy ⊢
  obtain ⟨e, rfl⟩ : ∃ e, y = s + 1 + e := ⟨y - (s + 1), by omega⟩
  have hle : 2 * (s + 1 + e) ≤ s + 1 + d + n / (s + 1 + d) := by omega
  have hmul : n / (s + 1 + d) * (s + 1 + d) ≤ n := Nat.div_mul_le_self ..
  have h3 : 2 * (s + 1 + e) * (s + 1 + d) ≤ (s + 1 + d) * (s + 1 + d) + n := by nlinarith
  simp only [Nat.add_sub_cancel_left]
  nlinarith

end

include h1 h2

/-- With the distance to the root halved 2 ^ j - 1 times and steps enough to pass it, Newton's steps end at the root. -/
theorem isqrtFrom_eq (hs : 0 < s) {b : Nat} (hb : s + 1 < 2 ^ b) : ∀ (k j x : Nat),
    x = s ∨ (s + 1 ≤ x ∧ (x - (s + 1)) * 2 ^ (2 ^ j - 1) ≤ s + 1) → b < 2 ^ (j + k) → isqrtFrom n (k + 1) x = s
  | k, j, x, hx, hlt => by
    rcases hx with rfl | ⟨hx, hd⟩
    · exact isqrtFrom_root h1 hs (k + 1)
    obtain ⟨hdown, hstep⟩ := newton_step h2 hx
    have hge := newton_ge h1 (show 0 < x by omega)
    simp only [isqrtFrom]
    rw [if_pos hdown]
    generalize (x + n / x) / 2 = y at hdown hstep hge
    cases k with
    | zero =>
      have h0 : x - (s + 1) = 0 := by
        by_contra h0
        have : 1 * 2 ^ (2 ^ j - 1) ≤ (x - (s + 1)) * 2 ^ (2 ^ j - 1) := Nat.mul_le_mul_right _ (by omega)
        have : 2 ^ b ≤ 2 ^ (2 ^ j - 1) := Nat.pow_le_pow_right two_pos (by rw [add_zero] at hlt; omega)
        omega
      have : ¬s + 1 ≤ y := fun h => by simpa [h0] using hstep h
      exact (by omega : y = s)
    | succ k =>
      refine isqrtFrom_eq hs hb k (j + 1) y ?_ (by rwa [add_right_comm, add_assoc])
      rcases Nat.lt_or_ge y (s + 1) with h | h
      · exact .inl (by omega)
      · refine .inr ⟨h, ?_⟩
        have hexp : 2 ^ (j + 1) - 1 = (2 ^ j - 1) + (2 ^ j - 1) + 1 := by
          have : 0 < 2 ^ j := by positivity
          rw [pow_succ]
          omega
        have hsq := hstep h
        generalize y - (s + 1) = c at hsq ⊢
        generalize x - (s + 1) = d at hd hsq
        rw [hexp, pow_succ, pow_add]
        generalize 2 ^ (2 ^ j - 1) = p at hd
        have h3 : (d * p) ^ 2 ≤ (s + 1) ^ 2 := Nat.pow_le_pow_left hd 2
        have h4 : 2 * (s + 1) * c * p ^ 2 ≤ d ^ 2 * p ^ 2 := Nat.mul_le_mul_right _ hsq.le
        have h5 : (s + 1) * (c * (p * p * 2)) ≤ (s + 1) * (s + 1) := by nlinarith
        exact Nat.le_of_mul_le_mul_left h5 (by omega)

end

/-- The integer square root is that of Mathlib, for numbers of up to 2^20 bits. -/
theorem isqrt_eq {n : Nat} (h : n.log2 < 2 ^ 20) : isqrt n = n.sqrt := by
  rcases Nat.eq_zero_or_pos n with rfl | hn
  · rfl
  have h1 := Nat.sqrt_le' n
  have h2 : n < (n.sqrt + 1) ^ 2 := Nat.lt_succ_sqrt' n
  have hs : 0 < n.sqrt := Nat.sqrt_pos.2 hn
  have hlow : 2 ^ (n.log2 / 2) ≤ n.sqrt := by
    rw [Nat.le_sqrt', ← pow_mul]
    exact (Nat.pow_le_pow_right two_pos (by omega)).trans (Nat.log2_self_le hn.ne')
  have hhigh : n.sqrt < 2 ^ (n.log2 / 2 + 1) := by
    rw [Nat.sqrt_lt', ← pow_mul]
    exact (Nat.lt_log2_self (n := n)).trans_le (Nat.pow_le_pow_right two_pos (by omega))
  have hbits : n.sqrt + 1 < 2 ^ (n.log2 / 2 + 2) := by
    rw [pow_succ]
    omega
  rw [isqrt, if_neg hn.ne']
  refine isqrtFrom_eq h1 h2 hs hbits 39 0 _ (.inr ⟨by omega, ?_⟩) (by omega)
  rw [pow_succ]
  omega

end Sys2Proof.Machine

/-! PROOFS. RCP, SQRT and RSQRT: the values that their bounds are made from (spec/03_numbers.md R104). -/

namespace Sys2Proof.Machine

open Sys2Proof.Claims

/-! ### Numbers told apart by their last bit -/

/-- A whole multiple of a power of two that is smaller than it is 0. -/
theorem int_eq_zero_of_lt {t : Int} {a b : Int} (h : |(t : ℝ) * 2 ^ a| < 2 ^ b) (hab : b ≤ a) : t = 0 := by
  have hpos : (0 : ℝ) < 2 ^ a := by positivity
  have hle : (2 : ℝ) ^ b ≤ 2 ^ a := zpow_le_zpow_right₀ one_le_two hab
  rw [abs_mul, abs_of_pos hpos] at h
  have hlt : |(t : ℝ)| < 1 := by nlinarith
  have hlt' : |t| < 1 := by exact_mod_cast hlt
  exact Int.abs_lt_one_iff.1 hlt'

/-- A near value with the usual interval: x of its units, less than 2^24 below the whole number taken for it and less than 1 above. -/
theorem isNear_of_cut {n : Near} {neg : Bool} {q : Nat} {x : ℝ} (hmid : n.mid = (if neg then -1 else 1) * (q : Int))
    (hb : n.below = 2 ^ 40) (ha : n.above = 2 ^ 40) (h0 : 0 < x) (h1 : (q : ℝ) ≤ x + 2 ^ 24) (h2 : x < q + 1) (he : n.e ≤ 440)
    (hq : 2 ^ 71 ≤ q) (apart : ∀ t : Int, |x * 2 ^ (n.e - 640) - t * 2 ^ (-200 : Int)| < 2 ^ 41 * 2 ^ (n.e - 640) →
      x * 2 ^ (n.e - 640) = t * 2 ^ (-200 : Int)) : IsNear n neg (x * 2 ^ (n.e - 640)) := by
  have hu : (0 : ℝ) < 2 ^ (n.e - 640) := by positivity
  have habs : n.mid.natAbs = q := by rw [hmid]; cases neg <;> simp
  have hmid' : (n.mid : ℝ) = signedR neg * q := by rw [hmid]; cases neg <;> simp [signedR]
  have hwide : (2 : ℝ) ^ 24 < 2 ^ 40 ∧ (1 : ℝ) < 2 ^ 40 := by norm_num
  obtain ⟨hw1, hw2⟩ := hwide
  refine ⟨by positivity, by rw [habs, hmid'], by rw [hb]; positivity, by rw [ha]; positivity, ?_, ?_, ?_, he, ?_, fun t ht => ?_⟩
  · rw [Int.cast_sub, hmid', hb, ← mul_assoc, mul_lt_mul_iff_left₀ hu]
    push_cast
    cases neg <;> simp only [signedR, if_true, Bool.false_eq_true, if_false] <;> linarith
  · rw [Int.cast_add, hmid', ha, ← mul_assoc, mul_lt_mul_iff_left₀ hu]
    push_cast
    cases neg <;> simp only [signedR, if_true, Bool.false_eq_true, if_false] <;> linarith
  · rw [habs, mul_lt_mul_iff_left₀ hu]
    exact h2
  · rw [habs, hb, ha]
    have : ((2 ^ 71 : Nat) : Int) ≤ q := by exact_mod_cast hq
    linarith
  · refine apart t (ht.trans_eq ?_)
    rw [hb, ha]
    push_cast
    ring

/-! ### RCP -/

theorem one_div_mul_eq {a m p u : ℝ} (hm : m ≠ 0) (hp : p ≠ 0) (h : a * u * p = 1) : 1 / (m * p) = a / m * u := by
  field_simp
  linarith

/-- What RCP's result is taken from: the whole part of 2^664 / m. -/
def rcpNear (neg : Bool) (m : Nat) (e : Int) : Near := { mid := (if neg then -1 else 1) * ((2 ^ 664 / m : Nat) : Int), e := -24 - e }

theorem rcpNear_isNear (neg : Bool) {m : Nat} {e : Int} (hm : m ≠ 0) (hlt : m < 2 ^ 24) (h1 : -149 ≤ e) (h2 : e ≤ 104) :
    IsNear (rcpNear neg m e) neg (1 / (m * 2 ^ e)) := by
  have hmpos : (0 : ℝ) < m := by positivity
  have hv : (1 : ℝ) / (m * 2 ^ e) = 2 ^ (664 : Int) / m * 2 ^ ((rcpNear neg m e).e - 640) := by
    have hue : (2 : ℝ) ^ (664 : Int) * 2 ^ ((rcpNear neg m e).e - 640) * 2 ^ e = 1 := by
      rw [← zpow_add₀ two_ne_zero, ← zpow_add₀ two_ne_zero]
      simp only [rcpNear]
      ring_nf
      simp
    exact one_div_mul_eq hmpos.ne' (by positivity) hue
  have hpow : ((2 ^ 664 : Nat) : ℝ) = 2 ^ (664 : Int) := by rw [Nat.cast_pow, Nat.cast_two, ← zpow_natCast]; rfl
  rw [hv, ← hpow]
  refine isNear_of_cut rfl rfl rfl (by positivity) ?_ ?_ (by simp only [rcpNear]; omega) ?_ fun t ht => ?_
  · exact Nat.cast_div_le.trans (le_add_of_nonneg_right (by positivity))
  · rw [div_lt_iff₀ hmpos, mul_comm, ← Nat.cast_add_one, ← Nat.cast_mul, Nat.cast_lt]
    exact Nat.lt_mul_div_succ (2 ^ 664) (Nat.pos_of_ne_zero hm)
  · rw [Nat.le_div_iff_mul_le (Nat.pos_of_ne_zero hm)]
    refine (Nat.mul_le_mul_left (2 ^ 71) hlt.le).trans ?_
    rw [← pow_add]
    exact pow_le_pow_right₀ one_le_two (by norm_num)
  · -- 1 - t m 2^(e-200) is a whole multiple of 2^(e-200), and too small for one
    rw [hpow, ← hv] at ht ⊢
    have hp : (0 : ℝ) < m * 2 ^ e := by positivity
    have hdiff : (1 / (m * 2 ^ e) - t * 2 ^ (-200 : Int)) * (m * 2 ^ e) = ((2 ^ (200 - e).toNat - t * m : Int) : ℝ) * 2 ^ (e - 200) := by
      push_cast
      rw [two_pow_toNat (by omega), sub_mul, sub_mul, one_div, inv_mul_cancel₀ hp.ne', ← zpow_add₀ two_ne_zero, sub_add_sub_cancel,
        sub_self, zpow_zero, zpow_sub₀ two_ne_zero, zpow_neg]
      field_simp
    have hsmall : |((2 ^ (200 - e).toNat - t * m : Int) : ℝ) * 2 ^ (e - 200)| < 2 ^ (-599 : Int) := by
      rw [← hdiff, abs_mul, abs_of_pos hp]
      have hm24 : (m : ℝ) * 2 ^ e < 2 ^ (24 + e) := by
        rw [zpow_add₀ two_ne_zero]
        exact mul_lt_mul_of_pos_right (by exact_mod_cast hlt) (by positivity)
      calc _ < 2 ^ 41 * 2 ^ ((rcpNear neg m e).e - 640) * 2 ^ (24 + e) := mul_lt_mul'' ht hm24 (abs_nonneg _) hp.le
        _ = 2 ^ (-599 : Int) := by
          rw [← zpow_natCast, ← zpow_add₀ two_ne_zero, ← zpow_add₀ two_ne_zero]
          simp only [rcpNear]
          congr 1
          push_cast
          ring
    have hzero := int_eq_zero_of_lt hsmall (by omega)
    rw [hzero, Int.cast_zero, zero_mul, mul_eq_zero] at hdiff
    linarith [hdiff.resolve_right hp.ne']

end Sys2Proof.Machine

namespace Sys2Proof.Machine

open Sys2Proof.Claims

/-! ### SQRT and RSQRT -/

/-- The square root of m * 2^e is taken as that of k * 2^(2 h): the exponent made even. -/
theorem nearSqrt_eq {m : Nat} {e : Int} (hm : m ≠ 0) (hlt : m < 2 ^ 24) : ∃ (k : Nat) (h : Int), k ≠ 0 ∧ k < 2 ^ 25 ∧ e - 1 ≤ 2 * h ∧ 2 * h ≤ e ∧
    (m : ℝ) * 2 ^ e = k * 2 ^ (2 * h) ∧ nearSqrt m e = { mid := ((k * 2 ^ 1280).sqrt : Nat), e := h } := by
  have hlog {k : Nat} (hk : k < 2 ^ 25) : (k * 2 ^ 1280).log2 < 2 ^ 20 := by
    rcases Nat.eq_zero_or_pos k with rfl | hk0
    · norm_num
    · have h1 : k * 2 ^ 1280 < 2 ^ 1305 := by
        rw [show 1305 = 25 + 1280 from rfl, pow_add]
        exact Nat.mul_lt_mul_of_pos_right hk (by positivity)
      have h2 := (Nat.log2_lt (by positivity)).2 h1
      exact h2.trans (by norm_num)
  by_cases he : e % 2 = 0
  · refine ⟨m, e / 2, hm, by omega, by omega, by omega, by rw [show 2 * (e / 2) = e by omega], ?_⟩
    rw [nearSqrt, if_pos he, isqrt_eq (hlog (by omega))]
  · refine ⟨2 * m, (e - 1) / 2, by omega, by omega, by omega, by omega, ?_, ?_⟩
    · have h2 : (2 : ℝ) ^ e = 2 * 2 ^ (2 * ((e - 1) / 2)) := by
        rw [← zpow_one_add₀ two_ne_zero]
        congr 1
        omega
      rw [h2]
      push_cast
      ring
    · rw [nearSqrt, if_neg he, isqrt_eq (hlog (by omega))]

/-- The root of a whole number and its whole part. -/
theorem sqrt_floor (n : Nat) : (n.sqrt : ℝ) ≤ Real.sqrt n ∧ Real.sqrt n < n.sqrt + 1 :=
  ⟨Real.nat_sqrt_le_real_sqrt, Real.real_sqrt_lt_nat_sqrt_succ⟩

section
variable {k : Nat} {h : Int} (hk : k ≠ 0) (hlt : k < 2 ^ 25)

theorem sqrt_mul_pow_even (k : Nat) (h : Int) : Real.sqrt (k * 2 ^ (2 * h)) = Real.sqrt k * 2 ^ h := by
  rw [Real.sqrt_mul (by positivity), mul_comm 2 h, zpow_mul, zpow_ofNat, Real.sqrt_sq (by positivity)]

theorem sqrt_mul_1280 (k : Nat) : Real.sqrt ((k * 2 ^ 1280 : Nat) : ℝ) = Real.sqrt k * 2 ^ (640 : Int) := by
  rw [← sqrt_mul_pow_even, Nat.cast_mul, Nat.cast_pow, Nat.cast_two, ← zpow_natCast]
  norm_num only

include hk in
theorem one_le_sqrt : 1 ≤ Real.sqrt k := by
  rw [Real.one_le_sqrt]
  exact_mod_cast Nat.pos_of_ne_zero hk

include hlt in
theorem sqrt_lt : Real.sqrt k < 2 ^ 13 := by
  rw [Real.sqrt_lt' (by positivity)]
  have : (k : ℝ) < 2 ^ 25 := by exact_mod_cast hlt
  refine this.trans_le ?_
  norm_num

include hk hlt

/-- The root of a number of 25 bits is told from every multiple of 2^-200. -/
theorem sqrt_apart (h1 : -75 ≤ h) (h2 : h ≤ 52) {t : Int}
    (ht : |Real.sqrt k * 2 ^ h - t * 2 ^ (-200 : Int)| < 2 ^ 41 * 2 ^ (h - 640)) : Real.sqrt k * 2 ^ h = t * 2 ^ (-200 : Int) := by
  have hp : (0 : ℝ) < 2 ^ h := by positivity
  have hr1 := one_le_sqrt hk
  have hr2 := sqrt_lt hlt
  have hsq : Real.sqrt k * Real.sqrt k = k := Real.mul_self_sqrt (by positivity)
  generalize Real.sqrt k = r at *
  obtain ⟨x, hx⟩ : ∃ x, x = (t : ℝ) * 2 ^ (-200 : Int) := ⟨_, rfl⟩
  rw [← hx] at ht ⊢
  have hd : (2 : ℝ) ^ 41 * 2 ^ (h - 640) = 2 ^ (-599 : Int) * 2 ^ h := by
    rw [← zpow_natCast, ← zpow_add₀ two_ne_zero, ← zpow_add₀ two_ne_zero]
    congr 1
    push_cast
    ring
  have hd1 : (2 : ℝ) ^ (-599 : Int) ≤ 1 := zpow_le_one_of_nonpos₀ one_le_two (by norm_num)
  rw [hd] at ht
  have hclose := abs_lt.1 ht
  have hx0 : 0 < x := by nlinarith
  -- the difference of the squares is a whole multiple of 2^-400
  have hdiff : (r * 2 ^ h - x) * (r * 2 ^ h + x) = ((k * 2 ^ (2 * h + 400).toNat - t * t : Int) : ℝ) * 2 ^ (-400 : Int) := by
    have e2 : (2 : ℝ) ^ (-400 : Int) = 2 ^ (-200 : Int) * 2 ^ (-200 : Int) := by rw [← zpow_add₀ two_ne_zero]; norm_num
    have e3 : (2 : ℝ) ^ (2 * h + 400) * 2 ^ (-400 : Int) = 2 ^ h * 2 ^ h := by
      rw [← zpow_add₀ two_ne_zero, ← zpow_add₀ two_ne_zero]
      congr 1
      ring
    push_cast
    rw [two_pow_toNat (by omega), sub_mul ((k : ℝ) * _), mul_assoc (k : ℝ), e3, e2, ← hsq, hx]
    generalize (2 : ℝ) ^ (-200 : Int) = a
    ring
  have hzero : (k * 2 ^ (2 * h + 400).toNat - t * t : Int) = 0 := by
    refine int_eq_zero_of_lt (a := -400) (b := -400) ?_ le_rfl
    rw [← hdiff, abs_mul, abs_of_pos (show 0 < r * 2 ^ h + x by positivity)]
    have hsum : r * 2 ^ h + x < 2 ^ 15 * 2 ^ h := by nlinarith
    calc _ < 2 ^ (-599 : Int) * 2 ^ h * (2 ^ 15 * 2 ^ h) := mul_lt_mul'' ht hsum (abs_nonneg _) (by positivity)
      _ = 2 ^ (2 * h - 584) := by
        rw [← zpow_natCast, ← zpow_add₀ two_ne_zero, ← zpow_add₀ two_ne_zero, ← zpow_add₀ two_ne_zero]
        congr 1
        push_cast
        ring
      _ ≤ 2 ^ (-400 : Int) := zpow_le_zpow_right₀ one_le_two (by omega)
  rw [hzero, Int.cast_zero, zero_mul, mul_eq_zero] at hdiff
  linarith [hdiff.resolve_right (show r * 2 ^ h + x ≠ 0 by positivity)]

/-- The inverse root of a number of 25 bits is told from every multiple of 2^-200. -/
theorem inv_sqrt_apart (h1 : -75 ≤ h) (h2 : h ≤ 52) {t : Int}
    (ht : |1 / (Real.sqrt k * 2 ^ h) - t * 2 ^ (-200 : Int)| < 2 ^ 41 * 2 ^ (-24 - h - 640)) :
    1 / (Real.sqrt k * 2 ^ h) = t * 2 ^ (-200 : Int) := by
  have hr1 := one_le_sqrt hk
  have hr2 := sqrt_lt hlt
  have hsq : Real.sqrt k * Real.sqrt k = k := Real.mul_self_sqrt (by positivity)
  generalize Real.sqrt k = r at *
  have hp : (0 : ℝ) < 2 ^ h := by positivity
  obtain ⟨v, hv⟩ : ∃ v, v = r * 2 ^ h := ⟨_, rfl⟩
  have hv0 : 0 < v := by rw [hv]; positivity
  obtain ⟨x, hx⟩ : ∃ x, x = (t : ℝ) * 2 ^ (-200 : Int) := ⟨_, rfl⟩
  rw [← hx, ← hv] at ht ⊢
  have hd : (2 : ℝ) ^ 41 * 2 ^ (-24 - h - 640) * 2 ^ h = 2 ^ (-623 : Int) := by
    rw [← zpow_natCast, ← zpow_add₀ two_ne_zero, ← zpow_add₀ two_ne_zero]
    congr 1
    push_cast
    ring
  have hscale : |1 / v - x| * v < 2 ^ (-610 : Int) := by
    have hv' : v < 2 ^ 13 * 2 ^ h := by rw [hv]; exact mul_lt_mul_of_pos_right hr2 hp
    calc |1 / v - x| * v < 2 ^ 41 * 2 ^ (-24 - h - 640) * (2 ^ 13 * 2 ^ h) := mul_lt_mul'' ht hv' (abs_nonneg _) hv0.le
      _ = 2 ^ 13 * (2 ^ 41 * 2 ^ (-24 - h - 640) * 2 ^ h) := by ring
      _ = 2 ^ (-610 : Int) := by
        rw [hd, ← zpow_natCast, ← zpow_add₀ two_ne_zero]
        norm_num
  have hxv : |1 - x * v| < 2 ^ (-610 : Int) := by
    rwa [← abs_of_pos hv0, ← abs_mul, abs_of_pos hv0, sub_mul, one_div, inv_mul_cancel₀ hv0.ne'] at hscale
  have hsmall : (2 : ℝ) ^ (-610 : Int) ≤ 1 := zpow_le_one_of_nonpos₀ one_le_two (by norm_num)
  have hclose := abs_lt.1 hxv
  -- 1 - (x v)^2 is a whole multiple of 2^(2 h - 400)
  have hdiff : (1 - x * v) * (1 + x * v) = ((2 ^ (400 - 2 * h).toNat - t * t * k : Int) : ℝ) * 2 ^ (2 * h - 400) := by
    have e3 : (2 : ℝ) ^ (400 - 2 * h) * 2 ^ (2 * h - 400) = 1 := by
      rw [← zpow_add₀ two_ne_zero]
      norm_num
    have e4 : (2 : ℝ) ^ (2 * h - 400) = 2 ^ (-200 : Int) * 2 ^ (-200 : Int) * (2 ^ h * 2 ^ h) := by
      rw [← zpow_add₀ two_ne_zero, ← zpow_add₀ two_ne_zero, ← zpow_add₀ two_ne_zero]
      congr 1
      ring
    push_cast
    rw [two_pow_toNat (by omega), sub_mul (_ ^ _), e3, e4, ← hsq, hx, hv]
    generalize (2 : ℝ) ^ (-200 : Int) = a
    ring
  have hzero : (2 ^ (400 - 2 * h).toNat - t * t * k : Int) = 0 := by
    refine int_eq_zero_of_lt (a := 2 * h - 400) (b := -600) ?_ (by omega)
    rw [← hdiff, abs_mul, abs_of_pos (show 0 < 1 + x * v by linarith)]
    calc |1 - x * v| * (1 + x * v) < 2 ^ (-610 : Int) * 2 ^ 10 :=
          mul_lt_mul'' hxv (by linarith [show (3 : ℝ) < 2 ^ 10 by norm_num]) (abs_nonneg _) (by linarith)
      _ = 2 ^ (-600 : Int) := by
        rw [← zpow_natCast, ← zpow_add₀ two_ne_zero]
        norm_num
  rw [hzero, Int.cast_zero, zero_mul, mul_eq_zero] at hdiff
  have h1v : x * v = 1 := by linarith [hdiff.resolve_right (show 1 + x * v ≠ 0 by linarith)]
  rw [one_div, ← mul_eq_one_iff_eq_inv₀ hv0.ne' |>.1 h1v]

end

/-- The inverse of a number of at least a, cut to a whole number before, is too large by at most b of a unit b a^2. -/
theorem cut_inverse {a b q r : ℝ} (ha : 0 < a) (hb : 0 ≤ b) (haq : a ≤ q) (h1 : q ≤ r) (h2 : r ≤ q + 1) :
    b * (a * a) / q ≤ b * (a * a) / r + b := by
  have hq : 0 < q := ha.trans_le haq
  have hr : 0 < r := hq.trans_le h1
  have hprod : a * a ≤ q * r := mul_le_mul haq (haq.trans h1) ha.le hq.le
  rw [div_add' _ _ _ hr.ne', div_le_div_iff₀ hq hr]
  have h3 : b * (a * a) * (r - q) ≤ b * (q * r) * 1 :=
    mul_le_mul (mul_le_mul_of_nonneg_left hprod hb) (by linarith) (by linarith) (by positivity)
  linarith

theorem sqrt_1280_ge {k : Nat} (hk : k ≠ 0) : 2 ^ 640 ≤ (k * 2 ^ 1280).sqrt := by
  rw [Nat.le_sqrt', ← pow_mul]
  refine le_trans ?_ (Nat.le_mul_of_pos_left _ (Nat.pos_of_ne_zero hk))
  exact pow_le_pow_right₀ one_le_two (by norm_num)

/-- SQRT's result is taken from the whole part of the root. -/
theorem nearSqrt_isNear {m : Nat} {e : Int} (hm : m ≠ 0) (hlt : m < 2 ^ 24) (h1 : -149 ≤ e) (h2 : e ≤ 104) :
    IsNear (nearSqrt m e) false (Real.sqrt (m * 2 ^ e)) := by
  obtain ⟨k, h, hk, hkl, hh1, hh2, hx, hn⟩ := nearSqrt_eq (e := e) hm hlt
  have hr := sqrt_floor (k * 2 ^ 1280)
  rw [sqrt_mul_1280] at hr
  have hv : Real.sqrt (m * 2 ^ e) = Real.sqrt k * 2 ^ (640 : Int) * 2 ^ (h - 640) := by
    rw [hx, sqrt_mul_pow_even, mul_assoc, ← zpow_add₀ two_ne_zero, add_sub_cancel]
  have hpos := one_le_sqrt hk
  rw [hn, hv]
  refine isNear_of_cut (neg := false) (n := { mid := ((k * 2 ^ 1280).sqrt : Nat), e := h }) (one_mul _).symm rfl rfl (by positivity)
    (hr.1.trans (le_add_of_nonneg_right (by positivity))) hr.2 (by dsimp only; omega) ?_ fun t ht => ?_
  · exact (pow_le_pow_right₀ one_le_two (by norm_num)).trans (sqrt_1280_ge hk)
  · rw [← hv, hx, sqrt_mul_pow_even] at ht ⊢
    exact sqrt_apart hk hkl (by omega) (by omega) ht

/-- What RSQRT's result is taken from: the inverse of that whole part, cut. -/
def rsqrtNear (m : Nat) (e : Int) : Near := { mid := 2 ^ 1304 / (nearSqrt m e).mid, e := -24 - (nearSqrt m e).e }

theorem rsqrtNear_isNear {m : Nat} {e : Int} (hm : m ≠ 0) (hlt : m < 2 ^ 24) (h1 : -149 ≤ e) (h2 : e ≤ 104) :
    IsNear (rsqrtNear m e) false (1 / Real.sqrt (m * 2 ^ e)) := by
  obtain ⟨k, h, hk, hkl, hh1, hh2, hx, hn⟩ := nearSqrt_eq (e := e) hm hlt
  obtain ⟨hr1, hr2⟩ := sqrt_floor (k * 2 ^ 1280)
  rw [sqrt_mul_1280] at hr1 hr2
  have hq0 : 2 ^ 640 ≤ (k * 2 ^ 1280).sqrt := sqrt_1280_ge hk
  generalize (k * 2 ^ 1280).sqrt = q at hr1 hr2 hn hq0
  have hroot := one_le_sqrt hk
  have hlim := sqrt_lt hkl
  obtain ⟨r, hr⟩ : ∃ r, r = Real.sqrt k * 2 ^ (640 : Int) := ⟨_, rfl⟩
  rw [← hr] at hr1 hr2
  have hqpos : 0 < q := lt_of_lt_of_le (by positivity) hq0
  have hqR : (0 : ℝ) < q := by exact_mod_cast hqpos
  have hrpos : 0 < r := by rw [hr]; positivity
  obtain ⟨a, ha⟩ : ∃ a, a = (2 : ℝ) ^ (640 : Int) := ⟨_, rfl⟩
  have hapos : 0 < a := by rw [ha]; positivity
  have hqa : a ≤ q := by
    rw [ha, show (2 : ℝ) ^ (640 : Int) = ((2 ^ 640 : Nat) : ℝ) by rw [Nat.cast_pow, Nat.cast_two, ← zpow_natCast]; rfl]
    exact Nat.cast_le.2 hq0
  have hpow : ((2 ^ 1304 : Nat) : ℝ) = 2 ^ 24 * (a * a) := by
    rw [Nat.cast_pow, Nat.cast_two, ha, ← zpow_natCast, ← zpow_natCast, ← zpow_add₀ two_ne_zero, ← zpow_add₀ two_ne_zero]
    norm_num only
  have hmid : (rsqrtNear m e).mid = ((2 ^ 1304 / q : Nat) : Int) := by rw [rsqrtNear, hn, Int.natCast_div]; norm_cast
  have he : (rsqrtNear m e).e = -24 - h := by rw [rsqrtNear, hn]
  have hv : 1 / Real.sqrt (m * 2 ^ e) = ((2 ^ 1304 : Nat) : ℝ) / r * 2 ^ ((rsqrtNear m e).e - 640) := by
    have h24 : (2 : ℝ) ^ 24 * a * 2 ^ ((rsqrtNear m e).e - 640) * 2 ^ h = 1 := by
      rw [ha, he, ← zpow_natCast, ← zpow_add₀ two_ne_zero, ← zpow_add₀ two_ne_zero, ← zpow_add₀ two_ne_zero]
      convert zpow_zero (2 : ℝ) using 2
      push_cast
      ring
    rw [hx, sqrt_mul_pow_even, hr, ← ha, hpow, ← mul_assoc, mul_div_mul_right _ _ hapos.ne']
    exact one_div_mul_eq (by positivity) (by positivity) h24
  rw [hv]
  refine isNear_of_cut (neg := false) (q := 2 ^ 1304 / q) (hmid.trans (one_mul _).symm) rfl rfl (by positivity) ?_ ?_ (by omega) ?_ fun t ht => ?_
  · refine Nat.cast_div_le.trans ?_
    rw [hpow]
    exact cut_inverse hapos (by positivity) hqa hr1 hr2.le
  · have h1 : ((2 ^ 1304 : Nat) : ℝ) / r ≤ (2 ^ 1304 : Nat) / q := div_le_div_of_nonneg_left (by positivity) hqR hr1
    refine h1.trans_lt ?_
    rw [div_lt_iff₀ hqR, mul_comm, ← Nat.cast_add_one, ← Nat.cast_mul, Nat.cast_lt]
    exact Nat.lt_mul_div_succ (2 ^ 1304) hqpos
  · rw [Nat.le_div_iff_mul_le hqpos]
    have hq2 : q ≤ 2 ^ 653 := by
      have h1 : (q : ℝ) ≤ ((2 ^ 653 : Nat) : ℝ) := by
        have h13 : ((2 ^ 653 : Nat) : ℝ) = 2 ^ 13 * a := by
          rw [Nat.cast_pow, Nat.cast_two, ha, ← zpow_natCast, ← zpow_natCast, ← zpow_add₀ two_ne_zero]
          norm_num only
        rw [h13]
        refine hr1.trans ?_
        rw [hr, ← ha]
        exact mul_le_mul_of_nonneg_right hlim.le hapos.le
      exact Nat.cast_le.1 h1
    refine (Nat.mul_le_mul_left (2 ^ 71) hq2).trans ?_
    rw [← pow_add]
    exact pow_le_pow_right₀ one_le_two (by norm_num)
  · rw [← hv, hx, sqrt_mul_pow_even] at ht ⊢
    rw [he] at ht
    exact inv_sqrt_apart hk hkl (by omega) (by omega) ht

end Sys2Proof.Machine

/-! PROOFS. Words of the F unit and the steps of MPRG (spec/03_numbers.md R103, spec/09_matrix_function_instructions.md R282, R283). -/

namespace Sys2Proof.Machine

open Sys2Proof.Claims

/-! ### Words of the F unit (R103, R282) -/

/-- A subnormal word is read as zero of its sign. -/
theorem flushWord_sign_add (neg : Bool) {c : Nat} (hc : c < 2 ^ 31) :
    flushWord (Fmt.b32.sign neg + c) = if c < 2 ^ 23 then Fmt.b32.sign neg else Fmt.b32.sign neg + c := by
  have hs : Fmt.b32.sign neg = if neg then 2 ^ 31 else 0 := rfl
  rw [hs]
  unfold flushWord
  cases neg <;> simp only [if_true, Bool.false_eq_true, if_false] <;> split_ifs <;> omega

theorem roundedTo_zero (p : Nat) (lo : Option Int) (r : Nat) : RoundedTo p lo .nearest r 0 0 := by
  have h : OnGrid p lo 0 := by
    cases lo with
    | none => exact ⟨0, 0, by simp, by simp, by simp⟩
    | some l => exact ⟨0, l + 1 - p, by simp, by simp, by simp⟩
  refine ⟨h, fun _ => rfl, fun z _ => ?_⟩
  rcases eq_or_ne z 0 with rfl | hz
  · exact .inl rfl
  · exact .inr (.inl (by simpa using hz))

theorem maxMag_b32 : Fmt.b32.maxMag = (2 ^ 24 - 1) * 2 ^ (104 : Int) := by
  simp only [Fmt.maxMag, Fmt.plain, Fmt.maxCode, Fmt.infCode, Fmt.ebits, Fmt.frac, Fmt.bias, Fmt.emin]
  norm_num

/-- Above the largest finite binary32 number, the next on its grid is 2^128. -/
theorem two_pow_128_le {lo : Option Int} {y : ℚ} (hy : OnGrid 24 lo y) (h : Fmt.b32.maxMag < |y|) : 2 ^ (128 : Int) ≤ |y| := by
  have hy' : OnGrid 24 lo |y| := by rcases abs_choice y with h | h <;> rw [h]; exacts [hy, onGrid_neg hy]
  have hpos : (0 : ℚ) < 2 ^ (104 : Int) := by positivity
  rw [maxMag_b32] at h
  rcases onGrid_gap (q := 104) (f := 2 ^ 24 - 1) (by norm_num) (.inr (by norm_num)) hy' with hg | hg
  · rw [div_le_iff₀ hpos] at hg
    push_cast at hg
    norm_num at hg h
    linarith
  · rw [le_div_iff₀ hpos] at hg
    norm_num at hg ⊢
    linarith

/-- A real result of MPRG is rounded once, a subnormal to zero of its sign (R282). -/
theorem functionWord_microWord (neg : Bool) (m : Nat) (e : Int) : FunctionWord (worth (.fin neg m e)) (microWord (.fin neg m e)) := by
  have hs : Fmt.b32.sign neg = if neg then 2 ^ 31 else 0 := rfl
  rcases Nat.eq_zero_or_pos m with rfl | hm
  · have hx : worth (.fin neg 0 e) = 0 := (worth_eq_zero_iff neg 0 e).2 rfl
    have hw : microWord (.fin neg 0 e) = Fmt.b32.sign neg := by
      rw [microWord, (ofVal_zero (k := .b32) rfl .nearest 0 false neg e).1]
      exact flushWord_sign_add neg (c := 0) (by norm_num)
    rw [hx, hw]
    refine ⟨0, roundedTo_zero .., ?_⟩
    rw [if_pos (by simp)]
    refine ⟨?_, ?_, fun h => absurd rfl h⟩ <;> cases neg <;> simp [hs]
  · have hneg := worth_neg_iff neg e hm.ne'
    obtain ⟨y, z, hy, -, hcase, henc⟩ := encodeWide_encoded (k := .b32) rfl (m := .nearest) (by decide) 0 false neg hm.ne' e
    have hword : microWord (.fin neg m e) = flushWord (Fmt.b32.encodeWide .nearest 0 false neg m 1 e).1 := rfl
    rw [hword]
    refine ⟨y, hy, ?_⟩
    generalize Fmt.b32.encodeWide .nearest 0 false neg m 1 e = o at henc
    have hlt : (2 : ℚ) ^ (-126 : Int) < 2 ^ (128 : Int) := zpow_lt_zpow_right₀ one_lt_two (by norm_num)
    cases henc with
    | overflow h hyz =>
      have hbig := two_pow_128_le hy.1 (hyz ▸ h)
      rw [if_neg (by linarith), if_pos hbig]
      simp only [hneg]
      cases neg <;> rfl
    | flushed h hlt hf => cases hf
    | held c h hc hf hw hsub =>
      have hc31 : c < 2 ^ 31 := hc.trans (by decide)
      have hsub' : c < 2 ^ 23 ↔ |y| < 2 ^ (-126 : Int) := hsub
      rw [flushWord_sign_add neg hc31]
      by_cases hs' : c < 2 ^ 23
      · rw [if_pos hs', if_pos (hsub'.1 hs')]
        refine ⟨?_, ?_, fun _ => ?_⟩
        · cases neg <;> simp [hs]
        · cases neg <;> simp [hs]
        · rw [hneg, hs]
          cases neg <;> simp
      · have hmax : Fmt.b32.maxMag < 2 ^ (128 : Int) := (maxMag_bounds (k := .b32) rfl).2.1
        have hy128 : |y| < 2 ^ (128 : Int) := by
          rcases hcase with ⟨rfl, -⟩ | ⟨hy', -⟩
          · linarith
          · exact hy'.trans_lt hlt
        rw [if_neg hs', if_neg (mt hsub'.2 hs'), if_neg (not_le.2 hy128)]
        have hd : decide (worth (.fin neg m e) < 0) = neg := by rw [Bool.eq_iff_iff, decide_eq_true_iff, hneg]
        rw [hd, ← hw]
        exact decode_sign_add rfl neg hc

end Sys2Proof.Machine

namespace Sys2Proof.Machine

open Sys2Proof.Claims

/-! ### The steps of MPRG (R283) -/

theorem functionWord_of_finite {v : FVal} {neg : Bool} {x : ℚ} (h : Finite v neg x) : FunctionWord x (microWord v) := by
  obtain ⟨m, e, rfl, rfl⟩ := h
  exact functionWord_microWord neg m e

/-- A step that writes y and nothing else. -/
theorem writes_y {z m : Micro} {v : FVal} {neg : Bool} {x : ℚ} (hz : z = { m with y := microWord v }) (hv : Finite v neg x) :
    z = { m with y := z.y } ∧ FunctionWord x z.y := by
  subst hz
  exact ⟨rfl, functionWord_of_finite hv⟩

/-- Bits of a step. -/
def stepField (st hi lo : Nat) : Nat := st / 2 ^ lo % 2 ^ (hi + 1 - lo)

theorem sx_eq_signedOf (x : Nat) : sx 8 x = signedOf 8 x := by
  unfold sx signedOf
  split_ifs <;> omega

/-- A model's quotient of powers of two is the floor. -/
theorem floor_mul_two_pow (m : Nat) (e : Int) : ⌊(m : ℚ) * 2 ^ e⌋ = (m * 2 ^ e.toNat / 2 ^ (-e).toNat : Nat) := by
  have h : (m : ℚ) * 2 ^ e = ((m * 2 ^ e.toNat : Nat) : Int) / (2 ^ (-e).toNat : Nat) := by
    rw [← two_pow_toNat_div e]
    push_cast
    ring
  rw [h, Rat.floor_intCast_div_natCast]
  norm_cast

section
variable (t : FBank) (m : Micro) (st : Nat)

/-! #### RANGE -/

/-- The whole number that a quotient is split at. -/
def splitAt (floor : Bool) (s : Int) (d : Nat) : Int :=
  if floor then s / d else if (d : Int) < 2 * (s - s / d * d) ∨ (2 * (s - s / d * d) = d ∧ s / d % 2 = 1) then s / d + 1 else s / d

theorem splitAt_floor (s : Int) (d : Nat) : splitAt true s d = ⌊(s : ℚ) / d⌋ := by
  rw [Rat.floor_intCast_div_natCast]
  rfl

theorem splitAt_nearest (s : Int) {d : Nat} (hd : 0 < d) :
    |(s : ℚ) / d - splitAt false s d| ≤ 1 / 2 ∧ (|(s : ℚ) / d - splitAt false s d| = 1 / 2 → splitAt false s d % 2 = 0) := by
  have hdq : (0 : ℚ) < d := by exact_mod_cast hd
  obtain ⟨q, hq⟩ : ∃ q, q = s / d := ⟨_, rfl⟩
  obtain ⟨r, hr⟩ : ∃ r, r = s - q * d := ⟨_, rfl⟩
  have hr0 : 0 ≤ r := by rw [hr, hq]; exact Int.sub_nonneg.2 (Int.ediv_mul_le s (by omega))
  have hrd : r < d := by
    have := Int.lt_ediv_add_one_mul_self s (show (0 : Int) < d by omega)
    rw [hr, hq]
    linarith
  have hx : (s : ℚ) / d = q + r / d := by
    rw [hr]
    push_cast
    field_simp
    ring
  have hr0' : (0 : ℚ) ≤ r / d := by
    have : (0 : ℚ) ≤ r := by exact_mod_cast hr0
    positivity
  have hrd' : (r : ℚ) / d < 1 := by rw [div_lt_one hdq]; exact_mod_cast hrd
  have hgt : (d : Int) < 2 * r ↔ 1 / 2 < (r : ℚ) / d := by
    rw [div_lt_div_iff₀ two_pos hdq, one_mul, mul_comm]
    exact_mod_cast Iff.rfl
  have heq : 2 * r = d ↔ (r : ℚ) / d = 1 / 2 := by
    rw [div_eq_div_iff hdq.ne' two_ne_zero, one_mul, mul_comm]
    exact_mod_cast Iff.rfl
  have hk : splitAt false s d = if (d : Int) < 2 * r ∨ (2 * r = d ∧ q % 2 = 1) then q + 1 else q := by rw [hr, hq]; rfl
  rw [hk, hx]
  split_ifs with h
  · rw [hgt, heq] at h
    push_cast
    rw [abs_sub_comm, abs_of_nonneg (by linarith)]
    refine ⟨by rcases h with h | ⟨h, -⟩ <;> linarith, fun he => ?_⟩
    rcases h with h | ⟨-, h⟩
    · linarith
    · omega
  · rw [hgt, heq, not_or, not_lt, not_and] at h
    rw [add_sub_cancel_left, abs_of_nonneg hr0']
    exact ⟨h.1, fun he => by have := h.2 he; omega⟩

variable {neg : Bool} {mm : Nat} {e : Int}

/-- RANGE to a whole number, by the floor or to nearest. -/
theorem step_range (h : stepField st 31 28 = 1) (hm : stepField st 26 25 < 2) (hsrc : m.src (stepField st 24 23) = .fin neg mm e) :
    let ex := e + sx 8 (stepField st 22 15)
    let s := zshift (if neg then -(mm : Int) else mm) (max 0 ex)
    let d := 2 ^ (-ex).toNat
    let k := splitAt (stepField st 26 25 == 1) s d
    let r := s - k * d
    m.step t st = { m with k := max (-2 ^ 31) (min (2 ^ 31 - 1) k), r := microWord (.fin (decide (r < 0)) r.natAbs (min 0 ex)) } := by
  simp only [stepField] at *
  have hne : st / 2 ^ 25 % 2 ^ (26 + 1 - 25) ≠ 2 := by omega
  simp only [Micro.step, h, hsrc, if_neg hne, splitAt, beq_iff_eq]

theorem step_rangeExponent (h : stepField st 31 28 = 1) (hm : stepField st 26 25 = 2)
    (hsrc : m.src (stepField st 24 23) = .fin neg mm e) : m.step t st = if mm = 0 then { m with k := 0, r := 0 } else
      { m with k := max (-2 ^ 31) (min (2 ^ 31 - 1) (mm.log2 + e)), r := microWord (.fin false mm (-(mm.log2 : Int))) } := by
  simp only [stepField] at *
  simp only [Micro.step, h, hm, hsrc, if_true]

/-! #### Tables, products and scales -/

theorem step_table (h : stepField st 31 28 = 2) (hsrc : m.src (stepField st 23 22) = .fin neg mm e) :
    m.step t st = { m with y := microWord (t.entry (stepField st 26 24)
      (if neg then 0 else min 255 (mm * 2 ^ (e + 8).toNat / 2 ^ (-(e + 8)).toNat))) } := by
  simp only [stepField] at *
  simp only [Micro.step, h, hsrc]

theorem step_multiplyAdd (h : stepField st 31 28 = 3) : m.step t st = { m with y := microWord <|
    (((m.src 2).mul (m.src (stepField st 23 22))).1.add .nearest (t.entry (stepField st 26 24) (stepField st 21 14))).1 } := by
  simp only [stepField] at *
  simp only [Micro.step, h]

theorem step_scaleByK (h : stepField st 31 28 = 4) (hs : stepField st 26 26 = 0) :
    m.step t st = { m with y := microWord ((m.src 2).scale (m.k + sx 8 (stepField st 23 16))) } := by
  simp only [stepField] at *
  simp only [Micro.step, h, hs, zero_ne_one, if_false]

theorem step_scaleProduct (h : stepField st 31 28 = 4) (hs : stepField st 26 26 = 1) : m.step t st =
    { m with y := microWord (((m.src 2).mul (m.src (stepField st 25 24))).1.scale (sx 8 (stepField st 23 16))) } := by
  simp only [stepField] at *
  simp only [Micro.step, h, hs, if_true]

/-- A number held between two table entries. -/
def clampVal (lo hi y : FVal) : FVal :=
  let y := if !lo.isNan && orderLt y lo then lo else y
  if !hi.isNan && orderLt hi y then hi else y

theorem step_clamp (h : stepField st 31 28 = 5) (hy : (m.src 2).isNan = false) : m.step t st =
    { m with y := microWord (clampVal (t.entry (stepField st 26 24) (stepField st 23 16))
      (t.entry (stepField st 26 24) (stepField st 15 8)) (m.src 2)) } := by
  simp only [stepField] at *
  simp only [Micro.step, h, hy, clampVal, Bool.false_eq_true, if_false]

/-- The condition of a select. -/
def selects (cond : Nat) (v : FVal) : Bool :=
  match cond with
  | 0 => !v.isNan && v.isNeg && !v.isZero
  | 1 => v.isZero
  | 2 => v.isNan
  | 3 => v.isInf
  | _ => !v.isNan && !v.isNeg && !v.isZero

theorem step_select (h : stepField st 31 28 = 6) :
    m.step t st = if selects (stepField st 26 24) (m.src (stepField st 23 22)) then
      { m with y := microWord (if stepField st 21 21 = 1 then t.entry (stepField st 18 16) (stepField st 15 8)
        else m.src (stepField st 20 19)) } else m := by
  simp only [stepField] at *
  simp only [Micro.step, h]
  rfl

/-- The eight bits of the reciprocal estimate. -/
def seedBits (fr : Nat) : Nat := (roundInt .nearest 0 false ((511 - 2 * fr) * 256) (513 + 2 * fr) 0 fun k => k % 2 == 1).1

theorem step_seed (h : stepField st 31 28 = 7) (hsrc : m.src (stepField st 26 25) = .fin neg mm e) :
    m.step t st = if mm = 0 then { m with y := (if neg then 2 ^ 31 else 0) + posInf } else
      { m with y := microWord (.fin neg (256 + min 255 (seedBits ((mm - 2 ^ mm.log2) * 256 / 2 ^ mm.log2))) (-9 - (e + mm.log2))) } := by
  simp only [stepField] at *
  simp only [Micro.step, h, hsrc, seedBits]

end

end Sys2Proof.Machine

namespace Sys2Proof.Machine

open Sys2Proof.Claims

/-! ### What the steps of MPRG compute (R283) -/

theorem binade_unique {x : ℚ} {j k : Int} (h1 : 2 ^ j ≤ x) (h2 : x < 2 ^ (j + 1)) (h3 : 2 ^ k ≤ x) (h4 : x < 2 ^ (k + 1)) : j = k := by
  have h5 := (zpow_lt_zpow_iff_right₀ (one_lt_two (α := ℚ))).1 (h1.trans_lt h4)
  have h6 := (zpow_lt_zpow_iff_right₀ (one_lt_two (α := ℚ))).1 (h3.trans_lt h2)
  omega

theorem zpow_min_zero (e : Int) : (2 : ℚ) ^ min 0 e = 1 / (2 ^ (-e).toNat : Nat) := by
  rw [show min 0 e = -((-e).toNat : Int) by omega, zpow_neg, zpow_natCast, one_div]
  norm_cast

/-! #### Operations on numbers -/

theorem finite_mul {a b : FVal} {u n : Bool} {x z : ℚ} (ha : Finite a u x) (hb : Finite b n z) :
    ∃ w, Finite (a.mul b).1 w (x * z) := by
  obtain ⟨k, e, rfl, rfl⟩ := ha
  obtain ⟨l, g, rfl, rfl⟩ := hb
  rw [mul_fin]
  exact ⟨_, _, _, rfl, worth_mul ..⟩

theorem finite_add {a b : FVal} {u n : Bool} {x z : ℚ} (ha : Finite a u x) (hb : Finite b n z) :
    ∃ w, Finite (a.add .nearest b).1 w (x + z) := by
  obtain ⟨k, e, rfl, rfl⟩ := ha
  obtain ⟨l, g, rfl, rfl⟩ := hb
  rw [add_fin]
  exact ⟨_, addFin_finite ..⟩

theorem finite_scale {a : FVal} {u : Bool} {x : ℚ} (ha : Finite a u x) (k : Int) : Finite (a.scale k) u (x * 2 ^ k) := by
  obtain ⟨l, e, rfl, rfl⟩ := ha
  exact ⟨_, _, rfl, worth_scale ..⟩

theorem not_isNan_of_finite {a : FVal} {u : Bool} {x : ℚ} (ha : Finite a u x) : a.isNan = false := by
  obtain ⟨k, e, rfl, rfl⟩ := ha
  rfl

theorem orderLt_le {a b : FVal} {u n : Bool} {x z : ℚ} (ha : Finite a u x) (hb : Finite b n z) :
    (orderLt a b = true → x ≤ z) ∧ (orderLt a b = false → z ≤ x) := by
  obtain ⟨k, e, rfl, rfl⟩ := ha
  obtain ⟨l, g, rfl, rfl⟩ := hb
  constructor <;> intro h <;> simp only [orderLt, Bool.or_eq_true, Bool.and_eq_true, Bool.or_eq_false_iff] at h
  · rcases h with h | ⟨⟨⟨h, -⟩, -⟩, -⟩
    · exact ((lt_fin_iff ..).1 h).le
    · exact ((eq_fin_iff ..).1 h).le
  · exact not_lt.1 fun hlt => absurd ((lt_fin_iff ..).2 hlt) (by simp [h.1])

theorem clampVal_finite {lo hi a : FVal} {u n w : Bool} {l g x : ℚ} (hlo : Finite lo u l) (hhi : Finite hi n g) (ha : Finite a w x) :
    ∃ w', Finite (clampVal lo hi a) w' (min (max x l) g) := by
  have hmax : ∃ w', Finite (if orderLt a lo then lo else a) w' (max x l) := by
    by_cases h : orderLt a lo = true
    · rw [if_pos h, max_eq_right ((orderLt_le ha hlo).1 h)]
      exact ⟨u, hlo⟩
    · rw [if_neg h, max_eq_left ((orderLt_le ha hlo).2 (by simpa using h))]
      exact ⟨w, ha⟩
  obtain ⟨w', hb⟩ := hmax
  simp only [clampVal, not_isNan_of_finite hlo, not_isNan_of_finite hhi, Bool.not_false, Bool.true_and]
  by_cases h : orderLt hi (if orderLt a lo then lo else a) = true
  · rw [if_pos h, min_eq_right ((orderLt_le hhi hb).1 h)]
    exact ⟨n, hhi⟩
  · rw [if_neg h, min_eq_left ((orderLt_le hhi hb).2 (by simpa using h))]
    exact ⟨w', hb⟩

section
variable (t : FBank) (m : Micro) (st : Nat) {nv : Bool} {v : ℚ}

/-- RANGE by floor or to nearest. -/
theorem range_splits (h1 : stepField st 31 28 = 1) (hm : stepField st 26 25 < 2) (hsrc : Finite (m.src (stepField st 24 23)) nv v) :
    ∃ k : Int, let x := v * 2 ^ signedOf 8 (stepField st 22 15)
      (if stepField st 26 25 = 1 then k = ⌊x⌋ else |x - k| ≤ 1 / 2 ∧ (|x - k| = 1 / 2 → k % 2 = 0)) ∧
      m.step t st = { m with k := max (-2 ^ 31) (min (2 ^ 31 - 1) k), r := (m.step t st).r } ∧
      FunctionWord (x - k) (m.step t st).r := by
  obtain ⟨mm, e, hfin, rfl⟩ := hsrc
  have hstep := step_range t m st h1 hm hfin
  rw [sx_eq_signedOf] at hstep
  rw [hfin]
  obtain ⟨ex, hex⟩ : ∃ ex, ex = e + signedOf 8 (stepField st 22 15) := ⟨_, rfl⟩
  obtain ⟨s, hs⟩ : ∃ s, s = zshift (if nv then -(mm : Int) else mm) (max 0 ex) := ⟨_, rfl⟩
  obtain ⟨d, hd⟩ : ∃ d, d = 2 ^ (-ex).toNat := ⟨_, rfl⟩
  simp only [← hex, ← hs, ← hd] at hstep
  have hd0 : 0 < d := hd ▸ Nat.two_pow_pos _
  have hdq : (0 : ℚ) < d := by exact_mod_cast hd0
  have hx : worth (.fin nv mm e) * 2 ^ signedOf 8 (stepField st 22 15) = (s : ℚ) / d := by
    have hnum : ((if nv then -(mm : Int) else mm : Int) : ℚ) = signed nv * mm := by cases nv <;> simp
    rw [← worth_scale, FVal.scale, worth_fin, ← hex, hs, zshift_cast _ (le_max_left ..), hnum, ← two_pow_toNat_div ex,
      show max 0 ex = (ex.toNat : Int) by omega, zpow_natCast, hd, mul_div_assoc]
    push_cast
    rfl
  rw [hx]
  refine ⟨splitAt (stepField st 26 25 == 1) s d, ?_, ?_⟩
  · by_cases hmode : stepField st 26 25 = 1
    · rw [if_pos hmode, hmode]
      exact splitAt_floor s d
    · rw [if_neg hmode, beq_eq_false_iff_ne.2 hmode]
      exact splitAt_nearest s hd0
  · obtain ⟨k, hk⟩ : ∃ k, k = splitAt (stepField st 26 25 == 1) s d := ⟨_, rfl⟩
    rw [← hk] at hstep ⊢
    rw [hstep]
    refine ⟨rfl, functionWord_of_finite ⟨_, _, rfl, ?_⟩⟩
    rw [worth_int, zpow_min_zero, ← hd]
    push_cast
    field_simp

/-- RANGE by exponent. -/
theorem range_normalizes (h1 : stepField st 31 28 = 1) (hm : stepField st 26 25 = 2) (hsrc : Finite (m.src (stepField st 24 23)) nv v) :
    (v = 0 → m.step t st = { m with k := 0, r := 0 }) ∧ ∀ k : Int, 2 ^ k ≤ |v| → |v| < 2 ^ (k + 1) →
      m.step t st = { m with k := max (-2 ^ 31) (min (2 ^ 31 - 1) k), r := (m.step t st).r } ∧
      FunctionWord (|v| / 2 ^ k) (m.step t st).r := by
  obtain ⟨mm, e, hfin, rfl⟩ := hsrc
  have hstep := step_rangeExponent t m st h1 hm hfin
  rw [hfin, worth_eq_zero_iff, abs_worth_fin]
  refine ⟨fun h => by rw [hstep, if_pos h], fun k hk1 hk2 => ?_⟩
  have hm0 : mm ≠ 0 := by
    rintro rfl
    have : (0 : ℚ) < 2 ^ k := by positivity
    simp only [Nat.cast_zero, zero_mul] at hk1
    linarith
  obtain ⟨hb1, hb2⟩ := binade_of_log2 hm0 e
  have hk := binade_unique hb1 hb2 hk1 hk2
  rw [hstep, if_neg hm0, hk]
  refine ⟨rfl, functionWord_of_finite ⟨_, _, rfl, ?_⟩⟩
  rw [worth_fin, ← hk, signed_false, one_mul, mul_div_assoc, ← zpow_sub₀ two_ne_zero]
  congr 2
  ring

/-- The index of a table entry. -/
theorem tableIndex (neg : Bool) (mm : Nat) (e : Int) :
    (max 0 (min 255 ⌊worth (.fin neg mm e) * 256⌋)).toNat =
      if neg then 0 else min 255 (mm * 2 ^ (e + 8).toNat / 2 ^ (-(e + 8)).toNat) := by
  have h256 : worth (.fin neg mm e) * 256 = signed neg * (mm * 2 ^ (e + 8)) := by
    rw [worth_fin, zpow_add₀ two_ne_zero]
    norm_num
    ring
  rw [h256]
  cases neg with
  | true =>
    have h : ⌊signed true * ((mm : ℚ) * 2 ^ (e + 8))⌋ ≤ 0 := by
      have : (0 : ℚ) ≤ mm * 2 ^ (e + 8) := by positivity
      have h0 : signed true * ((mm : ℚ) * 2 ^ (e + 8)) ≤ 0 := by rw [signed_true]; linarith
      exact_mod_cast (Int.floor_le _).trans h0
    rw [if_pos rfl]
    omega
  | false =>
    rw [signed_false, one_mul, floor_mul_two_pow, if_neg Bool.false_ne_true]
    generalize mm * 2 ^ (e + 8).toNat / 2 ^ (-(e + 8)).toNat = j
    omega

/-- TABLE. -/
theorem table_reads (h : stepField st 31 28 = 2) (hsrc : Finite (m.src (stepField st 23 22)) nv v) {u : Bool} {x : ℚ}
    (hx : Finite (t.entry (stepField st 26 24) (max 0 (min 255 ⌊v * 256⌋)).toNat) u x) :
    m.step t st = { m with y := (m.step t st).y } ∧ FunctionWord x (m.step t st).y := by
  obtain ⟨mm, e, hfin, rfl⟩ := hsrc
  rw [hfin, tableIndex] at hx
  exact writes_y (step_table t m st h hfin) hx

/-! #### Select -/

theorem selects_fin {c : Nat} (hc : c ≤ 4) (neg : Bool) (mm : Nat) (e : Int) : selects c (.fin neg mm e) = true ↔
    (c = 0 ∧ worth (.fin neg mm e) < 0) ∨ (c = 1 ∧ worth (.fin neg mm e) = 0) ∨ (c = 4 ∧ 0 < worth (.fin neg mm e)) := by
  have hz : worth (.fin neg mm e) < 0 ↔ neg = true ∧ mm ≠ 0 := by
    by_cases hm : mm = 0
    · subst hm
      simp [(worth_eq_zero_iff neg 0 e).2 rfl]
    · simp [worth_neg_iff neg e hm, hm]
  have hp : 0 < worth (.fin neg mm e) ↔ neg = false ∧ mm ≠ 0 := by
    by_cases hm : mm = 0
    · subst hm
      simp [(worth_eq_zero_iff neg 0 e).2 rfl]
    · simp [worth_pos_iff neg e hm, hm]
  rw [hz, hp, worth_eq_zero_iff]
  interval_cases c <;> simp [selects, FVal.isNan, FVal.isNeg, FVal.isZero, FVal.isInf]

theorem select_computes (h : stepField st 31 28 = 6) (hsrc : Finite (m.src (stepField st 23 22)) nv v) (hc : stepField st 26 24 ≤ 4) :
    let holds : Prop := (stepField st 26 24 = 0 ∧ v < 0) ∨ (stepField st 26 24 = 1 ∧ v = 0) ∨ (stepField st 26 24 = 4 ∧ 0 < v)
    (¬holds → m.step t st = m) ∧
    (holds → ∀ x, (if stepField st 21 21 = 1 then ∃ u, Finite (t.entry (stepField st 18 16) (stepField st 15 8)) u x
        else ∃ u, Finite (m.src (stepField st 20 19)) u x) →
      m.step t st = { m with y := (m.step t st).y } ∧ FunctionWord x (m.step t st).y) := by
  obtain ⟨mm, e, hfin, rfl⟩ := hsrc
  have hstep := step_select t m st h
  rw [hfin] at hstep ⊢
  intro holds
  have hsel : selects (stepField st 26 24) (.fin nv mm e) = true ↔ holds := selects_fin hc nv mm e
  refine ⟨fun hn => by rw [hstep, if_neg (mt hsel.1 hn)], fun hh x hx => ?_⟩
  rw [if_pos (hsel.2 hh)] at hstep
  by_cases hf : stepField st 21 21 = 1
  · rw [if_pos hf] at hx hstep
    obtain ⟨u, hx⟩ := hx
    exact writes_y hstep hx
  · rw [if_neg hf] at hx hstep
    obtain ⟨u, hx⟩ := hx
    exact writes_y hstep hx

/-! #### The seed of a reciprocal -/

/-- The fraction's first eight bits, of a number with its leading bit. -/
theorem fraction_floor {mm : Nat} (hm : mm ≠ 0) (e : Int) :
    ⌊((mm : ℚ) * 2 ^ e / 2 ^ ((mm.log2 : Int) + e) - 1) * 256⌋ = ((mm - 2 ^ mm.log2) * 256 / 2 ^ mm.log2 : Nat) := by
  have hle : 2 ^ mm.log2 ≤ mm := Nat.log2_self_le hm
  have hx : ((mm : ℚ) * 2 ^ e / 2 ^ ((mm.log2 : Int) + e) - 1) * 256 =
      (((mm - 2 ^ mm.log2) * 256 : Nat) : Int) / (2 ^ mm.log2 : Nat) := by
    rw [zpow_add₀ two_ne_zero, zpow_natCast]
    push_cast [Nat.cast_sub hle]
    field_simp
  rw [hx, Rat.floor_intCast_div_natCast]
  norm_cast

theorem fraction_lt {mm : Nat} (hm : mm ≠ 0) : (mm - 2 ^ mm.log2) * 256 / 2 ^ mm.log2 < 256 := by
  have h1 : 2 ^ mm.log2 ≤ mm := Nat.log2_self_le hm
  have h2 : mm < 2 ^ mm.log2 * 2 := by rw [← pow_succ]; exact Nat.lt_log2_self
  rw [Nat.div_lt_iff_lt_mul (Nat.two_pow_pos _)]
  omega

theorem seedBits_rounded {fr : Nat} (hfr : fr < 256) :
    RoundedTo 64 (some 63) .nearest 0 ((1024 / (513 + 2 * (fr : Int)) - 1) * 256 : ℚ) (seedBits fr) := by
  have hd : 513 + 2 * fr ≠ 0 := by omega
  have hdq : (0 : ℚ) < 513 + 2 * (fr : ℚ) := by positivity
  have h := (roundInt_roundedTo (m := .nearest) (by decide) 0 false ((511 - 2 * fr) * 256) hd (odd := fun k => k % 2 == 1) (fun _ => rfl)
    (p := 64) (lo := some 63) (by norm_num) (e := 0) (q := 0) (by rintro l ⟨⟩; norm_num) ?_ (.inl (by norm_num))).1
  · simp only [signed_false, one_mul, zpow_zero, mul_one, sub_zero] at h
    rw [seedBits]
    convert h using 1
    push_cast [Nat.cast_sub (show 2 * fr ≤ 511 by omega)]
    field_simp
    ring
  · rw [zpow_zero, mul_one, mul_one, div_lt_iff₀ (by exact_mod_cast Nat.pos_of_ne_zero hd)]
    have : (511 - 2 * fr) * 256 < 2 ^ 64 * (513 + 2 * fr) := by omega
    exact_mod_cast this

theorem seed_computes (h : stepField st 31 28 = 7) (hsrc : Finite (m.src (stepField st 26 25)) nv v) :
    (v = 0 → m.step t st = { m with y := infWord nv }) ∧
    ∀ (e f g : Int), 2 ^ e ≤ |v| → |v| < 2 ^ (e + 1) → f = ⌊(|v| / 2 ^ e - 1) * 256⌋ →
      RoundedTo 64 (some 63) .nearest 0 ((1024 / (513 + 2 * f) - 1) * 256) g →
      m.step t st = { m with y := (m.step t st).y } ∧
      FunctionWord ((if v < 0 then -1 else 1) * (1 + (min 255 g : Int) / 256) * 2 ^ (-e - 1)) (m.step t st).y := by
  obtain ⟨mm, a, hfin, rfl⟩ := hsrc
  have hstep := step_seed t m st h hfin
  rw [hfin, worth_eq_zero_iff, abs_worth_fin]
  constructor
  · intro h0
    rw [hstep, if_pos h0]
    cases nv <;> rfl
  · intro e f g he1 he2 hf hg
    have hm0 : mm ≠ 0 := by
      rintro rfl
      have : (0 : ℚ) < 2 ^ e := by positivity
      simp only [Nat.cast_zero, zero_mul] at he1
      linarith
    obtain ⟨hb1, hb2⟩ := binade_of_log2 hm0 a
    have he : (mm.log2 : Int) + a = e := binade_unique hb1 hb2 he1 he2
    rw [← he, fraction_floor hm0] at hf
    rw [if_neg hm0] at hstep
    obtain ⟨fr, hfr⟩ : ∃ fr, fr = (mm - 2 ^ mm.log2) * 256 / 2 ^ mm.log2 := ⟨_, rfl⟩
    have hfr' : fr < 256 := hfr ▸ fraction_lt hm0
    rw [← hfr] at hf hstep
    subst hf
    have hgb : g = seedBits fr := by exact_mod_cast roundedTo_nearest_unique hg (seedBits_rounded hfr')
    have hmin : min 255 g = (min 255 (seedBits fr) : Nat) := by rw [hgb]; omega
    refine writes_y hstep ⟨_, _, rfl, ?_⟩
    rw [worth_fin, hmin, show -9 - (a + (mm.log2 : Int)) = -8 + (-e - 1) by omega, zpow_add₀ two_ne_zero]
    simp only [worth_neg_iff nv a hm0]
    rw [← signed]
    push_cast
    norm_num
    ring

variable {ny : Bool} {y : ℚ} (hy : Finite (m.src 2) ny y)
include hy

/-- Multiply and add. -/
theorem multiplyAdd_computes (h : stepField st 31 28 = 3) (hsrc : Finite (m.src (stepField st 23 22)) nv v) {u : Bool} {x : ℚ}
    (hx : Finite (t.entry (stepField st 26 24) (stepField st 21 14)) u x) :
    m.step t st = { m with y := (m.step t st).y } ∧ FunctionWord (y * v + x) (m.step t st).y := by
  obtain ⟨_, hp⟩ := finite_mul hy hsrc
  obtain ⟨_, hs⟩ := finite_add hp hx
  exact writes_y (step_multiplyAdd t m st h) hs

theorem scale_by_k (h : stepField st 31 28 = 4) (h0 : stepField st 26 26 = 0) :
    m.step t st = { m with y := (m.step t st).y } ∧ FunctionWord (y * 2 ^ (m.k + signedOf 8 (stepField st 23 16))) (m.step t st).y :=
  writes_y (step_scaleByK t m st h h0) (by rw [sx_eq_signedOf]; exact finite_scale hy _)

theorem scale_product (h : stepField st 31 28 = 4) (h0 : stepField st 26 26 = 1) (hsrc : Finite (m.src (stepField st 25 24)) nv v) :
    m.step t st = { m with y := (m.step t st).y } ∧ FunctionWord (y * v * 2 ^ signedOf 8 (stepField st 23 16)) (m.step t st).y := by
  obtain ⟨_, hp⟩ := finite_mul hy hsrc
  exact writes_y (step_scaleProduct t m st h h0) (by rw [sx_eq_signedOf]; exact finite_scale hp _)

theorem clamp_computes (h : stepField st 31 28 = 5) {u n : Bool} {lo hi : ℚ}
    (hlo : Finite (t.entry (stepField st 26 24) (stepField st 23 16)) u lo)
    (hhi : Finite (t.entry (stepField st 26 24) (stepField st 15 8)) n hi) :
    m.step t st = { m with y := (m.step t st).y } ∧ FunctionWord (min (max y lo) hi) (m.step t st).y := by
  obtain ⟨_, hc⟩ := clampVal_finite hlo hhi hy
  exact writes_y (step_clamp t m st h (not_isNan_of_finite hy)) hc

end

end Sys2Proof.Machine

/-! PROOFS. The element-wise functions of F (spec/03_numbers.md R103 to R105, spec/09_matrix_function_instructions.md R276). -/

namespace Sys2Proof.Machine

open Sys2Proof.Claims

/-! ### From words to values -/

/-- F reads a word's value after taking a subnormal as zero, or while doing so. -/
theorem fVal_flushWord (w : Nat) : fVal (flushWord w) = fSource w := by
  by_cases h : w / 2 ^ 23 % 256 = 0
  · have hf : flushWord w = w / 2 ^ 31 * 2 ^ 31 := if_pos h
    have h0 : w / 2 ^ 31 * 2 ^ 31 / 2 ^ 23 % 256 = 0 := by omega
    have hneg : decide (2 ^ 31 ≤ w / 2 ^ 31 * 2 ^ 31) = decide (2 ^ 31 ≤ w) := decide_eq_decide.2 (by omega)
    rw [hf, fVal, fSource, decode_b32, decode_b32]
    simp only [h, h0, hneg, if_true, if_neg (show (0 : Nat) ≠ 255 by decide)]
  · rw [flushWord, if_neg h]
    rfl

/-- The word and flags of a function's result, given the free value of a bounded one. -/
def Sfu.out (free : BitVec 32) : Sfu → Nat × Flags
  | .fixed y fl => (y, fl)
  | .bound n ulps fl z => (n.deliver ulps fl z free, 0)

theorem sfu_run_nan {prog : Nat} {fn : FVal → Sfu} {w : Nat} {s : Bool} (h : fSource w = .nan s) :
    Sfu.run prog fn w = (0x7FC00000, if s then flNv else 0) := by
  simp only [Sfu.run, fVal_flushWord, h]
  rfl

theorem sfu_run_num {prog : Nat} {fn : FVal → Sfu} {w : Nat} (h : (fSource w).isNan = false) :
    Sfu.run prog fn w = (fn (fSource w)).out (Config.freeSfu prog (BitVec.ofNat 32 (flushWord w))) := by
  rw [Sfu.run, fVal_flushWord]
  generalize fSource w = v at h
  cases v with
  | nan s => cases h
  | _ =>
    dsimp only
    generalize fn _ = r
    cases r <;> rfl

/-- A function program is settled by its results for infinities and for the numbers of binary32 words. -/
theorem sfu_run_spec {fn : FVal → Sfu} {ok : FVal → Nat → Flags → Prop} (prog w : Nat)
    (hinf : ∀ free neg, let o := (fn (.inf neg)).out free; ok (.inf neg) o.1 o.2)
    (hfin : ∀ free neg m e, m < 2 ^ 24 → -149 ≤ e → e ≤ 104 → let o := (fn (.fin neg m e)).out free; ok (.fin neg m e) o.1 o.2) :
    let x := fSource w
    let o := Sfu.run prog fn w
    (x.isNan = true → o.1 = 0x7FC00000 ∧ o.2 = if x.isSnan then flNv else 0) ∧ (x.isNan = false → ok x o.1 o.2) := by
  intro x o
  obtain ⟨v, hv⟩ : ∃ v, fSource w = v := ⟨_, rfl⟩
  have hx : x = v := hv
  rw [hx]
  cases v with
  | nan s =>
    have ho : o = _ := sfu_run_nan hv
    rw [ho]
    exact ⟨fun _ => ⟨rfl, rfl⟩, fun h => by cases h⟩
  | inf neg =>
    have ho : o = _ := sfu_run_num (by rw [hv]; rfl)
    rw [ho, hv]
    exact ⟨fun h => (by cases h), fun _ => hinf _ neg⟩
  | fin neg m e =>
    have ho : o = _ := sfu_run_num (by rw [hv]; rfl)
    obtain ⟨h1, h2, h3⟩ := decode_b32_bounds hv
    rw [ho, hv]
    exact ⟨fun h => (by cases h), fun _ => hfin _ neg m e h3 h1 h2⟩

theorem functionResult {s : State} {c : Ctx} (hc : s.ctx? = some c) {i : Instr} {f : FR} {prog : Nat} {fn : FVal → Sfu}
    {ok : FVal → Nat → Flags → Prop} (hi : exec i s = runSlot s (fElem f prog fn))
    (hinf : ∀ free neg, let o := (fn (.inf neg)).out free; ok (.inf neg) o.1 o.2)
    (hfin : ∀ free neg m e, m < 2 ^ 24 → -149 ≤ e → e ≤ 104 → let o := (fn (.fin neg m e)).out free; ok (.fin neg m e) o.1 o.2) :
    FunctionResult s c i f ok :=
  ⟨fun l => (Sfu.run prog fn (element c 32 f.a.toNat l)).1, fun l => (Sfu.run prog fn (element c 32 f.a.toNat l)).2,
    vectorResult_of_mapLanes hc hi rfl (.inl rfl) fun _ _ => rfl, fun _ _ => sfu_run_spec prog _ hinf hfin⟩

/-! ### Magnitudes -/

/-- A magnitude below a number. -/
theorem ltPow_iff_below (neg : Bool) (m : Nat) (e : Int) (k : Nat) (g : Int) : ltPow m e k g = true ↔
    FVal.lt (.fin neg m e) (real false k g) = true ∧ FVal.lt (FVal.negate (.fin neg m e)) (real false k g) = true := by
  rw [lt_real_iff, FVal.negate, lt_real_iff, ← FVal.negate, worth_negate, ltPow_iff, ← abs_worth_fin neg, signed_false, one_mul, abs_lt]
  exact ⟨fun ⟨h1, h2⟩ => ⟨h2, by linarith⟩, fun ⟨h1, h2⟩ => ⟨by linarith, h1⟩⟩

/-- A magnitude above a number. -/
theorem ltPow_iff_beyond (neg : Bool) (m : Nat) (e : Int) (k : Nat) (g : Int) : ltPow k g m e = true ↔
    FVal.lt (real false k g) (.fin neg m e) = true ∨ FVal.lt (.fin neg m e) (real true k g) = true := by
  rw [lt_real_iff, real, lt_fin_iff, ltPow_iff, worth_fin false, ← abs_worth_fin neg m e, lt_abs, signed_false, one_mul, signed_true]
  exact or_congr_right ⟨fun h => by linarith, fun h => by linarith⟩

theorem magnitude_ge {neg : Bool} {m : Nat} {e : Int} {k : Nat} {g : Int}
    (h : FVal.lt (.fin neg m e) (real false k g) = false ∨ FVal.lt (FVal.negate (.fin neg m e)) (real false k g) = false) :
    ltPow m e k g = false := by
  rw [← Bool.not_eq_true, ltPow_iff_below neg]
  rintro ⟨h1, h2⟩
  rcases h with h | h
  · rw [h1] at h; cases h
  · rw [h2] at h; cases h

/-! ### Fixed results -/

theorem exp_result (free : BitVec 32) (neg : Bool) (m : Nat) (e : Int) : let o := (sfuExp (.fin neg m e)).out free
    o.2 = 0 ∧ (FVal.lt (.fin neg m e) (real true 88 0) = true → o.1 = 0) ∧
      (FVal.lt (.fin neg m e) (real false 355 (-2)) = false → o.1 = infWord false) := by
  have hlo : ltInt (.fin neg m e) (-88) = FVal.lt (.fin neg m e) (real true 88 0) := rfl
  have hhi : FVal.lt (.fin neg m e) (.fin false 355 (-2)) = FVal.lt (.fin neg m e) (real false 355 (-2)) := rfl
  simp only [sfuExp, hlo, hhi]
  have hx : FVal.lt (.fin neg m e) (real true 88 0) = true → FVal.lt (.fin neg m e) (real false 355 (-2)) = true := by
    rw [lt_real_iff, lt_real_iff]
    intro h
    norm_num at h ⊢
    linarith
  cases h1 : FVal.lt (.fin neg m e) (real true 88 0) with
  | true => simp [Sfu.out, hx h1]
  | false => cases h2 : FVal.lt (.fin neg m e) (real false 355 (-2)) <;> simp [Sfu.out, posInf, infWord]

theorem trig_result (q : Int) (free : BitVec 32) (neg : Bool) (m : Nat) (e : Int) : let x : FVal := .fin neg m e
    let o := (sfuTrig q x).out free
    let out := x.isInf || (real false 1 16).lt x || x.lt (real true 1 16)
    (out = true → o.1 = 0x7FC00000 ∧ o.2 = flNv) ∧ (out = false → o.2 = 0) ∧ (q = 0 → x.isZero = true → o.1 = zeroWord neg) := by
  intro x o out
  have hout : ltPow 1 16 m e = out := by
    rw [Bool.eq_iff_iff, ltPow_iff_beyond neg, ← Bool.or_eq_true]
    rfl
  have ho : o = (if out then Sfu.invalid else if m = 0 ∧ q = 0 then .fixed (if neg then 2 ^ 31 else 0) 0
    else .bound { mid := fxSin (fxOf neg m e) q, e := 0 } 1 (some (-21)) false : Sfu).out free := by rw [← hout]; rfl
  have hz : x.isZero = true → out = false := by
    intro h
    rw [← hout, show m = 0 from by simpa [x, FVal.isZero] using h, ← Bool.not_eq_true, ltPow_iff]
    norm_num
  refine ⟨fun h => ?_, fun h => ?_, fun hq hm => ?_⟩
  · rw [ho, if_pos h]
    exact ⟨rfl, rfl⟩
  · rw [ho, h]
    by_cases hm : m = 0 ∧ q = 0 <;> simp [hm, Sfu.out]
  · have hm0 : m = 0 := by simpa [x, FVal.isZero] using hm
    rw [ho, hz hm, if_neg Bool.false_ne_true, if_pos ⟨hm0, hq⟩]
    rfl

theorem tanh_result (free : BitVec 32) (neg : Bool) (m : Nat) (e : Int) : let x : FVal := .fin neg m e
    let o := (sfuTanh x).out free
    o.2 = 0 ∧ (x.isZero = true → o.1 = zeroWord neg) ∧
      (x.lt (real false 9 0) = false ∨ x.negate.lt (real false 9 0) = false → o.1 = zeroWord neg + 0x3F800000) := by
  intro x o
  refine ⟨?_, fun h => ?_, fun h => ?_⟩
  · simp only [o, x, sfuTanh]
    split_ifs <;> rfl
  · have hm0 : m = 0 := by simpa [x, FVal.isZero] using h
    simp only [o, x, sfuTanh, hm0]
    rfl
  · have hlt := magnitude_ge h
    have hm0 : m ≠ 0 := by
      rintro rfl
      rw [← Bool.not_eq_true, ltPow_iff] at hlt
      norm_num at hlt
    simp only [o, x, sfuTanh, if_neg hm0, hlt]
    rfl

theorem sigm_result (free : BitVec 32) (neg : Bool) (m : Nat) (e : Int) : let x : FVal := .fin neg m e
    let o := (sfuSigm x).out free
    o.2 = 0 ∧ (x.lt (real true 88 0) = true → o.1 = 0) ∧ (x.lt (real false 17 0) = false → o.1 = 0x3F800000) := by
  intro x o
  have ho : o = (if x.lt (real true 88 0) then .fixed 0 0 else if !x.lt (real false 17 0) then .fixed 0x3F800000 0
    else if neg then
      let t := fxExp (fxOf neg m e)
      .bound { mid := fxDiv t.mid (fxOne + t.fx), e := t.e } 2 none false
    else .bound { mid := fxDiv fxOne (fxOne + (fxExp (-(fxOf neg m e))).fx), e := 0 } 2 none false : Sfu).out free := rfl
  have hx : x.lt (real true 88 0) = true → x.lt (real false 17 0) = true := by
    rw [lt_real_iff, lt_real_iff]
    intro h
    norm_num at h ⊢
    linarith
  refine ⟨?_, fun h => by rw [ho, if_pos h]; rfl, fun h => ?_⟩
  · rw [ho]
    split_ifs <;> rfl
  · rw [ho, if_neg (fun h' => Bool.noConfusion ((hx h').symm.trans h)), h]
    rfl

theorem gelu_result (free : BitVec 32) (neg : Bool) (m : Nat) (e : Int) : let x : FVal := .fin neg m e
    let o := (sfuGelu x).out free
    o.2 = 0 ∧ (x.negate.lt (real false 10 0) = false → o.1 = 0x80000000) ∧
      (x.lt (real false 10 0) = false → o.1 = (Fmt.b32.ofVal .nearest 0 true x).1) := by
  intro x o
  have ho : o = (if !FVal.lt (.fin false m e) (real false 10 0) then
      .fixed (if neg then 2 ^ 31 else (Fmt.b32.ofVal .nearest 0 true x).1) 0
    else .bound { mid := fxMul (fxOf neg m e) (fxPhi (fxOf neg m e)), e := 0, below := 2 ^ 100, above := 2 ^ 100 } 4 (some (-24)) neg :
      Sfu).out free := rfl
  have hneg (n : Bool) (h : FVal.lt (.fin n m e) (real false 10 0) = false) : n = false := by
    cases n with
    | false => rfl
    | true =>
      rw [← Bool.not_eq_true, lt_real_iff, worth_fin] at h
      have : (0 : ℚ) ≤ m * 2 ^ e := by positivity
      norm_num at h
      linarith
  refine ⟨?_, fun h => ?_, fun h => ?_⟩
  · rw [ho]
    split_ifs <;> rfl
  · have hn : neg = true := by simpa using hneg (!neg) h
    subst hn
    rw [ho, show FVal.lt (.fin false m e) (real false 10 0) = false from h]
    rfl
  · obtain rfl : neg = false := hneg neg h
    rw [ho, show FVal.lt (.fin false m e) (real false 10 0) = false from h]
    rfl

end Sys2Proof.Machine

/-! PROOFS. The functions with exact results or an ulp of R104, and MPRG. -/

namespace Sys2Proof.Machine

open Sys2Proof.Claims

/-! ### EXP2 -/

theorem fxOne_pos : 0 < fxOne := by unfold fxOne; positivity

theorem fxOne_cast {K : Type} [DivisionRing K] : (fxOne : K) = 2 ^ (640 : Int) := by
  rw [fxOne, Int.cast_pow, Int.cast_ofNat, ← zpow_natCast]
  rfl

/-- A binary32 number is a whole number of units of 2^-640. -/
theorem fxOf_cast (neg : Bool) (m : Nat) {e : Int} (he : -640 ≤ e) : (fxOf neg m e : ℚ) = worth (.fin neg m e) * fxOne := by
  have h0 : (-(e + 640)).toNat = 0 := by omega
  have hx : fxOf neg m e = if neg then -((m * 2 ^ (e + 640).toNat : Nat) : Int) else (m * 2 ^ (e + 640).toNat : Nat) := by
    rw [fxOf, h0, pow_zero, Nat.div_one]
  rw [hx, worth_fin, fxOne_cast, mul_assoc, ← zpow_add₀ two_ne_zero, ← two_pow_toNat (by omega)]
  cases neg <;> simp

theorem fxOf_of_worth {neg : Bool} {m : Nat} {e n : Int} (he : -640 ≤ e) (h : worth (.fin neg m e) = n) : fxOf neg m e = n * fxOne := by
  have := fxOf_cast neg m he
  rw [h] at this
  exact_mod_cast this

theorem eq_int_iff (neg : Bool) (m : Nat) (e n : Int) :
    FVal.eq (.fin neg m e) (real (decide (n < 0)) n.natAbs 0) = true ↔ worth (.fin neg m e) = n := by
  rw [real, eq_fin_iff, worth_int, zpow_zero, mul_one]

theorem exp2_result (free : BitVec 32) (neg : Bool) (m : Nat) {e : Int} (he : -149 ≤ e) : let x : FVal := .fin neg m e
    let o := (sfuExp2 x).out free
    o.2 = 0 ∧ (x.lt (real true 127 0) = true → o.1 = 0) ∧ (x.lt (real false 128 0) = false → o.1 = infWord false) ∧
      ∀ n : Int, -126 ≤ n → n ≤ 127 → x.eq (real (decide (n < 0)) n.natAbs 0) = true → o.1 = (n + 127).toNat * 2 ^ 23 := by
  intro x o
  have ho : o = (if x.lt (real true 127 0) then .fixed 0 0 else if !x.lt (real false 128 0) then .fixed posInf 0
    else if fxOf neg m e % fxOne = 0 ∧ -126 ≤ fxOf neg m e / fxOne then .fixed ((fxOf neg m e / fxOne + 127).toNat * 2 ^ 23) 0
    else .bound { mid := (fxExp (fxMul (fxOf neg m e - fxOf neg m e / fxOne * fxOne) fxLn2)).fx, e := fxOf neg m e / fxOne } 1 none false :
      Sfu).out free := rfl
  have hlo : x.lt (real true 127 0) = true ↔ worth x < -127 := by
    rw [lt_real_iff, show signed true * (127 : Nat) * 2 ^ (0 : Int) = -127 by norm_num]
  have hhi : x.lt (real false 128 0) = true ↔ worth x < 128 := by
    rw [lt_real_iff, show signed false * (128 : Nat) * 2 ^ (0 : Int) = 128 by norm_num]
  refine ⟨?_, fun h => by rw [ho, if_pos h]; rfl, fun h => ?_, fun n hn1 hn2 h => ?_⟩
  · rw [ho]
    split_ifs <;> rfl
  · have h128 : ¬worth x < 128 := by rw [← hhi, h]; exact Bool.false_ne_true
    rw [ho, if_neg (by rw [hlo]; linarith), h]
    rfl
  · rw [eq_int_iff] at h
    have hx1 : ¬worth x < -127 := by
      rw [h]
      have : (-126 : ℚ) ≤ n := by exact_mod_cast hn1
      linarith
    have hx2 : worth x < 128 := by
      rw [h]
      have : (n : ℚ) ≤ 127 := by exact_mod_cast hn2
      linarith
    have hdiv : n * fxOne / fxOne = n := Int.mul_ediv_cancel n fxOne_pos.ne'
    rw [ho, if_neg (by rwa [hlo]), hhi.2 hx2, fxOf_of_worth (by omega) h, hdiv]
    simp only [Bool.not_true, Bool.false_eq_true, if_false, Int.mul_emod_left, true_and, if_pos hn1]
    rfl

/-! ### LOG2 -/

/-- The word of a whole number of up to 24 bits is exact. -/
theorem intWord_finite {k : Int} (hk : k.natAbs ≤ 2 ^ 24) : ∃ neg, Finite (Fmt.b32.decode false (intWord k)) neg k := by
  rcases eq_or_ne k 0 with rfl | h0
  · have h := ofVal_zero (k := .b32) rfl .nearest 0 true false 0
    have hw : intWord 0 = Fmt.b32.sign false := congrArg Prod.fst h.1
    rw [hw]
    exact ⟨false, by exact_mod_cast h.2⟩
  · have hx : worth (.fin (decide (k < 0)) k.natAbs 0) = k := by rw [worth_int, zpow_zero, mul_one]
    have hgrid (lo : Option Int) (hlo : ∀ l, lo = some l → l = -126) : OnGrid 24 lo (k : ℚ) :=
      ⟨k, 0, hk, fun l hl => by have := hlo l hl; omega, by simp⟩
    obtain ⟨y, z, hy, hz, h⟩ := wideResult_ofVal (k := .b32) rfl (m := .nearest) (by decide) 0 true (decide (k < 0))
      (Int.natAbs_ne_zero.2 h0) 0
    rw [hx] at hy hz h
    obtain rfl : y = k := hy.2.1 (hgrid _ (by rintro l ⟨⟩; rfl))
    obtain rfl : z = k := hz.2.1 (hgrid _ (by simp))
    have habs : |(k : ℚ)| = k.natAbs := by rw [Nat.cast_natAbs, Int.cast_abs]
    have h1 : (1 : ℚ) ≤ |(k : ℚ)| := by rw [habs]; exact_mod_cast Int.natAbs_pos.2 h0
    have h2 : |(k : ℚ)| ≤ 2 ^ 24 := by rw [habs]; exact_mod_cast hk
    rw [if_neg (not_lt.2 (h2.trans (by norm_num [wideShape]))), if_neg fun h => absurd h.2 (not_lt.2 (le_trans (by norm_num [wideShape]) h1))] at h
    exact ⟨_, h.1⟩

/-- A power of two among the numbers has one bit. -/
theorem worth_power {neg : Bool} {m : Nat} {e k : Int} (h : worth (.fin neg m e) = 2 ^ k) :
    neg = false ∧ m = 2 ^ m.log2 ∧ (m.log2 : Int) + e = k := by
  have hpos : (0 : ℚ) < 2 ^ k := by positivity
  have hm : m ≠ 0 := by
    rintro rfl
    rw [(worth_eq_zero_iff neg 0 e).2 rfl] at h
    linarith
  have hn : neg = false := (worth_pos_iff neg e hm).1 (h ▸ hpos)
  have habs : (m : ℚ) * 2 ^ e = 2 ^ k := by rw [← abs_worth_fin neg, h, abs_of_pos hpos]
  obtain ⟨hb1, hb2⟩ := binade_of_log2 hm e
  have hk := binade_unique hb1 hb2 habs.ge (habs ▸ zpow_lt_zpow_right₀ one_lt_two (by omega))
  refine ⟨hn, ?_, hk⟩
  rw [← hk, zpow_add₀ two_ne_zero, zpow_natCast] at habs
  exact_mod_cast mul_right_cancel₀ (by positivity) habs

theorem log2_result (free : BitVec 32) (neg : Bool) {m : Nat} {e : Int} (hm : m < 2 ^ 24) (h1 : -149 ≤ e) (h2 : e ≤ 104) :
    let x : FVal := .fin neg m e
    let o := (sfuLog2 x).out free
    let minus := x.isNeg && !x.isZero
    (x.isZero = true → o.1 = infWord true ∧ o.2 = flDz) ∧ (minus = true → o.1 = 0x7FC00000 ∧ o.2 = flNv) ∧
      (x.isZero = false → minus = false → o.2 = 0) ∧
      ∀ k : Int, x.eq (real false 1 k) = true → (Fmt.b32.decode false o.1).eq (real (decide (k < 0)) k.natAbs 0) = true := by
  intro x o minus
  have ho : o = (if m = 0 then .fixed negInf flDz else if neg then Sfu.invalid else if m = 2 ^ m.log2 then .fixed (intWord (m.log2 + e)) 0
    else .bound { mid := fxLog2 m e, e := 0 } 1 none false : Sfu).out free := rfl
  have hzero : x.isZero = (m == 0) := rfl
  have hminus : minus = (neg && !(m == 0)) := rfl
  refine ⟨fun h => ?_, fun h => ?_, fun h h' => ?_, fun k hk => ?_⟩
  · rw [ho, if_pos (by simpa [hzero] using h)]
    exact ⟨rfl, rfl⟩
  · rw [hminus, Bool.and_eq_true, Bool.not_eq_true', beq_eq_false_iff_ne] at h
    rw [ho, if_neg h.2, if_pos h.1]
    exact ⟨rfl, rfl⟩
  · rw [hminus, ← hzero, h, Bool.not_false, Bool.and_true] at h'
    rw [ho, if_neg (by simpa [hzero] using h), h', if_neg Bool.false_ne_true]
    split_ifs <;> rfl
  · rw [real, eq_fin_iff, worth_fin false, signed_false, Nat.cast_one, one_mul, one_mul] at hk
    obtain ⟨hn, hp, hlog⟩ := worth_power hk
    have hm0 : m ≠ 0 := by rw [hp]; positivity
    have hlt : m.log2 < 24 := (Nat.log2_lt hm0).2 hm
    obtain ⟨u, v, a, hw, hv⟩ := intWord_finite (k := k) (by omega)
    rw [ho, if_neg hm0, hn, if_neg Bool.false_ne_true, if_pos hp, hlog]
    rw [Sfu.out, hw, eq_int_iff, ← hw]
    exact hv ▸ hw ▸ rfl

/-! ### RCP, RSQRT and SQRT -/

/-- A result below the normal range is bounded by nothing. -/
theorem withinUlps_of_lt {n w : Nat} {x : ℝ} (h : |x| < 2 ^ (-125 : Int)) : WithinUlps n w x := by
  intro k h1 _ h3 _
  have : (2 : ℝ) ^ (-125 : Int) ≤ 2 ^ k := zpow_le_zpow_right₀ one_le_two h1
  linarith

theorem rcp_result (free : BitVec 32) (neg : Bool) {m : Nat} {e : Int} (hm : m < 2 ^ 24) (h1 : -149 ≤ e) (h2 : e ≤ 104) :
    let x : FVal := .fin neg m e
    let o := (sfuRcp x).out free
    (x.isZero = true → o.1 = infWord neg ∧ o.2 = flDz) ∧ (x.isZero = false → o.2 = 0) ∧
      (x.lt (real false 1 126) = false ∨ x.negate.lt (real false 1 126) = false → o.1 = zeroWord neg) ∧
      (x.isZero = false → WithinUlps 1 o.1 (1 / (worth x : ℝ))) := by
  intro x o
  have ho : o = (if m = 0 then .fixed ((if neg then 2 ^ 31 else 0) + posInf) flDz
    else if !ltPow m e 1 126 then .fixed (zeroWord neg) 0 else .bound (rcpNear neg m e) 1 none neg : Sfu).out free := rfl
  have hzero : x.isZero = (m == 0) := rfl
  refine ⟨fun h => ?_, fun h => ?_, fun h => ?_, fun h => ?_⟩
  · rw [ho, if_pos (by simpa [hzero] using h)]
    cases neg <;> exact ⟨rfl, rfl⟩
  · rw [ho, if_neg (by simpa [hzero] using h)]
    split_ifs <;> rfl
  · have hlt := magnitude_ge h
    have hm0 : m ≠ 0 := by
      rintro rfl
      rw [← Bool.not_eq_true, ltPow_iff] at hlt
      norm_num at hlt
    rw [ho, if_neg hm0, hlt]
    rfl
  · have hm0 : m ≠ 0 := by simpa [hzero] using h
    have hx : (1 : ℝ) / (worth x : ℝ) = signedR neg * (1 / (m * 2 ^ e)) := by
      rw [worth_cast]
      cases neg <;> simp [signedR]
    rw [ho, if_neg hm0, hx]
    cases hlt : ltPow m e 1 126 with
    | true => exact (rcpNear_isNear neg hm0 hm h1 h2).deliver le_rfl (by norm_num) neg free
    | false =>
      rw [← Bool.not_eq_true, ltPow_iff, Nat.cast_one, one_mul, not_lt] at hlt
      have hlt' : (2 : ℝ) ^ (126 : Int) ≤ m * 2 ^ e := by
        have := (Rat.cast_le (K := ℝ)).2 hlt
        rwa [Rat.cast_mul, Rat.cast_zpow, Rat.cast_zpow, Rat.cast_natCast, Rat.cast_ofNat] at this
      have hp : (0 : ℝ) < 2 ^ (126 : Int) := by positivity
      refine withinUlps_of_lt ?_
      rw [abs_mul, abs_signedR, one_mul, abs_of_pos (one_div_pos.2 (hp.trans_le hlt'))]
      calc (1 : ℝ) / (m * 2 ^ e) ≤ 1 / 2 ^ (126 : Int) := one_div_le_one_div_of_le hp hlt'
        _ < 2 ^ (-125 : Int) := by norm_num

theorem worth_real {m : Nat} {e : Int} : ((worth (.fin false m e) : ℚ) : ℝ) = m * 2 ^ e := by
  rw [worth_cast]
  simp

theorem rsqrt_result (free : BitVec 32) (neg : Bool) {m : Nat} {e : Int} (hm : m < 2 ^ 24) (h1 : -149 ≤ e) (h2 : e ≤ 104) :
    let x : FVal := .fin neg m e
    let o := (sfuRsqrt x).out free
    let minus := x.isNeg && !x.isZero
    (x.isZero = true → o.1 = infWord neg ∧ o.2 = flDz) ∧ (minus = true → o.1 = 0x7FC00000 ∧ o.2 = flNv) ∧
      (x.isZero = false → minus = false → o.2 = 0 ∧ WithinUlps 1 o.1 (1 / Real.sqrt (worth x))) := by
  intro x o minus
  have ho : o = (if m = 0 then .fixed ((if neg then 2 ^ 31 else 0) + posInf) flDz else if neg then Sfu.invalid
    else .bound (rsqrtNear m e) 1 none false : Sfu).out free := rfl
  have hzero : x.isZero = (m == 0) := rfl
  have hminus : minus = (neg && !(m == 0)) := rfl
  refine ⟨fun h => ?_, fun h => ?_, fun h h' => ?_⟩
  · rw [ho, if_pos (by simpa [hzero] using h)]
    cases neg <;> exact ⟨rfl, rfl⟩
  · rw [hminus, Bool.and_eq_true, Bool.not_eq_true', beq_eq_false_iff_ne] at h
    rw [ho, if_neg h.2, if_pos h.1]
    exact ⟨rfl, rfl⟩
  · have hm0 : m ≠ 0 := by simpa [hzero] using h
    obtain rfl : neg = false := by simpa [hminus, hm0] using h'
    rw [ho, if_neg hm0, worth_real]
    refine ⟨rfl, ?_⟩
    have hd := (rsqrtNear_isNear hm0 hm h1 h2).deliver le_rfl (ulps := 1) (by norm_num) false free
    rwa [signedR, if_neg Bool.false_ne_true, one_mul] at hd

theorem sqrt_result (free : BitVec 32) (neg : Bool) {m : Nat} {e : Int} (hm : m < 2 ^ 24) (h1 : -149 ≤ e) (h2 : e ≤ 104) :
    let x : FVal := .fin neg m e
    let o := (sfuSqrt x).out free
    let minus := x.isNeg && !x.isZero
    (x.isZero = true → o.1 = zeroWord neg) ∧ (minus = true → o.1 = 0x7FC00000 ∧ o.2 = flNv) ∧
      (minus = false → o.2 = 0 ∧ WithinUlps 1 o.1 (Real.sqrt (worth x))) := by
  intro x o minus
  have ho : o = (if m = 0 then .fixed (zeroWord neg) 0 else if neg then Sfu.invalid
    else .bound (nearSqrt m e) 1 none false : Sfu).out free := rfl
  have hzero : x.isZero = (m == 0) := rfl
  have hminus : minus = (neg && !(m == 0)) := rfl
  refine ⟨fun h => ?_, fun h => ?_, fun h => ?_⟩
  · rw [ho, if_pos (by simpa [hzero] using h)]
    rfl
  · rw [hminus, Bool.and_eq_true, Bool.not_eq_true', beq_eq_false_iff_ne] at h
    rw [ho, if_neg h.2, if_pos h.1]
    exact ⟨rfl, rfl⟩
  · by_cases hm0 : m = 0
    · rw [ho, if_pos hm0]
      refine ⟨rfl, withinUlps_of_lt ?_⟩
      rw [(worth_eq_zero_iff neg m e).2 hm0, Rat.cast_zero, Real.sqrt_zero, abs_zero]
      positivity
    · obtain rfl : neg = false := by simpa [hminus, hm0] using h
      rw [ho, if_neg hm0, worth_real]
      refine ⟨rfl, ?_⟩
      have hd := (nearSqrt_isNear hm0 hm h1 h2).deliver le_rfl (ulps := 1) (by norm_num) false free
      rwa [signedR, if_neg Bool.false_ne_true, one_mul] at hd

end Sys2Proof.Machine

/-! PROOFS. The element functions of infinities, MPRG's completion, and O21. -/

namespace Sys2Proof.Machine

open Sys2Proof.Claims

/-! ### Infinities -/

theorem inf_lt_real (u n : Bool) (m : Nat) (e : Int) : FVal.lt (.inf u) (real n m e) = u := by
  by_cases hm : m = 0 <;> cases u <;> cases n <;> simp [FVal.lt, real, hm]

theorem real_lt_inf (u n : Bool) (m : Nat) (e : Int) : FVal.lt (real n m e) (.inf u) = !u := by
  by_cases hm : m = 0 <;> cases u <;> cases n <;> simp [FVal.lt, real, hm]

theorem inf_eq_real (u n : Bool) (m : Nat) (e : Int) : FVal.eq (.inf u) (real n m e) = false := by
  cases u <;> simp [FVal.eq, inf_lt_real, real_lt_inf]

theorem ofVal_inf (neg : Bool) : (Fmt.b32.ofVal .nearest 0 true (.inf neg)).1 = infWord neg := by cases neg <;> rfl

/-! ### MPRG -/

theorem mprg_result {s : State} {c : Ctx} (hc : s.ctx? = some c) (f : FR) :
    let steps := microSteps ((c.k.banks[c.k.bank]).program f.n.toNat)
    let run (l : Nat) : Nat × Flags :=
      if steps.any microBad then (0x7FC00000, flNv)
      else microRun c.k.banks[c.k.bank] steps (element c 32 f.a.toNat l) (element c 32 f.b.toNat l)
    VectorResult s c (.mprg f) f.pred 0 10 f.d.toNat 32 (fun l => (run l).1) (fun l => (run l).2) := by
  intro steps run
  refine vectorResult_of_mapLanes hc (exec_mprg f s) rfl (.inl rfl) fun l _ => ?_
  by_cases hb : steps.any microBad = true
  · exact (if_pos hb).trans (if_pos hb).symm
  · exact (if_neg hb).symm

/-- Settles O21: each function's results follow its cases, for infinities and for numbers, those within an ulp from a near value that
tells them apart from every number of their binade; and each step of MPRG rounds once the value that R283 gives. -/
theorem elementFunctionsOfF : Obligations.ElementFunctionsOfF := by
  refine ⟨fun s c f hc => ?_, fun t m step nv ny v y hy => ?_⟩
  · refine ⟨functionResult hc (exec_exp2 f s) (fun free neg => ?_) fun free neg m e _ h1 _ => exp2_result free neg m h1,
      functionResult hc (exec_exp f s) (fun free neg => ?_) fun free neg m e _ _ _ => exp_result free neg m e,
      functionResult hc (exec_log2 f s) (fun free neg => ?_) fun free neg m e hm h1 h2 => ?_,
      functionResult hc (exec_rcp f s) (fun free neg => ?_) fun free neg m e hm h1 h2 => ?_,
      functionResult hc (exec_rsqrt f s) (fun free neg => ?_) fun free neg m e hm h1 h2 => ?_,
      functionResult hc (exec_sqrt f s) (fun free neg => ?_) fun free neg m e hm h1 h2 => ?_,
      functionResult hc (exec_sin f s) (fun free neg => ?_) fun free neg m e _ _ _ => ?_,
      functionResult hc (exec_cos f s) (fun free neg => ?_) fun free neg m e _ _ _ => ?_,
      functionResult hc (exec_tanh f s) (fun free neg => ?_) fun free neg m e _ _ _ => tanh_result free neg m e,
      functionResult hc (exec_sigm f s) (fun free neg => ?_) fun free neg m e _ _ _ => sigm_result free neg m e,
      functionResult hc (exec_gelu f s) (fun free neg => ?_) fun free neg m e _ _ _ => gelu_result free neg m e,
      mprg_result hc f⟩
    · cases neg <;> simp [sfuExp2, Sfu.out, inf_lt_real, inf_eq_real, FVal.isNeg, posInf, infWord]
    · cases neg <;> simp [sfuExp, Sfu.out, inf_lt_real, FVal.isNeg, posInf, infWord]
    · cases neg <;> simp [sfuLog2, Sfu.out, inf_eq_real, FVal.isNeg, FVal.isZero, posInf, infWord, Sfu.invalid, nanWord]
    · obtain ⟨hz, hn, hf, hk⟩ := log2_result free neg hm h1 h2
      exact ⟨hz, hn, fun h => (by cases h), hf, hk⟩
    · cases neg <;> simp [sfuRcp, Sfu.out, inf_lt_real, FVal.negate, FVal.isNeg, FVal.isZero, FVal.isInf, zeroWord]
    · obtain ⟨hz, hf, ho, hw⟩ := rcp_result free neg hm h1 h2
      exact ⟨hz, hf, ho, fun h _ => hw h⟩
    · cases neg <;> simp [sfuRsqrt, Sfu.out, FVal.isNeg, FVal.isZero, FVal.isInf, Sfu.invalid, nanWord]
    · obtain ⟨hz, hn, hf⟩ := rsqrt_result free neg hm h1 h2
      exact ⟨hz, hn, fun h => (by cases h), fun h h' => ⟨(hf h h').1, fun _ => (hf h h').2⟩⟩
    · cases neg <;> simp [sfuSqrt, Sfu.out, FVal.isNeg, FVal.isZero, FVal.isInf, Sfu.invalid, nanWord, posInf, infWord]
    · obtain ⟨hz, hn, hf⟩ := sqrt_result free neg hm h1 h2
      exact ⟨hz, hn, fun h => (by cases h), fun h => ⟨(hf h).1, fun _ => (hf h).2⟩⟩
    · simp [sfuTrig, Sfu.out, FVal.isInf, FVal.isZero, Sfu.invalid, nanWord]
    · obtain ⟨ho, hf, hz⟩ := trig_result 0 free neg m e
      exact ⟨ho, hf, hz rfl⟩
    · simp [sfuTrig, Sfu.out, FVal.isInf, Sfu.invalid, nanWord]
    · obtain ⟨ho, hf, -⟩ := trig_result 1 free neg m e
      exact ⟨ho, hf⟩
    · cases neg <;> simp [sfuTanh, Sfu.out, inf_lt_real, FVal.negate, FVal.isNeg, FVal.isZero, zeroWord]
    · cases neg <;> simp [sfuSigm, Sfu.out, inf_lt_real, FVal.isNeg]
    · cases neg <;> simp [sfuGelu, Sfu.out, inf_lt_real, FVal.negate, FVal.isNeg, ofVal_inf, posInf, infWord]
  · exact ⟨fun h hs => ⟨fun hm => range_splits t m step h hm hs, fun hm => range_normalizes t m step h hm hs⟩,
      fun h hs _ ⟨_, hx⟩ => table_reads t m step h hs hx,
      fun h hs _ ⟨_, hx⟩ => multiplyAdd_computes t m step hy h hs hx,
      fun h => ⟨fun h0 => scale_by_k t m step hy h h0, fun h1 hs => scale_product t m step hy h h1 hs⟩,
      fun h _ _ ⟨_, hlo⟩ ⟨_, hhi⟩ => clamp_computes t m step hy h hlo hhi,
      fun h hs hc => select_computes t m step h hs hc, fun h hs => seed_computes t m step h hs⟩

end Sys2Proof.Machine

/-! PROOFS. The row operations of F (spec/09_matrix_function_instructions.md R277): the rows of the view and what they write. -/

namespace Sys2Proof.Machine

open Sys2Proof.Claims

/-! ### Rows -/

/-- The elements of a row, among those of as many rows as there are. -/
theorem filter_range_row {n cols i : Nat} (hc : 0 < cols) (hi : (i + 1) * cols ≤ n) :
    (List.range n).filter (fun j => decide (j / cols = i)) = (List.range cols).map (i * cols + ·) := by
  obtain ⟨r, rfl⟩ := Nat.exists_eq_add_of_le hi
  have hbefore : (List.range (i * cols)).filter (fun j => decide (j / cols = i)) = [] := by
    rw [List.filter_eq_nil_iff]
    intro j hj
    have := (Nat.div_lt_iff_lt_mul hc).2 (List.mem_range.1 hj)
    simp only [decide_eq_true_eq]
    omega
  have hrow : ((List.range cols).map (i * cols + ·)).filter (fun j => decide (j / cols = i)) = (List.range cols).map (i * cols + ·) := by
    rw [List.filter_eq_self]
    intro j hj
    obtain ⟨k, hk, rfl⟩ := List.mem_map.1 hj
    simp [Nat.add_comm, Nat.add_mul_div_right _ _ hc, Nat.div_eq_of_lt (List.mem_range.1 hk)]
  have hafter : ((List.range r).map ((i + 1) * cols + ·)).filter (fun j => decide (j / cols = i)) = [] := by
    rw [List.filter_eq_nil_iff]
    intro j hj
    obtain ⟨k, -, rfl⟩ := List.mem_map.1 hj
    have : i + 1 ≤ ((i + 1) * cols + k) / cols := (Nat.le_div_iff_mul_le hc).2 (Nat.le_add_right ..)
    simp only [decide_eq_true_eq]
    omega
  rw [List.range_add, List.filter_append, hafter, List.append_nil, Nat.add_mul, Nat.one_mul, List.range_add, List.filter_append,
    hbefore, List.nil_append, hrow]

theorem mem_rowOf {act : Mask} {cols l j : Nat} : j ∈ rowOf act 32 cols l ↔ j < 64 ∧ j / cols = l / cols ∧ act.getLsbD j = true := by
  simp [rowOf, List.mem_filter]

theorem rowOf_congr {act : Mask} {cols l j : Nat} (h : j / cols = l / cols) : rowOf act 32 cols j = rowOf act 32 cols l := by
  simp only [rowOf, h]

theorem self_mem_rowOf {act : Mask} {cols l : Nat} (hl : l < 64) (ha : act.getLsbD l = true) : l ∈ rowOf act 32 cols l :=
  mem_rowOf.2 ⟨hl, rfl, ha⟩

/-- The model's list of a row's active lanes. -/
theorem rowOf_eq {act : Mask} {cols l : Nat} (hc : 0 < cols) (hl : (l / cols + 1) * cols ≤ 64) :
    rowOf act 32 cols l = ((List.range cols).map (l / cols * cols + ·)).filter fun j => act.getLsbD j := by
  rw [← filter_range_row hc hl, List.filter_filter, rowOf]
  refine List.filter_congr fun j _ => ?_
  rw [Nat.mul_div_cancel j (by norm_num), Bool.and_comm]

theorem rowOf_length_le (act : Mask) (cols l : Nat) : (rowOf act 32 cols l).length ≤ 64 :=
  (List.length_filter_le _ _).trans (List.length_range).le

/-! ### What a row operation writes -/

/-- A row operation's completion: latency 24, one write for each destination, of the active lanes. -/
def RowResult (s : State) (c : Ctx) (f : FR) (i : Instr) (regs : Nat) (val : Nat → Nat → Nat → Prop) (flag : Nat → Nat → Prop) : Prop :=
  ∃ (img : Nat → VReg) (fl : Flags),
    exec i s = .next (c.give { writes := (List.range regs).map fun g =>
      { left := 24, live := true, flags := if g = 0 then fl else 0, val := .vec (c.w.bind (f.d.toNat + g)) (img g) (c.active f.pred) } }) ∧
    (∀ g l, g < regs → l < 64 → (c.active f.pred).getLsbD l = true → val g l ((img g).extractLsb' (32 * l) 32).toNat) ∧
    ∀ n, fl.getLsbD n = true ↔ ∃ l, l < 64 ∧ (c.active f.pred).getLsbD l = true ∧ flag l n

section
variable {w : Warp} {act : Mask}

theorem rows_dvd (hv : rowView w = true) : 64 / w.rows * w.rows = 64 := by
  have h : bitsN w.shape 5 2 ≤ 5 := by
    simp only [rowView, Bool.and_eq_true, decide_eq_true_eq] at hv
    exact hv.2
  rw [Warp.rows]
  interval_cases bitsN w.shape 5 2 <;> rfl

variable (hv : rowView w = true)
include hv

/-- The rows with an active lane are those of the active lanes. -/
theorem mem_rowLanes {r : Nat × List Nat} : r ∈ rowLanes w act ↔
    ∃ l, l < 64 ∧ act.getLsbD l = true ∧ r = (l / (64 / w.rows), rowOf act 32 (64 / w.rows) l) := by
  have hdvd := rows_dvd hv
  obtain ⟨cols, hcols⟩ : ∃ cols, cols = 64 / w.rows := ⟨_, rfl⟩
  rw [← hcols] at hdvd ⊢
  have hc : 0 < cols := Nat.pos_of_ne_zero (by rintro rfl; simp at hdvd)
  have hrow {i : Nat} (hi : i < w.rows) : (i + 1) * cols ≤ 64 := by
    rw [← hdvd, Nat.mul_comm cols]
    exact Nat.mul_le_mul_right cols hi
  have hlist {i l : Nat} (hi : i < w.rows) (hl : l / cols = i) :
      ((List.range cols).map (i * cols + ·)).filter (fun j => act.getLsbD j) = rowOf act 32 cols l := by
    rw [rowOf_eq hc (hl ▸ hrow hi), hl]
  simp only [rowLanes, ← hcols, List.mem_filterMap, List.mem_range]
  constructor
  · rintro ⟨i, hi, h⟩
    split_ifs at h with hnil
    obtain ⟨l, hl⟩ := List.exists_mem_of_ne_nil _ hnil
    obtain ⟨hmap, ha⟩ := List.mem_filter.1 hl
    obtain ⟨k, hk, rfl⟩ := List.mem_map.1 hmap
    rw [List.mem_range] at hk
    have hdiv : (i * cols + k) / cols = i := by rw [Nat.add_comm, Nat.add_mul_div_right _ _ hc, Nat.div_eq_of_lt hk, Nat.zero_add]
    have hlt : i * cols + k < 64 := by
      have := hrow hi
      rw [Nat.add_mul, Nat.one_mul] at this
      omega
    refine ⟨i * cols + k, hlt, ha, ?_⟩
    rw [← hlist hi hdiv, hdiv]
    exact (Option.some.inj h).symm
  · rintro ⟨l, hl, ha, rfl⟩
    have hi : l / cols < w.rows := by
      rw [Nat.div_lt_iff_lt_mul hc, Nat.mul_comm, hdvd]
      exact hl
    refine ⟨l / cols, hi, ?_⟩
    rw [hlist hi rfl, if_neg (List.ne_nil_of_mem (self_mem_rowOf hl ha))]

/-- The row that a lane's word is taken from. -/
theorem find_row {β : Type} (out : Nat → List Nat → β) {l : Nat} (hl : l < 64) (ha : act.getLsbD l = true) :
    ((rowLanes w act).map fun r => (r.2, out r.1 r.2)).find? (fun r => r.1.contains l) =
      some (rowOf act 32 (64 / w.rows) l, out (l / (64 / w.rows)) (rowOf act 32 (64 / w.rows) l)) := by
  have hmem := self_mem_rowOf (cols := 64 / w.rows) hl ha
  cases h : ((rowLanes w act).map fun r => (r.2, out r.1 r.2)).find? fun r => r.1.contains l with
  | none =>
    rw [List.find?_eq_none] at h
    exact absurd (List.contains_iff_mem.2 hmem) (by
      simpa using h _ (List.mem_map.2 ⟨_, (mem_rowLanes hv).2 ⟨l, hl, ha, rfl⟩, rfl⟩))
  | some r =>
    obtain ⟨r', hr', rfl⟩ := List.mem_map.1 (List.mem_of_find?_eq_some h)
    obtain ⟨j, -, -, rfl⟩ := (mem_rowLanes hv).1 hr'
    have hfound := List.find?_some h
    have hin : l ∈ rowOf act 32 (64 / w.rows) j := List.contains_iff_mem.1 hfound
    obtain ⟨-, hdiv, -⟩ := mem_rowOf.1 hin
    rw [← hdiv, rowOf_congr hdiv]

end

/-- A row operation writes each active lane the word of its row and sets the flags of the rows with an active lane. -/
theorem rowOp_result {s : State} {c : Ctx} (hc : s.ctx? = some c) {f : FR} {i : Instr} {regs : Nat}
    {row : Ctx → Nat → List Nat → (Nat → Nat → Nat) × Flags} (hi : exec i s = runSlot s (rowOp f regs row))
    {val : Nat → Nat → Nat → Prop} {flag : Nat → Nat → Prop} (hgood : c.active f.pred = 0 ∨ rowView c.w = true)
    (hval : ∀ g l, g < regs → l < 64 → (c.active f.pred).getLsbD l = true →
      val g l ((row c (l / (64 / c.w.rows)) (rowOf (c.active f.pred) 32 (64 / c.w.rows) l)).1 g l % 2 ^ 32))
    (hflag : ∀ l n, l < 64 → (c.active f.pred).getLsbD l = true →
      ((row c (l / (64 / c.w.rows)) (rowOf (c.active f.pred) 32 (64 / c.w.rows) l)).2.getLsbD n = true ↔
        ∃ j ∈ rowOf (c.active f.pred) 32 (64 / c.w.rows) l, flag j n)) : RowResult s c f i regs val flag := by
  obtain ⟨act, hact⟩ : ∃ act, act = c.active f.pred := ⟨_, rfl⟩
  rw [← hact] at hgood hval hflag
  have hnofault : ¬(c.active f.pred ≠ 0 ∧ (!rowView c.w) = true) := by
    rw [← hact]
    rintro ⟨h0, hv⟩
    rcases hgood with h | h
    · exact h0 h
    · rw [h] at hv; cases hv
  refine ⟨_, _, hi.trans (runSlot_done hc (if_neg hnofault)), fun g l hg hl ha => ?_, fun n => ?_⟩
  · have hv : rowView c.w = true := hgood.resolve_left (by rintro h0; rw [← hact, h0] at ha; simp at ha)
    have h0 : act ≠ 0 := by rintro h0; rw [← hact, h0] at ha; simp at ha
    rw [← hact] at ha ⊢
    refine (congrArg (val g l) ?_).mpr (hval g l hg hl ha)
    refine (el_ofNat 32 _ l (by omega)).trans ?_
    rw [List.getD_eq_getElem _ _ (by simpa using hl), List.getElem_map, List.getElem_range, if_neg h0, find_row hv (row c) hl ha]
  · rw [← hact, foldl_or_bit fun r : List Nat × ((Nat → Nat → Nat) × Flags) => r.2.2]
    rw [show (0 : Flags).getLsbD n = false from BitVec.getLsbD_zero]
    simp only [Bool.false_eq_true, false_or]
    constructor
    · rintro ⟨r, hr, hn⟩
      split_ifs at hr with h0
      · simp at hr
      · obtain ⟨r', hr', rfl⟩ := List.mem_map.1 hr
        obtain ⟨l, hl, ha, rfl⟩ := (mem_rowLanes (hgood.resolve_left h0)).1 hr'
        obtain ⟨j, hj, hfl⟩ := (hflag l n hl ha).1 hn
        obtain ⟨hj64, -, hja⟩ := mem_rowOf.1 hj
        exact ⟨j, hj64, hja, hfl⟩
    · rintro ⟨l, hl, ha, hfl⟩
      have h0 : act ≠ 0 := by rintro h0; rw [h0] at ha; simp at ha
      rw [if_neg h0]
      exact ⟨_, List.mem_map.2 ⟨_, (mem_rowLanes (hgood.resolve_left h0)).2 ⟨l, hl, ha, rfl⟩, rfl⟩,
        (hflag l n hl ha).2 ⟨l, self_mem_rowOf hl ha, hfl⟩⟩

end Sys2Proof.Machine

/-! PROOFS. RSTAT and SMAX (spec/09_matrix_function_instructions.md R278, R279, spec/03_numbers.md R106, R107). -/

namespace Sys2Proof.Machine

open Sys2Proof.Claims

/-! ### Words of 32 bits -/

theorem encodeWide_lt (neg : Bool) (n : Nat) (e : Int) : (Fmt.b32.encodeWide .nearest 0 true neg n 1 e).1 < 2 ^ 32 := by
  have hs : Fmt.b32.sign neg = if neg then 2 ^ 31 else 0 := rfl
  have hinf : Fmt.b32.infCode < 2 ^ 31 := by decide
  have hmax : Fmt.b32.maxCode < 2 ^ 31 := by decide
  have hsum {c : Nat} (hc : c < 2 ^ 31) : Fmt.b32.sign neg + c < 2 ^ 32 := by
    rw [hs]
    cases neg <;> simp only [if_true, Bool.false_eq_true, if_false] <;> omega
  have hsign : Fmt.b32.sign neg < 2 ^ 32 := by
    rw [hs]
    cases neg <;> simp
  rcases eq_or_ne n 0 with rfl | hn
  · rw [show (Fmt.b32.encodeWide .nearest 0 true neg 0 1 e).1 = Fmt.b32.sign neg by simp [Fmt.encodeWide, Fmt.sign]]
    exact hsign
  · obtain ⟨y, z, -, -, -, h⟩ := encodeWide_encoded (k := .b32) rfl (m := .nearest) (by decide) 0 true neg hn e
    generalize Fmt.b32.encodeWide .nearest 0 true neg n 1 e = o at h
    cases h with
    | overflow h hy =>
      show Fmt.b32.sign neg + (if infOver .nearest neg then _ else _) < 2 ^ 32
      exact hsum (by split_ifs <;> assumption)
    | flushed h hz hf => exact hsign
    | held c h hc hf hw hsub => exact hsum (hc.trans hinf)

theorem ofVal_lt (v : FVal) : (Fmt.b32.ofVal .nearest 0 true v).1 < 2 ^ 32 := by
  cases v with
  | nan s => exact (by decide : (0x7FC00000 : Nat) < 2 ^ 32)
  | inf neg =>
    rw [ofVal_inf]
    cases neg <;> decide
  | fin neg m e => exact encodeWide_lt neg m e

theorem near_round_lt (n : Near) (negZero : Bool) : n.round negZero < 2 ^ 32 := by
  unfold Near.round
  split_ifs
  · decide
  · decide
  · exact encodeWide_lt ..

theorem deliver_lt (n : Near) (ulps : Nat) (floor : Option Int) (negZero : Bool) (free : BitVec 32) :
    n.deliver ulps floor negZero free < 2 ^ 32 := by
  unfold Near.deliver
  split_ifs
  · exact free.isLt
  · exact near_round_lt ..

theorem recipWord_lt {n : Nat} (hn : n ≤ 64) : recipWord n < 2 ^ 32 := by
  have h : ∀ n < 65, recipWord n < 2 ^ 32 := by decide
  exact h n (by omega)

/-! ### RSTAT -/

/-- A list's flags of its maximum and its sum, and their words. -/
theorem rstatRow_word (f : FR) (c : Ctx) (i : Nat) (ls : List Nat) (g l : Nat) :
    let vs := ls.map fun l => fSource (flushWord (element c 32 f.a.toNat l))
    (rstatRow f c i ls).1 g l % 2 ^ 32 = (Fmt.b32.ofVal .nearest 0 true (if g = 0 then (maxVal vs).1 else (exactSum .nearest vs).1)).1 := by
  intro vs
  have h : (rstatRow f c i ls).1 g l = (Fmt.b32.ofVal .nearest 0 true (if g = 0 then (maxVal vs).1 else (exactSum .nearest vs).1)).1 := by
    by_cases hg : g = 0
    · rw [if_pos hg]; exact if_pos hg
    · rw [if_neg hg]; exact if_neg hg
  rw [h, Nat.mod_eq_of_lt (ofVal_lt _)]

theorem rstatRow_flags (f : FR) (c : Ctx) (i : Nat) (ls : List Nat) (n : Nat) :
    let vs := ls.map fun l => fSource (flushWord (element c 32 f.a.toNat l))
    (rstatRow f c i ls).2.getLsbD n = true ↔ (maxVal vs).2.getLsbD n = true ∨ (exactSum .nearest vs).2.getLsbD n = true := by
  intro vs
  have h : (rstatRow f c i ls).2 = (maxVal vs).2 ||| (exactSum .nearest vs).2 := rfl
  rw [h, BitVec.getLsbD_or, Bool.or_eq_true]

/-! ### SMAX of one value (R106) -/

/-- The exponential of zero over a row of n such, in units of 2^-640. -/
def evenNear (n : Nat) : Near := smaxOut 0 (n * fxOne) (n * fxOne)

theorem evenNear_eq (n : Nat) :
    evenNear n = { mid := fxOne / n, e := 0, below := 1, above := -(-fxOne / n) - fxOne / n + 1 } := by
  have hdiv (x : Int) : fxDiv x (n * fxOne) = x / n := Int.mul_ediv_mul_of_pos_left _ _ fxOne_pos
  simp only [evenNear, smaxOut, if_true, hdiv, sub_zero, add_zero]

theorem evenNear_isNear {n : Nat} (hn : 0 < n) (h64 : n ≤ 64) : IsNear (evenNear n) false (1 / n) := by
  have hnI : (0 : Int) < n := by exact_mod_cast hn
  have hnR : (0 : ℝ) < n := by exact_mod_cast hn
  have hu : (0 : ℝ) < 2 ^ (0 - 640 : Int) := by positivity
  have hF : (fxOne : ℝ) * 2 ^ (0 - 640 : Int) = 1 := by
    rw [fxOne_cast, ← zpow_add₀ two_ne_zero]
    norm_num
  have hFbig : 2 ^ 40 ≤ fxOne := by
    unfold fxOne
    exact pow_le_pow_right₀ one_le_two (by norm_num)
  obtain ⟨F, hFdef⟩ : ∃ F, F = fxOne := ⟨_, rfl⟩
  rw [← hFdef] at hF hFbig
  have hFR : (1 : ℝ) / n = F / n * 2 ^ (0 - 640 : Int) := by rw [div_mul_eq_mul_div, hF]
  rw [evenNear_eq, ← hFdef]
  obtain ⟨q, hq⟩ : ∃ q, q = F / n := ⟨_, rfl⟩
  obtain ⟨p, hp⟩ : ∃ p, p = -F / n := ⟨_, rfl⟩
  rw [← hq, ← hp]
  have hq1 : q * n ≤ F := hq ▸ Int.ediv_mul_le F hnI.ne'
  have hq2 : F < (q + 1) * n := hq ▸ Int.lt_ediv_add_one_mul_self F hnI
  have hp1 : p * n ≤ -F := hp ▸ Int.ediv_mul_le (-F) hnI.ne'
  have hp2 : -F < (p + 1) * n := hp ▸ Int.lt_ediv_add_one_mul_self (-F) hnI
  have hlo : 0 ≤ -p - q := by
    by_contra h
    nlinarith
  have hhi : -p - q ≤ 1 := by
    by_contra h
    nlinarith
  have hq0 : 2 ^ 33 ≤ q := by
    by_contra h
    nlinarith
  have hqR1 : (q : ℝ) ≤ F / n := by rw [le_div_iff₀ hnR]; exact_mod_cast hq1
  have hqR2 : (F : ℝ) / n < q + 1 := by rw [div_lt_iff₀ hnR]; exact_mod_cast hq2
  have hpR1 : (F : ℝ) / n ≤ -p := by rw [div_le_iff₀ hnR]; exact_mod_cast (by linarith : F ≤ -p * n)
  have habs : q.natAbs = q := Int.natAbs_of_nonneg (by linarith)
  have hcast : (q.natAbs : ℝ) = q := by rw [← Int.cast_natCast (R := ℝ), habs]
  refine ⟨by positivity, by simp only [signedR, Bool.false_eq_true, if_false, one_mul, hcast], by norm_num, by dsimp only; linarith, ?_, ?_, ?_,
    by norm_num, ?_, fun t ht => ?_⟩
  · simp only [signedR, Bool.false_eq_true, if_false, one_mul]
    rw [hFR, mul_lt_mul_iff_left₀ hu]
    push_cast
    linarith
  · simp only [signedR, Bool.false_eq_true, if_false, one_mul]
    rw [hFR, mul_lt_mul_iff_left₀ hu]
    push_cast
    linarith
  · rw [hFR, mul_lt_mul_iff_left₀ hu, hcast]
    exact hqR2
  · rw [habs]
    linarith
  · -- 2^200 - t n is a whole number, and too small for one
    have hdiff : (1 / (n : ℝ) - t * 2 ^ (-200 : Int)) * n = ((2 ^ 200 - t * n : Int) : ℝ) * 2 ^ (-200 : Int) := by
      push_cast
      field_simp
      norm_num
    have hsmall : |((2 ^ 200 - t * n : Int) : ℝ) * 2 ^ (-200 : Int)| < 2 ^ (-600 : Int) := by
      rw [← hdiff, abs_mul, abs_of_pos hnR]
      have hw : (((1 : Int) : ℝ) + ((-p - q + 1 : Int) : ℝ)) * 2 ^ (0 - 640 : Int) ≤ 2 ^ (2 : Int) * 2 ^ (0 - 640 : Int) := by
        refine mul_le_mul_of_nonneg_right ?_ hu.le
        have : ((-p - q : Int) : ℝ) ≤ 1 := by exact_mod_cast hhi
        push_cast at this ⊢
        norm_num
        linarith
      have h6 : (n : ℝ) ≤ 2 ^ (6 : Int) := by norm_num; exact_mod_cast h64
      calc _ < (2 : ℝ) ^ (2 : Int) * 2 ^ (0 - 640 : Int) * 2 ^ (6 : Int) := by
            refine lt_of_lt_of_le (mul_lt_mul_of_pos_right (ht.trans_le hw) hnR) (mul_le_mul_of_nonneg_left h6 (by positivity))
        _ = 2 ^ (-632 : Int) := by rw [← zpow_add₀ two_ne_zero, ← zpow_add₀ two_ne_zero]; norm_num
        _ < 2 ^ (-600 : Int) := zpow_lt_zpow_right₀ one_lt_two (by norm_num)
    have hzero := int_eq_zero_of_lt hsmall (by norm_num)
    rw [hzero, Int.cast_zero, zero_mul, mul_eq_zero] at hdiff
    linarith [hdiff.resolve_right hnR.ne']

/-! ### SMAX -/

/-- A term's units of 2^-640, for a number. -/
def fxVal : FVal → Option Int
  | .fin n m e => some (fxOf n m e)
  | _ => none

/-- What SMAX gives where a row has numbers (R279). -/
def smaxOf (u : List Nat) (word : Nat → Nat) (inU : Bool) (l : Nat) : Nat :=
  let fx := u.filterMap fun l => fxVal (fSource (word l))
  let top := fx.foldl max (fx.headD 0)
  let terms := fx.map fun x => smaxTerm (x - top)
  match (if inU then fxVal (fSource (word l)) else none) with
  | some x =>
    if x - top < -400 * fxOne then 0
    else Near.deliver (smaxOut (x - top) ((terms.map (·.1)).foldl (· + ·) 0) ((terms.map (·.2)).foldl (· + ·) 0)) 3 none false
      (Config.freeRow 12 (u.map fun l => BitVec.ofNat 32 (word l)) l)
  | none => 0

/-- The cases of SMAX (R107). -/
theorem smaxRow_eq (f : FR) (masked : Bool) (c : Ctx) (i : Nat) (ls : List Nat) :
    let word (l : Nat) : Nat := flushWord (element c 32 f.a.toNat l)
    let inU (l : Nat) : Bool := !masked || element c 32 f.b.toNat l == 0
    let u := ls.filter inU
    let vs := u.map fun l => fSource (word l)
    let tops := u.filter fun l => word l == 0x7F800000
    (smaxRow f masked c i ls).1 = (if u = [] then fun _ _ => 0 else if vs.any (·.isNan) then fun _ _ => 0x7FC00000
      else if 0 < tops.length then fun _ l => if inU l = true ∧ word l = 0x7F800000 then recipWord tops.length else 0
      else if u.all fun l => word l == 0xFF800000 then fun _ l => if inU l then recipWord u.length else 0
      else fun _ l => smaxOf u word (inU l) l) ∧
    (smaxRow f masked c i ls).2 = if u = [] then flRow i else if vs.any (·.isNan) then flIf (vs.any (·.isSnan)) flNv else 0 := by
  intro word inU u vs tops
  have h : smaxRow f masked c i ls = if u = [] then (fun _ _ => 0, flRow i)
      else if vs.any (·.isNan) then (fun _ _ => 0x7FC00000, flIf (vs.any (·.isSnan)) flNv)
      else if 0 < tops.length then (fun _ l => if inU l = true ∧ word l = 0x7F800000 then recipWord tops.length else 0, 0)
      else if u.all fun l => word l == 0xFF800000 then (fun _ l => if inU l then recipWord u.length else 0, 0)
      else (fun _ l => smaxOf u word (inU l) l, 0) := rfl
  rw [h]
  constructor <;> split_ifs <;> rfl

theorem foldl_max_replicate (x : Int) (n : Nat) : (List.replicate n x).foldl max x = x := by
  induction n with
  | zero => rfl
  | succ n ih => rw [List.replicate_succ, List.foldl_cons, max_self, ih]

theorem foldl_add_replicate (x a : Int) (n : Nat) : (List.replicate n x).foldl (· + ·) a = a + n * x := by
  induction n generalizing a with
  | zero => simp
  | succ n ih =>
    rw [List.replicate_succ, List.foldl_cons, ih]
    push_cast
    ring

/-- Where a row has one number throughout. -/
theorem smaxOf_even {u : List Nat} {word : Nat → Nat} {l : Nat} {x : Int} (hu : u ≠ []) (h64 : u.length ≤ 64)
    (hx : ∀ j ∈ u, fxVal (fSource (word j)) = some x) (hl : fxVal (fSource (word l)) = some x) :
    WithinUlps 3 (smaxOf u word true l) (1 / u.length) := by
  have hfx : (u.filterMap fun l => fxVal (fSource (word l))) = List.replicate u.length x := by
    rw [List.filterMap_congr (g := fun _ => some x) hx, List.filterMap_eq_map', List.map_const']
  have hpos : 0 < u.length := List.length_pos_iff.2 hu
  have hhead : (List.replicate u.length x).headD 0 = x := by
    obtain ⟨n, hn⟩ := Nat.exists_eq_succ_of_ne_zero hpos.ne'
    rw [hn]
    rfl
  have hterm : smaxTerm 0 = (fxOne, fxOne) := if_pos rfl
  have hcut : ¬(0 : Int) < -400 * fxOne := by have := fxOne_pos; omega
  simp only [smaxOf, hfx, hhead, foldl_max_replicate, hl, if_true, sub_self, List.map_replicate, hterm, foldl_add_replicate, zero_add, hcut,
    if_false]
  have hd := (evenNear_isNear hpos h64).deliver (ulps := 3) (by norm_num) (by norm_num) false
    (Config.freeRow 12 (u.map fun l => BitVec.ofNat 32 (word l)) l)
  rwa [signedR, if_neg Bool.false_ne_true, one_mul] at hd

end Sys2Proof.Machine

/-! PROOFS. The words and flags of an SMAX row (spec/03_numbers.md R106, R107). -/

namespace Sys2Proof.Machine

open Sys2Proof.Claims

theorem isNan_of_isSnan {v : FVal} (h : v.isSnan = true) : v.isNan = true := by
  cases v with
  | nan s => rfl
  | _ => cases h

theorem fSource_inf (neg : Bool) : fSource (infWord neg) = .inf neg := by cases neg <;> rfl

/-- A word of F with an infinite value is that infinity's word. -/
theorem fSource_eq_inf {w : Nat} {neg : Bool} (hw : w < 2 ^ 32) (h : fSource w = .inf neg) : w = infWord neg := by
  rw [fSource, decode_b32] at h
  dsimp only at h
  split_ifs at h with h255 ht
  · cases h
    by_cases hn : 2 ^ 31 ≤ w
    · simp only [hn, infWord, decide_true, if_true]
      omega
    · simp only [hn, infWord, decide_false, Bool.false_eq_true, if_false]
      omega

theorem flushWord_lt {w : Nat} (hw : w < 2 ^ 32) : flushWord w < 2 ^ 32 := by
  unfold flushWord
  split_ifs
  · omega
  · exact hw

theorem element_lt (c : Ctx) (n l : Nat) : element c 32 n l < 2 ^ 32 := BitVec.isLt _

/-- Flags of a condition, which are `nv` or none. -/
theorem flIf_nv (b : Bool) (n : Nat) : (flIf b flNv).getLsbD n = true ↔ n = 4 ∧ b = true := by
  have hnv : flNv.getLsbD n = true ↔ n = 4 := by
    constructor
    · intro h
      have hlt : n < 64 := by
        by_contra hge
        rw [BitVec.getLsbD_of_ge _ _ (not_lt.1 hge)] at h
        cases h
      revert h
      interval_cases n <;> decide
    · rintro rfl
      decide
  cases b <;> simp [flIf, hnv]

theorem flRow_bit (i n : Nat) : (flRow i).getLsbD n = true ↔ i < 32 ∧ n = 32 + i := by
  unfold flRow
  by_cases hi : i < 32
  · rw [if_pos hi, BitVec.getLsbD_ofNat, Nat.testBit_two_pow]
    simp only [hi, true_and, Bool.and_eq_true, decide_eq_true_eq]
    omega
  · simp [hi]

/-- No number, no part of the row's sum. -/
theorem smaxOf_none {u : List Nat} {word : Nat → Nat} {inU : Bool} {l : Nat}
    (h : (if inU then fxVal (fSource (word l)) else none) = none) : smaxOf u word inU l = 0 := by
  unfold smaxOf
  rw [h]

theorem smaxOf_lt (u : List Nat) (word : Nat → Nat) (inU : Bool) (l : Nat) : smaxOf u word inU l < 2 ^ 32 := by
  unfold smaxOf
  dsimp only
  generalize (if inU then fxVal (fSource (word l)) else none) = o
  cases o with
  | none => exact Nat.two_pow_pos 32
  | some x =>
    dsimp only
    split_ifs
    · exact Nat.two_pow_pos 32
    · exact deliver_lt ..

/-- Where SMAX's special cases are past and one word stands throughout, it is a number's. -/
theorem smax_number {u : List Nat} {word : Nat → Nat} {l : Nat} (hlt : ∀ j, word j < 2 ^ 32)
    (hnan : ¬(u.any fun j => (fSource (word j)).isNan) = true)
    (htops : (u.filter fun j => word j == 0x7F800000) = []) (hminus : ¬(u.all fun j => word j == 0xFF800000) = true) (hm : l ∈ u)
    (heq : ∀ j ∈ u, word j = word l) : ∃ neg m e, fSource (word l) = .fin neg m e := by
  obtain ⟨v, hv⟩ : ∃ v, fSource (word l) = v := ⟨_, rfl⟩
  cases v with
  | nan s => exact absurd (List.any_eq_true.2 ⟨l, hm, by rw [hv]; rfl⟩) hnan
  | inf neg =>
    have hw := fSource_eq_inf (hlt l) hv
    cases neg with
    | false => exact absurd (List.filter_eq_nil_iff.1 htops l hm) (by rw [hw]; decide)
    | true => exact absurd (List.all_eq_true.2 fun j hj => by rw [heq j hj, hw]; decide) hminus
  | fin neg m e => exact ⟨neg, m, e, hv⟩

section
variable (f : FR) (masked : Bool) (c : Ctx) (i : Nat) (ls : List Nat)

theorem smaxRow_flags (n : Nat) :
    let u := ls.filter fun j => !masked || element c 32 f.b.toNat j == 0
    (smaxRow f masked c i ls).2.getLsbD n = true ↔
      if u = [] then i < 32 ∧ n = 32 + i else n = 4 ∧ ∃ j ∈ u, (fSource (flushWord (element c 32 f.a.toNat j))).isSnan = true := by
  intro u
  obtain ⟨-, h⟩ := smaxRow_eq f masked c i ls
  rw [h]
  by_cases hu : u = []
  · rw [if_pos hu, if_pos hu, flRow_bit]
  · rw [if_neg hu, if_neg hu]
    by_cases hn : ((u.map fun l => fSource (flushWord (element c 32 f.a.toNat l))).any (·.isNan)) = true
    · rw [if_pos hn, flIf_nv, List.any_eq_true]
      simp only [List.mem_map, exists_exists_and_eq_and]
      rfl
    · rw [if_neg hn]
      refine ⟨fun h => by simp at h, fun ⟨_, j, hj, hs⟩ => absurd (List.any_eq_true.2 ⟨_, List.mem_map.2 ⟨j, hj, rfl⟩, ?_⟩) hn⟩
      exact isNan_of_isSnan hs

theorem smaxRow_word (hlen : ls.length ≤ 64) {l : Nat} (hl : l ∈ ls) :
    let word (l : Nat) : Nat := flushWord (element c 32 f.a.toNat l)
    let u := ls.filter fun j => !masked || element c 32 f.b.toNat j == 0
    let tops := u.filter fun j => word j == 0x7F800000
    let y := (smaxRow f masked c i ls).1 0 l % 2 ^ 32
    if u = [] then y = 0
    else if u.any fun j => (fSource (word j)).isNan then y = 0x7FC00000
    else if tops ≠ [] then y = if l ∈ tops then recipWord tops.length else 0
    else if u.all fun j => word j == 0xFF800000 then y = if l ∈ u then recipWord u.length else 0
    else (l ∉ u → y = 0) ∧ (word l = 0xFF800000 → y = 0) ∧
      (l ∈ u → (∀ j ∈ u, word j = word l) → WithinUlps 3 y (1 / (u.length : ℝ))) := by
  intro word u tops y
  obtain ⟨inU, hinU⟩ : ∃ inU : Nat → Bool, inU = fun j => !masked || element c 32 f.b.toNat j == 0 := ⟨_, rfl⟩
  have hmem : l ∈ u ↔ inU l = true := by rw [hinU]; exact List.mem_filter.trans (and_iff_right hl)
  have htop : l ∈ tops ↔ inU l = true ∧ word l = 0x7F800000 := by
    rw [← hmem]
    exact List.mem_filter.trans (and_congr_right fun _ => beq_iff_eq)
  have hulen : u.length ≤ 64 := (List.length_filter_le _ _).trans hlen
  have htlen : tops.length ≤ 64 := (List.length_filter_le _ _).trans hulen
  obtain ⟨hy, -⟩ := smaxRow_eq f masked c i ls
  have hy' : y = (if u = [] then fun _ _ => 0 else if (u.map fun l => fSource (word l)).any (·.isNan) then fun _ _ => 0x7FC00000
      else if 0 < tops.length then fun _ l => if inU l = true ∧ word l = 0x7F800000 then recipWord tops.length else 0
      else if u.all fun l => word l == 0xFF800000 then fun _ l => if inU l then recipWord u.length else 0
      else fun _ l => smaxOf u word (inU l) l : Nat → Nat → Nat) 0 l % 2 ^ 32 := by rw [hinU]; exact congrArg (fun g => g 0 l % 2 ^ 32) hy
  have hany : (u.map fun l => fSource (word l)).any (·.isNan) = u.any fun j => (fSource (word j)).isNan := by rw [List.any_map]; rfl
  rw [hany] at hy'
  by_cases h1 : u = []
  · rw [if_pos h1] at hy' ⊢
    exact hy'
  rw [if_neg h1] at hy' ⊢
  by_cases h2 : (u.any fun j => (fSource (word j)).isNan) = true
  · rw [if_pos h2] at hy' ⊢
    exact hy'
  rw [if_neg h2] at hy' ⊢
  by_cases h3 : tops = []
  · rw [if_neg (by rw [h3]; exact lt_irrefl 0)] at hy'
    rw [if_neg (not_not.2 h3)]
    by_cases h4 : (u.all fun j => word j == 0xFF800000) = true
    · rw [if_pos h4] at hy' ⊢
      rw [hy']
      by_cases hm : l ∈ u
      · rw [if_pos hm, if_pos (hmem.1 hm), Nat.mod_eq_of_lt (recipWord_lt hulen)]
      · rw [if_neg hm, if_neg (mt hmem.2 hm), Nat.zero_mod]
    · rw [if_neg h4] at hy' ⊢
      refine ⟨fun hm => ?_, fun hw => ?_, fun hm heq => ?_⟩
      · rw [hy', smaxOf_none (if_neg (mt hmem.2 hm)), Nat.zero_mod]
      · have hfx : fxVal (fSource (word l)) = none := by rw [hw]; exact congrArg fxVal (fSource_inf true)
        rw [hy', smaxOf_none (by rw [hfx, ite_self]), Nat.zero_mod]
      · obtain ⟨neg, m, e, hv⟩ := smax_number (fun j => flushWord_lt (element_lt ..)) h2 h3 h4 hm heq
        have hx (j : Nat) (hj : j ∈ u) : fxVal (fSource (word j)) = some (fxOf neg m e) := by rw [heq j hj, hv]; rfl
        have hlt : smaxOf u word true l < 2 ^ 32 := smaxOf_lt ..
        rw [hy', hmem.1 hm, Nat.mod_eq_of_lt hlt]
        exact smaxOf_even h1 hulen hx (hx l hm)
  · rw [if_pos (List.length_pos_iff.2 h3)] at hy'
    rw [if_pos h3, hy']
    by_cases hm : l ∈ tops
    · rw [if_pos hm, if_pos (htop.1 hm), Nat.mod_eq_of_lt (recipWord_lt htlen)]
    · rw [if_neg hm, if_neg (mt htop.2 hm), Nat.zero_mod]

end

end Sys2Proof.Machine

/-! PROOFS. RNORM's bound (spec/09_matrix_function_instructions.md R280): the exact comparison, the value near the result and its
exponent. -/

namespace Sys2Proof.Machine

open Sys2Proof.Claims

/-! ### The exact comparison -/

/-- What comparing a result with x makes of it. -/
def Compares (o : Option Ordering) (v x : ℝ) : Prop := (o = some .lt ↔ v < x) ∧ (o = some .gt ↔ x < v) ∧ (o = some .eq ↔ v = x)

theorem compares_compare (a b : Int) {v x : ℝ} (hlt : a < b ↔ v < x) (hgt : b < a ↔ x < v) : Compares (some (compare a b)) v x := by
  refine ⟨?_, ?_, ?_⟩
  · rw [Option.some_inj, compare_lt_iff_lt, hlt]
  · rw [Option.some_inj, compare_gt_iff_gt]
    exact hgt
  · rw [Option.some_inj, compare_eq_iff_eq, le_antisymm_iff, le_antisymm_iff, ← not_lt, ← not_lt, ← not_lt, ← not_lt, hlt, hgt]

theorem sign_cases (x : Int) : (x.sign = 1 ∧ 0 < x) ∨ (x.sign = 0 ∧ x = 0) ∨ (x.sign = -1 ∧ x < 0) := by
  rcases lt_trichotomy x 0 with h | rfl | h
  · exact .inr (.inr ⟨Int.sign_eq_neg_one_of_neg h, h⟩)
  · exact .inr (.inl ⟨rfl, rfl⟩)
  · exact .inl ⟨Int.sign_eq_one_of_pos h, h⟩

theorem sign_lt {p w : Int} (h : p.sign < w.sign) : (p < 0 ∧ 0 ≤ w) ∨ (p ≤ 0 ∧ 0 < w) := by
  have hp := sign_cases p
  have hw := sign_cases w
  omega

section
variable {cnt q : Nat} (hcnt : cnt ≠ 0)
include hcnt

theorem ratio_pos (hq : q ≠ 0) : 0 < Real.sqrt (cnt / q) := by positivity

/-- The square of p times the root of cnt / q. -/
theorem ratio_sq (hq : q ≠ 0) (p : ℝ) : (p * Real.sqrt (cnt / q)) * (p * Real.sqrt (cnt / q)) * q = p * p * cnt := by
  have h : Real.sqrt (cnt / q) * Real.sqrt (cnt / q) = cnt / q := Real.mul_self_sqrt (by positivity)
  have hq' : (q : ℝ) ≠ 0 := by exact_mod_cast hq
  calc _ = p * p * (Real.sqrt (cnt / q) * Real.sqrt (cnt / q)) * q := by ring
    _ = p * p * cnt := by rw [h]; field_simp

/-- Numbers of one sign compare as their squares. -/
theorem ratio_lt_iff {p w : Int} (hq : q ≠ 0) (hp : 0 ≤ p) (hw : 0 ≤ w) :
    (p * p * cnt < w * w * q ↔ p * Real.sqrt (cnt / q) < w) ∧ (w * w * q < p * p * cnt ↔ w < p * Real.sqrt (cnt / q)) := by
  have hqR : (0 : ℝ) < q := by exact_mod_cast Nat.pos_of_ne_zero hq
  have hpR : (0 : ℝ) ≤ p * Real.sqrt (cnt / q) := mul_nonneg (by exact_mod_cast hp) (Real.sqrt_nonneg _)
  have hwR : (0 : ℝ) ≤ w := by exact_mod_cast hw
  have hsq := ratio_sq hcnt hq p
  constructor
  · rw [mul_self_lt_mul_self_iff hpR hwR, ← mul_lt_mul_iff_left₀ hqR, hsq]
    exact_mod_cast Iff.rfl
  · rw [mul_self_lt_mul_self_iff hwR hpR, ← mul_lt_mul_iff_left₀ hqR, hsq]
    exact_mod_cast Iff.rfl

/-- Signs first, then squares: how p times the root compares with w. -/
theorem compares_squares {p w : Int} (h0 : q = 0 → p = 0) :
    Compares (if p.sign ≠ w.sign then some (compare p.sign w.sign) else if 0 ≤ w then some (compare (p * p * cnt) (w * w * q))
      else some (compare (w * w * q) (p * p * cnt))) (p * Real.sqrt (cnt / q)) w := by
  have hroot := Real.sqrt_nonneg ((cnt : ℝ) / q)
  have hneg (h : p < 0) : (p : ℝ) * Real.sqrt (cnt / q) < 0 :=
    mul_neg_of_neg_of_pos (by exact_mod_cast h) (ratio_pos hcnt fun hq => by have := h0 hq; omega)
  have hpos (h : 0 < p) : 0 < (p : ℝ) * Real.sqrt (cnt / q) :=
    mul_pos (by exact_mod_cast h) (ratio_pos hcnt fun hq => by have := h0 hq; omega)
  have hnonpos (h : p ≤ 0) : (p : ℝ) * Real.sqrt (cnt / q) ≤ 0 :=
    mul_nonpos_of_nonpos_of_nonneg (by exact_mod_cast h) hroot
  have hnonneg (h : 0 ≤ p) : 0 ≤ (p : ℝ) * Real.sqrt (cnt / q) := mul_nonneg (by exact_mod_cast h) hroot
  split_ifs with hs hw
  · -- the signs tell
    have hlt (h : p.sign < w.sign) : (p : ℝ) * Real.sqrt (cnt / q) < w := by
      rcases sign_lt h with ⟨hp, hw⟩ | ⟨hp, hw⟩
      · exact (hneg hp).trans_le (by exact_mod_cast hw)
      · exact (hnonpos hp).trans_lt (by exact_mod_cast hw)
    have hgt (h : w.sign < p.sign) : (w : ℝ) < p * Real.sqrt (cnt / q) := by
      rcases sign_lt h with ⟨hw, hp⟩ | ⟨hw, hp⟩
      · exact lt_of_lt_of_le (by exact_mod_cast hw) (hnonneg hp)
      · exact lt_of_le_of_lt (by exact_mod_cast hw) (hpos hp)
    refine compares_compare _ _ ⟨hlt, fun h => ?_⟩ ⟨hgt, fun h => ?_⟩
    · exact (lt_or_gt_of_ne hs).resolve_right fun h' => lt_asymm h (hgt h')
    · exact (lt_or_gt_of_ne hs).resolve_left fun h' => lt_asymm h (hlt h')
  · rcases eq_or_ne q 0 with hq | hq
    · obtain rfl := h0 hq
      have hw0 : w = 0 := by
        rw [ne_eq, not_not, Int.sign_zero, eq_comm, Int.sign_eq_zero_iff_zero] at hs
        exact hs
      subst hw0
      exact compares_compare _ _ (by simp) (by simp)
    · have hp : 0 ≤ p := by
        rw [ne_eq, not_not] at hs
        rw [← Int.sign_nonneg_iff, hs]
        exact Int.sign_nonneg_iff.2 hw
      obtain ⟨h1, h2⟩ := ratio_lt_iff hcnt hq hp hw
      exact compares_compare _ _ h1 h2
  · have hp : p < 0 := by
      rw [ne_eq, not_not] at hs
      rw [← Int.sign_neg_iff, hs]
      exact Int.sign_neg_iff.2 (not_le.1 hw)
    have hq : q ≠ 0 := fun hq => by have := h0 hq; omega
    obtain ⟨h1, h2⟩ := ratio_lt_iff (p := -p) (w := -w) hcnt hq (by omega) (by omega)
    rw [neg_mul_neg, neg_mul_neg, Int.cast_neg, Int.cast_neg, neg_mul, neg_lt_neg_iff] at h1 h2
    exact compares_compare _ _ h2 h1

/-- RNORM's exact result, for z and b of exponents se and be. -/
noncomputable def normVal (z se : Int) (cnt q : Nat) (b be : Int) : ℝ := z * 2 ^ se * Real.sqrt (cnt / q) + b * 2 ^ be

theorem normCmp_compares (z se b be t e : Int) : Compares (normCmp z se cnt q b be t e) (normVal z se cnt q b be) (t * 2 ^ e) := by
  obtain ⟨lo, hlo⟩ : ∃ lo, lo = min se (min be e) := ⟨_, rfl⟩
  obtain ⟨w, hw⟩ : ∃ w, w = zshift t (e - lo) - zshift b (be - lo) := ⟨_, rfl⟩
  obtain ⟨p, hp⟩ : ∃ p, p = if q = 0 then 0 else zshift z (se - lo) := ⟨_, rfl⟩
  have hpos : (0 : ℝ) < 2 ^ lo := by positivity
  have scale (x : Int) {k : Int} (hk : lo ≤ k) : (x : ℝ) * 2 ^ k = (zshift x (k - lo) : Int) * 2 ^ lo := by
    rw [zshift_cast _ (by omega), mul_assoc, ← zpow_add₀ two_ne_zero, sub_add_cancel]
  have hpR : (z : ℝ) * 2 ^ se * Real.sqrt (cnt / q) = p * Real.sqrt (cnt / q) * 2 ^ lo := by
    by_cases hq : q = 0
    · simp [hq]
    · rw [scale z (by omega), hp, if_neg hq]
      ring
  have hV : normVal z se cnt q b be = (p * Real.sqrt (cnt / q) + (zshift b (be - lo) : Int)) * 2 ^ lo := by
    rw [normVal, hpR, scale b (by omega)]
    ring
  have h := compares_squares (p := p) (w := w) hcnt (q := q) fun hq => by rw [hp, if_pos hq]
  have ho : normCmp z se cnt q b be t e = if p.sign ≠ w.sign then some (compare p.sign w.sign)
      else if 0 ≤ w then some (compare (p * p * cnt) (w * w * q)) else some (compare (w * w * q) (p * p * cnt)) := by
    rw [hp, hw, hlo]
    rfl
  rw [ho, hV, scale t (show lo ≤ e by omega)]
  have hwR : (w : ℝ) = (zshift t (e - lo) : Int) - (zshift b (be - lo) : Int) := by rw [hw]; push_cast; rfl
  rw [hwR] at h
  obtain ⟨hlt, hgt, heq⟩ := h
  exact ⟨hlt.trans (by rw [mul_lt_mul_iff_left₀ hpos, lt_sub_iff_add_lt]), hgt.trans (by rw [mul_lt_mul_iff_left₀ hpos, sub_lt_iff_lt_add]),
    heq.trans (by rw [mul_left_inj' hpos.ne', eq_sub_iff_add_eq])⟩

end

end Sys2Proof.Machine

/-! PROOFS. RNORM's near value and its exponent. -/

namespace Sys2Proof.Machine

open Sys2Proof.Claims

/-! ### The near value -/

/-- The whole part of a root in units of 2^-u. -/
theorem isqrt_cut {n cnt q u v : Nat} (hv : v = 2 * u) (hu : u ≤ 2 ^ 18) (hq : q ≠ 0) (hle : n * n ≤ q) (hcnt : cnt ≤ 64) :
    ((isqrt (n * n * cnt * 2 ^ v / q) : Nat) : ℝ) ≤ n * Real.sqrt (cnt / q) * 2 ^ u ∧
      n * Real.sqrt (cnt / q) * 2 ^ u < (isqrt (n * n * cnt * 2 ^ v / q) : Nat) + 1 := by
  have hqR : (0 : ℝ) < q := by exact_mod_cast Nat.pos_of_ne_zero hq
  obtain ⟨x, hx⟩ : ∃ x, x = n * n * cnt * 2 ^ v / q := ⟨_, rfl⟩
  have hlt : x < 2 ^ (v + 7) := by
    rw [hx, Nat.div_lt_iff_lt_mul (Nat.pos_of_ne_zero hq)]
    calc n * n * cnt * 2 ^ v ≤ q * 64 * 2 ^ v := Nat.mul_le_mul_right _ (Nat.mul_le_mul hle hcnt)
      _ < q * 128 * 2 ^ v := by
          refine Nat.mul_lt_mul_of_pos_right ?_ (Nat.two_pow_pos v)
          omega
      _ = 2 ^ (v + 7) * q := by ring
  have hlog : x.log2 < 2 ^ 20 := by
    rcases eq_or_ne x 0 with h0 | h0
    · rw [h0]; decide
    · have := (Nat.log2_lt h0).2 hlt
      omega
  rw [← hx, isqrt_eq hlog]
  have hroot : n * Real.sqrt (cnt / q) * 2 ^ u = Real.sqrt ((n * n * cnt * 2 ^ v : Nat) / q) := by
    have hsq : (((n * n * cnt * 2 ^ v : Nat) : ℝ)) / q = (n * 2 ^ u) ^ 2 * (cnt / q) := by
      rw [hv]
      push_cast
      ring
    rw [hsq, Real.sqrt_mul (by positivity), Real.sqrt_sq (by positivity)]
    ring
  have hx1 : (x : ℝ) ≤ (n * n * cnt * 2 ^ v : Nat) / q := hx ▸ Nat.cast_div_le
  have hx2 : ((n * n * cnt * 2 ^ v : Nat) : ℝ) / q < x + 1 := by
    rw [div_lt_iff₀ hqR, hx]
    generalize n * n * cnt * 2 ^ v = a
    rw [mul_comm]
    exact_mod_cast Nat.lt_mul_div_succ a (Nat.pos_of_ne_zero hq)
  rw [hroot]
  constructor
  · rw [← Real.sqrt_sq (Nat.cast_nonneg x.sqrt)]
    refine Real.sqrt_le_sqrt (le_trans ?_ hx1)
    exact_mod_cast Nat.sqrt_le' x
  · rw [Real.sqrt_lt' (by positivity)]
    refine hx2.trans_le ?_
    exact_mod_cast Nat.succ_le_succ_sqrt' x

/-- What RNORM's word is rounded from, in units of 2^-u of the lower exponent. -/
def normMid (u v : Nat) (zs : Int) (n cnt q sm : Nat) (se b be : Int) : Int :=
  let z : Int := if q = 0 then 0 else (if zs < 0 then -1 else 1) * (isqrt (n * n * cnt * 2 ^ v / q) : Nat)
  zshift (z * sm) (se - min se be) + zshift (b * 2 ^ u) (be - min se be)

theorem normMid_error {u v : Nat} (hv : v = 2 * u) (hu : u ≤ 2 ^ 18) {zs : Int} {n cnt q sm : Nat} (hle : n * n ≤ q) (hcnt : cnt ≤ 64)
    (hzs : zs.natAbs = n * sm) (hsm : sm < 2 ^ 24) {se : Int} (hse : se ≤ 104) (b be : Int) :
    |(normMid u v zs n cnt q sm se b be : ℝ) * 2 ^ (min se be - u) - normVal zs se cnt q b be| ≤ 2 ^ (128 - u : Int) := by
  obtain ⟨z, hz⟩ : ∃ z : Int, z = if q = 0 then 0 else (if zs < 0 then (-1 : Int) else 1) * (isqrt (n * n * cnt * 2 ^ v / q) : Nat) :=
    ⟨_, rfl⟩
  obtain ⟨σ, hσ⟩ : ∃ σ : ℝ, σ = if zs < 0 then -1 else 1 := ⟨_, rfl⟩
  have hσ1 : |σ| = 1 := by rw [hσ]; split_ifs <;> simp
  have hunit : (2 : ℝ) ^ (u : Int) * 2 ^ (-(u : Int)) = 1 := by rw [← zpow_add₀ two_ne_zero]; simp
  have hmid : (normMid u v zs n cnt q sm se b be : ℝ) * 2 ^ (min se be - u) = (z * sm) * 2 ^ (-(u : Int)) * 2 ^ se + b * 2 ^ be := by
    have h1 := mul_two_pow_sub ((z : ℝ) * sm) (min_le_left se be)
    have h2 := mul_two_pow_sub ((b : ℝ) * 2 ^ u) (min_le_right se be)
    rw [← zpow_natCast] at h2
    have hb : (b : ℝ) * 2 ^ (u : Int) * 2 ^ be * 2 ^ (-(u : Int)) = b * 2 ^ be := by linear_combination (b : ℝ) * 2 ^ be * hunit
    rw [sub_eq_add_neg, zpow_add₀ two_ne_zero, ← mul_assoc, normMid]
    rw [← hz]
    simp only [zshift]
    push_cast
    rw [← zpow_natCast (2 : ℝ) u, add_mul, h1, h2, add_mul, hb]
    ring
  have hzsR : (zs : ℝ) = σ * (n * sm) := by
    have : (zs.natAbs : ℝ) = n * sm := by exact_mod_cast hzs
    rw [← this, hσ, Nat.cast_natAbs, Int.cast_abs]
    split_ifs with h
    · rw [abs_of_neg (by exact_mod_cast h)]; ring
    · rw [abs_of_nonneg (by exact_mod_cast not_lt.1 h)]; ring
  obtain ⟨r, hr⟩ : ∃ r : ℝ, r = n * Real.sqrt (cnt / q) := ⟨_, rfl⟩
  have hzr : |z * 2 ^ (-(u : Int)) - σ * r| ≤ 2 ^ (-(u : Int)) := by
    by_cases hq : q = 0
    · have hr0 : r = 0 := by rw [hr, hq]; simp
      rw [hz, if_pos hq, hr0]
      simp only [Int.cast_zero, zero_mul, mul_zero, sub_zero, abs_zero]
      positivity
    · obtain ⟨h1, h2⟩ := isqrt_cut hv hu hq hle hcnt
      rw [← hr] at h1 h2
      have hzR : (z : ℝ) = σ * (isqrt (n * n * cnt * 2 ^ v / q) : Nat) := by
        rw [hz, if_neg hq, hσ]
        push_cast
        rfl
      have hru : r = r * 2 ^ u * 2 ^ (-(u : Int)) := by rw [← zpow_natCast (2 : ℝ) u]; linear_combination -r * hunit
      have hp : (0 : ℝ) < 2 ^ (-(u : Int)) := by positivity
      generalize ((isqrt (n * n * cnt * 2 ^ v / q) : Nat) : ℝ) = y at h1 h2 hzR
      rw [hzR, hru, mul_assoc, ← mul_sub, ← sub_mul, abs_mul, hσ1, one_mul, abs_mul, abs_of_pos hp]
      have : |y - r * 2 ^ u| ≤ 1 := by rw [abs_le]; constructor <;> linarith
      nlinarith
  have hdiff : (z * sm) * 2 ^ (-(u : Int)) * 2 ^ se + b * 2 ^ be - normVal zs se cnt q b be =
      (z * 2 ^ (-(u : Int)) - σ * r) * (sm * 2 ^ se) := by
    rw [normVal, hzsR, hr]
    ring
  rw [hmid, hdiff, abs_mul]
  have hsmR : (sm : ℝ) ≤ 2 ^ (24 : Int) := by norm_num; exact_mod_cast hsm.le
  have hseR : (2 : ℝ) ^ se ≤ 2 ^ (104 : Int) := zpow_le_zpow_right₀ one_le_two hse
  have hs : |(sm : ℝ) * 2 ^ se| ≤ 2 ^ (128 : Int) := by
    rw [abs_of_nonneg (by positivity)]
    calc (sm : ℝ) * 2 ^ se ≤ 2 ^ (24 : Int) * 2 ^ (104 : Int) := mul_le_mul hsmR hseR (by positivity) (by positivity)
      _ = 2 ^ (128 : Int) := by rw [← zpow_add₀ two_ne_zero]; norm_num
  calc _ ≤ (2 : ℝ) ^ (-(u : Int)) * 2 ^ (128 : Int) := mul_le_mul hzr hs (abs_nonneg _) (by positivity)
    _ = 2 ^ (128 - u : Int) := by rw [← zpow_add₀ two_ne_zero]; congr 1; ring

end Sys2Proof.Machine

/-! PROOFS. RNORM's word for numbers lies within 4 ulps (spec/03_numbers.md R104, spec/09_matrix_function_instructions.md R280). -/

namespace Sys2Proof.Machine

open Sys2Proof.Claims

/-- RNORM's exponent: an estimate that may miss by one, put right by exact comparisons. -/
def normExp (cmp : Int → Int → Option Ordering) (k : Int) : Int :=
  let neg := cmp 0 0 == some .lt
  let size (k : Int) : Bool := if neg then cmp (-1) k == some .lt || cmp (-1) k == some .eq else cmp 1 k != some .lt
  if size (k + 1) then k + 1 else if size k then k else k - 1

section
variable {cmp : Int → Int → Option Ordering} {V : ℝ} (hcmp : ∀ t e, Compares (cmp t e) V (t * 2 ^ e))
include hcmp

theorem cmp_size (k : Int) : (if cmp 0 0 == some .lt then cmp (-1) k == some .lt || cmp (-1) k == some .eq
    else cmp 1 k != some .lt) = true ↔ 2 ^ k ≤ |V| := by
  have hpos : (0 : ℝ) < 2 ^ k := by positivity
  obtain ⟨h0, -, -⟩ := hcmp 0 0
  obtain ⟨h1, -, -⟩ := hcmp 1 k
  obtain ⟨h2, -, h3⟩ := hcmp (-1) k
  rw [Int.cast_zero, zero_mul] at h0
  rw [Int.cast_one, one_mul] at h1
  rw [Int.cast_neg, Int.cast_one, neg_one_mul] at h2 h3
  by_cases hV : V < 0
  · rw [if_pos (by rw [beq_iff_eq, h0]; exact hV), Bool.or_eq_true, beq_iff_eq, beq_iff_eq, h2, h3, ← le_iff_lt_or_eq, abs_of_neg hV, le_neg]
  · rw [if_neg (by rw [beq_iff_eq, h0]; exact hV), bne_iff_ne, ne_eq, h1, not_lt, abs_of_nonneg (not_lt.1 hV)]

theorem normExp_eq {k K : Int} (h1 : 2 ^ K ≤ |V|) (h2 : |V| < 2 ^ (K + 1)) (hk1 : K - 1 ≤ k) (hk2 : k ≤ K + 1) : normExp cmp k = K := by
  have hsize (j : Int) : (if cmp 0 0 == some .lt then cmp (-1) j == some .lt || cmp (-1) j == some .eq else cmp 1 j != some .lt) = true ↔
      j ≤ K := by
    rw [cmp_size hcmp]
    refine ⟨fun h => ?_, fun h => (zpow_le_zpow_right₀ one_le_two h).trans h1⟩
    have := (zpow_lt_zpow_iff_right₀ (one_lt_two (α := ℝ))).1 (h.trans_lt h2)
    omega
  simp only [normExp, hsize]
  split_ifs <;> omega

theorem compares_tells : Tells cmp V := fun t => by
  obtain ⟨h1, h2, -⟩ := hcmp t (-200)
  exact ⟨fun h => not_lt.1 (mt h1.2 h), fun h => not_lt.1 (mt h2.2 h)⟩

end

/-- A near value that is off by little, rounded. -/
theorem near_round_close {n : Near} (negZero : Bool) {V : ℝ} {K : Int} (hK1 : -125 ≤ K) (hK2 : K ≤ 126) (h1 : 2 ^ K ≤ |V|)
    (h2 : |V| < 2 ^ (K + 1)) (hn : |(n.mid : ℝ) * 2 ^ (n.e - 640) - V| ≤ 2 ^ (K - 25)) :
    (∃ (neg : Bool) (y : ℚ), Finite (Fmt.b32.decode false (n.round negZero)) neg y ∧ |(y : ℝ) - V| ≤ (4 : Nat) * 2 ^ (K - 23)) ∧
      n.mid.natAbs ≠ 0 ∧ K - 1 ≤ n.mid.natAbs.log2 + (n.e - 640) ∧ n.mid.natAbs.log2 + (n.e - 640) ≤ K + 1 := by
  obtain ⟨u, hu⟩ : ∃ u, u = n.e - 640 := ⟨_, rfl⟩
  obtain ⟨a, ha⟩ : ∃ a : ℝ, a = 2 ^ (K - 25) := ⟨_, rfl⟩
  have hap : 0 < a := by rw [ha]; positivity
  have e0 : (2 : ℝ) ^ K = 33554432 * a := by
    rw [ha, show (33554432 : ℝ) = 2 ^ (25 : Int) by norm_num, ← zpow_add₀ two_ne_zero]
    congr 1
    ring
  have e1 : (2 : ℝ) ^ (K + 1) = 67108864 * a := by rw [zpow_add_one₀ two_ne_zero, e0]; ring
  have e2 : (2 : ℝ) ^ (K + 1 + 1) = 134217728 * a := by rw [zpow_add_one₀ two_ne_zero, e1]; ring
  have em : (2 : ℝ) ^ (K - 1) = 16777216 * a := by rw [zpow_sub_one₀ two_ne_zero, e0]; ring
  have e23 : (2 : ℝ) ^ (K - 23) = 4 * a := by
    rw [ha, show (4 : ℝ) = 2 ^ (2 : Int) by norm_num, ← zpow_add₀ two_ne_zero]
    congr 1
    ring
  rw [← hu, ← ha] at hn
  rw [e0] at h1
  rw [e1] at h2
  have habs : |(n.mid : ℝ) * 2 ^ u| = n.mid.natAbs * 2 ^ u := by
    rw [abs_mul, abs_of_pos (show (0 : ℝ) < 2 ^ u by positivity), Nat.cast_natAbs, Int.cast_abs]
  have hx1 : 33554431 * a ≤ (n.mid.natAbs : ℝ) * 2 ^ u := by
    have := abs_sub_abs_le_abs_sub V ((n.mid : ℝ) * 2 ^ u)
    rw [abs_sub_comm, habs] at this
    linarith
  have hx2 : (n.mid.natAbs : ℝ) * 2 ^ u < 67108865 * a := by
    have := abs_sub_abs_le_abs_sub ((n.mid : ℝ) * 2 ^ u) V
    rw [habs] at this
    linarith
  have hM : n.mid.natAbs ≠ 0 := by
    intro h0
    rw [h0, Nat.cast_zero, zero_mul] at hx1
    linarith
  obtain ⟨hb1, hb2⟩ := binade_of_log2_real hM u
  have hlow := (zpow_lt_zpow_iff_right₀ (one_lt_two (α := ℝ))).1 (show (2 : ℝ) ^ (K - 1) < 2 ^ ((n.mid.natAbs.log2 : Int) + u + 1) by linarith)
  have hhigh := (zpow_lt_zpow_iff_right₀ (one_lt_two (α := ℝ))).1 (show (2 : ℝ) ^ ((n.mid.natAbs.log2 : Int) + u) < 2 ^ (K + 1 + 1) by linarith)
  refine ⟨?_, hM, by omega, by omega⟩
  have ha103 : a ≤ 2 ^ (101 : Int) := ha ▸ zpow_le_zpow_right₀ one_le_two (by omega)
  have hx : (n.mid.natAbs : ℚ) * 2 ^ u < 2 ^ (K + 1 + 1) := by
    refine (Rat.cast_lt (K := ℝ)).1 ?_
    push_cast
    linarith
  have hmax : (n.mid.natAbs : ℚ) * 2 ^ u + 2 ^ (K + 1 - ((Fmt.frac .b32 + 1 : Nat) : Int)) ≤ Fmt.b32.maxMag := by
    refine (Rat.cast_le (K := ℝ)).1 ?_
    have hb : 67108869 * a ≤ ((Fmt.b32.maxMag : ℚ) : ℝ) := by
      rw [maxMag_b32]
      norm_num at ha103 ⊢
      linarith
    rw [show K + 1 - ((Fmt.frac .b32 + 1 : Nat) : Int) = K - 23 by simp only [Fmt.frac]; push_cast; ring]
    push_cast
    rw [e23]
    linarith
  obtain ⟨y, hy, herr⟩ := encodeWide_error_of_lt (k := .b32) rfl 0 true (decide (n.mid < 0)) hM (e := u) (top := K + 1)
    (by rw [show Fmt.b32.emin = -126 from rfl]; omega) hx hmax
  rw [worth_int, show K + 1 - ((Fmt.frac .b32 + 1 : Nat) : Int) = K - 23 by simp only [Fmt.frac]; push_cast; ring] at herr
  refine ⟨decide (n.mid < 0), y, ?_, ?_⟩
  · rw [Near.round, if_neg (by omega), ← hu]
    exact hy
  · have herr' := (Rat.cast_le (K := ℝ)).2 herr
    push_cast at herr'
    rw [e23] at herr' ⊢
    have := abs_sub_le (y : ℝ) (n.mid * 2 ^ u) V
    push_cast
    linarith

/-- RNORM's word for numbers, from the exact comparison and the near value. -/
def normWord (cmp : Int → Int → Option Ordering) (mid e0 : Int) (free : BitVec 32) : Nat :=
  if within cmp (normExp cmp (mid.natAbs.log2 + e0 - 1600) - 23) 4 none free.toNat then free.toNat
  else Near.round { mid := mid, e := e0 - 960 } (cmp 0 0 == some .lt)

theorem normWord_within {cmp : Int → Int → Option Ordering} {V : ℝ} (hcmp : ∀ t e, Compares (cmp t e) V (t * 2 ^ e)) {mid e0 : Int}
    (hmid : |(mid : ℝ) * 2 ^ (e0 - 1600) - V| ≤ 2 ^ (128 - 1600 : Int)) (free : BitVec 32) :
    WithinUlps 4 (normWord cmp mid e0 free) V := by
  intro K hK1 hK2 h1 h2
  have hunit : e0 - 960 - 640 = e0 - 1600 := by ring
  obtain ⟨hround, hM, hlow, hhigh⟩ := near_round_close (n := { mid := mid, e := e0 - 960 }) (cmp 0 0 == some .lt) hK1 hK2 h1 h2 (by
    rw [hunit]
    exact hmid.trans (zpow_le_zpow_right₀ one_le_two (by omega)))
  dsimp only at hlow hhigh
  rw [hunit] at hlow hhigh
  have hexp : normExp cmp (mid.natAbs.log2 + e0 - 1600) = K := normExp_eq hcmp h1 h2 (by omega) (by omega)
  rw [normWord, hexp]
  split_ifs with hw
  · exact within_bound (compares_tells hcmp) le_rfl hK1 hK2 h1 h2 hw
  · exact hround

theorem normWord_lt (cmp : Int → Int → Option Ordering) (mid e0 : Int) (free : BitVec 32) : normWord cmp mid e0 free < 2 ^ 32 := by
  unfold normWord
  split_ifs
  · exact free.isLt
  · exact near_round_lt ..

end Sys2Proof.Machine

/-! PROOFS. RNORM's result for a position (spec/09_matrix_function_instructions.md R280). -/

namespace Sys2Proof.Machine

open Sys2Proof.Claims

/-- The factor of a value's sign. -/
def minus (v : FVal) : ℝ := if v.isNeg then -1 else 1

/-- Whether z s + b creates a NaN of values that are none. -/
def Made (z : ℝ) (s b : FVal) : Prop := s.isInf = true ∧ (z = 0 ∨ (b.isInf = true ∧ z * minus s * minus b < 0))

/-! ### Numbers -/

/-- Where the squares cancel, the result is 0. -/
theorem normVal_cancel {cnt q : Nat} (hcnt : cnt ≠ 0) (hq : q ≠ 0) {zs b se be : Int} (hsign : zs * b < 0)
    (heq : zshift (zs * zs * cnt) (2 * se - min (2 * se) (2 * be)) = zshift (b * b * q) (2 * be - min (2 * se) (2 * be))) :
    normVal zs se cnt q b be = 0 := by
  have hqR : (q : ℝ) ≠ 0 := by exact_mod_cast hq
  have hsq : (zs * 2 ^ se : ℝ) * (zs * 2 ^ se) * cnt = (b * 2 ^ be) * (b * 2 ^ be) * q := by
    have h := congrArg (fun x : Int => (x : ℝ) * 2 ^ min (2 * se) (2 * be)) heq
    simp only [zshift] at h
    push_cast at h
    rw [mul_two_pow_sub _ (min_le_left ..), mul_two_pow_sub _ (min_le_right ..), two_mul, two_mul, zpow_add₀ two_ne_zero,
      zpow_add₀ two_ne_zero] at h
    linarith
  have hroot := ratio_sq hcnt hq (zs * 2 ^ se)
  rw [hsq] at hroot
  rcases mul_self_eq_mul_self_iff.1 (mul_right_cancel₀ hqR hroot) with h | h
  · have hneg : (zs : ℝ) * b < 0 := by exact_mod_cast hsign
    have hp : (0 : ℝ) < 2 ^ se * Real.sqrt (cnt / q) * 2 ^ be := by have := ratio_pos hcnt hq; positivity
    have hself := mul_self_nonneg ((b : ℝ) * 2 ^ be)
    have : (b : ℝ) * 2 ^ be * (b * 2 ^ be) = zs * b * (2 ^ se * Real.sqrt (cnt / q) * 2 ^ be) := by
      nth_rewrite 1 [← h]
      ring
    nlinarith
  · rw [normVal, h, neg_add_cancel]

section
variable {cnt q : Nat} (hcnt : cnt ≠ 0) (h64 : cnt ≤ 64) {n : Int} (hle : n.natAbs * n.natAbs ≤ q) (free : BitVec 32)
include hcnt h64 hle

theorem normOut_fin (sn bn : Bool) {sm : Nat} (bm : Nat) {se : Int} (be : Int) (hsm : sm < 2 ^ 24) (hse : se ≤ 104) :
    let s : FVal := .fin sn sm se
    let b : FVal := .fin bn bm be
    let o := normOut n cnt q s b free
    o.1 < 2 ^ 32 ∧ o.2 = 0 ∧ WithinUlps 4 o.1 (n * Real.sqrt (cnt / q) * worth s + worth b) := by
  intro s b o
  obtain ⟨zs, hzs⟩ : ∃ zs : Int, zs = (if sn then -1 else 1) * n * sm := ⟨_, rfl⟩
  obtain ⟨bs, hbs⟩ : ∃ bs : Int, bs = (if bn then -1 else 1) * bm := ⟨_, rfl⟩
  have ho : o = if zs = 0 ∧ bs = 0 then ((Fmt.b32.ofVal .nearest 0 true ((FVal.mul (.fin (decide (n < 0)) n.natAbs 0) s).1.add .nearest b).1).1, 0)
      else if q ≠ 0 ∧ zs * bs < 0 ∧ zshift (zs * zs * cnt) (2 * se - min (2 * se) (2 * be)) =
        zshift (bs * bs * q) (2 * be - min (2 * se) (2 * be)) then (0, 0)
      else (normWord (normCmp zs se cnt q bs be) (normMid 1600 3200 zs n.natAbs cnt q sm se bs be) (min se be) free, 0) := by
    rw [hzs, hbs]
    rfl
  have hV : n * Real.sqrt (cnt / q) * worth s + worth b = normVal zs se cnt q bs be := by
    simp only [s, b, worth_cast, normVal, hzs, hbs]
    cases sn <;> cases bn <;> simp <;> ring
  have hzero {x : ℝ} (hx : x = 0) (w : Nat) : WithinUlps 4 w x := withinUlps_of_lt (by rw [hx, abs_zero]; positivity)
  rw [hV, ho]
  split_ifs with h1 h2
  · exact ⟨ofVal_lt _, rfl, hzero (by simp [normVal, h1.1, h1.2]) _⟩
  · obtain ⟨hq, hsign, heq⟩ := h2
    exact ⟨by norm_num, rfl, hzero (normVal_cancel hcnt hq hsign heq) _⟩
  · have habs : zs.natAbs = n.natAbs * sm := by rw [hzs]; cases sn <;> simp [Int.natAbs_mul]
    exact ⟨normWord_lt .., rfl, normWord_within (normCmp_compares hcnt zs se bs be)
      (normMid_error (u := 1600) (v := 3200) (by norm_num) (by norm_num) hle h64 habs hsm hse bs be) free⟩

end

/-! ### Infinities and NaNs -/

theorem normOut_nan (n : Int) (cnt q : Nat) {s b : FVal} (free : BitVec 32) (h : (s.isNan || b.isNan) = true) :
    normOut n cnt q s b free = (0x7FC00000, flIf (s.isSnan || b.isSnan) flNv) := if_pos h

theorem normOut_scale_inf (n : Int) (cnt q : Nat) (u : Bool) {b : FVal} (free : BitVec 32) (hb : b.isNan = false) :
    normOut n cnt q (.inf u) b free = if n = 0 ∨ (b.isInf = true ∧ b.isNeg ≠ (decide (n < 0) != u)) then (0x7FC00000, flNv)
      else (infWord (decide (n < 0) != u), 0) := by
  have hp : FVal.mul (.fin (decide (n < 0)) n.natAbs 0) (.inf u) = if n = 0 then (.nan false, flNv) else (.inf (u != decide (n < 0)), 0) := by
    rw [mul_fin_inf]
    simp only [Int.natAbs_eq_zero]
  rw [bne_comm (a := decide (n < 0))]
  cases b with
  | nan s => cases hb
  | inf v =>
    by_cases hn : n = 0
    · rw [hn]
      cases u <;> cases v <;> rfl
    · simp only [normOut, hp, hn, FVal.isNan, FVal.isInf, FVal.isNeg, FVal.add, if_false, false_or, true_and]
      by_cases hv : v = (u != decide (n < 0))
      · simp [← hv, ofVal_inf]
      · simp [hv, Ne.symm hv, nanWord]
  | fin bn bm be =>
    by_cases hn : n = 0
    · rw [hn]
      cases u <;> rfl
    · simp [normOut, hp, hn, FVal.isNan, FVal.isInf, FVal.add, ofVal_inf]

theorem normOut_bias_inf (n : Int) (cnt q : Nat) (sn : Bool) (sm : Nat) (se : Int) (u : Bool) (free : BitVec 32) :
    normOut n cnt q (.fin sn sm se) (.inf u) free = (infWord u, 0) := by
  simp [normOut, mul_fin, FVal.isNan, FVal.add, ofVal_inf]

/-! ### The result -/

section
variable {cnt q : Nat} (hcnt : cnt ≠ 0) {n : Int} (hle : n.natAbs * n.natAbs ≤ q)
include hcnt hle

theorem normZ_eq_zero : n * Real.sqrt (cnt / q) = 0 ↔ n = 0 := by
  by_cases hn : n = 0
  · simp [hn]
  · have hq : q ≠ 0 := by
      rintro rfl
      exact hn (Int.natAbs_eq_zero.1 (mul_self_eq_zero.1 (Nat.le_zero.1 hle)))
    exact iff_of_false (mul_ne_zero (by exact_mod_cast hn) (ratio_pos hcnt hq).ne') hn

theorem normZ_neg : n * Real.sqrt (cnt / q) < 0 ↔ n < 0 := by
  have hroot := Real.sqrt_nonneg ((cnt : ℝ) / q)
  constructor
  · intro h
    exact_mod_cast neg_of_mul_neg_left h hroot
  · intro h
    have hnR : (n : ℝ) < 0 := by exact_mod_cast h
    exact lt_of_le_of_ne (mul_nonpos_of_nonpos_of_nonneg hnR.le hroot) (mt (normZ_eq_zero hcnt hle).1 h.ne)

/-- The sign of z times a signed unit. -/
theorem normZ_minus_neg (hn : n ≠ 0) (v : FVal) : n * Real.sqrt (cnt / q) * minus v < 0 ↔ (decide (n < 0) != v.isNeg) = true := by
  have hz := normZ_neg hcnt hle
  have h0 := mt (normZ_eq_zero hcnt hle).1 hn
  generalize n * Real.sqrt (cnt / q) = x at hz h0
  have hpos : 0 < x ↔ ¬n < 0 := by
    rw [← hz, not_lt]
    exact ⟨le_of_lt, fun h => lt_of_le_of_ne h (Ne.symm h0)⟩
  unfold minus
  cases v.isNeg with
  | false => simp [hz]
  | true => simpa using hpos

theorem made_inf (u : Bool) {b : FVal} : Made (n * Real.sqrt (cnt / q)) (.inf u) b ↔
    n = 0 ∨ (b.isInf = true ∧ b.isNeg ≠ (decide (n < 0) != u)) := by
  have hz := normZ_eq_zero hcnt hle
  rw [Made, hz]
  simp only [show FVal.isInf (.inf u) = true from rfl, true_and]
  by_cases hn : n = 0
  · simp [hn]
  · have hzu := normZ_minus_neg hcnt hle hn (.inf u)
    have hne : n * Real.sqrt (cnt / q) * minus (.inf u) ≠ 0 := by
      refine mul_ne_zero (mt hz.1 hn) ?_
      unfold minus
      split_ifs <;> norm_num
    rw [show FVal.isNeg (.inf u) = u from rfl] at hzu
    generalize n * Real.sqrt (cnt / q) * minus (.inf u) = x at hzu hne
    simp only [hn, false_or]
    refine and_congr_right fun _ => ?_
    generalize (decide (n < 0) != u) = t at hzu
    unfold minus
    have hpos : 0 < x ↔ ¬x < 0 := by
      rw [not_lt]
      exact ⟨le_of_lt, fun h => lt_of_le_of_ne h (Ne.symm hne)⟩
    cases b.isNeg <;> simp [hpos, hzu]

/-- RNORM's word and flags for a position whose row has numbers, by its scale and its bias. -/
theorem normOut_result (h64 : cnt ≤ 64) {s b : FVal} (hs : ∀ u m e, s = .fin u m e → m < 2 ^ 24 ∧ e ≤ 104) (free : BitVec 32) :
    let z : ℝ := n * Real.sqrt (cnt / q)
    let o := normOut n cnt q s b free
    o.1 < 2 ^ 32 ∧
    (s.isNan = true ∨ b.isNan = true ∨ Made z s b → o.1 = 0x7FC00000) ∧
    (¬(s.isNan = true ∨ b.isNan = true ∨ Made z s b) → (s.isInf = true → o.1 = infWord (decide (z * minus s < 0))) ∧
      (s.isInf = false → (b.isInf = true → o.1 = infWord b.isNeg) ∧
        (b.isInf = false → WithinUlps 4 o.1 (z * worth s + worth b)))) ∧
    ∀ k, o.2.getLsbD k = true ↔ k = 4 ∧ (s.isSnan = true ∨ b.isSnan = true ∨ (s.isNan = false ∧ b.isNan = false ∧ Made z s b)) := by
  intro z o
  by_cases hnan : (s.isNan || b.isNan) = true
  · have ho : o = _ := normOut_nan n cnt q free hnan
    rw [Bool.or_eq_true] at hnan
    rw [ho]
    refine ⟨(by decide : 0x7FC00000 < 2 ^ 32), fun _ => rfl, fun h => absurd (by tauto) h, fun k => ?_⟩
    rw [flIf_nv, Bool.or_eq_true]
    have : ¬(s.isNan = false ∧ b.isNan = false ∧ Made z s b) := by
      rintro ⟨h1, h2, -⟩
      rw [h1, h2] at hnan
      simp at hnan
    tauto
  · rw [Bool.or_eq_true, not_or, Bool.not_eq_true, Bool.not_eq_true] at hnan
    obtain ⟨hsn, hbn⟩ := hnan
    have hsnan {v : FVal} (h : v.isNan = false) : ¬v.isSnan = true := fun h' => by rw [isNan_of_isSnan h'] at h; cases h
    have hss := hsnan hsn
    have hbs := hsnan hbn
    simp only [hsn, hbn, hss, hbs, Bool.false_eq_true, false_or, true_and]
    cases s with
    | nan u => cases hsn
    | inf u =>
      have ho : o = _ := normOut_scale_inf n cnt q u free hbn
      rw [ho, made_inf hcnt hle u]
      by_cases hm : n = 0 ∨ (b.isInf = true ∧ b.isNeg ≠ (decide (n < 0) != u))
      · rw [if_pos hm]
        exact ⟨by decide, fun _ => rfl, fun h => absurd hm h, fun k => by simpa [flIf, hm] using flIf_nv true k⟩
      · have hn : n ≠ 0 := fun h => hm (.inl h)
        have hneg := normZ_minus_neg hcnt hle hn (.inf u)
        rw [show FVal.isNeg (.inf u) = u from rfl] at hneg
        have hdec : decide (z * minus (.inf u) < 0) = (decide (n < 0) != u) := by rw [Bool.eq_iff_iff, decide_eq_true_iff]; exact hneg
        rw [if_neg hm, hdec]
        exact ⟨by cases (decide (n < 0) != u) <;> decide, fun h => absurd h hm, fun _ => ⟨fun _ => rfl, fun h => by cases h⟩,
          fun k => by simp [hm]⟩
    | fin sn sm se =>
      obtain ⟨hsm, hse⟩ := hs sn sm se rfl
      have hmade : ¬Made z (.fin sn sm se) b := fun h => by cases h.1
      cases b with
      | nan u => cases hbn
      | inf u =>
        have ho : o = _ := normOut_bias_inf n cnt q sn sm se u free
        rw [ho]
        exact ⟨by cases u <;> decide, fun h => absurd h hmade, fun _ => ⟨fun h => (by cases h), fun _ => ⟨fun _ => rfl, fun h => by cases h⟩⟩,
          fun k => by simp [hmade]⟩
      | fin bn bm be =>
        obtain ⟨h1, h2, h3⟩ := normOut_fin hcnt h64 hle free sn bn bm be hsm hse
        refine ⟨h1, fun h => absurd h hmade, fun _ => ⟨fun h => (by cases h), fun _ => ⟨fun h => (by cases h), fun _ => h3⟩⟩, fun k => ?_⟩
        rw [show o.2 = 0 from h2]
        simp [hmade]

end

end Sys2Proof.Machine

/-! PROOFS. An RNORM row: its exact sums, its words and its flags (spec/09_matrix_function_instructions.md R280). -/

namespace Sys2Proof.Machine

open Sys2Proof.Claims

/-! ### Exact sums -/

/-- A number in units of 2^-149. -/
def unitOf : FVal → Int
  | .fin n m e => zshift (if n then -(m : Int) else m) (e + 149)
  | _ => 0

theorem unitOf_worth {w : Nat} (h : ¬((fSource w).isNan = true ∨ (fSource w).isInf = true)) :
    (worth (fSource w) : ℝ) = unitOf (fSource w) * 2 ^ (-149 : Int) := by
  obtain ⟨v, hv⟩ : ∃ v, fSource w = v := ⟨_, rfl⟩
  rw [hv] at h ⊢
  cases v with
  | nan s => exact absurd (.inl rfl) h
  | inf u => exact absurd (.inr rfl) h
  | fin neg m e =>
    obtain ⟨h1, -, -⟩ := decode_b32_bounds hv
    rw [worth_cast, unitOf, zshift_cast _ (by omega), mul_assoc, ← zpow_add₀ two_ne_zero]
    congr 2
    ring

theorem sum_map_cast {α : Type} (g : α → Int) (ls : List α) : (((ls.map g).sum : Int) : ℝ) = (ls.map fun l => (g l : ℝ)).sum := by
  induction ls with
  | nil => simp
  | cons a ls ih => simp [ih]

/-- A number of a row is at most the row's sum of squares, by its square. -/
theorem sq_le_sum {α : Type} (g : α → Int) {ls : List α} {l : α} (hl : l ∈ ls) :
    (g l).natAbs * (g l).natAbs ≤ (ls.map fun l => (g l).natAbs * (g l).natAbs).sum :=
  List.single_le_sum (fun _ _ => Nat.zero_le _) _ (List.mem_map.2 ⟨l, hl, rfl⟩)

theorem sum_sq_cast {α : Type} (g : α → Int) (ls : List α) :
    (((ls.map fun l => (g l).natAbs * (g l).natAbs).sum : Nat) : ℝ) = (ls.map fun l => (g l : ℝ) ^ 2).sum := by
  induction ls with
  | nil => simp
  | cons a ls ih =>
    rw [List.map_cons, List.sum_cons, List.map_cons, List.sum_cons, Nat.cast_add, ih, Nat.cast_mul, Nat.cast_natAbs, Int.cast_abs,
      abs_mul_abs_self, sq]

/-- A row's numbers scaled alike have the same quotient by the root of their mean square. -/
theorem scaled_div_root {c : ℝ} (hc : 0 < c) {cnt q : Nat} (n : Int) (hn : n.natAbs * n.natAbs ≤ q) (hcnt : cnt ≠ 0) :
    (if c ^ 2 * q / cnt = 0 then 0 else c * n / Real.sqrt (c ^ 2 * q / cnt)) = n * Real.sqrt (cnt / q) := by
  have hcntR : (cnt : ℝ) ≠ 0 := by exact_mod_cast hcnt
  by_cases hq : q = 0
  · subst hq
    have h0 : n = 0 := Int.natAbs_eq_zero.1 (mul_self_eq_zero.1 (Nat.le_zero.1 hn))
    simp [h0]
  · have hqR : (0 : ℝ) < q := by exact_mod_cast Nat.pos_of_ne_zero hq
    have hpos : (0 : ℝ) < c ^ 2 * q / cnt := by positivity
    have hroot : Real.sqrt (c ^ 2 * q / cnt) * Real.sqrt (cnt / q) = c := by
      rw [← Real.sqrt_mul hpos.le, show c ^ 2 * q / cnt * (cnt / q) = c ^ 2 by field_simp, Real.sqrt_sq hc.le]
    rw [if_neg hpos.ne', div_eq_iff (Real.sqrt_pos.2 hpos).ne', mul_assoc, mul_comm (Real.sqrt (cnt / q)), hroot, mul_comm]

/-! ### z (R280) -/

/-- A position's number less the row's mean, or as it stands. -/
noncomputable def rowOff (layer : Bool) (ls : List Nat) (x : Nat → ℝ) (j : Nat) : ℝ :=
  if layer then x j - (ls.map x).sum / ls.length else x j

/-- The mean of their squares. -/
noncomputable def rowMs (layer : Bool) (ls : List Nat) (x : Nat → ℝ) : ℝ := (ls.map fun j => rowOff layer ls x j ^ 2).sum / ls.length

noncomputable def rowZ (layer : Bool) (ls : List Nat) (x : Nat → ℝ) (l : Nat) : ℝ :=
  if rowMs layer ls x = 0 then 0 else rowOff layer ls x l / Real.sqrt (rowMs layer ls x)

/-- The whole numbers that z is a quotient of. -/
def rowInt (layer : Bool) (ls : List Nat) (u : Nat → Int) (j : Nat) : Int := if layer then ls.length * u j - (ls.map u).sum else u j

def rowSq (layer : Bool) (ls : List Nat) (u : Nat → Int) : Nat :=
  (ls.map fun j => (rowInt layer ls u j).natAbs * (rowInt layer ls u j).natAbs).sum

theorem rowInt_sq_le (layer : Bool) {ls : List Nat} (u : Nat → Int) {l : Nat} (hl : l ∈ ls) :
    (rowInt layer ls u l).natAbs * (rowInt layer ls u l).natAbs ≤ rowSq layer ls u := sq_le_sum _ hl

theorem rowOff_eq (layer : Bool) {ls : List Nat} (hls : ls ≠ []) {x : Nat → ℝ} {u : Nat → Int} {p : ℝ} (hp : 0 < p)
    (hx : ∀ j ∈ ls, x j = u j * p) : ∃ c, 0 < c ∧ ∀ j ∈ ls, rowOff layer ls x j = c * rowInt layer ls u j := by
  have hlen : (0 : ℝ) < ls.length := by exact_mod_cast List.length_pos_iff.2 hls
  cases layer with
  | false => exact ⟨p, hp, fun j hj => by simp only [rowOff, rowInt, Bool.false_eq_true, if_false, hx j hj, mul_comm]⟩
  | true =>
    refine ⟨p / ls.length, by positivity, fun j hj => ?_⟩
    have hsum : (ls.map x).sum = (ls.map fun j => (u j : ℝ)).sum * p := by
      rw [List.map_congr_left hx, List.sum_map_mul_right]
    simp only [rowOff, rowInt, if_true]
    rw [Int.cast_sub, sum_map_cast, hx j hj, hsum]
    push_cast
    field_simp

theorem rowZ_eq (layer : Bool) {ls : List Nat} {x : Nat → ℝ} {u : Nat → Int} {p : ℝ} (hp : 0 < p) (hx : ∀ j ∈ ls, x j = u j * p)
    {l : Nat} (hl : l ∈ ls) :
    rowZ layer ls x l = rowInt layer ls u l * Real.sqrt (ls.length / rowSq layer ls u) := by
  have hls := List.ne_nil_of_mem hl
  obtain ⟨c, hc, hoff⟩ := rowOff_eq layer hls hp hx
  have hms : rowMs layer ls x = c ^ 2 * rowSq layer ls u / ls.length := by
    have hsq : (ls.map fun j => rowOff layer ls x j ^ 2) = ls.map fun j => c ^ 2 * (rowInt layer ls u j : ℝ) ^ 2 :=
      List.map_congr_left fun j hj => by rw [hoff j hj, mul_pow]
    rw [rowMs, hsq, List.sum_map_mul_left, rowSq, sum_sq_cast]
  rw [rowZ, hms, hoff l hl]
  exact scaled_div_root hc _ (rowInt_sq_le layer u hl) (List.length_pos_iff.2 hls).ne'

/-! ### The row -/

section
variable (f : FR) (layer : Bool) (c : Ctx) (i : Nat) (ls : List Nat)

/-- The value that F reads of a lane of `vN`. -/
def laneVal (c : Ctx) (n l : Nat) : FVal := fSource (flushWord (element c 32 n l))

theorem rnormRow_wild (h : ((ls.map fun l => laneVal c f.a.toNat l).any fun v => v.isNan || v.isInf) = true) : rnormRow f layer c i ls =
    (fun _ _ => 0x7FC00000, flIf (((ls.map fun l => laneVal c f.a.toNat l).any fun v => v.isSnan || v.isInf) ||
      (ls.flatMap fun l => [laneVal c f.b.toNat l, laneVal c (f.b.toNat + 1) l]).any (·.isSnan)) flNv) := if_pos h

theorem rnormRow_numbers (h : ¬((ls.map fun l => laneVal c f.a.toNat l).any fun v => v.isNan || v.isInf) = true) :
    ∃ free : Nat → BitVec 32,
      let u (l : Nat) : Int := unitOf (laneVal c f.a.toNat l)
      let out (l : Nat) := normOut (rowInt layer ls u l) ls.length (rowSq layer ls u) (laneVal c f.b.toNat l)
        (laneVal c (f.b.toNat + 1) l) (free l)
      rnormRow f layer c i ls = (fun _ l => (out l).1, ls.foldl (fun fl l => fl ||| (out l).2) 0) := by
  refine ⟨fun l => Config.freeRow (if layer then 14 else 13) ((ls.map fun l => BitVec.ofNat 32 (flushWord (element c 32 f.a.toNat l))) ++
    (ls.map fun l => BitVec.ofNat 32 (flushWord (element c 32 f.b.toNat l))) ++
      ls.map fun l => BitVec.ofNat 32 (flushWord (element c 32 (f.b.toNat + 1) l))) l, ?_⟩
  intro u out
  simp only [out, rowInt, rowSq, List.sum_eq_foldl]
  exact if_neg h

end

end Sys2Proof.Machine

/-! PROOFS. The words and flags of an RNORM row, and O22. -/

namespace Sys2Proof.Machine

open Sys2Proof.Claims

/-! ### Words and flags of an RNORM row -/

/-- Whether a row holds a NaN or an infinity. -/
def Wild (c : Ctx) (n : Nat) (ls : List Nat) : Prop := ∃ j ∈ ls, (laneVal c n j).isNan = true ∨ (laneVal c n j).isInf = true

theorem wild_iff (c : Ctx) (n : Nat) (ls : List Nat) :
    ((ls.map fun l => laneVal c n l).any fun v => v.isNan || v.isInf) = true ↔ Wild c n ls := by
  rw [List.any_map, List.any_eq_true]
  simp only [Function.comp, Bool.or_eq_true]
  rfl

/-- z of R280 at a position of a row. -/
noncomputable def laneZ (c : Ctx) (n : Nat) (layer : Bool) (ls : List Nat) (l : Nat) : ℝ :=
  rowZ layer ls (fun j => (worth (laneVal c n j) : ℝ)) l

/-- Whether a position sets `nv` for its row. -/
def Signals (f : FR) (layer : Bool) (c : Ctx) (ls : List Nat) (j : Nat) : Prop :=
  (laneVal c f.a.toNat j).isSnan = true ∨ (laneVal c f.a.toNat j).isInf = true ∨ (laneVal c f.b.toNat j).isSnan = true ∨
  (laneVal c (f.b.toNat + 1) j).isSnan = true ∨
  (¬Wild c f.a.toNat ls ∧ (laneVal c f.b.toNat j).isNan = false ∧ (laneVal c (f.b.toNat + 1) j).isNan = false ∧
    Made (laneZ c f.a.toNat layer ls j) (laneVal c f.b.toNat j) (laneVal c (f.b.toNat + 1) j))

section
variable (f : FR) (layer : Bool) (c : Ctx) (i : Nat) {ls : List Nat} (hlen : ls.length ≤ 64)
include hlen

/-- The result of each position of a row of numbers. -/
theorem rnormRow_out (hw : ¬Wild c f.a.toNat ls) : ∃ out : Nat → Nat × Flags,
    rnormRow f layer c i ls = (fun _ l => (out l).1, ls.foldl (fun fl l => fl ||| (out l).2) 0) ∧
    ∀ l ∈ ls, let s := laneVal c f.b.toNat l
      let b := laneVal c (f.b.toNat + 1) l
      let z := laneZ c f.a.toNat layer ls l
      (out l).1 < 2 ^ 32 ∧
      (s.isNan = true ∨ b.isNan = true ∨ Made z s b → (out l).1 = 0x7FC00000) ∧
      (¬(s.isNan = true ∨ b.isNan = true ∨ Made z s b) → (s.isInf = true → (out l).1 = infWord (decide (z * minus s < 0))) ∧
        (s.isInf = false → (b.isInf = true → (out l).1 = infWord b.isNeg) ∧
          (b.isInf = false → WithinUlps 4 (out l).1 (z * worth s + worth b)))) ∧
      ∀ k, (out l).2.getLsbD k = true ↔
        k = 4 ∧ (s.isSnan = true ∨ b.isSnan = true ∨ (s.isNan = false ∧ b.isNan = false ∧ Made z s b)) := by
  obtain ⟨free, h⟩ := rnormRow_numbers f layer c i ls (mt (wild_iff c f.a.toNat ls).1 hw)
  refine ⟨_, h, fun l hl => ?_⟩
  have hz : laneZ c f.a.toNat layer ls l = _ := rowZ_eq layer (p := 2 ^ (-149 : Int)) (by positivity)
    (fun j hj => unitOf_worth fun h => hw ⟨j, hj, h⟩) hl
  have hs (u : Bool) (m : Nat) (e : Int) (h : laneVal c f.b.toNat l = .fin u m e) : m < 2 ^ 24 ∧ e ≤ 104 := by
    obtain ⟨-, h2, h3⟩ := decode_b32_bounds h
    exact ⟨h3, h2⟩
  simp only [hz]
  exact normOut_result (List.length_pos_of_mem hl).ne' (rowInt_sq_le layer _ hl) hlen hs (free l)

theorem rnormRow_word (g : Nat) {l : Nat} (hl : l ∈ ls) :
    let s := laneVal c f.b.toNat l
    let b := laneVal c (f.b.toNat + 1) l
    let z := laneZ c f.a.toNat layer ls l
    let y := (rnormRow f layer c i ls).1 g l % 2 ^ 32
    let nan := Wild c f.a.toNat ls ∨ s.isNan = true ∨ b.isNan = true ∨ Made z s b
    (nan → y = 0x7FC00000) ∧ (¬nan → (s.isInf = true → y = infWord (decide (z * minus s < 0))) ∧
      (s.isInf = false → (b.isInf = true → y = infWord b.isNeg) ∧ (b.isInf = false → WithinUlps 4 y (z * worth s + worth b)))) := by
  intro s b z y nan
  by_cases hw : Wild c f.a.toNat ls
  · have hy : y = 0x7FC00000 := by
      rw [show y = (rnormRow f layer c i ls).1 g l % 2 ^ 32 from rfl, rnormRow_wild f layer c i ls ((wild_iff c f.a.toNat ls).2 hw)]
      exact Nat.mod_eq_of_lt (by decide : 0x7FC00000 < 2 ^ 32)
    exact ⟨fun _ => hy, fun h => absurd (.inl hw) h⟩
  · obtain ⟨out, ho, hout⟩ := rnormRow_out f layer c i hlen hw
    obtain ⟨hlt, h1, h2, -⟩ := hout l hl
    have hy : y = (out l).1 := by
      simp only [y, ho]
      exact Nat.mod_eq_of_lt hlt
    rw [hy]
    exact ⟨fun h => h1 (h.resolve_left hw), fun h => h2 fun h' => h (.inr h')⟩

theorem rnormRow_flags (n : Nat) : (rnormRow f layer c i ls).2.getLsbD n = true ↔ n = 4 ∧ ∃ j ∈ ls, Signals f layer c ls j := by
  unfold Signals
  by_cases hw : Wild c f.a.toNat ls
  · rw [rnormRow_wild f layer c i ls ((wild_iff c f.a.toNat ls).2 hw), flIf_nv, Bool.or_eq_true, List.any_map, List.any_eq_true,
      List.any_flatMap, List.any_eq_true]
    simp only [Function.comp, Bool.or_eq_true, List.any_cons, List.any_nil, Bool.or_false, hw, not_true_eq_false, false_and, or_false]
    refine and_congr_right fun _ => ⟨?_, ?_⟩
    · rintro (⟨j, hj, h⟩ | ⟨j, hj, h⟩)
      · exact ⟨j, hj, by tauto⟩
      · exact ⟨j, hj, by tauto⟩
    · rintro ⟨j, hj, h | h | h | h⟩
      · exact .inl ⟨j, hj, .inl h⟩
      · exact .inl ⟨j, hj, .inr h⟩
      · exact .inr ⟨j, hj, .inl h⟩
      · exact .inr ⟨j, hj, .inr h⟩
  · obtain ⟨out, ho, hout⟩ := rnormRow_out f layer c i hlen hw
    rw [ho, foldl_or_bit fun l => (out l).2, show (0 : Flags).getLsbD n = false from BitVec.getLsbD_zero]
    simp only [Bool.false_eq_true, false_or]
    have hnum {j : Nat} (hj : j ∈ ls) : ¬(laneVal c f.a.toNat j).isSnan = true ∧ ¬(laneVal c f.a.toNat j).isInf = true :=
      ⟨fun h => hw ⟨j, hj, .inl (isNan_of_isSnan h)⟩, fun h => hw ⟨j, hj, .inr h⟩⟩
    constructor
    · rintro ⟨j, hj, h⟩
      obtain ⟨-, -, -, hfl⟩ := hout j hj
      obtain ⟨hn, h⟩ := (hfl n).1 h
      exact ⟨hn, j, hj, by tauto⟩
    · rintro ⟨hn, j, hj, h⟩
      obtain ⟨-, -, -, hfl⟩ := hout j hj
      obtain ⟨h1, h2⟩ := hnum hj
      exact ⟨j, hj, (hfl n).2 ⟨hn, by tauto⟩⟩

end

/-- Settles O22: each row operation writes an active lane what its row's cases give, where the value of a bound is near enough the
exact one that whatever the bound admits lies within it. -/
theorem rowFunctionsOfF : Obligations.RowFunctionsOfF := by
  intro s c f hc act rows good cols word a row rounded recip lane soft softFlag scale bias wild x mean off q z minus' made norm normFlag
  have hlen (l : Nat) : (row l).length ≤ 64 := rowOf_length_le act cols l
  have hself {l : Nat} (hl : l < 64) (ha : act.getLsbD l = true) : l ∈ row l := self_mem_rowOf hl ha
  have hsame {j l : Nat} (hj : j ∈ row l) : row j = row l ∧ j / cols = l / cols := ⟨rowOf_congr (mem_rowOf.1 hj).2.1, (mem_rowOf.1 hj).2.1⟩
  have hlane {i : Instr} {regs : Nat} {val : Nat → Nat → Nat → Prop} {flag : Nat → Nat → Prop} (h : RowResult s c f i regs val flag) :
      lane i regs val flag := h
  have hsmax (masked : Bool) {i : Instr} (hi : exec i s = runSlot s (rowOp f 1 (smaxRow f masked))) (hgood : act = 0 ∨ good = true) :
      lane i 1 (fun _ l y => soft masked l y) (softFlag masked) := by
    refine hlane (rowOp_result hc hi hgood (fun g l hg hl ha => ?_) fun l n hl ha => ?_)
    · obtain rfl : g = 0 := by omega
      exact smaxRow_word f masked c _ _ (hlen l) (hself hl ha)
    · refine (smaxRow_flags f masked c _ _ n).trans ⟨fun h => ⟨l, hself hl ha, h⟩, fun ⟨j, hj, h⟩ => ?_⟩
      obtain ⟨h1, h2⟩ := hsame hj
      simp only [softFlag, h1, h2] at h
      exact h
  have hnorm (layer : Bool) {i : Instr} (hi : exec i s = runSlot s (rowOp f 1 (rnormRow f layer))) (hgood : act = 0 ∨ good = true) :
      lane i 1 (fun _ l y => norm layer l y) (normFlag layer) := by
    refine hlane (rowOp_result hc hi hgood (fun g l hg hl ha => ?_) fun l n hl ha => ?_)
    · obtain ⟨h1, h2⟩ := rnormRow_word f layer c (l / cols) (hlen l) g (hself hl ha)
      by_cases hn : wild l ∨ (scale l).isNan = true ∨ (bias l).isNan = true ∨ made layer l
      · exact (if_pos hn).mpr (h1 hn)
      · obtain ⟨h3, h4⟩ := h2 hn
        refine (if_neg hn).mpr ?_
        by_cases hs : (scale l).isInf = true
        · exact (if_pos hs).mpr (h3 hs)
        · obtain ⟨h5, h6⟩ := h4 (Bool.not_eq_true _ ▸ hs)
          refine (if_neg hs).mpr ?_
          by_cases hb : (bias l).isInf = true
          · exact (if_pos hb).mpr (h5 hb)
          · exact (if_neg hb).mpr (h6 (Bool.not_eq_true _ ▸ hb))
    · refine (rnormRow_flags f layer c (l / cols) (hlen l) n).trans ?_
      have hflag (l : Nat) : normFlag layer l n ↔ n = 4 ∧ ∃ j ∈ row l, Signals f layer c (row j) j := Iff.rfl
      constructor
      · rintro ⟨hn, j, hj, h⟩
        exact ⟨l, hself hl ha, (hflag l).2 ⟨hn, j, hj, (hsame hj).1.symm ▸ h⟩⟩
      · rintro ⟨l', hl', h⟩
        obtain ⟨hn, j, hj, h⟩ := (hflag l').1 h
        rw [(hsame hl').1] at hj
        exact ⟨hn, j, hj, (hsame hj).1 ▸ h⟩
  refine ⟨fun hgood => ⟨?_, hsmax false (exec_smax f s) hgood, hsmax true (exec_smaxM f s) hgood, hnorm false (exec_rnormRms f s) hgood,
    hnorm true (exec_rnormLayer f s) hgood⟩, fun h0 hg i hi => ?_, fun h => ?_, fun h => ?_⟩
  · refine hlane (i := .rstat f) (regs := 2)
      (val := fun g l y => y = rounded (if g = 0 then (maxVal ((row l).map a)).1 else (exactSum .nearest ((row l).map a)).1))
      (flag := fun l n => (maxVal ((row l).map a)).2.getLsbD n = true ∨ (exactSum .nearest ((row l).map a)).2.getLsbD n = true)
      (rowOp_result hc (exec_rstat f s) hgood (fun g l _ _ _ => rstatRow_word f c _ _ g l) fun l n hl ha => ?_)
    refine (rstatRow_flags f c _ _ n).trans ⟨fun h => ⟨l, hself hl ha, h⟩, fun ⟨j, hj, h⟩ => ?_⟩
    rwa [(hsame hj).1] at h
  · have hfault (regs : Nat) (rowf : Ctx → Nat → List Nat → (Nat → Nat → Nat) × Flags) :
        runSlot s (rowOp f regs rowf) = faultOut s c 0x0C10 c.w.shape :=
      runSlot_fault hc (if_pos ⟨h0, by rw [show rowView c.w = false from hg]; rfl⟩)
    rcases hi with rfl | rfl | rfl | rfl | rfl <;> exact hfault _ _
  · exact runSlot_done hc (if_pos h)
  · exact runSlot_fault hc (if_neg (by rw [h]; exact Bool.false_ne_true))

end Sys2Proof.Machine

/-! PROOFS. The decoder and the encoder: a field of a slot decodes exactly where the map of R144 to R153 gives its opcode a row whose
checks its fields pass, and then it is that operation's encoding. -/

namespace Sys2Proof

/-! ### What the decoder answers -/

/-- With no hole every check stands (R143). -/
theorem Chk.stands_nil (c : Chk) : Chk.stands [] c = true := by
  cases h : c.ones <;> simp [Chk.stands, h]

theorem brokenRule_nil (cs : List Chk) : brokenRule [] cs = none ↔ cs.all (·.ok) = true := by
  rw [brokenRule, List.filter_eq_self.2 fun c _ => Chk.stands_nil c]
  grind

theorem decode_eq_ok {sl : Slot} {w : Field} {i : Instr} :
    decode sl w = .ok i ↔ rawDecode sl w = some i ∧ i.wellFormed = true := by
  unfold decode
  cases hr : rawDecode sl w with
  | none => simp
  | some j =>
    have hj : brokenRule [] j.checks = none ↔ j.wellFormed = true := brokenRule_nil j.checks
    cases hb : brokenRule [] j.checks with
    | none => simp only [Option.some.injEq]; grind
    | some n => grind

theorem decode_eq_undefinedOpcode {sl : Slot} {w : Field} :
    decode sl w = .error .undefinedOpcode ↔ rawDecode sl w = none := by
  unfold decode
  cases rawDecode sl w with
  | none => simp
  | some j => grind

/-! ### From a row of the map to its encoding (R112, R144 to R153) -/

section
variable {w : Field} {op : BitVec 8} (h : (opcodeOf w).toNat = op.toNat)
include h
theorem KB.pack_of_opcode : (KB.unpack w).pack op = w := BitVec.eq_of_toNat_eq h ▸ KB.pack_unpack w
theorem KWait.pack_of_opcode : (KWait.unpack w).pack op = w := BitVec.eq_of_toNat_eq h ▸ KWait.pack_unpack w
theorem KWaitt.pack_of_opcode : (KWaitt.unpack w).pack op = w := BitVec.eq_of_toNat_eq h ▸ KWaitt.pack_unpack w
theorem KBarw.pack_of_opcode : (KBarw.unpack w).pack op = w := BitVec.eq_of_toNat_eq h ▸ KBarw.pack_unpack w
theorem KR.pack_of_opcode : (KR.unpack w).pack op = w := BitVec.eq_of_toNat_eq h ▸ KR.pack_unpack w
theorem R3.pack_of_opcode : (R3.unpack w).pack op = w := BitVec.eq_of_toNat_eq h ▸ R3.pack_unpack w
theorem SI.pack_of_opcode : (SI.unpack w).pack op = w := BitVec.eq_of_toNat_eq h ▸ SI.pack_unpack w
theorem VI.pack_of_opcode : (VI.unpack w).pack op = w := BitVec.eq_of_toNat_eq h ▸ VI.pack_unpack w
theorem VC.pack_of_opcode : (VC.unpack w).pack op = w := BitVec.eq_of_toNat_eq h ▸ VC.pack_unpack w
theorem FR.pack_of_opcode : (FR.unpack w).pack op = w := BitVec.eq_of_toNat_eq h ▸ FR.pack_unpack w
theorem MR.pack_of_opcode : (MR.unpack w).pack op = w := BitVec.eq_of_toNat_eq h ▸ MR.pack_unpack w
theorem ML.pack_of_opcode : (ML.unpack w).pack op = w := BitVec.eq_of_toNat_eq h ▸ ML.pack_unpack w
theorem LA.pack_of_opcode : (LA.unpack w).pack op = w := BitVec.eq_of_toNat_eq h ▸ LA.pack_unpack w
theorem LT.pack_of_opcode : (LT.unpack w).pack op = w := BitVec.eq_of_toNat_eq h ▸ LT.pack_unpack w
theorem XD.pack_of_opcode : (XD.unpack w).pack op = w := BitVec.eq_of_toNat_eq h ▸ XD.pack_unpack w
theorem HR.pack_of_opcode : (HR.unpack w).pack op = w := BitVec.eq_of_toNat_eq h ▸ HR.pack_unpack w
theorem HQ.pack_of_opcode : (HQ.unpack w).pack op = w := BitVec.eq_of_toNat_eq h ▸ HQ.pack_unpack w
end

theorem encode_rawK {w : Field} {i : Instr} (h : rawK w = some i) : encode i = some (.k, w) := by
  unfold rawK at h
  split at h <;> cases h
  all_goals simp [↓apply_ite encode, encode, KB.pack_of_opcode, KWait.pack_of_opcode, KWaitt.pack_of_opcode, KBarw.pack_of_opcode,
    KR.pack_of_opcode, *]

theorem encode_rawS {w : Field} {i : Instr} (h : rawS w = some i) : encode i = some (.s, w) := by
  unfold rawS at h
  split at h <;> cases h
  all_goals simp [↓apply_ite encode, encode, R3.pack_of_opcode, SI.pack_of_opcode, *]

theorem encode_rawF {w : Field} {i : Instr} (h : rawF w = some i) : encode i = some (.f, w) := by
  unfold rawF at h
  split at h <;> cases h
  all_goals simp [↓apply_ite encode, encode, FR.pack_of_opcode, *]

theorem encode_rawM {w : Field} {i : Instr} (h : rawM w = some i) : encode i = some (.m, w) := by
  unfold rawM at h
  split at h <;> cases h
  all_goals simp [↓apply_ite encode, encode, ML.pack_of_opcode, MR.pack_of_opcode, *]

theorem encode_rawL {w : Field} {i : Instr} (h : rawL w = some i) : encode i = some (.l, w) := by
  unfold rawL at h
  split at h <;> cases h
  all_goals simp [encode, LA.pack_of_opcode, LT.pack_of_opcode, *]

theorem encode_rawX {w : Field} {i : Instr} (h : rawX w = some i) : encode i = some (.x, w) := by
  unfold rawX at h
  split at h <;> cases h
  all_goals simp [↓apply_ite encode, encode, XD.pack_of_opcode, *]

theorem encode_rawH {w : Field} {i : Instr} (h : rawH w = some i) : encode i = some (.h, w) := by
  unfold rawH at h
  split at h <;> cases h
  all_goals simp [encode, HR.pack_of_opcode, HQ.pack_of_opcode, *]

theorem encode_rawV {sl : VSlot} {w : Field} {i : Instr} (h : rawV sl w = some i) : encode i = some (sl.slot, w) := by
  unfold rawV at h
  split at h
  case h_40 _ =>
    split at h <;> cases h
    simp [encode, VI.pack_of_opcode, VSlot.slot, *]
  all_goals cases h
  all_goals simp [↓apply_ite encode, encode, R3.pack_of_opcode, VI.pack_of_opcode, VC.pack_of_opcode, *]

/-! ### The opcodes of the map -/

theorem rawK_eq_none {w : Field} : rawK w = none ↔ (opcodeOf w).toNat ∉ Claims.definedOpcodes .k := by
  unfold rawK
  split <;> simp [Claims.definedOpcodes, *]
  grind

theorem rawS_eq_none {w : Field} : rawS w = none ↔ (opcodeOf w).toNat ∉ Claims.definedOpcodes .s := by
  unfold rawS
  split <;> simp [Claims.definedOpcodes, *]
  grind

theorem rawF_eq_none {w : Field} : rawF w = none ↔ (opcodeOf w).toNat ∉ Claims.definedOpcodes .f := by
  unfold rawF
  split <;> simp [Claims.definedOpcodes, *]
  grind

theorem rawM_eq_none {w : Field} : rawM w = none ↔ (opcodeOf w).toNat ∉ Claims.definedOpcodes .m := by
  unfold rawM
  split <;> simp [Claims.definedOpcodes, *]
  grind

theorem rawL_eq_none {w : Field} : rawL w = none ↔ (opcodeOf w).toNat ∉ Claims.definedOpcodes .l := by
  unfold rawL
  split <;> simp [Claims.definedOpcodes, *]
  grind

theorem rawX_eq_none {w : Field} : rawX w = none ↔ (opcodeOf w).toNat ∉ Claims.definedOpcodes .x := by
  unfold rawX
  split <;> simp [Claims.definedOpcodes, *]
  grind

theorem rawH_eq_none {w : Field} : rawH w = none ↔ (opcodeOf w).toNat ∉ Claims.definedOpcodes .h := by
  unfold rawH
  split <;> simp [Claims.definedOpcodes, *]
  grind

theorem rawV_eq_none {sl : VSlot} {w : Field} : rawV sl w = none ↔ (opcodeOf w).toNat ∉ Claims.definedOpcodes sl.slot := by
  unfold rawV
  cases sl with
  | va =>
    split <;> simp [VSlot.slot, Claims.definedOpcodes, Claims.definedOpcodes.vOpcodes, *]
    grind
  | vb =>
    split <;> simp [VSlot.slot, Claims.definedOpcodes, Claims.definedOpcodes.vOpcodes, *]
    grind

theorem encode_of_rawDecode {sl : Slot} {w : Field} {i : Instr} (h : rawDecode sl w = some i) : encode i = some (sl, w) := by
  cases sl with
  | k => exact encode_rawK h
  | s => exact encode_rawS h
  | va => exact encode_rawV h
  | vb => exact encode_rawV h
  | f => exact encode_rawF h
  | m => exact encode_rawM h
  | l => exact encode_rawL h
  | x => exact encode_rawX h
  | h => exact encode_rawH h

theorem rawDecode_eq_none {sl : Slot} {w : Field} : rawDecode sl w = none ↔ (opcodeOf w).toNat ∉ Claims.definedOpcodes sl := by
  cases sl with
  | k => exact rawK_eq_none
  | s => exact rawS_eq_none
  | va => exact rawV_eq_none
  | vb => exact rawV_eq_none
  | f => exact rawF_eq_none
  | m => exact rawM_eq_none
  | l => exact rawL_eq_none
  | x => exact rawX_eq_none
  | h => exact rawH_eq_none

/-- Settles O3: a row of the map packs back to the field it was unpacked from, and the decoder refuses a field as undefined where the
map has no row for it. -/
theorem decodeIsExactlyTheMap : Obligations.DecodeIsExactlyTheMap := by
  refine ⟨fun i sl w h => ?_, fun sl w => decode_eq_undefinedOpcode.trans rawDecode_eq_none⟩
  obtain ⟨hraw, hwf⟩ := decode_eq_ok.1 h
  exact ⟨encode_of_rawDecode hraw, hwf⟩

/-! ### From an operation to its row -/

/-- What tells a row from the others of its opcode: a variant, or an immediate (R142, R144 to R152). -/
def Instr.Selected : Instr → Prop
  | .brc f | .brdAny f => f.variant = 0
  | .brcN f | .brdAll f => f.variant = 1
  | .brdNone f => f.variant = 2
  | .syswr f => f.imm ≠ 0x20 ∧ f.imm ≠ 0x40
  | .intreq f => f.imm = 0x20
  | .dtinv f => f.imm = 0x40
  | .freezeStop f => f.imm = 1
  | .freezeResume f => f.imm = 2
  | .freezeSave f => f.imm = 3
  | .li f => f.variant = 0
  | .liS f => f.variant = 1
  | .liHi f => f.variant = 2
  | .rowshUp _ f => f.variant = 0
  | .rowshDown _ f => f.variant = 1
  | .vredAdd _ f => f.variant.getLsbD 2 = false
  | .vredMax _ f => f.variant.getLsbD 2 = true
  | .smax f | .rnormRms f => f.variant = 0
  | .smaxM f | .rnormLayer f => f.variant = 1
  | .mcfgAcc f => f.variant = 0
  | .mcfgFwd f => f.variant = 1
  | .signalSet f => f.variant = 0
  | .signalAdd f => f.variant = 1
  | _ => True

/-- A variant that passes its check is one of those allowed. -/
theorem chkVar_ok {v : BitVec 4} {l : List Nat} : (chkVar v l).ok = true ↔ v.toNat ∈ l := by
  simp [chkVar, Chk.lim, Chk.rel]

theorem Instr.wellFormed_iff {i : Instr} : i.wellFormed = true ↔ ∀ c ∈ i.checks, c.ok = true := List.all_eq_true

/-- Bit 2 of VRED's variants is its function: clear in those of ADD, set in those of MAX (R147). -/
theorem variant_bit2 : ∀ v : BitVec 4,
    (v.toNat ∈ [0, 1, 2] → v.getLsbD 2 = false) ∧ (v.toNat ∈ [4, 5, 6] → v.getLsbD 2 = true) := by decide

theorem selected_of_wellFormed {i : Instr} (h : i.wellFormed = true) : i.Selected := by
  rw [Instr.wellFormed_iff] at h
  unfold Instr.checks at h
  unfold Instr.Selected
  split
  case h_17 f => exact (variant_bit2 _).1 (chkVar_ok.1 (h (chkVar f.variant _) (by simp [chkSR])))
  case h_18 f => exact (variant_bit2 _).2 (chkVar_ok.1 (h (chkVar f.variant _) (by simp [chkSR])))
  case h_27 => trivial
  all_goals simp [chkKB, chkKR, chkSR, chkFR, chkMR, chkXD, chkVar_ok, Chk.lim, Chk.rel, BitVec.toNat_eq] at h ⊢
  all_goals simp [h]

section
variable {sl tl : VSlot}
theorem VSlot.slot_injective : Function.Injective VSlot.slot := by
  intro a b h
  cases a <;> cases b <;> cases h <;> rfl
theorem VSlot.slot_inj : sl.slot = tl.slot ↔ sl = tl := VSlot.slot_injective.eq_iff
theorem VSlot.slot_eq_iff {t : Slot} : sl.slot = t ↔ t = .va ∧ sl = .va ∨ t = .vb ∧ sl = .vb := by
  cases sl <;> cases t <;> decide
theorem VSlot.eq_slot_iff {t : Slot} : t = sl.slot ↔ t = .va ∧ sl = .va ∨ t = .vb ∧ sl = .vb :=
  eq_comm.trans VSlot.slot_eq_iff
end

section
variable {w : Field} {i : Instr}

theorem rawK_of_encode (hsel : i.Selected) (h : encode i = some (.k, w)) : rawK w = some i := by
  cases i <;> simp only [encode, Option.some.injEq, Prod.mk.injEq, reduceCtorEq, false_and, true_and, VSlot.slot_eq_iff, or_self] at h
  all_goals subst h
  all_goals simp_all [rawK, Instr.Selected]

theorem rawS_of_encode (hsel : i.Selected) (h : encode i = some (.s, w)) : rawS w = some i := by
  cases i <;> simp only [encode, Option.some.injEq, Prod.mk.injEq, reduceCtorEq, false_and, true_and, VSlot.slot_eq_iff, or_self] at h
  all_goals subst h
  all_goals simp_all [rawS, Instr.Selected]

theorem rawF_of_encode (hsel : i.Selected) (h : encode i = some (.f, w)) : rawF w = some i := by
  cases i <;> simp only [encode, Option.some.injEq, Prod.mk.injEq, reduceCtorEq, false_and, true_and, VSlot.slot_eq_iff, or_self] at h
  all_goals subst h
  all_goals simp_all [rawF, Instr.Selected]

theorem rawM_of_encode (hsel : i.Selected) (h : encode i = some (.m, w)) : rawM w = some i := by
  cases i <;> simp only [encode, Option.some.injEq, Prod.mk.injEq, reduceCtorEq, false_and, true_and, VSlot.slot_eq_iff, or_self] at h
  all_goals subst h
  all_goals simp_all [rawM, Instr.Selected]

theorem rawL_of_encode (hsel : i.Selected) (h : encode i = some (.l, w)) : rawL w = some i := by
  cases i <;> simp only [encode, Option.some.injEq, Prod.mk.injEq, reduceCtorEq, false_and, true_and, VSlot.slot_eq_iff, or_self] at h
  all_goals subst h
  all_goals simp_all [rawL, Instr.Selected]

theorem rawX_of_encode (hsel : i.Selected) (h : encode i = some (.x, w)) : rawX w = some i := by
  cases i <;> simp only [encode, Option.some.injEq, Prod.mk.injEq, reduceCtorEq, false_and, true_and, VSlot.slot_eq_iff, or_self] at h
  all_goals subst h
  all_goals simp_all [rawX, Instr.Selected]

theorem rawH_of_encode (hsel : i.Selected) (h : encode i = some (.h, w)) : rawH w = some i := by
  cases i <;> simp only [encode, Option.some.injEq, Prod.mk.injEq, reduceCtorEq, false_and, true_and, VSlot.slot_eq_iff, or_self] at h
  all_goals subst h
  all_goals simp_all [rawH, Instr.Selected]

theorem rawV_of_encode {sl : VSlot} (hsel : i.Selected) (h : encode i = some (sl.slot, w)) : rawV sl w = some i := by
  cases i <;> simp only [encode, Option.some.injEq, Prod.mk.injEq, reduceCtorEq, false_and, ↓VSlot.slot_inj, VSlot.eq_slot_iff,
    or_self, or_false, true_and] at h
  all_goals obtain ⟨rfl, rfl⟩ := h
  all_goals simp_all [rawV, Instr.Selected]

theorem rawDecode_of_encode {sl : Slot} (hwf : i.wellFormed = true) (h : encode i = some (sl, w)) : rawDecode sl w = some i := by
  have hsel := selected_of_wellFormed hwf
  cases sl with
  | k => exact rawK_of_encode hsel h
  | s => exact rawS_of_encode hsel h
  | va => exact rawV_of_encode (sl := .va) hsel h
  | vb => exact rawV_of_encode (sl := .vb) hsel h
  | f => exact rawF_of_encode hsel h
  | m => exact rawM_of_encode hsel h
  | l => exact rawL_of_encode hsel h
  | x => exact rawX_of_encode hsel h
  | h => exact rawH_of_encode hsel h
end

/-- Settles O2: a well-formed operation is the row that its opcode and its selecting field name, and its checks hold. -/
theorem decodeOfEncodeIsTheOperation : Obligations.DecodeOfEncodeIsTheOperation :=
  fun _ _ _ hwf h => decode_eq_ok.2 ⟨rawDecode_of_encode hwf h, hwf⟩

/-! ### The predicate select (R113) -/

theorem chkPred_ok {p : BitVec 5} : (chkPred p).ok = true ↔ p ≠ 0x10 := by simp [chkPred, Chk.lim, Chk.rel]

section
variable {w : Field} {i : Instr}

theorem rawS_checksPred (h : rawS w = some i) (hop : opcodeOf w ≠ 0x28) : chkPred (w.extractLsb' 31 5) ∈ i.checks := by
  unfold rawS at h
  split at h <;> cases h
  case h_27.refl hli => exact absurd (BitVec.eq_of_toNat_eq hli) hop
  all_goals unfold Instr.checks
  all_goals simp [chkS2, chkSR, R3.unpack]

theorem rawV_checksPred {sl : VSlot} (h : rawV sl w = some i) : chkPred (w.extractLsb' 31 5) ∈ i.checks := by
  unfold rawV at h
  split at h
  case h_40 =>
    split at h <;> cases h
    unfold Instr.checks
    simp [VI.unpack]
  all_goals cases h
  all_goals try split
  all_goals unfold Instr.checks
  all_goals simp [chkSR, chkCvt, chkPcvt, R3.unpack, VI.unpack, VC.unpack]

theorem rawF_checksPred (h : rawF w = some i) : chkPred (w.extractLsb' 31 5) ∈ i.checks := by
  unfold rawF at h
  split at h <;> cases h
  all_goals try split
  all_goals unfold Instr.checks
  all_goals simp [chkFR, FR.unpack]

theorem rawL_checksPred (h : rawL w = some i) : chkPred (w.extractLsb' 31 5) ∈ i.checks := by
  unfold rawL at h
  split at h <;> cases h
  all_goals unfold Instr.checks
  all_goals simp [chkLA, chkLT, chkAtomic, LA.unpack, LT.unpack]

theorem rawX_checksPred (h : rawX w = some i) : chkPred (w.extractLsb' 31 5) ∈ i.checks := by
  unfold rawX at h
  split at h <;> cases h
  all_goals try split
  all_goals unfold Instr.checks
  all_goals simp [chkXD, XD.unpack]

theorem rawH_checksPred (h : rawH w = some i) : chkPred (w.extractLsb' 31 5) ∈ i.checks := by
  unfold rawH at h
  split at h <;> cases h
  all_goals unfold Instr.checks
  all_goals simp [chkHR, HR.unpack, HQ.unpack]
end

theorem rawDecode_checksPred {sl : Slot} {w : Field} {i : Instr} (h : rawDecode sl w = some i) (hk : sl ≠ .k) (hm : sl ≠ .m)
    (hli : ¬(sl = .s ∧ opcodeOf w = 0x28)) : chkPred (w.extractLsb' 31 5) ∈ i.checks := by
  cases sl with
  | k => exact absurd rfl hk
  | s => exact rawS_checksPred h fun hop => hli ⟨rfl, hop⟩
  | va => exact rawV_checksPred h
  | vb => exact rawV_checksPred h
  | f => exact rawF_checksPred h
  | m => exact absurd rfl hm
  | l => exact rawL_checksPred h
  | x => exact rawX_checksPred h
  | h => exact rawH_checksPred h

/-- Settles O4: among the checks of every row with a predicate is the one of its select, bits [35:31] of the field. -/
theorem invertedTruePredicateIsRefused : Obligations.InvertedTruePredicateIsRefused := by
  intro i sl w h hk hm hli
  obtain ⟨hraw, hwf⟩ := decode_eq_ok.1 h
  exact chkPred_ok.1 (Instr.wellFormed_iff.1 hwf _ (rawDecode_checksPred hraw hk hm hli))

/-- Settles O1: the decoder is run on each word. -/
theorem specExampleWordsDecode : Obligations.SpecExampleWordsDecode := by
  unfold Obligations.SpecExampleWordsDecode
  and_intros <;> decide

end Sys2Proof

/-! PROOFS. The privileged operations at issue: the filter's fault outside a supervisor kernel, the system registers of R361, and what
may be written to them. -/

namespace Sys2Proof.Machine

open Sys2Proof.Claims

/-! ### The privileged operations (R182, R361 to R366) -/

/-- The system registers of R361 that SYSRD reads, by index, in a block's kernel. -/
def systemTable (c : Ctx) : List (Nat × Nat) :=
  let p := c.s.parts[c.b.part]
  [(0x00, c.b.part.val + 16 + if c.w.handler then 32 else 0), (0x01, c.w.epc.toNat), (0x02, c.w.ecause.toNat),
   (0x03, c.w.einfo.toNat), (0x10, p.fqBase.toNat), (0x11, p.fqSize), (0x12, p.fqProd.toNat), (0x13, p.fqCons.toNat),
   (0x14, p.fqStat.toNat), (0x20, 0), (0x21, p.intPend.toNat), (0x30, p.ftgt.toNat), (0x31, p.fstat.toNat),
   (0x32, p.fsave.toNat), (0x40, 0), (0x41, 0), (0x50, p.qos.toNat % 2 ^ 64), (0x51, p.qos.toNat / 2 ^ 64)]

theorem system_of_mem {c : Ctx} {n x : Nat} (h : (n, x) ∈ systemTable c) : c.system n = some (BitVec.ofNat 64 x) := by
  have low (q : BitVec 128) : q.extractLsb' 0 64 = BitVec.ofNat 64 (q.toNat % 2 ^ 64) := BitVec.eq_of_toNat_eq (by simp)
  have high (q : BitVec 128) : q.extractLsb' 64 64 = BitVec.ofNat 64 (q.toNat / 2 ^ 64) :=
    BitVec.eq_of_toNat_eq (by simp [Nat.shiftRight_eq_div_pow])
  simp only [systemTable, List.mem_cons, Prod.mk.injEq, List.not_mem_nil, or_false] at h
  rcases h with ⟨rfl, rfl⟩ | ⟨rfl, rfl⟩ | ⟨rfl, rfl⟩ | ⟨rfl, rfl⟩ | ⟨rfl, rfl⟩ | ⟨rfl, rfl⟩ | ⟨rfl, rfl⟩ | ⟨rfl, rfl⟩ | ⟨rfl, rfl⟩ |
    ⟨rfl, rfl⟩ | ⟨rfl, rfl⟩ | ⟨rfl, rfl⟩ | ⟨rfl, rfl⟩ | ⟨rfl, rfl⟩ | ⟨rfl, rfl⟩ | ⟨rfl, rfl⟩ | ⟨rfl, rfl⟩ | ⟨rfl, rfl⟩
  all_goals simp [Ctx.system, low, high]

theorem system_of_not_mem {c : Ctx} {i : Nat} (h : i ∉ (systemTable c).map (·.1)) : c.system i = none := by
  simp only [systemTable, List.map_cons, List.map_nil, List.mem_cons, List.not_mem_nil, or_false] at h
  unfold Ctx.system
  split
  case h_19 => rfl
  all_goals simp at h

theorem syswrOk_iff (i : Nat) (v : Word) : syswrOk i v = true ↔
    i ∈ [0x01, 0x13, 0x14, 0x30, 0x32, 0x40] ∨ (i = 0x20 ∧ 4 ≤ v.toNat % 32) ∨
      (i = 0x41 ∧ v.toNat < 2 ^ 52 ∧ v.toNat / 8 % 8 = 0 ∧ v.toNat % 8 < 4) := by
  have hv : v.toNat < 2 ^ 64 := v.isLt
  unfold syswrOk
  split
  case h_4 => simp [bitsN]
  case h_8 =>
    simp [bitsN]
    omega
  case h_9 =>
    simp
    grind
  all_goals simp

section
variable {s : State} {c : Ctx} (hc : s.ctx? = some c)
include hc

theorem privileged_refused {r : Ctx → SlotResult} (hs : c.b.supervisor = false) : runSlot s (privileged r) = faultOut s c 0x0105 0 :=
  runSlot_fault hc (by rw [privileged, hs]; rfl)

theorem privileged_done {r : Ctx → SlotResult} {e : Effects} (hs : c.b.supervisor = true) (hr : r c = .done e) :
    runSlot s (privileged r) = .next (c.give e) :=
  runSlot_done hc (by rw [privileged, hs, check_true, hr])

theorem privileged_fault {r : Ctx → SlotResult} {cause : Nat} {detail : Word} (hs : c.b.supervisor = true)
    (hr : r c = .fault cause detail) : runSlot s (privileged r) = faultOut s c cause detail :=
  runSlot_fault hc (by rw [privileged, hs, check_true, hr])
end

/-- Settles O28: the filter's fault outside a supervisor kernel, and within one the table of R361 for reads, the admitted writes, and
ERET by the handler. -/
theorem privilegedOperations : Obligations.PrivilegedOperations := by
  unfold Obligations.PrivilegedOperations
  intro s c f e hc p i v pstat table admitted
  have hcs : s = c.s := (ctx?_some hc).1.symm
  have htable : table = systemTable c := by subst hcs; rfl
  have hok : syswrOk i v = true ↔ admitted := syswrOk_iff i v
  refine ⟨fun hs x hx => ?_, fun hs => ⟨?read, ?noRegister, fun x hx => ?write, ?eret, ?noHandler, ?_, ?_, ?_⟩⟩
  · obtain rfl | rfl | rfl | rfl | rfl | rfl | rfl | rfl := hx <;> exact privileged_refused hc hs
  case read =>
    rintro n x hx rfl
    have hn : f.imm = 0x12 ↔ i = 0x12 := ⟨fun h => by rw [show i = f.imm.toNat from rfl, h]; rfl, fun h => BitVec.eq_of_toNat_eq h⟩
    refine privileged_done hc hs ?_
    rw [system_of_mem (htable ▸ hx)]
    simp only [hn]
    rfl
  case noRegister =>
    intro h
    refine privileged_fault hc hs ?_
    rw [system_of_not_mem (htable ▸ h)]
    rfl
  case write =>
    have hrun : exec x s = runSlot s (syswrRun f) := by obtain rfl | rfl | rfl := hx <;> rfl
    rw [hrun]
    refine ⟨fun h => privileged_done hc hs ?_, fun h => privileged_fault hc hs ?_⟩
    · exact congrArg (SlotResult.check · 0x0500 (privDetail 0x31 i) _) (hok.2 h)
    · exact congrArg (SlotResult.check · 0x0500 (privDetail 0x31 i) _) (Bool.eq_false_iff.2 fun h' => h (hok.1 h'))
  case eret => exact fun h => privileged_done hc hs (by rw [h]; rfl)
  case noHandler => exact fun h => privileged_fault hc hs (by rw [h]; rfl)
  all_goals exact privileged_done hc hs rfl

end Sys2Proof.Machine

/-! PROOFS. Strokes: what reading code leaves alone, what the filter and the form checks let pass, and that a glyph decoded of a page
that the TLB serves is the bundle that its bytes encode. -/

namespace Sys2Proof.Machine

open Sys2Proof.Claims

/-! ### What reading code leaves alone (R122, R313, R408 to R413) -/

/-- A core but for its level-one TLB and its counters, which a translation changes. -/
def Core.bare (k : Core) : Core := { k with tlb := [], counters := Vector.replicate 23 0 }

/-- Core c differs in its level-one TLB and its counters alone, and no other core differs. -/
structure CodeFrame (c : CoreId) (s t : State) : Prop where
  others : ∀ d : CoreId, d ≠ c → t.cores[d] = s.cores[d]
  own : t.cores[c].bare = s.cores[c].bare

section
variable {c : CoreId} {s t u : State}

theorem CodeFrame.of_cores (h : t.cores = s.cores) : CodeFrame c s t := ⟨fun _ _ => by rw [h], by rw [h]⟩
theorem CodeFrame.rfl : CodeFrame c s s := .of_cores (Eq.refl _)
theorem CodeFrame.trans (h : CodeFrame c s t) (h' : CodeFrame c t u) : CodeFrame c s u :=
  ⟨fun d hd => (h'.others d hd).trans (h.others d hd), h'.own.trans h.own⟩
theorem CodeFrame.modCore {f : Core → Core} (h : t.cores = s.cores) (hf : ∀ k, (f k).bare = k.bare) :
    CodeFrame c s (t.modCore c f) :=
  ⟨fun d hd => by rw [State.modCore_cores, upd_other _ f hd, h], by simp [hf, h]⟩

theorem CodeFrame.warps (h : CodeFrame c s t) : t.cores[c].warps = s.cores[c].warps := (congrArg Core.warps h.own :)
theorem CodeFrame.warp? (h : CodeFrame c s t) (w : WarpId) : t.warp? c w = s.warp? c w := by
  unfold State.warp?
  rw [h.warps]
theorem CodeFrame.decode (h : CodeFrame c s t) : t.cores[c].decode = s.cores[c].decode := (congrArg Core.decode h.own :)
theorem CodeFrame.entry? (h : CodeFrame c s t) (p : PartId) (b : Block) (slot index : Nat) :
    t.cores[c].entry? p b slot index = s.cores[c].entry? p b slot index := by
  unfold Core.entry?
  rw [h.decode]

end

/-! Through a slice: -/

theorem writeBack_cores (s : State) (cl : ClusterId) (n : Nat) : (s.writeBack cl n).cores = s.cores := by
  unfold State.writeBack
  split
  · rfl
  · split
    · rfl
    · exact (State.invalidate_same _ _ _).2
theorem makeRoom_cores (s : State) (cl : ClusterId) (n : Nat) : (s.makeRoom cl n).cores = s.cores := by
  unfold State.makeRoom
  split
  · rfl
  · split
    · rfl
    · refine foldl_keeps (P := fun t : State => t.cores = s.cores) (fun t m ht => ?_) _ rfl
      exact (writeBack_cores t cl m).trans ht
theorem retag_cores (s : State) (cl : ClusterId) (p : PartId) (n : Nat) : Holds (fun t => t.cores = s.cores) (s.retag cl p n) := by
  have hw := writeBack_cores s cl n
  unfold State.retag
  split
  · split
    · exact holds_some rfl
    · dsimp only
      split
      · split
        · exact holds_some hw
        · exact holds_none
      · exact holds_some hw
  · exact holds_some rfl
theorem fill_cores (s : State) (cl : ClusterId) (p : PartId) (n : Nat) : Holds (fun t => t.cores = s.cores) (s.fill cl p n) := by
  unfold State.fill
  split
  · exact holds_none
  next t e =>
    have ht := retag_cores s cl p n t e
    split
    · split
      · exact holds_some ht
      · split
        · exact holds_none
        · exact holds_some ht
    · split
      · exact holds_none
      · exact holds_some ((makeRoom_cores t cl n).trans ht)
theorem sliceReadOne_cores (s : State) (cl : ClusterId) (p : PartId) (n lo m : Nat) :
    Holds (fun r => r.1.cores = s.cores) (s.sliceReadOne cl p n lo m) := by
  unfold State.sliceReadOne
  split
  · exact holds_none
  next t e =>
    split
    · exact holds_none
    · exact holds_some (fill_cores s cl p n t e)
theorem sliceRead_cores (s : State) (cl : ClusterId) (p : PartId) (pa n : Nat) :
    Holds (fun r => r.1.cores = s.cores) (s.sliceRead cl p pa n) := by
  unfold State.sliceRead
  refine foldl_keeps (P := Holds fun r : State × List Byte => r.1.cores = s.cores) ?_ _ (holds_some rfl)
  rintro acc ⟨k, lo, m⟩ hacc
  cases acc with
  | none => exact holds_none
  | some r =>
    intro a ha
    obtain ⟨q, hq, rfl⟩ := Option.map_eq_some_iff.1 ha
    exact (sliceReadOne_cores r.1 cl p k lo m q hq).trans (hacc r rfl)

/-! A translation that needs no permission to write: -/

theorem devSet_cores (s : State) (pa : Nat) (bits : List Byte) : (s.devSet pa bits).cores = s.cores := homeWrite_cores ..
theorem orEntry_cores (s : State) (a : Nat) (w b : Word) : Holds (fun t => t.cores = s.cores) (s.orEntry a w b) := by
  unfold State.orEntry
  split
  · exact holds_none
  · split
    · exact holds_some (devSet_cores ..)
    · exact holds_none
theorem touch_cores (s : State) (a who : Nat) : (s.touch a who).cores = s.cores := by
  unfold State.touch
  split
  · rfl
  · split
    · exact devSet_cores ..
    · rfl

theorem Core.tlbFill_bare (k : Core) (e : TlbEntry) : (k.tlbFill e).bare = k.bare := by
  unfold Core.tlbFill
  dsimp only
  split <;> rfl
theorem Core.bump_bare (k : Core) (i : Fin 23) (n : Nat) : (k.bump i n).bare = k.bare := rfl

theorem codeFrame_walkInstall (s : State) (c : CoreId) (bid : Nat) (p : PartId) (va : Word) (touch : Bool) :
    CodeFrame c s (s.walkInstall c bid p va touch).1 := by
  unfold State.walkInstall
  dsimp only
  split
  · exact .rfl
  · exact .rfl
  · cases touch
    · exact .rfl
    · exact .of_cores (touch_cores ..)
  · split
    · exact .rfl
    next t e =>
      have ht : t.cores = s.cores := orEntry_cores s _ _ _ t e
      refine .modCore ?_ fun k => Core.tlbFill_bare k _
      dsimp only [State.modCluster_cores]
      split
      · split <;> exact ht
      · exact ht

theorem codeFrame_tlbLookup (s : State) (c : CoreId) (bid : Nat) (p : PartId) (va : Word) (touch : Bool) :
    CodeFrame c s (s.tlbLookup c bid p va touch).1 := by
  have bump (t : State) (i : Fin 23) : CodeFrame c t (t.modCore c fun k => k.bump i 1) := .modCore rfl fun k => Core.bump_bare k i 1
  unfold State.tlbLookup
  split
  · exact .rfl
  · dsimp only
    split
    · exact (bump s _).trans (.modCore rfl fun k => Core.tlbFill_bare k _)
    · exact ((bump s _).trans (bump _ _)).trans (codeFrame_walkInstall ..)

theorem codeFrame_translate (s : State) (c : CoreId) (bid : Nat) (p : PartId) (va : Word) {need : Need} (hw : need.w = false) :
    CodeFrame c s (s.translate c bid p va need).1 := by
  have hl := codeFrame_tlbLookup s c bid p va true
  unfold State.translate State.translateN
  split
  · exact .rfl
  · split
    next t sub e => rw [e] at hl; exact hl
    next t x e =>
      rw [e] at hl
      split
      · exact hl
      · simpa [hw] using hl

/-! ### Reading code (R120) -/

/-- Reads of code change what a translation and a slice's read may. -/
theorem codeFrame_codeRead (s : State) (c : CoreId) (b : Block) (va : Word) (n : Nat) : CodeFrame c s (s.codeRead c b va n).1 := by
  unfold State.codeRead
  refine foldl_keeps (P := fun r : State × (List Byte ⊕ (Word × Nat)) => CodeFrame c s r.1) ?_ _ .rfl
  rintro ⟨t, acc⟩ ⟨a, m⟩ ht
  dsimp only at ht ⊢
  split
  · exact ht
  · split
    · exact ht
    · have hr := codeFrame_translate t c b.bid b.part a (need := Need.exec) rfl
      split
      next e => rw [e] at hr; exact ht.trans hr
      next u pa e =>
        rw [e] at hr
        split
        · exact ht.trans hr
        next q e' => exact (ht.trans hr).trans (.of_cores (sliceRead_cores u _ _ _ _ _ e'))

theorem codeFrame_codeAt (s : State) (c : CoreId) (b : Block) (off n k : Nat) : CodeFrame c s (s.codeAt c b off n k).1 := by
  have h := codeFrame_codeRead s c b (BitVec.ofNat 64 (b.codeBase + off)) n
  unfold State.codeAt
  split
  · exact .rfl
  · split
    next e => rw [e] at h; exact h
    next e => rw [e] at h; exact h

theorem codeFrame_slotFields (c : CoreId) (b : Block) (off k : Nat) (l : List (Nat × Nat)) :
    ∀ (s : State) (at_ : Nat) (v : Vector Field 9) (empty : Bool), CodeFrame c s (s.slotFields c b off k l at_ v empty).1 := by
  induction l with
  | nil => intro s at_ v empty; exact .rfl
  | cons x rest ih =>
    intro s at_ v empty
    obtain ⟨i, ix⟩ := x
    unfold State.slotFields
    split
    · exact ih ..
    · split
      · exact .rfl
      · split
        next e sl _ _ =>
          have hc := codeFrame_codeAt s c b (off + 2) (ceilDiv (at_ + ((entryHoles e).map (·.2)).foldl (· + ·) 0) 8) k
          dsimp only
          split
          next h => rw [h] at hc; exact hc
          next h => rw [h] at hc; exact hc
          next h => rw [h] at hc; exact hc
          next h =>
            rw [h] at hc
            split
            · exact hc
            · exact hc.trans (ih ..)
        · exact .rfl

theorem codeFrame_glyph (s : State) (c : CoreId) (b : Block) (off k : Nat) : CodeFrame c s (s.glyph c b off k).1 := by
  have h1 := codeFrame_codeAt s c b off 2 k
  unfold State.glyph
  split
  next e => rw [e] at h1; exact h1
  next e => rw [e] at h1; exact h1
  next e => rw [e] at h1; exact h1
  next s1 header e1 =>
    rw [e1] at h1
    dsimp only
    have h2 := codeFrame_codeAt s1 c b (off + 2)
      (ceilDiv (((List.range 9).map fun i => if header.testBit (i + 1) then hdWidth b.header i else 0).foldl (· + ·) 0) 8) k
    split
    next e => rw [e] at h2; exact h1.trans h2
    next e => rw [e] at h2; exact h1.trans h2
    next e => rw [e] at h2; exact h1.trans h2
    next s2 head e2 =>
      rw [e2] at h2
      have h12 := h1.trans h2
      split
      · exact h12
      · split
        · exact h12
        · have h3 := codeFrame_slotFields c b off k (glyphIndices b.header header head).1 s2 (glyphIndices b.header header head).2
            (Vector.replicate 9 0) false
          split
          next e => rw [e] at h3; exact h12.trans h3
          next e => rw [e] at h3; exact h12.trans h3
          next e => rw [e] at h3; exact h12.trans h3
          next s3 v used empty e3 =>
            rw [e3] at h3
            have h4 := codeFrame_codeAt s3 c b (off + 2) (ceilDiv used 8) k
            have h13 := h12.trans h3
            split
            next e => rw [e] at h4; exact h13.trans h4
            next e => rw [e] at h4; exact h13.trans h4
            next e => rw [e] at h4; exact h13.trans h4
            next e =>
              rw [e] at h4
              split
              · exact h13.trans h4
              · split <;> exact h13.trans h4

theorem codeFrame_glyphs (c : CoreId) (b : Block) (n : Nat) :
    ∀ (s : State) (off k : Nat) (acc : List Cword), CodeFrame c s (s.glyphs c b n off k acc).1 := by
  induction n with
  | zero => intro s off k acc; exact .rfl
  | succ n ih =>
    intro s off k acc
    have h := codeFrame_glyph s c b off k
    unfold State.glyphs
    split
    next e => rw [e] at h; exact h
    next e => rw [e] at h; exact h
    next e => rw [e] at h; exact h
    next e =>
      rw [e] at h
      split
      · exact h
      · exact h.trans (ih ..)

theorem codeFrame_fetchStroke (s : State) (c : CoreId) (x : Warp) (b : Block) : CodeFrame c s (s.fetchStroke c x b).1 := by
  have h := codeFrame_glyphs c b (24 - x.fetchAt.1.length) s x.fetchAt.2 x.fetchAt.1.length x.fetchAt.1
  unfold State.fetchStroke
  split
  · exact .rfl
  · split
    next e =>
      rw [e] at h
      split <;> exact h
    · exact h

/-! ### What the filter lets pass (R124) -/

/-- A field that the filter passes for a block: idle, or an operation whose registers lie below the descriptor's limits, and
privileged in a supervisor kernel alone. -/
def FieldSound (b : Block) (sl : Slot) (w : Field) : Prop :=
  opcodeOf w = 0 ∨ ∃ op, decode sl w = .ok op ∧ (∀ r ∈ names op, r.n < b.maxOf r.cls) ∧
    (isPrivileged op = true → b.supervisor = true)
/-- A bundle each of whose fields the filter passes. -/
def BundleSound (b : Block) (cw : Cword) : Prop := ∀ (i : Fin 9) (sl : Slot), Slot.ofNum i.val = some sl → FieldSound b sl cw.slots[i]

theorem lowestRule_eq_none {rs : List Nat} : lowestRule rs = none ↔ rs = [] := by cases rs <;> simp [lowestRule]
@[simp] theorem underHole_nil (on : List (Nat × Nat)) : underHole [] on = false := by simp [underHole]

theorem fieldSound_of_rules {b : Block} {sl : Slot} {w : Field} (h : lowestRule (fieldRules b sl [] w) = none) : FieldSound b sl w := by
  rw [lowestRule_eq_none, fieldRules] at h
  split at h
  next hi => exact .inl (beq_iff_eq.1 hi)
  next hi =>
    split at h
    · simp at h
    next op hraw =>
      simp only [List.append_eq_nil_iff, Option.toList_eq_nil_iff] at h
      obtain ⟨⟨⟨⟨-, hchecks⟩, hnames⟩, hpriv⟩, -⟩ := h
      refine .inr ⟨op, decode_eq_ok.2 ⟨hraw, (brokenRule_nil _).1 hchecks⟩, ?_, ?_⟩
      · simpa using hnames
      · simpa using hpriv

theorem Slot.ofNum_lt {n : Nat} {sl : Slot} (h : Slot.ofNum n = some sl) : n < 9 := by
  unfold Slot.ofNum at h
  split at h <;> simp at h ⊢
theorem fin_val_of_lt {n : Nat} (h : n < 9) : (fin 9 n).val = n := Nat.mod_eq_of_lt h

/-! ### Decoding taken apart (R120, R125, R128) -/

section
variable {c : CoreId} {b : Block} {off k : Nat} {s t : State}

/-- Code that is read lies within code_size. -/
theorem codeAt_ok {n x : Nat} (h : s.codeAt c b off n k = (t, .ok x)) :
    ∃ bs, s.codeRead c b (BitVec.ofNat 64 (b.codeBase + off)) n = (t, .inl bs) ∧ x = natOfBytes bs := by
  unfold State.codeAt at h
  split at h
  · cases h
  · split at h <;> cases h
    exact ⟨_, ‹_›, rfl⟩

/-- A present slot that is decoded: it has no table, or its entry is at hand and its filled field passes the filter. -/
theorem slotFields_cons {i ix at_ : Nat} {rest : List (Nat × Nat)} {v : Vector Field 9} {empty : Bool} {r : Vector Field 9 × Nat × Bool}
    (h : s.slotFields c b off k ((i, ix) :: rest) at_ v empty = (t, .ok r)) :
    (s.slotFields c b off k rest at_ v true = (t, .ok r)) ∨
    ∃ e sl s' stream, s.cores[c].entry? b.part b i ix = some e ∧ Slot.ofNum i = some sl ∧
      s.codeAt c b (off + 2) (ceilDiv (at_ + ((entryHoles e).map (·.2)).foldl (· + ·) 0) 8) k = (s', .ok stream) ∧
      lowestRule (fieldRules b sl [] (fillHoles e stream at_).1) = none ∧
      s'.slotFields c b off k rest (fillHoles e stream at_).2 (upd v (fin 9 i) fun _ => (fillHoles e stream at_).1) empty = (t, .ok r) := by
  unfold State.slotFields at h
  split at h
  · exact .inl h
  · split at h
    · cases h
    · split at h
      next e sl he hsl =>
        dsimp only at h
        split at h
        · cases h
        · cases h
        · cases h
        next s' stream hs =>
          split at h
          · cases h
          next hf => exact .inr ⟨e, sl, s', stream, he, hsl, hs, hf, h⟩
      · cases h

/-- A glyph that is decoded: its header, its slots' indices, its G entry, its filled fields and its padding, in this order. -/
theorem glyph_ok {cw : Cword} {last : Bool} {next : Nat} (h : s.glyph c b off k = (t, .ok (cw, last, next))) :
    ∃ s1 s2 s3 header head ge v used stream, s.codeAt c b off 2 k = (s1, .ok header) ∧
      s1.codeAt c b (off + 2) (ceilDiv (((List.range 9).map fun i =>
        if header.testBit (i + 1) then hdWidth b.header i else 0).foldl (· + ·) 0) 8) k = (s2, .ok head) ∧
      s2.cores[c].entry? b.part b 9 (header / 2 ^ 10 % 64) = some ge ∧
      s2.slotFields c b off k (glyphIndices b.header header head).1 (glyphIndices b.header header head).2 (Vector.replicate 9 0) false =
        (s3, .ok (v, used, false)) ∧
      s3.codeAt c b (off + 2) (ceilDiv used 8) k = (t, .ok stream) ∧
      cw = { glyph := BitVec.ofNat 32 off, slots := v, g := ge.setWidth 16 } ∧ last = header.testBit 0 ∧
      next = off + 2 + ceilDiv used 8 := by
  unfold State.glyph at h
  split at h
  · cases h
  · cases h
  · cases h
  next s1 header e1 =>
    dsimp only at h
    split at h
    · cases h
    · cases h
    · cases h
    next s2 head e2 =>
      split at h
      · cases h
      · split at h
        · cases h
        next ge hge =>
          split at h
          · cases h
          · cases h
          · cases h
          next s3 v used empty e3 =>
            split at h
            · cases h
            · cases h
            · cases h
            next s4 stream e4 =>
              split at h
              · cases h
              next hempty =>
                split at h
                · cases h
                · cases h
                  exact ⟨s1, s2, s3, header, head, ge, v, used, stream, e1, e2, hge, by simpa [hempty] using e3, e4, rfl, rfl, rfl⟩

/-- The glyphs of a stroke from one that is decoded on. -/
theorem glyphs_succ {n : Nat} {acc words : List Cword} {next : Nat} (h : s.glyphs c b (n + 1) off k acc = (t, .ok (words, next))) :
    ∃ s' cw last after, s.glyph c b off k = (s', .ok (cw, last, after)) ∧
      ((last = true ∧ t = s' ∧ words = acc ++ [cw] ∧ next = after) ∨
       (last = false ∧ s'.glyphs c b n after (k + 1) (acc ++ [cw]) = (t, .ok (words, next)))) := by
  unfold State.glyphs at h
  split at h
  · cases h
  · cases h
  · cases h
  next s' cw last after e =>
    refine ⟨s', cw, last, after, e, ?_⟩
    split at h
    next hl =>
      cases h
      exact .inl ⟨hl, rfl, rfl, rfl⟩
    next hl => exact .inr ⟨Bool.eq_false_iff.2 hl, h⟩

theorem fetchStroke_ok {x : Warp} {words : List Cword} {next : Nat} (h : s.fetchStroke c x b = (t, .ok (words, next))) :
    s.glyphs c b (24 - x.fetchAt.1.length) x.fetchAt.2 x.fetchAt.1.length x.fetchAt.1 = (t, .ok (words, next)) ∧
      formFault words = none := by
  unfold State.fetchStroke at h
  split at h
  · cases h
  · split at h
    next e =>
      split at h
      · cases h
      next hf =>
        cases h
        exact ⟨e, (Option.or_eq_none_iff.1 hf).1⟩
    next hr => exact absurd h (hr t words next)

/-! ### Every decoded bundle passes the filter -/

theorem slotFields_sound {l : List (Nat × Nat)} {r : Vector Field 9 × Nat × Bool} :
    ∀ {s : State} {at_ : Nat} {v : Vector Field 9} {empty : Bool}, s.slotFields c b off k l at_ v empty = (t, .ok r) →
      (∀ (i : Fin 9) sl, Slot.ofNum i.val = some sl → FieldSound b sl v[i]) →
      ∀ (i : Fin 9) sl, Slot.ofNum i.val = some sl → FieldSound b sl r.1[i] := by
  induction l with
  | nil =>
    intro s at_ v empty h hv
    cases h
    exact hv
  | cons x rest ih =>
    intro s at_ v empty h hv
    obtain ⟨j, ix⟩ := x
    rcases slotFields_cons h with h | ⟨e, sl, s', stream, -, hsl, -, hf, h⟩
    · exact ih h hv
    · refine ih h fun i sl' hi => ?_
      rw [upd_get]
      split
      next hij =>
        rw [hij, fin_val_of_lt (Slot.ofNum_lt hsl)] at hi
        obtain rfl : sl = sl' := Option.some.inj (hsl.symm.trans hi)
        exact fieldSound_of_rules hf
      · exact hv i sl' hi

theorem glyph_sound {cw : Cword} {last : Bool} {next : Nat} (h : s.glyph c b off k = (t, .ok (cw, last, next))) :
    BundleSound b cw := by
  obtain ⟨s1, s2, s3, header, head, ge, v, used, stream, -, -, -, hslots, -, rfl, -, -⟩ := glyph_ok h
  have idle : ∀ (i : Fin 9) (sl : Slot), Slot.ofNum i.val = some sl → FieldSound b sl (Vector.replicate 9 (0 : Field))[i] :=
    fun i sl _ => .inl (by rw [Fin.getElem_fin, Vector.getElem_replicate]; decide)
  exact fun i sl hi => slotFields_sound hslots idle i sl hi

theorem glyphs_sound {n : Nat} {words : List Cword} {next : Nat} :
    ∀ {s : State} {off k : Nat} {acc : List Cword}, s.glyphs c b n off k acc = (t, .ok (words, next)) →
      (∀ cw ∈ acc, BundleSound b cw) → ∀ cw ∈ words, BundleSound b cw := by
  induction n with
  | zero => intro s off k acc h; cases h
  | succ n ih =>
    intro s off k acc h hacc
    obtain ⟨s', cw, last, after, hg, hend⟩ := glyphs_succ h
    have hnew : ∀ x ∈ acc ++ [cw], BundleSound b x := by
      simp only [List.mem_append, List.mem_singleton]
      rintro x (hx | rfl)
      · exact hacc x hx
      · exact glyph_sound hg
    rcases hend with ⟨-, -, rfl, -⟩ | ⟨-, h⟩
    · exact hnew
    · exact ih h hnew

/-- The glyphs before a miss stand behind those that the stroke buffer held, and pass the filter. -/
theorem glyphsHeld_sound (n : Nat) :
    ∀ (s : State) (off k : Nat) (acc : List Cword), ∃ held, (s.glyphsHeld c b n off k acc).1 = acc ++ held ∧
      ∀ cw ∈ held, BundleSound b cw := by
  induction n with
  | zero => intro s off k acc; exact ⟨[], by simp [State.glyphsHeld]⟩
  | succ n ih =>
    intro s off k acc
    unfold State.glyphsHeld
    split
    next t cw next hg =>
      obtain ⟨held, h1, h2⟩ := ih t next (k + 1) (acc ++ [cw])
      refine ⟨cw :: held, by simp [h1], ?_⟩
      simp only [List.mem_cons]
      rintro x (rfl | hx)
      · exact glyph_sound hg
      · exact h2 x hx
    · exact ⟨[], by simp⟩

theorem glyphs_length {n : Nat} {words : List Cword} {next : Nat} :
    ∀ {s : State} {off k : Nat} {acc : List Cword}, s.glyphs c b n off k acc = (t, .ok (words, next)) →
      acc.length + 1 ≤ words.length ∧ words.length ≤ acc.length + n := by
  induction n with
  | zero => intro s off k acc h; cases h
  | succ n ih =>
    intro s off k acc h
    obtain ⟨s', cw, last, after, hg, ⟨-, -, rfl, -⟩ | ⟨-, h⟩⟩ := glyphs_succ h
    · simp
    · have := ih h
      simp only [List.length_append, List.length_singleton] at this
      omega

end

/-! ### The form of a stroke (R126) -/

theorem firstBad_eq_none {ops : List (List (Slot × Instr))} {bad : Nat → List (Slot × Instr) → Bool} (h : firstBad ops bad = none)
    {n : Nat} {o : List (Slot × Instr)} (hn : ops[n]? = some o) : bad n o = false := by
  unfold firstBad at h
  rw [List.findSome?_eq_none_iff] at h
  have hlt := (List.getElem?_eq_some_iff.1 hn).1
  have hmem : (n, o) ∈ (List.range ops.length).zip ops := by
    rw [List.mem_iff_getElem?]
    exact ⟨n, List.getElem?_zip_eq_some.2 ⟨by simp [hlt], hn⟩⟩
  simpa using h (n, o) hmem

theorem mem_ops {cw : Cword} {i : Fin 9} {sl : Slot} {op : Instr} (hsl : Slot.ofNum i.val = some sl) (h0 : opcodeOf cw.slots[i] ≠ 0)
    (h : decode sl cw.slots[i] = .ok op) : (sl, op) ∈ cw.ops := by
  unfold Cword.ops
  rw [List.mem_filterMap]
  refine ⟨i, List.mem_finRange i, ?_⟩
  have hi : isIdle cw.slots[i] = false := by simpa [isIdle] using h0
  rw [hsl]
  dsimp only
  rw [hi, h]

section
variable {words : List Cword} (h : formFault words = none)
include h

theorem transfer_last {n : Nat} {cw : Cword} (hn : words[n]? = some cw) {x : Slot × Instr} (hx : x ∈ cw.ops)
    (ht : isTransfer x.2 = true) : n + 1 = words.length := by
  simp only [formFault, Option.or_eq_none_iff, Option.map_eq_none_iff] at h
  have hb := firstBad_eq_none h.1 (n := n) (o := cw.ops) (by simp [hn])
  have hlt := (List.getElem?_eq_some_iff.1 hn).1
  have hany : cw.ops.any (fun x => isTransfer x.2) = true := List.any_eq_true.2 ⟨x, hx, ht⟩
  rw [hany] at hb
  simp at hb
  omega

theorem headWait_first {n : Nat} {cw : Cword} (hn : words[n]? = some cw) {x : Slot × Instr} (hx : x ∈ cw.ops)
    (ht : isHeadWait x.2 = true) : n = 0 := by
  simp only [formFault, Option.or_eq_none_iff, Option.map_eq_none_iff] at h
  have hb := firstBad_eq_none h.2.1 (n := n) (o := cw.ops) (by simp [hn])
  have hany : cw.ops.any (fun x => isHeadWait x.2) = true := List.any_eq_true.2 ⟨x, hx, ht⟩
  rw [hany] at hb
  simpa using hb

end

/-! ### STROKE_FETCH and QUILL_REFILL (R122) -/

theorem modWarp_warp? {s : State} {c : CoreId} {w : WarpId} {x : Warp} (h : s.warp? c w = some x) (f : Warp → Warp) :
    (s.modWarp c w f).warp? c w = some (f x) := by
  have h' : s.cores[c.val].warps[w.val] = some x := h
  simp [State.warp?, State.modWarp, Core.modWarp, h']
theorem install_warp? (s : State) (c : CoreId) (w : WarpId) (d : DecodeEntry) (i : Fin 23) (n : Nat) :
    (s.modCore c fun q => (q.install d).bump i n).warp? c w = s.warp? c w := by
  simp [State.warp?, Core.bump, Core.install]
theorem modWarp_warp?_other {s : State} {c : CoreId} {w v : WarpId} (hv : v ≠ w) (f : Warp → Warp) :
    (s.modWarp c w f).warp? c v = s.warp? c v := by
  simp [State.warp?, State.modWarp, Core.modWarp, upd_other _ _ hv]

section
variable {s u : State} {c : CoreId} {w : WarpId} {x : Warp} {b : Block} (hw : s.warp? c w = some x)
  (hb : s.cores[c].block? x.bid = some b) (ha : awaitsFetch x = true) (hh : b.halted = false) (hs : s.sliceStuck (clusterOf c) = false)
include hw hb ha hh hs

theorem exec_strokeFetch_ok {words : List Cword} {next : Nat} (hf : s.fetchStroke c x b = (u, .ok (words, next))) :
    exec (.strokeFetch c w) s =
      .next (u.modWarp c w fun y => { y with stroke := words, decoded := true, next := BitVec.ofNat 32 next }) := by
  rw [exec_strokeFetch, execStrokeFetch, hw]
  dsimp only
  rw [hb]
  dsimp only
  rw [if_neg (by simp [ha, hh, hs]), hf]

theorem strokeFetch_frame {words : List Cword} {next : Nat} (hf : s.fetchStroke c x b = (u, .ok (words, next))) :
    ∃ t, exec (.strokeFetch c w) s = .next t ∧
      t.warp? c w = some { x with stroke := words, decoded := true, next := BitVec.ofNat 32 next } ∧
      (∀ v : WarpId, v ≠ w → t.warp? c v = s.warp? c v) ∧ ∀ d : CoreId, d ≠ c → t.cores[d] = s.cores[d] := by
  have hu : CodeFrame c s u := by simpa [hf] using codeFrame_fetchStroke s c x b
  refine ⟨_, exec_strokeFetch_ok hw hb ha hh hs hf, ?_, fun v hv => ?_, fun d hd => ?_⟩
  · exact modWarp_warp? ((hu.warp? w).trans hw) _
  · exact (modWarp_warp?_other hv _).trans (hu.warp? v)
  · exact (upd_other _ _ hd).trans (hu.others d hd)
end

/-- A warp whose stroke buffer holds these glyphs, with the offset after them. -/
def Warp.buffering (x : Warp) (words : List Cword) (next : BitVec 32) : Warp := { x with stroke := words, next := next }

theorem find?_of_filtered {l : List DecodeEntry} {q : DecodeEntry → Bool} {d : DecodeEntry} (hl : ∀ y ∈ l, q y = false)
    (hd : q d = true) :
    (l ++ [d]).find? q = some d := by
  rw [List.find?_append, List.find?_eq_none.2 fun y hy => by simp [hl y hy]]
  simp [hd]

theorem entry?_bump (k : Core) (i : Fin 23) (n : Nat) (p : PartId) (b : Block) (slot index : Nat) :
    (k.bump i n).entry? p b slot index = k.entry? p b slot index := rfl
/-- An installed entry is at hand, and no older one of its index is left (R121). -/
theorem entry?_install (k : Core) (p : PartId) (b : Block) (slot index : Nat) (e : BitVec 64) :
    (k.install { part := p, dictId := b.dictId, slot := slot, index := index, entry := e }).entry? p b slot index = some e := by
  have hrest : ∀ y ∈ k.decode.filter fun y => !(y.part == p && y.dictId == b.dictId && y.slot == slot && y.index == index),
      (y.part == p && y.dictId == b.dictId && y.slot == slot && y.index == index) = false := by
    intro y hy
    rw [← Bool.not_eq_true']
    exact (List.mem_filter.1 hy).2
  unfold Core.entry? Core.install
  dsimp only
  rw [find?_of_filtered]
  · rfl
  · intro y hy
    split at hy
    · split at hy
      · exact hrest y (List.mem_of_mem_erase hy)
      · exact hrest y hy
    · exact hrest y hy
  · simp

section
variable {s u v : State} {c : CoreId} {w : WarpId} {x : Warp} {b : Block} {slot : Fin 10} {index k : Nat} {bs : List Byte}
  (hw : s.warp? c w = some x) (hb : s.cores[c].block? x.bid = some b) (ha : awaitsFetch x = true) (hh : b.halted = false)
  (hs : s.sliceStuck (clusterOf c) = false) (hf : s.fetchStroke c x b = (u, .miss slot.val index k))
  (hr : u.codeRead c b (entryAddr b slot.val index) (if slot.val = 9 then 2 else 8) = (v, .inl bs)) (hp : v.poisonSectors = [])
  (hi : installRule b slot.val (ofBytes 64 bs) = none)
include hw hb ha hh hs hf hr hp hi

/-- What a refill that the filter passes gives: the entry installed, and the glyphs that it holds before the miss in the stroke buffer. -/
theorem exec_quillRefill_ok :
    let held := v.glyphsHeld c b (24 - x.fetchAt.1.length) x.fetchAt.2 x.fetchAt.1.length x.fetchAt.1
    exec (.quillRefill c w slot index) s =
      .next ((v.modWarp c w fun y => y.buffering held.1 (BitVec.ofNat 32 held.2)).modCore c fun q =>
        (q.install { part := b.part, dictId := b.dictId, slot := slot.val, index := index, entry := ofBytes 64 bs }).bump 9 1) := by
  have hpoison (pa n : Nat) : v.poisonAt pa n = none := by simp [State.poisonAt, hp]
  rw [exec_quillRefill, execQuillRefill, hw]
  dsimp only
  rw [hb]
  dsimp only
  rw [if_neg (by simp [ha, hh, hs]), hf]
  dsimp only
  rw [if_neg (by simp), hr]
  dsimp only
  simp only [hpoison, hi]
  split <;> rfl

theorem quillRefill_held :
    ∃ t held next, exec (.quillRefill c w slot index) s = .next t ∧
      t.warp? c w = some (x.buffering (x.stroke ++ held) next) ∧ (∀ cw ∈ held, BundleSound b cw) ∧
      t.cores[c].entry? b.part b slot.val index = some (ofBytes 64 bs) := by
  have hu : CodeFrame c s u := by simpa [hf] using codeFrame_fetchStroke s c x b
  have hv : CodeFrame c u v := by
    simpa [hr] using codeFrame_codeRead u c b (entryAddr b slot.val index) (if slot.val = 9 then 2 else 8)
  let fetched := v.glyphsHeld c b (24 - x.fetchAt.1.length) x.fetchAt.2 x.fetchAt.1.length x.fetchAt.1
  obtain ⟨held, hglyphs, hsound⟩ : ∃ held, fetched.1 = x.stroke ++ held ∧ ∀ cw ∈ held, BundleSound b cw := glyphsHeld_sound ..
  refine ⟨_, held, BitVec.ofNat 32 fetched.2, exec_quillRefill_ok hw hb ha hh hs hf hr hp hi, ?_, hsound, ?_⟩
  · rw [← hglyphs]
    exact (install_warp? ..).trans (modWarp_warp? (((hu.trans hv).warp? w).trans hw) _)
  · rw [State.modCore_cores, Fin.getElem_fin, upd_self, entry?_bump]
    exact entry?_install ..

end

/-! ### Elements of packed values (R4, R56) -/

theorem packNat_lt (w : Nat) (f : Nat → Nat) : ∀ n, packNat w n f < 2 ^ (w * n)
  | 0 => by simp [packNat]
  | n + 1 => by
    have h := packNat_lt w f n
    have hd : f n % 2 ^ w + 1 ≤ 2 ^ w := Nat.mod_lt _ (Nat.two_pow_pos w)
    calc packNat w (n + 1) f < 2 ^ (w * n) + f n % 2 ^ w * 2 ^ (w * n) := by rw [packNat]; omega
      _ = (f n % 2 ^ w + 1) * 2 ^ (w * n) := by rw [Nat.add_mul, Nat.one_mul, Nat.add_comm]
      _ ≤ 2 ^ w * 2 ^ (w * n) := Nat.mul_le_mul_right _ hd
      _ = 2 ^ (w * (n + 1)) := by rw [← Nat.pow_add, Nat.mul_succ, Nat.add_comm]

theorem packNat_digit (w : Nat) (f : Nat → Nat) {i : Nat} : ∀ {n}, i < n → packNat w n f / 2 ^ (w * i) % 2 ^ w = f i % 2 ^ w
  | n + 1, h => by
    have hlt := packNat_lt w f n
    rw [packNat]
    obtain rfl | hi : i = n ∨ i < n := by omega
    · rw [Nat.add_mul_div_right _ _ (Nat.two_pow_pos _), Nat.div_eq_of_lt hlt, Nat.zero_add, Nat.mod_mod]
    · have hsplit : 2 ^ (w * n) = 2 ^ w * 2 ^ (w * (n - i - 1)) * 2 ^ (w * i) := by
        rw [← Nat.pow_add, ← Nat.pow_add]
        congr 1
        obtain ⟨d, rfl⟩ : ∃ d, n = i + 1 + d := ⟨n - i - 1, by omega⟩
        simp only [show i + 1 + d - i - 1 = d by omega]
        ring
      rw [hsplit, ← Nat.mul_assoc, Nat.add_mul_div_right _ _ (Nat.two_pow_pos _), ← Nat.mul_assoc, Nat.mul_right_comm,
        Nat.add_mul_mod_self_right, packNat_digit w f hi]

/-- An element of a number, whatever stands above it. -/
theorem elem_ofNat {w m i : Nat} (x : Nat) (h : w * i + w ≤ m) : (elem w (BitVec.ofNat m x) i).toNat = x / 2 ^ (w * i) % 2 ^ w := by
  rw [elem, BitVec.extractLsb'_toNat, BitVec.toNat_ofNat, Nat.shiftRight_eq_div_pow]
  rw [show (2 : Nat) ^ m = 2 ^ (w * i) * 2 ^ (m - w * i) by rw [← Nat.pow_add]; congr 1; omega, Nat.mod_mul_right_div_self]
  exact Nat.mod_mod_of_dvd _ (Nat.pow_dvd_pow 2 (by omega))

theorem elem_packEl {w n m i : Nat} (f : Nat → BitVec w) (hi : i < n) (h : w * i + w ≤ m) : elem w (packEl w n m f) i = f i := by
  apply BitVec.eq_of_toNat_eq
  rw [packEl, elem_ofNat _ h, packNat_digit w _ hi, Nat.mod_eq_of_lt (f i).isLt]

theorem elem_ofBytes {m i : Nat} {bs : List Byte} (hi : i < bs.length) (h : 8 * i + 8 ≤ m) : elem 8 (ofBytes m bs) i = bs[i] := by
  apply BitVec.eq_of_toNat_eq
  rw [ofBytes, elem_ofNat _ h, ← natOfBytes_byte hi]
  rfl

theorem elem_read {m : Memory} {a i : Nat} (hi : i < 64) : elem 8 (ofBytes 512 (m.read a 64)) i = m.get (a + i) := by
  have hlen : i < (m.read a 64).length := by simpa [Memory.read] using hi
  rw [elem_ofBytes hlen (by omega)]
  simp [Memory.read]

/-! ### The copies of a slice -/

theorem find?_replaced (x : Sector) (n : Nat) (l : List Sector) :
    (l.map fun y => if y.num == x.num then x else y).find? (fun y => y.num == n) =
      if n = x.num then (if l.any (fun y => y.num == x.num) then some x else none) else l.find? (fun y => y.num == n) := by
  induction l with
  | nil => simp
  | cons y l ih =>
    by_cases hy : y.num = x.num <;> by_cases hn : n = x.num <;> by_cases hyn : y.num = n <;> simp_all

theorem sector?_setSector (k : Cluster) (x : Sector) (n : Nat) :
    (k.setSector x).sector? n = if n = x.num then some x else k.sector? n := by
  unfold Cluster.setSector Cluster.sector?
  dsimp only
  split
  next h => rw [find?_replaced, h, if_pos rfl]
  next h =>
    rw [List.find?_append]
    by_cases hn : n = x.num
    · subst hn
      rw [List.find?_eq_none.2 (by simpa using h)]
      simp
    · rw [if_neg hn, List.find?_singleton, if_neg (by simpa using fun h => hn h.symm), Option.or_none]

theorem sector?_dropSector (k : Cluster) (num n : Nat) : (k.dropSector num).sector? n = if n = num then none else k.sector? n := by
  unfold Cluster.dropSector Cluster.sector?
  dsimp only
  rw [List.find?_filter]
  split
  next h => exact List.find?_eq_none.2 fun y _ => by simp [h]
  next h => exact List.find?_congr fun y _ => by by_cases hy : y.num = n <;> simp [hy, h]

theorem sector?_num {k : Cluster} {n : Nat} {x : Sector} (h : k.sector? n = some x) : x.num = n ∧ x ∈ k.l2 :=
  ⟨by simpa using List.find?_some h, List.mem_of_find?_eq_some h⟩

/-! ### Write-backs (R325) -/

/-- Bytes of a sector put into a memory. -/
theorem get_foldl_set (a : Nat) (f : Nat → Byte) (y : Nat) (l : List Nat) :
    ∀ {m : Memory}, m.wf = true → (l.foldl (fun m i => m.set (a + i) (f i)) m).get y =
      if a ≤ y ∧ y - a ∈ l then f (y - a) else m.get y := by
  induction l with
  | nil => simp
  | cons i l ih =>
    intro m hm
    rw [List.foldl_cons, ih (Memory.set_wf _ _ hm), Memory.get_set _ _ _ hm]
    by_cases ha : a ≤ y
    · by_cases hl : y - a ∈ l
      · simp [ha, hl]
      · by_cases hi : y = a + i
        · simp [hi]
        · rw [if_neg (by simp [hl]), if_neg hi, if_neg (by simp [hl]; omega)]
    · rw [if_neg (by simp [ha]), if_neg (by omega), if_neg (by simp [ha])]

theorem invalidate_clusters_own (s : State) (cl : ClusterId) (n : Nat) :
    (s.invalidate (some cl) n).clusters[cl] = s.clusters[cl] := by
  unfold State.invalidate
  dsimp only
  split
  · rfl
  · simp

theorem writeBack_eq (s : State) (cl : ClusterId) (n : Nat) :
    s.writeBack cl n = { s with mem := (s.writeBack cl n).mem, clusters := (s.writeBack cl n).clusters } := by
  unfold State.writeBack
  split
  · rfl
  · split
    · rfl
    · dsimp only [State.modCluster]
      rw [invalidate_eq]

theorem memWf_writeBack_mem {s : State} (cl : ClusterId) (n : Nat) (h : s.mem.wf = true) : (s.writeBack cl n).mem.wf = true := by
  unfold State.writeBack
  split
  · exact h
  · split
    · exact h
    · rw [State.modCluster_mem, (State.invalidate_same _ _ _).1]
      exact Memory.foldl_set_wf _ _ _ h

theorem modCluster_own (s : State) (cl : ClusterId) (f : Cluster → Cluster) : (s.modCluster cl f).clusters[cl] = f s.clusters[cl] := by
  simp

theorem refuses_calm {s : State} (hs : Calm s) (pa : Nat) : s.refuses pa = false := by
  obtain ⟨hmig, hmoved, -, -, -⟩ := hs
  simp [State.refuses, hmig, hmoved]

theorem writeBack_unmarked {s : State} {cl : ClusterId} {n : Nat} {x : Sector} (hx : s.clusters[cl].sector? n = some x)
    (hm : x.marked = 0) : s.writeBack cl n = s := by
  unfold State.writeBack
  rw [hx]
  exact if_pos (.inl hm)
theorem writeBack_marked {s : State} {cl : ClusterId} {n : Nat} {x : Sector} (hs : Calm s) (hx : s.clusters[cl].sector? n = some x)
    (hm : x.marked ≠ 0) : s.writeBack cl n =
      (({ s with mem := (lanesOf x.marked).foldl (fun m i => m.set (64 * n + i) (elem 8 x.data i)) s.mem } : State).invalidate
        (some cl) n).modCluster cl (·.setSector { x with marked := 0 }) := by
  unfold State.writeBack
  rw [hx]
  exact if_neg (by simpa [refuses_calm hs] using hm)

theorem mem_lanesOf {m : Mask} {i : Nat} : i ∈ lanesOf m ↔ m.getLsbD i = true := by
  simp only [lanesOf, List.mem_filter, List.mem_range, and_iff_right_iff_imp]
  exact fun h => BitVec.lt_of_getLsbD h

/-- While no home refuses, a sector written back stays in the slice with no byte marked, the others stay as they are, and the home has the
bytes that were marked. -/
theorem writeBack_calm {s : State} {cl : ClusterId} {n : Nat} {x : Sector} (hs : Calm s) (hx : s.clusters[cl].sector? n = some x) :
    (∀ m, (s.writeBack cl n).clusters[cl].sector? m = if m = n then some { x with marked := 0 } else s.clusters[cl].sector? m) ∧
      ∀ y, (s.writeBack cl n).mem.get y =
        if y / 64 = n ∧ x.marked.getLsbD (y % 64) = true then elem 8 x.data (y % 64) else s.mem.get y := by
  have hnum := (sector?_num hx).1
  by_cases hm : x.marked = 0
  · rw [writeBack_unmarked hx hm]
    refine ⟨fun m => ?_, fun y => by simp [hm]⟩
    split
    next h => rw [h, hx, ← hm]
    next h => rfl
  · rw [writeBack_marked hs hx hm]
    refine ⟨fun m => ?_, fun y => ?_⟩
    · rw [modCluster_own, sector?_setSector, invalidate_clusters_own, hnum]
    · obtain ⟨-, -, -, hwf, -⟩ := hs
      rw [State.modCluster_mem, (State.invalidate_same _ _ _).1, get_foldl_set _ _ _ _ hwf]
      have hlane {j : Nat} (hj : j ∈ lanesOf x.marked) : j < 64 := BitVec.lt_of_getLsbD (mem_lanesOf.1 hj)
      by_cases h : 64 * n ≤ y ∧ y - 64 * n ∈ lanesOf x.marked
      · have hy := hlane h.2
        have hdiv : y / 64 = n := by omega
        have hmod : y % 64 = y - 64 * n := by omega
        rw [if_pos h, hmod, if_pos ⟨hdiv, mem_lanesOf.1 h.2⟩]
      · rw [if_neg h, if_neg]
        rintro ⟨hdiv, hmark⟩
        exact h ⟨by omega, mem_lanesOf.2 (by rwa [show y - 64 * n = y % 64 by omega])⟩

theorem setSector_length_present {k : Cluster} {x y : Sector} (h : k.sector? x.num = some y) : (k.setSector x).l2.length = k.l2.length := by
  have hany : k.l2.any (fun z => z.num == x.num) = true :=
    List.any_eq_true.2 ⟨y, (sector?_num h).2, beq_iff_eq.2 (sector?_num h).1⟩
  simp [Cluster.setSector, hany]
theorem setSector_length_absent {k : Cluster} {x : Sector} (h : k.sector? x.num = none) :
    (k.setSector x).l2.length = k.l2.length + 1 := by
  have hany : k.l2.any (fun z => z.num == x.num) = false := by
    simpa [Cluster.sector?] using h
  simp [Cluster.setSector, hany]
theorem dropSector_length {k : Cluster} {n : Nat} {x : Sector} (h : k.sector? n = some x) :
    (k.dropSector n).l2.length < k.l2.length :=
  List.length_filter_lt_length_iff_exists.2 ⟨x, (sector?_num h).2, by simp [(sector?_num h).1]⟩

theorem writeBack_length {s : State} {cl : ClusterId} {n : Nat} {x : Sector} (hs : Calm s) (hx : s.clusters[cl].sector? n = some x) :
    (s.writeBack cl n).clusters[cl].l2.length = s.clusters[cl].l2.length := by
  by_cases hm : x.marked = 0
  · rw [writeBack_unmarked hx hm]
  · rw [writeBack_marked hs hx hm, modCluster_own, invalidate_clusters_own]
    exact setSector_length_present (x := { x with marked := 0 }) (y := x) ((sector?_num hx).1.symm ▸ hx)

/-! ### Reads through a slice with room (R309, R313) -/

/-- The copies that a slice holds, and those of some sectors that it does not. -/
def Cluster.load (k : Cluster) (R : Finset Nat) : Nat := k.l2.length + (R.filter fun n => k.sector? n = none).card

/-- t is s after reads through a slice on behalf of a partition, of sectors of R: no core changes, the partition sees every byte as
before, and the slice holds no sector more but of R. -/
structure ReadThrough (cl : ClusterId) (p : PartId) (R : Finset Nat) (s t : State) : Prop where
  cores : t.cores = s.cores
  packageId : t.packageId = s.packageId
  calm : Calm t
  seen : ∀ pa, seen t cl p pa = seen s cl p pa
  load : t.clusters[cl].load R ≤ s.clusters[cl].load R

section
variable {cl : ClusterId} {p : PartId} {R : Finset Nat} {s t u : State}

theorem ReadThrough.refl (hs : Calm s) : ReadThrough cl p R s s := ⟨rfl, rfl, hs, fun _ => rfl, le_rfl⟩
theorem ReadThrough.trans (h : ReadThrough cl p R s t) (h' : ReadThrough cl p R t u) : ReadThrough cl p R s u :=
  ⟨h'.cores.trans h.cores, h'.packageId.trans h.packageId, h'.calm, fun pa => (h'.seen pa).trans (h.seen pa), h'.load.trans h.load⟩

/-- A copy of another partition leaves, and the home has what it had marked (R309). -/
theorem readThrough_retag {num : Nat} (hs : Calm s) (ht : s.retag cl p num = some t) :
    ReadThrough cl p R s t ∧ ∀ x, t.clusters[cl].sector? num = some x → x.part = p := by
  unfold State.retag at ht
  split at ht
  next x hx =>
    split at ht
    next hp =>
      cases ht
      exact ⟨.refl hs, fun y hy => by rw [hx] at hy; cases hy; exact hp⟩
    next hp =>
      obtain ⟨hsec, hmem⟩ := writeBack_calm hs hx
      dsimp only at ht
      rw [hsec, if_pos rfl] at ht
      dsimp only at ht
      rw [if_pos rfl] at ht
      cases ht
      have hsec' (m : Nat) : ((s.writeBack cl num).modCluster cl (·.dropSector num)).clusters[cl].sector? m =
          if m = num then none else s.clusters[cl].sector? m := by
        rw [modCluster_own, sector?_dropSector, hsec]
        split <;> rfl
      refine ⟨⟨writeBack_cores s cl num, ?_, ?_, fun y => ?_, ?_⟩, fun y hy => ?_⟩
      · show (s.writeBack cl num).packageId = s.packageId
        rw [writeBack_eq]
      · obtain ⟨h1, h2, h3, h4, h5⟩ := hs
        have hwf := memWf_writeBack_mem cl num h4
        rw [writeBack_eq]
        exact ⟨h1, h2, h3, hwf, h5⟩
      · unfold Claims.seen
        rw [hsec', State.modCluster_mem, hmem]
        by_cases hy : y / 64 = num
        · rw [if_pos hy, hy, hx]
          simp [hp, elem]
        · rw [if_neg hy, if_neg (by simp [hy])]
      · have hlen : ((s.writeBack cl num).modCluster cl (·.dropSector num)).clusters[cl].l2.length < s.clusters[cl].l2.length := by
          rw [modCluster_own, ← writeBack_length hs hx]
          exact dropSector_length ((hsec num).trans (if_pos rfl))
        have hcard := Finset.card_le_card (show
            (R.filter fun m => ((s.writeBack cl num).modCluster cl (·.dropSector num)).clusters[cl].sector? m = none) ⊆
              insert num (R.filter fun m => s.clusters[cl].sector? m = none) from fun m hm => by
          rw [Finset.mem_filter, hsec'] at hm
          by_cases hmn : m = num
          · simp [hmn]
          · rw [if_neg hmn] at hm
            exact Finset.mem_insert_of_mem (Finset.mem_filter.2 hm))
        have hins := Finset.card_insert_le num (R.filter fun m => s.clusters[cl].sector? m = none)
        unfold Cluster.load
        omega
      · rw [hsec', if_pos rfl] at hy
        cases hy
  next hx =>
    cases ht
    exact ⟨.refl hs, fun y hy => by rw [hx] at hy; cases hy⟩

theorem getLsbD_allOnes_of_lt {n i : Nat} (h : i < n) : (BitVec.allOnes n).getLsbD i = true := by
  rw [BitVec.getLsbD_allOnes]
  exact decide_eq_true h

/-- A whole copy of a sector put into the slice that agrees with what the partition sees changes nothing that it sees. -/
theorem readThrough_setSector {x : Sector} (hs : Calm s) (hp : x.part = p) (hv : x.valid = BitVec.allOnes 64)
    (hdata : ∀ i, i < 64 → elem 8 x.data i = seen s cl p (64 * x.num + i)) (hR : x.num ∈ R) :
    ReadThrough cl p R s (s.modCluster cl (·.setSector x)) := by
  have hsec (m : Nat) : (s.modCluster cl (·.setSector x)).clusters[cl].sector? m =
      if m = x.num then some x else s.clusters[cl].sector? m := by
    rw [modCluster_own, sector?_setSector]
  refine ⟨rfl, rfl, hs, fun y => ?_, ?_⟩
  · have hlt : y % 64 < 64 := Nat.mod_lt _ (by decide)
    by_cases hy : y / 64 = x.num
    · have hval := hdata (y % 64) hlt
      rw [show 64 * x.num + y % 64 = y by omega] at hval
      rw [← hval, Claims.seen, hsec, if_pos hy]
      dsimp only
      rw [if_pos hp, hv, if_pos (getLsbD_allOnes_of_lt hlt)]
      rfl
    · rw [Claims.seen, Claims.seen, hsec, if_neg hy]
      rfl
  · unfold Cluster.load
    rw [modCluster_own]
    cases hx : s.clusters[cl].sector? x.num with
    | some y =>
      rw [setSector_length_present hx]
      refine Nat.add_le_add_left (Finset.card_le_card fun m hm => ?_) _
      rw [Finset.mem_filter, sector?_setSector] at hm
      split at hm
      next h => exact absurd hm.2 nofun
      next h => exact Finset.mem_filter.2 hm
    | none =>
      rw [setSector_length_absent hx]
      have hlt := Finset.card_lt_card (show
          (R.filter fun m => (s.clusters[cl].setSector x).sector? m = none) ⊂ R.filter fun m => s.clusters[cl].sector? m = none from by
        refine Finset.ssubset_iff_of_subset (fun m hm => ?_) |>.2 ⟨x.num, Finset.mem_filter.2 ⟨hR, hx⟩, by simp [sector?_setSector]⟩
        rw [Finset.mem_filter, sector?_setSector] at hm
        split at hm
        next h => exact absurd hm.2 nofun
        next h => exact Finset.mem_filter.2 hm)
      omega

theorem makeRoom_spare {num : Nat} (h : s.clusters[cl].l2.length < Config.l2Lines) : s.makeRoom cl num = s := by
  unfold State.makeRoom
  rw [decide_eq_true h]
  exact if_pos rfl

/-- A whole copy of a sector for a partition, with these bytes and marks. -/
def Sector.whole (p : PartId) (num : Nat) (d : BitVec 512) (m : Mask) : Sector :=
  { num := num, part := p, data := d, valid := BitVec.allOnes 64, marked := m }

/-- A whole copy put into the slice, of what the partition sees: it stands there, and the partition sees what it saw. -/
theorem readThrough_whole {num : Nat} {d : BitVec 512} (m : Mask) (hs : Calm s) (hR : num ∈ R)
    (hdata : ∀ i, i < 64 → elem 8 d i = seen s cl p (64 * num + i)) :
    ReadThrough cl p R s (s.modCluster cl (·.setSector (.whole p num d m))) ∧
      ∃ x, (s.modCluster cl (·.setSector (.whole p num d m))).clusters[cl].sector? num = some x ∧
        ∀ i, i < 64 → elem 8 x.data i = seen s cl p (64 * num + i) := by
  refine ⟨readThrough_setSector (x := .whole p num d m) hs rfl rfl hdata hR, .whole p num d m, ?_, hdata⟩
  rw [modCluster_own, sector?_setSector]
  exact if_pos rfl

/-- A sector filled for a partition, while the slice has room for every sector of R: the copy is the partition's own and whole. -/
theorem readThrough_fill {num : Nat} (hs : Calm s) (hR : num ∈ R) (hroom : s.clusters[cl].load R < Config.l2Lines)
    (ht : s.fill cl p num = some t) :
    ReadThrough cl p R s t ∧ ∃ x, t.clusters[cl].sector? num = some x ∧
      ∀ i, i < 64 → elem 8 x.data i = seen s cl p (64 * num + i) := by
  unfold State.fill at ht
  split at ht
  · cases ht
  next r hr =>
    obtain ⟨hread, hpart⟩ := readThrough_retag (R := R) hs hr
    have hrefuse := refuses_calm hread.calm (64 * num)
    have hseen (i : Nat) (x : Sector) (hi : i < 64) (hx : r.clusters[cl].sector? num = some x) :
        seen r cl p (64 * num + i) = if x.valid.getLsbD i then elem 8 x.data i else r.mem.get (64 * num + i) := by
      rw [Claims.seen, show (64 * num + i) / 64 = num by omega, show (64 * num + i) % 64 = i by omega, hx]
      simp [hpart x hx, elem]
    split at ht
    next x hx =>
      split at ht
      next hv =>
        cases ht
        refine ⟨hread, x, hx, fun i hi => ?_⟩
        rw [← hread.seen, hseen i x hi hx, hv, if_pos (getLsbD_allOnes_of_lt hi)]
      next hv =>
        rw [hrefuse, if_neg Bool.false_ne_true] at ht
        obtain rfl := (Option.some.inj ht).symm
        obtain ⟨num', part, data, valid, marked⟩ := x
        obtain rfl : num' = num := (sector?_num hx).1
        obtain rfl : part = p := hpart _ hx
        obtain ⟨hwhole, x, hx', hdata⟩ := readThrough_whole (R := R) marked hread.calm hR fun i hi =>
          (elem_packEl (m := 512) _ hi (by omega)).trans (hseen i _ hi hx).symm
        exact ⟨hread.trans hwhole, x, hx', fun i hi => (hdata i hi).trans (hread.seen _)⟩
    next hx =>
      rw [hrefuse, if_neg Bool.false_ne_true] at ht
      have hspare : r.clusters[cl].l2.length < Config.l2Lines := lt_of_le_of_lt (Nat.le_add_right _ _) (lt_of_le_of_lt hread.load hroom)
      rw [makeRoom_spare hspare] at ht
      obtain rfl := (Option.some.inj ht).symm
      have hhome (i : Nat) (hi : i < 64) : elem 8 (ofBytes 512 (r.mem.read (64 * num) 64)) i = seen r cl p (64 * num + i) := by
        rw [elem_read hi, Claims.seen, show (64 * num + i) / 64 = num by omega, hx]
      obtain ⟨hwhole, x, hx', hdata⟩ := readThrough_whole (R := R) 0 hread.calm hR hhome
      exact ⟨hread.trans hwhole, x, hx', fun i hi => (hdata i hi).trans (hread.seen _)⟩

end

/-! ### Bytes read through a slice (R313) -/

section
variable {cl : ClusterId} {p : PartId} {R : Finset Nat} {s t u : State}

/-- n bytes from an address as a partition sees them through a slice. -/
def seenBytes (s : State) (cl : ClusterId) (p : PartId) (pa n : Nat) : List Byte := (List.range n).map fun i => seen s cl p (pa + i)

theorem seenBytes_add (s : State) (cl : ClusterId) (p : PartId) (pa n m : Nat) :
    seenBytes s cl p pa n ++ seenBytes s cl p (pa + n) m = seenBytes s cl p pa (n + m) := by
  simp [seenBytes, List.range_add, Function.comp_def, Nat.add_assoc]
theorem ReadThrough.seenBytes (h : ReadThrough cl p R s t) (pa n : Nat) : seenBytes t cl p pa n = seenBytes s cl p pa n := by
  unfold Machine.seenBytes
  simp only [h.seen]

theorem readThrough_sliceReadOne {num lo n : Nat} {bs : List Byte} (hs : Calm s) (hR : num ∈ R)
    (hroom : s.clusters[cl].load R < Config.l2Lines) (hn : lo + n ≤ 64) (ht : s.sliceReadOne cl p num lo n = some (t, bs)) :
    ReadThrough cl p R s t ∧ bs = seenBytes s cl p (64 * num + lo) n := by
  unfold State.sliceReadOne at ht
  split at ht
  · cases ht
  next r hr =>
    obtain ⟨hread, x, hx, hdata⟩ := readThrough_fill hs hR hroom hr
    rw [hx] at ht
    cases ht
    refine ⟨hread, List.map_congr_left fun i hi => ?_⟩
    rw [List.mem_range] at hi
    rw [hdata (lo + i) (by omega), Nat.add_assoc]

/-- The first of the pieces of a read, taken one after another, give the bytes up to the end of the last of them. -/
theorem readThrough_pieces {f : Option (State × List Byte) → Nat × Nat × Nat → Option (State × List Byte)}
    (hnone : ∀ x, f none x = none)
    (hsome : ∀ r k lo m, f (some r) (k, lo, m) = (r.1.sliceReadOne cl p k lo m).map fun q => (q.1, r.2 ++ q.2))
    {pa n : Nat} (hn : 0 < n) (hs : Calm s) (hR : ∀ q, pa / 64 ≤ q → q ≤ (pa + n - 1) / 64 → q ∈ R)
    (hroom : s.clusters[cl].load R < Config.l2Lines) (m : Nat) :
    ∀ {t : State} {bs : List Byte}, m ≤ (pa + n - 1) / 64 + 1 - pa / 64 →
      (((List.range m).map (pa / 64 + ·)).map fun k =>
        (k, (if pa ≤ 64 * k then 0 else pa - 64 * k), (min (64 * k + 64) (pa + n)) -
          (64 * k + if pa ≤ 64 * k then 0 else pa - 64 * k))).foldl f
        (some (s, [])) = some (t, bs) →
      ReadThrough cl p R s t ∧ bs = seenBytes s cl p pa (min (64 * (pa / 64 + m)) (pa + n) - pa) := by
  induction m with
  | zero =>
    rintro t bs - h
    cases h
    refine ⟨.refl hs, ?_⟩
    rw [show min (64 * (pa / 64 + 0)) (pa + n) - pa = 0 by omega]
    rfl
  | succ m ih =>
    intro t bs hm h
    rw [List.range_succ, List.map_append, List.map_append, List.foldl_append] at h
    generalize hacc : List.foldl f (some (s, [])) _ = acc at h
    simp only [List.map_cons, List.map_nil, List.foldl_cons, List.foldl_nil] at h
    cases acc with
    | none => exact absurd ((hnone _).symm.trans h) nofun
    | some r =>
      obtain ⟨hread, hbs⟩ := ih (by omega) hacc
      obtain ⟨⟨t', bs'⟩, hone, hq⟩ := Option.map_eq_some_iff.1 ((hsome r _ _ _).symm.trans h)
      cases hq
      have hend := readThrough_sliceReadOne (R := R) hread.calm (hR _ (by omega) (by omega)) (lt_of_le_of_lt hread.load hroom)
        (by split <;> omega) hone
      refine ⟨hread.trans hend.1, ?_⟩
      rw [hbs, hend.2, hread.seenBytes]
      have hlo : 64 * (pa / 64 + m) + (if pa ≤ 64 * (pa / 64 + m) then 0 else pa - 64 * (pa / 64 + m)) =
          pa + (min (64 * (pa / 64 + m)) (pa + n) - pa) := by split <;> omega
      rw [hlo, seenBytes_add]
      congr 1
      omega

theorem readThrough_sliceRead {pa n : Nat} {bs : List Byte} (hs : Calm s)
    (hR : ∀ q, pa / 64 ≤ q → q ≤ (pa + n - 1) / 64 → q ∈ R)
    (hroom : s.clusters[cl].load R < Config.l2Lines) (hn : 0 < n) (ht : s.sliceRead cl p pa n = some (t, bs)) :
    ReadThrough cl p R s t ∧ bs = seenBytes s cl p pa n := by
  unfold State.sliceRead pieces sectorsOf at ht
  rw [if_neg (by omega)] at ht
  obtain ⟨hread, hbs⟩ := readThrough_pieces (fun _ => rfl) (fun _ _ _ _ => rfl) hn hs hR hroom _ le_rfl ht
  refine ⟨hread, hbs.trans ?_⟩
  congr 1
  omega

end

/-! ### Code of a page that the TLB serves (R120, R412) -/

/-- The core's TLB serves the code of a block from offset lo to hi, all of one page, from the frame fr: the page may be executed, and
the slice, whose reads see the bytes in place, has room for the sectors R of that code. -/
structure ServesCode (c : CoreId) (b : Block) (e : TlbEntry) (fr lo hi : Nat) (R : Finset Nat) (s : State) : Prop where
  calm : Calm s
  entry : s.cores[c].tlb.find? (fun x => x.owner == b.bid && x.part == b.part && x.vpage == (b.codeBase + lo) / 2 ^ 19) = some e
  exec : permits e.leaf Need.exec = true
  frame : s.leafBase e.leaf = fr
  room : s.clusters[clusterOf c].load R < Config.l2Lines
  low : b.codeBase + lo < 2 ^ 52
  page : (b.codeBase + lo) % 2 ^ 19 + (hi - lo) ≤ 2 ^ 19
  sectors : ∀ q, (fr + (b.codeBase + lo) % 2 ^ 19) / 64 ≤ q → q ≤ (fr + (b.codeBase + lo) % 2 ^ 19 + (hi - lo)) / 64 → q ∈ R

/-- The byte of a block's code at an offset, as it is seen through the slice. -/
def codeByte (s : State) (c : CoreId) (b : Block) (fr i : Nat) : Byte := seen s (clusterOf c) b.part (fr + (b.codeBase + i) % 2 ^ 19)

theorem leafBase_eq {s t : State} (h : t.packageId = s.packageId) (e : Word) : t.leafBase e = s.leafBase e := by
  simp [State.leafBase, State.leafHome, h]

theorem pagePieces_page {va : Word} {n : Nat} (hn : 0 < n) (hpage : va.toNat % 2 ^ 19 + n ≤ 2 ^ 19) : pagePieces va n = [(va, n)] := by
  have hlast : (va.toNat % 2 ^ 19 + n - 1) / 2 ^ 19 = 0 := Nat.div_eq_of_lt (by omega)
  unfold pagePieces
  rw [if_neg (by omega), hlast]
  simp
  omega

theorem translate_served {s : State} {c : CoreId} {bid : Nat} {p : PartId} {va : Word} {e : TlbEntry} (hva : va.toNat < 2 ^ 52)
    (he : s.cores[c].tlb.find? (fun x => x.owner == bid && x.part == p && x.vpage == va.toNat / 2 ^ 19) = some e)
    (hx : permits e.leaf Need.exec = true) : s.translate c bid p va Need.exec = (s, .ok (s.leafBase e.leaf + va.toNat % 2 ^ 19)) := by
  have hlook : s.tlbLookup c bid p va true = (s, .ok e) := by
    unfold State.tlbLookup pageOf
    rw [he]
  unfold State.translate State.translateN
  rw [if_neg (by omega), hlook]
  dsimp only
  rw [hx]
  simp [Need.exec, bitsN]

section
variable {c : CoreId} {b : Block} {e : TlbEntry} {fr lo hi : Nat} {R : Finset Nat} {s t : State}

theorem ServesCode.after (h : ServesCode c b e fr lo hi R s) (hr : ReadThrough (clusterOf c) b.part R s t) :
    ServesCode c b e fr lo hi R t where
  calm := hr.calm
  entry := hr.cores ▸ h.entry
  exec := h.exec
  frame := (leafBase_eq hr.packageId _).trans h.frame
  room := lt_of_le_of_lt hr.load h.room
  low := h.low
  page := h.page
  sectors := h.sectors

theorem codeByte_after (hr : ReadThrough (clusterOf c) b.part R s t) (fr : Nat) : codeByte t c b fr = codeByte s c b fr :=
  funext fun _ => hr.seen _

theorem codeRead_served {off n : Nat} {bs : List Byte} (h : ServesCode c b e fr lo hi R s) (hlo : lo ≤ off) (hhi : off + n ≤ hi)
    (hr : s.codeRead c b (BitVec.ofNat 64 (b.codeBase + off)) n = (t, .inl bs)) :
    ReadThrough (clusterOf c) b.part R s t ∧ bs = (List.range n).map fun i => codeByte s c b fr (off + i) := by
  obtain ⟨hcalm, he, hx, hfr, hroom, hlow, hpage, hR⟩ := h
  rcases Nat.eq_zero_or_pos n with rfl | hn
  · cases hr
    exact ⟨.refl hcalm, rfl⟩
  · have hva : (BitVec.ofNat 64 (b.codeBase + off)).toNat = b.codeBase + off := by
      rw [BitVec.toNat_ofNat]
      omega
    have hdiv : (b.codeBase + off) / 2 ^ 19 = (b.codeBase + lo) / 2 ^ 19 := by omega
    have hmod : (b.codeBase + off) % 2 ^ 19 = (b.codeBase + lo) % 2 ^ 19 + (off - lo) := by omega
    have hwait : s.transWaits c b (BitVec.ofNat 64 (b.codeBase + off)) Need.exec = false := if_pos hcalm.1
    have htrans := translate_served (s := s) (c := c) (bid := b.bid) (p := b.part) (va := BitVec.ofNat 64 (b.codeBase + off)) (e := e)
      (by omega) (by rw [hva, hdiv]; exact he) hx
    unfold State.codeRead at hr
    rw [pagePieces_page hn (by omega), List.foldl_cons, List.foldl_nil] at hr
    dsimp only at hr
    rw [hwait, if_neg Bool.false_ne_true, htrans, hfr, hva] at hr
    dsimp only at hr
    split at hr
    · cases hr
    next r bs' hslice =>
      cases hr
      obtain ⟨hread, hbs⟩ := readThrough_sliceRead hcalm (fun q h1 h2 => hR q (by omega) (by omega)) hroom hn hslice
      refine ⟨hread, ?_⟩
      rw [List.nil_append, hbs]
      refine List.map_congr_left fun i hi' => ?_
      rw [List.mem_range] at hi'
      rw [codeByte, show (b.codeBase + (off + i)) % 2 ^ 19 = (b.codeBase + off) % 2 ^ 19 + i by omega, Nat.add_assoc]

end

/-! ### Bits of the code (R119) -/

/-- A number holds the n bytes of the code from an offset on. -/
def HoldsCode (byte : Nat → Byte) (off n x : Nat) : Prop := ∀ j, j < 8 * n → x.testBit j = codeBit byte (8 * off + j)

theorem holdsCode_natOfBytes (byte : Nat → Byte) (off n : Nat) :
    HoldsCode byte off n (natOfBytes ((List.range n).map fun i => byte (off + i))) := by
  intro j hj
  have hlen : j / 8 < ((List.range n).map fun i => byte (off + i)).length := by
    rw [List.length_map, List.length_range]
    omega
  have hbyte := natOfBytes_byte hlen
  generalize natOfBytes ((List.range n).map fun i => byte (off + i)) = x at hbyte ⊢
  rw [List.getElem_map, List.getElem_range] at hbyte
  have hbit := congrArg (fun y => y.testBit (j % 8)) hbyte
  rw [show (256 : Nat) = 2 ^ 8 from rfl] at hbit
  simp only [Nat.testBit_mod_two_pow, Nat.testBit_div_two_pow] at hbit
  rw [decide_eq_true (Nat.mod_lt j (by decide)), Bool.true_and, show j % 8 + 8 * (j / 8) = j by omega] at hbit
  rw [hbit, codeBit, show (8 * off + j) / 8 = off + j / 8 by omega, show (8 * off + j) % 8 = j % 8 by omega]
  rfl

theorem codeBits_succ (byte : Nat → Byte) (start n : Nat) :
    codeBits byte start (n + 1) = codeBits byte start n + if codeBit byte (start + n) then 2 ^ n else 0 := by
  simp only [codeBits, codeBit, List.range_succ, List.map_append, List.sum_append, List.map_cons, List.map_nil, List.sum_singleton]
  rfl

/-- A field of code that is held is the number in its bits. -/
theorem natBits_held {byte : Nat → Byte} {off n x : Nat} (h : HoldsCode byte off n x) (at_ : Nat) :
    ∀ {w}, at_ + w ≤ 8 * n → natBits x at_ w = codeBits byte (8 * off + at_) w
  | 0, _ => by simp [natBits, codeBits, Nat.mod_one]
  | w + 1, hw => by
    have ih := natBits_held h at_ (w := w) (by omega)
    have hbit := h (at_ + w) (by omega)
    rw [natBits] at ih
    rw [natBits, codeBits_succ, Nat.mod_pow_succ, ih, Nat.add_assoc (8 * off), ← hbit, Nat.div_div_eq_div_mul, ← Nat.pow_add]
    congr 1
    rw [Nat.testBit_eq_decide_div_mod_eq]
    rcases Nat.mod_two_eq_zero_or_one (x / 2 ^ (at_ + w)) with h0 | h1
    · simp [h0]
    · simp [h1]

section
variable {c : CoreId} {b : Block} {e : TlbEntry} {fr lo hi : Nat} {R : Finset Nat} {s t : State}

/-- What is decoded of a served page is its code. -/
theorem codeAt_served {off n k x : Nat} (h : ServesCode c b e fr lo hi R s) (hlo : lo ≤ off) (hhi : off + n ≤ hi)
    (ht : s.codeAt c b off n k = (t, .ok x)) :
    ReadThrough (clusterOf c) b.part R s t ∧ HoldsCode (codeByte s c b fr) off n x := by
  obtain ⟨bs, hr, rfl⟩ := codeAt_ok ht
  obtain ⟨hread, rfl⟩ := codeRead_served h hlo hhi hr
  exact ⟨hread, holdsCode_natOfBytes (codeByte s c b fr) off n⟩

end

/-! ### Holes filled (R118 to R120) -/

/-- A number with n of its bits from lo on replaced by a stream's from a place on. -/
def replaceBits (w lo n stream at_ : Nat) : Nat := w - natBits w lo n * 2 ^ lo + natBits stream at_ n * 2 ^ lo

theorem natBits_lt (x lo n : Nat) : natBits x lo n < 2 ^ n := Nat.mod_lt _ (Nat.two_pow_pos n)
theorem testBit_natBits (x lo n k : Nat) : (natBits x lo n).testBit k = (decide (k < n) && x.testBit (lo + k)) := by
  rw [natBits, Nat.testBit_mod_two_pow, Nat.testBit_div_two_pow, Nat.add_comm]

/-- Three parts of a number: below a field, the field, and above it. -/
theorem testBit_parts {a m h lo n : Nat} (ha : a < 2 ^ lo) (hm : m < 2 ^ n) (k : Nat) :
    (2 ^ lo * (2 ^ n * h + m) + a).testBit k =
      if k < lo then a.testBit k else if k < lo + n then m.testBit (k - lo) else h.testBit (k - lo - n) := by
  rw [Nat.testBit_two_pow_mul_add _ ha, Nat.testBit_two_pow_mul_add _ hm]
  split
  · rfl
  · by_cases hk : k < lo + n
    · rw [if_pos (by omega), if_pos hk]
    · rw [if_neg (by omega), if_neg hk]

theorem parts_eq (w lo n : Nat) : w = 2 ^ lo * (2 ^ n * (w / 2 ^ lo / 2 ^ n) + natBits w lo n) + w % 2 ^ lo := by
  rw [natBits, Nat.div_add_mod, Nat.div_add_mod]

theorem testBit_replaceBits (w lo n stream at_ k : Nat) :
    (replaceBits w lo n stream at_).testBit k =
      if lo ≤ k ∧ k < lo + n then stream.testBit (at_ + (k - lo)) else w.testBit k := by
  have hlow : w % 2 ^ lo < 2 ^ lo := Nat.mod_lt _ (Nat.two_pow_pos lo)
  have hw := parts_eq w lo n
  have hrep : replaceBits w lo n stream at_ =
      2 ^ lo * (2 ^ n * (w / 2 ^ lo / 2 ^ n) + natBits stream at_ n) + w % 2 ^ lo := by
    rw [replaceBits]
    generalize natBits w lo n = m at *
    generalize natBits stream at_ n = m'
    generalize w % 2 ^ lo = a at *
    generalize w / 2 ^ lo / 2 ^ n = h at *
    rw [hw, Nat.mul_add, Nat.mul_add, Nat.mul_comm m, Nat.mul_comm m']
    omega
  have hwk : w.testBit k = _ := (congrArg (·.testBit k) hw).trans (testBit_parts hlow (natBits_lt w lo n) k)
  rw [hwk, hrep, testBit_parts hlow (natBits_lt stream at_ n)]
  by_cases h1 : k < lo
  · rw [if_pos h1, if_pos h1, if_neg (by omega)]
  · by_cases h2 : k < lo + n
    · rw [if_neg h1, if_pos h2, if_pos ⟨by omega, h2⟩, testBit_natBits, decide_eq_true (show k - lo < n by omega), Bool.true_and]
    · rw [if_neg h1, if_neg h2, if_neg h1, if_neg h2, if_neg (by omega)]

theorem replaceBits_zero (w lo stream at_ : Nat) : replaceBits w lo 0 stream at_ = w := by simp [replaceBits, natBits, Nat.mod_one]

theorem bitsN_lt {m : Nat} (x : BitVec m) (hi lo : Nat) : bitsN x hi lo < 2 ^ (hi + 1 - lo) := Nat.mod_lt _ (Nat.two_pow_pos _)

theorem holeBits_eq {code : Nat} (h : code < 4) : [0, 8, 16, 32].getD code 0 = holeBits code := by
  interval_cases code <;> rfl

/-- The widths of an entry's holes, as the filter and as the statement count them. -/
theorem holesOf_eq (e : BitVec 64) : holesOf e =
    ((bitsN e 63 58, holeBits (bitsN e 57 56)), (bitsN e 55 50, holeBits (bitsN e 49 48))) := by
  rw [← holeBits_eq (bitsN_lt e 57 56), ← holeBits_eq (bitsN_lt e 49 48)]
  rfl

/-- The bits that an entry's holes take of a stream. -/
def holesWidth (e : BitVec 64) : Nat := (holesOf e).1.2 + (holesOf e).2.2

/-- A field that is an entry's with its holes filled by the bits of the code from a place on. -/
def FilledField (byte : Nat → Byte) (e : BitVec 64) (values : Nat) (f : Field) : Prop :=
  ∀ k, k < 48 → f.getLsbD k =
    if (holesOf e).1.1 ≤ k ∧ k < (holesOf e).1.1 + (holesOf e).1.2 then codeBit byte (values + (k - (holesOf e).1.1))
    else if (holesOf e).2.1 ≤ k ∧ k < (holesOf e).2.1 + (holesOf e).2.2 then
      codeBit byte (values + (holesOf e).1.2 + (k - (holesOf e).2.1))
    else e.getLsbD k

theorem entryHoles_width (e : BitVec 64) : ((entryHoles e).map (·.2)).foldl (· + ·) 0 = holesWidth e := by
  rw [holesWidth, holesOf_eq]
  by_cases h0 : holeBits (bitsN e 57 56) = 0 <;> by_cases h1 : holeBits (bitsN e 49 48) = 0 <;> simp [entryHoles, h0, h1]

/-- The holes are filled one after the other, an absent one with no bit. -/
theorem fillHoles_eq (e : BitVec 64) (stream at_ : Nat) : fillHoles e stream at_ =
    (BitVec.ofNat 48 (replaceBits (replaceBits (entryField e).toNat (holesOf e).1.1 (holesOf e).1.2 stream at_)
      (holesOf e).2.1 (holesOf e).2.2 stream (at_ + (holesOf e).1.2)), at_ + holesWidth e) := by
  rw [holesWidth, holesOf_eq]
  by_cases h0 : holeBits (bitsN e 57 56) = 0 <;> by_cases h1 : holeBits (bitsN e 49 48) = 0 <;>
    simp [fillHoles, entryHoles, h0, h1, replaceBits_zero, Nat.add_assoc] <;> rfl

theorem holesOk_apart {e : BitVec 64} (h : holesOk e = true) (hw : (holesOf e).2.2 ≠ 0) :
    (holesOf e).1.1 + (holesOf e).1.2 ≤ (holesOf e).2.1 ∨ (holesOf e).2.1 + (holesOf e).2.2 ≤ (holesOf e).1.1 := by
  rw [holesOf_eq] at hw ⊢
  simp only [holesOk, Bool.and_eq_true, Bool.or_eq_true, beq_iff_eq, decide_eq_true_eq] at h
  exact h.2.resolve_left hw

theorem fillHoles_filled {byte : Nat → Byte} {e : BitVec 64} {off n stream at_ : Nat} (he : holesOk e = true)
    (hs : HoldsCode byte off n stream) (hn : at_ + holesWidth e ≤ 8 * n) :
    FilledField byte e (8 * off + at_) (fillHoles e stream at_).1 := by
  intro k hk
  have hfield : (entryField e).toNat.testBit k = e.getLsbD k := by
    show (entryField e).getLsbD k = _
    simp [entryField, hk]
  have happ := holesOk_apart he
  rw [holesWidth] at hn
  rw [fillHoles_eq, BitVec.getLsbD_ofNat, decide_eq_true hk, Bool.true_and, testBit_replaceBits, testBit_replaceBits, hfield]
  generalize (holesOf e).1.1 = p0 at *
  generalize (holesOf e).1.2 = n0 at *
  generalize (holesOf e).2.1 = p1 at *
  generalize (holesOf e).2.2 = n1 at *
  by_cases h1 : p1 ≤ k ∧ k < p1 + n1
  · have h0 : ¬(p0 ≤ k ∧ k < p0 + n0) := by omega
    rw [if_pos h1, if_neg h0, if_pos h1, hs _ (by omega)]
    congr 1
    omega
  · rw [if_neg h1, if_neg h1]
    by_cases h0 : p0 ≤ k ∧ k < p0 + n0
    · rw [if_pos h0, if_pos h0, hs _ (by omega), Nat.add_assoc]
    · rw [if_neg h0, if_neg h0]

/-! ### The indices of a glyph (R119) -/

/-- What the present slots below slot i take, one after another. -/
def before (here : Nat → Bool) (f : Nat → Nat) (i : Nat) : Nat := (((List.range i).filter here).map f).sum

theorem before_succ (here : Nat → Bool) (f : Nat → Nat) (i : Nat) :
    before here f (i + 1) = before here f i + if here i then f i else 0 := by
  unfold before
  rw [List.range_succ, List.filter_append, List.map_append, List.sum_append, List.filter_singleton]
  cases here i <;> simp

theorem before_mono (here : Nat → Bool) (f : Nat → Nat) {i j : Nat} (h : i ≤ j) : before here f i ≤ before here f j := by
  induction h with
  | refl => exact le_rfl
  | step _ ih => exact ih.trans (by rw [before_succ]; exact Nat.le_add_right _ _)

theorem before_le (here : Nat → Bool) {f : Nat → Nat} {m : Nat} (i : Nat) (hf : ∀ j, j < i → f j ≤ m) :
    before here f i ≤ m * i := by
  induction i with
  | zero => simp [before]
  | succ i ih =>
    have h := ih fun j hj => hf j (by omega)
    have hi := hf i (by omega)
    rw [before_succ, Nat.mul_succ]
    split <;> omega

/-- The sum of the widths of the present slots, as the decoder counts them. -/
theorem before_eq_foldl (here : Nat → Bool) (f : Nat → Nat) (i : Nat) :
    ((List.range i).map fun j => if here j then f j else 0).foldl (· + ·) 0 = before here f i := by
  rw [← List.sum_eq_foldl]
  induction i with
  | zero => rfl
  | succ i ih => rw [before_succ, ← ih, List.range_succ, List.map_append, List.sum_append]; simp

/-- A slot is present in a glyph (R119). -/
def present (header i : Nat) : Bool := header.testBit (i + 1)
/-- The index of a present slot in a stream. -/
def slotIndex (h : BitVec 2048) (header stream i : Nat) : Nat :=
  natBits stream (before (present header) (hdWidth h) i) (hdWidth h i)

theorem glyphIndices_eq (h : BitVec 2048) (header stream : Nat) : glyphIndices h header stream =
    (((List.range 9).filter (present header)).map fun i => (i, slotIndex h header stream i), before (present header) (hdWidth h) 9) := by
  unfold glyphIndices
  generalize 9 = m
  induction m with
  | zero => rfl
  | succ m ih =>
    rw [List.range_succ, List.foldl_append, ih, before_succ, List.filter_append, List.map_append]
    cases hm : header.testBit (m + 1) <;> simp [present, hm, slotIndex]

/-! ### The fields of a glyph's slots (R119, R120) -/

theorem holesWidth_le (e : BitVec 64) : holesWidth e ≤ 64 := by
  have hbits (code : Nat) : holeBits code ≤ 32 := by unfold holeBits; split <;> decide
  have h0 := hbits (bitsN e 57 56)
  have h1 := hbits (bitsN e 49 48)
  rw [holesWidth, holesOf_eq]
  dsimp only
  omega

theorem entry?_mem {k : Core} {p : PartId} {b : Block} {slot index : Nat} {e : BitVec 64} (h : k.entry? p b slot index = some e) :
    ∃ d ∈ k.decode, d.entry = e := by
  obtain ⟨d, hd, rfl⟩ := Option.map_eq_some_iff.1 h
  exact ⟨d, List.mem_of_find?_eq_some hd, rfl⟩

/-- A slot without a table that is marked present stays recorded (R126). -/
theorem slotFields_empty {c : CoreId} {b : Block} {off k : Nat} {l : List (Nat × Nat)} {t : State} {r : Vector Field 9 × Nat × Bool} :
    ∀ {s : State} {at_ : Nat} {v : Vector Field 9}, s.slotFields c b off k l at_ v true = (t, .ok r) → r.2.2 = true := by
  induction l with
  | nil => intro s at_ v h; cases h; rfl
  | cons x rest ih =>
    intro s at_ v h
    rcases slotFields_cons h with h | ⟨_, _, _, _, _, _, _, _, h⟩
    · exact ih h
    · exact ih h

/-- The bits that the holes of some slots' entries take. -/
def holesSum (f : Nat → BitVec 64) (l : List (Nat × Nat)) : Nat := (l.map fun x => holesWidth (f x.1)).sum

theorem holesSum_cons_update (f : Nat → BitVec 64) (e : BitVec 64) {j ix : Nat} {l : List (Nat × Nat)} (h : j ∉ l.map (·.1)) :
    holesSum (Function.update f j e) ((j, ix) :: l) = holesWidth e + holesSum f l := by
  have hrest : (l.map fun x => holesWidth (Function.update f j e x.1)) = l.map fun x => holesWidth (f x.1) :=
    List.map_congr_left fun x hx => by rw [Function.update_of_ne fun hj : x.1 = j => h (hj ▸ List.mem_map_of_mem hx)]
  rw [holesSum, List.map_cons, List.sum_cons, hrest]
  simp [holesSum]

section
variable {c : CoreId} {b : Block} {e : TlbEntry} {fr lo hi : Nat} {R : Finset Nat} {s t : State} {off k : Nat}

theorem slotFields_served {l : List (Nat × Nat)} {v' : Vector Field 9} {used : Nat} (hlo : lo ≤ off) (hnd : (l.map (·.1)).Nodup) :
    ∀ {s : State} {at_ : Nat} {v : Vector Field 9}, ServesCode c b e fr lo hi R s →
      (∀ d ∈ s.cores[c].decode, holesOk d.entry = true) → off + 2 + (at_ + 64 * l.length + 7) / 8 ≤ hi →
      s.slotFields c b off k l at_ v false = (t, .ok (v', used, false)) →
      ReadThrough (clusterOf c) b.part R s t ∧ ∃ f : Nat → BitVec 64, used = at_ + holesSum f l ∧
        (∀ i : Fin 9, i.val ∉ l.map (·.1) → v'[i] = v[i]) ∧
        ∀ l1 (i : Fin 9) ix l2, l = l1 ++ (i.val, ix) :: l2 → s.cores[c].entry? b.part b i.val ix = some (f i.val) ∧
          FilledField (codeByte s c b fr) (f i.val) (8 * (off + 2) + at_ + holesSum f l1) v'[i] := by
  induction l with
  | nil =>
    intro s at_ v hs _ _ h
    cases h
    exact ⟨.refl hs.calm, fun _ => 0, rfl, fun _ _ => rfl, fun l1 i ix l2 hl => by simp at hl⟩
  | cons x rest ih =>
    intro s at_ v hs hok hhi h
    obtain ⟨j, ix⟩ := x
    rw [List.map_cons, List.nodup_cons] at hnd
    rw [List.length_cons] at hhi
    rcases slotFields_cons h with h | ⟨e', sl, s', stream, hentry, hsl, hcode, -, h⟩
    · cases slotFields_empty h
    · have hwidth := holesWidth_le e'
      obtain ⟨d, hd, hde⟩ := entry?_mem hentry
      rw [entryHoles_width] at hcode
      obtain ⟨hread, hheld⟩ := codeAt_served hs (by omega) (by unfold ceilDiv; omega) hcode
      have hfill := fillHoles_filled (byte := codeByte s c b fr) (hde ▸ hok d hd) hheld (at_ := at_) (by unfold ceilDiv; omega)
      rw [show (fillHoles e' stream at_).2 = at_ + holesWidth e' by rw [fillHoles_eq]] at h
      obtain ⟨hread', f, hused, hkeep, hslots⟩ := ih hnd.2 (hs.after hread) (hread.cores ▸ hok) (by omega) h
      rw [codeByte_after hread, hread.cores] at hslots
      have hj : (fin 9 j).val = j := fin_val_of_lt (Slot.ofNum_lt hsl)
      refine ⟨hread.trans hread', Function.update f j e', ?_, fun i hi => ?_, fun l1 i ix' l2 hl => ?_⟩
      · rw [hused, holesSum_cons_update f e' hnd.1, Nat.add_assoc]
      · rw [List.map_cons, List.mem_cons, not_or] at hi
        rw [hkeep i hi.2, upd_other _ _ fun hij => hi.1 (by rw [hij, hj])]
      · cases l1 with
        | nil =>
          rw [List.nil_append, List.cons.injEq, Prod.mk.injEq] at hl
          obtain ⟨⟨rfl, rfl⟩, rfl⟩ := hl
          have hi : i = fin 9 i.val := Fin.ext hj.symm
          rw [Function.update_self, hkeep i hnd.1, upd_get, if_pos hi]
          exact ⟨hentry, hfill⟩
        | cons y l1 =>
          rw [List.cons_append, List.cons.injEq] at hl
          obtain ⟨rfl, rfl⟩ := hl
          rw [List.map_append, List.mem_append, not_or] at hnd
          have hne : i.val ≠ j := fun hij => hnd.1.2 (by simp [hij])
          obtain ⟨h1, h2⟩ := hslots l1 i ix' l2 rfl
          rw [holesSum_cons_update f e' hnd.1.1, Function.update_of_ne hne, ← Nat.add_assoc]
          exact ⟨h1, by rwa [Nat.add_assoc (8 * (off + 2))]⟩

end

/-! ### A glyph is the bundle that it encodes (R119, R120) -/

theorem before_congr {here here' : Nat → Bool} {f f' : Nat → Nat} {i : Nat} (h : ∀ j, j < i → here j = here' j ∧ f j = f' j) :
    before here f i = before here' f' i := by
  induction i with
  | zero => rfl
  | succ i ih => rw [before_succ, before_succ, ih fun j hj => h j (by omega), (h i (by omega)).1, (h i (by omega)).2]

theorem hdWidth_eq (h : BitVec 2048) (i : Nat) : hdWidth h i = bitsN h (8 * (0x1A + i) + 7) (8 * (0x1A + i)) := by
  rw [hdWidth, hdField, show 8 * (0x1A + i + 1) - 1 = 8 * (0x1A + i) + 7 by omega]

/-- The present slots below a present slot stand before it. -/
theorem filter_range_split {here : Nat → Bool} {i n : Nat} (hi : i < n) (hh : here i = true) :
    ∃ l, (List.range n).filter here = (List.range i).filter here ++ i :: l := by
  obtain ⟨m, rfl⟩ : ∃ m, n = i + 1 + m := ⟨n - i - 1, by omega⟩
  rw [List.range_add, List.range_succ, List.filter_append, List.filter_append, List.filter_singleton, hh]
  exact ⟨_, List.append_assoc ..⟩

/-- The glyph at an offset has a slot's field (R119). -/
def slotHere (byte : Nat → Byte) (off i : Nat) : Bool := codeBit byte (8 * off + 1 + i)

/-- The statement's glyph from its parts, named as here. -/
theorem glyphAt_of {byte : Nat → Byte} {header : BitVec 2048} {entry : Nat → Nat → Option (BitVec 64)} {off : Nat} {cw : Cword}
    {last : Bool} {after : Nat} (f : Nat → BitVec 64) (g : BitVec 64) (hg : entry 9 (codeBits byte (8 * off + 10) 6) = some g)
    (hcw : cw.g = g.extractLsb' 0 16) (hat : cw.glyph = BitVec.ofNat 32 off) (hlast : last = codeBit byte (8 * off))
    (hafter : after = off + 2 + (before (slotHere byte off) (hdWidth header) 9 +
      before (slotHere byte off) (fun i => holesWidth (f i)) 9 + 7) / 8)
    (hslots : ∀ i : Fin 9, (slotHere byte off i.val = false → cw.slots[i] = 0) ∧ (slotHere byte off i.val = true →
      entry i.val (codeBits byte (8 * off + 16 + before (slotHere byte off) (hdWidth header) i.val) (hdWidth header i.val)) =
        some (f i.val) ∧
      FilledField byte (f i.val) (8 * off + 16 + before (slotHere byte off) (hdWidth header) 9 +
        before (slotHere byte off) (fun i => holesWidth (f i)) i.val) cw.slots[i])) :
    GlyphAt byte header entry off cw last after := by
  rw [show hdWidth header = _ from funext (hdWidth_eq header)] at hafter hslots
  exact ⟨f, g, hg, hcw, hat, hlast, hafter, hslots⟩

section
variable {c : CoreId} {b : Block} {e : TlbEntry} {fr lo hi : Nat} {R : Finset Nat} {s t : State} {off k : Nat}

/-- The present slots of a glyph hold their entries with their holes filled one after another, the others are idle. -/
theorem glyphFields_served {header head used : Nat} {v : Vector Field 9} (hs : ServesCode c b e fr lo hi R s)
    (hok : ∀ d ∈ s.cores[c].decode, holesOk d.entry = true) (hwidth : ∀ i, i < 9 → hdWidth b.header i ≤ 12) (hlo : lo ≤ off)
    (hhi : off + 88 ≤ hi)
    (h : s.slotFields c b off k (glyphIndices b.header header head).1 (glyphIndices b.header header head).2 (Vector.replicate 9 0) false =
      (t, .ok (v, used, false))) :
    ReadThrough (clusterOf c) b.part R s t ∧ ∃ f : Nat → BitVec 64,
      used = before (present header) (hdWidth b.header) 9 + before (present header) (fun i => holesWidth (f i)) 9 ∧
      ∀ i : Fin 9, (present header i.val = false → v[i] = 0) ∧ (present header i.val = true →
        s.cores[c].entry? b.part b i.val (slotIndex b.header header head i.val) = some (f i.val) ∧
        FilledField (codeByte s c b fr) (f i.val) (8 * (off + 2) + before (present header) (hdWidth b.header) 9 +
          before (present header) (fun i => holesWidth (f i)) i.val) v[i]) := by
  have hindices : before (present header) (hdWidth b.header) 9 ≤ 12 * 9 := before_le _ _ hwidth
  have hcount : ((List.range 9).filter (present header)).length ≤ 9 := by
    simpa using List.length_filter_le (present header) (List.range 9)
  rw [glyphIndices_eq] at h
  obtain ⟨hread, f, hused, hidle, hslots⟩ := slotFields_served hlo
    (by rw [List.map_map]; exact (List.map_id _).symm ▸ List.nodup_range.filter _) hs hok (by rw [List.length_map]; omega) h
  have hsum (i : Nat) : holesSum f (((List.range i).filter (present header)).map fun j => (j, slotIndex b.header header head j)) =
      before (present header) (fun j => holesWidth (f j)) i := by
    rw [holesSum, List.map_map]
    rfl
  refine ⟨hread, f, by rw [hused, hsum], fun i => ⟨fun hi => ?_, fun hi => ?_⟩⟩
  · rw [hidle i (by simp [hi])]
    simp
  · obtain ⟨l, hl⟩ := filter_range_split i.isLt hi
    rw [← hsum i.val]
    exact hslots _ i _ (l.map fun j => (j, slotIndex b.header header head j)) (by rw [hl]; simp)

theorem glyph_served {cw : Cword} {last : Bool} {after : Nat} (hs : ServesCode c b e fr lo hi R s)
    (hok : ∀ d ∈ s.cores[c].decode, holesOk d.entry = true) (hwidth : ∀ i, i < 9 → hdWidth b.header i ≤ 12) (hlo : lo ≤ off)
    (hhi : off + 88 ≤ hi) (h : s.glyph c b off k = (t, .ok (cw, last, after))) :
    ReadThrough (clusterOf c) b.part R s t ∧ after ≤ off + 88 ∧ off ≤ after ∧
      GlyphAt (codeByte s c b fr) b.header (fun i ix => s.cores[c].entry? b.part b i ix) off cw last after := by
  obtain ⟨s1, s2, s3, header, head, ge, v, used, stream, h1, h2, hge, h3, h4, rfl, rfl, rfl⟩ := glyph_ok h
  have hindices : before (present header) (hdWidth b.header) 9 ≤ 12 * 9 := before_le _ _ hwidth
  obtain ⟨hread1, hheader⟩ := codeAt_served hs hlo (by omega) h1
  change s1.codeAt c b (off + 2) (ceilDiv (((List.range 9).map fun i =>
    if present header i then hdWidth b.header i else 0).foldl (· + ·) 0) 8) k = _ at h2
  rw [before_eq_foldl] at h2
  obtain ⟨hread2, hhead⟩ := codeAt_served (hs.after hread1) (by omega) (by unfold ceilDiv; omega) h2
  have hread12 := hread1.trans hread2
  obtain ⟨hread3, f, hused, hslots⟩ := glyphFields_served (hs.after hread12) (hread12.cores ▸ hok) hwidth hlo hhi h3
  have hfills : before (present header) (fun i => holesWidth (f i)) 9 ≤ 64 * 9 := before_le _ _ fun j _ => holesWidth_le _
  have hread13 := hread12.trans hread3
  have hread4 := (codeAt_served (hs.after hread13) (by omega) (by unfold ceilDiv; omega) h4).1
  rw [hread12.cores] at hge
  rw [codeByte_after hread1] at hhead
  rw [codeByte_after hread12, hread12.cores] at hslots
  have hpresent (i : Nat) (hi : i < 9) : present header i = slotHere (codeByte s c b fr) off i := by
    rw [present, hheader _ (by omega), slotHere, Nat.add_comm i, ← Nat.add_assoc]
  have hbefore (f : Nat → Nat) {i : Nat} (hi : i ≤ 9) :
      before (present header) f i = before (slotHere (codeByte s c b fr) off) f i :=
    before_congr fun j hj => ⟨hpresent j (by omega), rfl⟩
  refine ⟨hread13.trans hread4, by unfold ceilDiv; omega, by omega,
    glyphAt_of f ge ?_ ?_ rfl ?_ ?_ fun i => ⟨fun hi => ?_, fun hi => ?_⟩⟩
  · rw [← natBits_held hheader 10 (by omega)]
    exact hge
  · exact BitVec.setWidth_eq_extractLsb' (show 16 ≤ 64 by decide)
  · exact hheader 0 (by omega)
  · rw [hused, hbefore _ le_rfl, hbefore _ le_rfl]
    rfl
  · exact (hslots i).1 ((hpresent i.val i.isLt).trans hi)
  · rw [← hpresent i.val i.isLt] at hi
    obtain ⟨hentry, hfilled⟩ := (hslots i).2 hi
    have hin : before (present header) (hdWidth b.header) (i.val + 1) ≤ before (present header) (hdWidth b.header) 9 :=
      before_mono _ _ i.isLt
    rw [before_succ, if_pos hi] at hin
    rw [slotIndex, natBits_held hhead _ (by unfold ceilDiv; omega), hbefore _ i.isLt.le] at hentry
    rw [hbefore _ le_rfl, hbefore _ i.isLt.le] at hfilled
    exact ⟨hentry, hfilled⟩

end

/-! ### A stroke is the glyphs of its code (R119, R120) -/

/-- Offsets with one put before them. -/
def offsetsFrom (off : Nat) (o : Nat → Nat) : Nat → Nat
  | 0 => off
  | n + 1 => o n

theorem glyphs_served {c : CoreId} {b : Block} {e : TlbEntry} {fr lo hi : Nat} {R : Finset Nat} {t : State} {words : List Cword}
    {next n : Nat} (hwidth : ∀ i, i < 9 → hdWidth b.header i ≤ 12) :
    ∀ {s : State} {off k : Nat} {acc : List Cword}, ServesCode c b e fr lo hi R s →
      (∀ d ∈ s.cores[c].decode, holesOk d.entry = true) → lo ≤ off → off + 88 * n ≤ hi →
      s.glyphs c b n off k acc = (t, .ok (words, next)) →
      ∃ (o : Nat → Nat) (new : List Cword), words = acc ++ new ∧ o 0 = off ∧ o new.length = next ∧ ∀ m cw, new[m]? = some cw →
        GlyphAt (codeByte s c b fr) b.header (fun i ix => s.cores[c].entry? b.part b i ix) (o m) cw (decide (m + 1 = new.length))
          (o (m + 1)) := by
  induction n with
  | zero => intro s off k acc _ _ _ _ h; cases h
  | succ n ih =>
    intro s off k acc hs hok hlo hhi h
    obtain ⟨s', cw, last, after, hg, hend⟩ := glyphs_succ h
    obtain ⟨hread, hle, hge, hat⟩ := glyph_served hs hok hwidth hlo (by omega) hg
    rcases hend with ⟨rfl, -, rfl, rfl⟩ | ⟨rfl, h⟩
    · refine ⟨offsetsFrom off fun _ => next, [cw], rfl, rfl, rfl, fun m cw' hm => ?_⟩
      obtain ⟨hm0, rfl⟩ : m = 0 ∧ cw = cw' := by
        rw [List.getElem?_singleton] at hm
        split at hm
        next h0 => exact ⟨h0, Option.some.inj hm⟩
        next h0 => cases hm
      subst hm0
      exact hat
    · obtain ⟨o, new, rfl, ho, hlast, hnew⟩ := ih (hs.after hread) (hread.cores ▸ hok) (by omega) (by omega) h
      rw [codeByte_after hread, hread.cores] at hnew
      refine ⟨offsetsFrom off o, cw :: new, by simp, rfl, hlast, fun m cw' hm => ?_⟩
      cases m with
      | zero =>
        cases hm
        have hnonempty : new.length ≠ 0 := fun h0 => by
          have := (glyphs_length h).1
          simp [List.eq_nil_of_length_eq_zero h0] at this
        rw [List.length_cons, decide_eq_false (by omega)]
        show GlyphAt _ _ _ off cw false (o 0)
        rw [ho]
        exact hat
      | succ m =>
        have := hnew m cw' hm
        rw [List.length_cons, show decide (m + 1 + 1 = new.length + 1) = decide (m + 1 = new.length) by simp]
        exact this

/-! ### O45 -/

section
variable {s u : State} {c : CoreId} {x : Warp} {b : Block} {words : List Cword} {next : Nat}

/-- Every bundle of a fetched stroke stands where the form rules let it (R126). -/
theorem fetchStroke_form (hf : s.fetchStroke c x b = (u, .ok (words, next))) (hx : ∀ cw ∈ x.stroke, BundleSound b cw) {n : Nat}
    {cw : Cword} (hn : words[n]? = some cw) (i : Fin 9) (sl : Slot) (hi : Slot.ofNum i.val = some sl) :
    opcodeOf cw.slots[i] = 0 ∨ ∃ op, decode sl cw.slots[i] = .ok op ∧ (∀ r ∈ names op, r.n < b.maxOf r.cls) ∧
      (isPrivileged op = true → b.supervisor = true) ∧ (isTransfer op = true → n + 1 = words.length) ∧
      (isHeadWait op = true → n = 0) := by
  obtain ⟨hglyphs, hform⟩ := fetchStroke_ok hf
  by_cases h0 : opcodeOf cw.slots[i] = 0
  · exact .inl h0
  · obtain ⟨op, hop, hnames, hpriv⟩ := (glyphs_sound hglyphs hx cw (List.mem_of_getElem? hn) i sl hi).resolve_left h0
    have hmem := mem_ops hi h0 hop
    exact .inr ⟨op, hop, hnames, hpriv, transfer_last hform hn hmem, headWait_first hform hn hmem⟩

theorem fetchStroke_length (hf : s.fetchStroke c x b = (u, .ok (words, next))) : 1 ≤ words.length ∧ words.length ≤ 24 := by
  have hlen := glyphs_length (fetchStroke_ok hf).1
  omega

/-- The sectors of n bytes from an address. -/
def sectorRange (a n : Nat) : Finset Nat := Finset.Icc (a / 64) ((a + n) / 64)

theorem load_sectorRange_le (k : Cluster) (a n : Nat) : k.load (sectorRange a n) ≤ k.l2.length + (n / 64 + 2) := by
  have h := Finset.card_filter_le (sectorRange a n) fun m => k.sector? m = none
  rw [sectorRange, Nat.card_Icc] at h
  unfold Cluster.load sectorRange
  omega

/-- A stroke fetched whole of a page that the TLB serves is what its glyphs encode (R119, R120). -/
theorem fetchStroke_glyphs {e : TlbEntry} (hb : s.cores[c].block? x.bid = some b) (hf : s.fetchStroke c x b = (u, .ok (words, next)))
    (hempty : x.stroke = []) (hcalm : Calm s) (hroom : s.clusters[clusterOf c].l2.length + 64 ≤ 65536)
    (hlow : b.codeBase + x.pc.toNat < 2 ^ 52) (hpage : (b.codeBase + x.pc.toNat) % 2 ^ 19 + 24 * 88 ≤ 2 ^ 19)
    (he : Served s c x b (at_ (b.codeBase + x.pc.toNat)) e) (hx : permits e.leaf Need.exec = true)
    (hwidth : ∀ i, i < 9 → hdWidth b.header i ≤ 12) (hok : ∀ d ∈ s.cores[c].decode, holesOk d.entry = true) :
    ∃ off : Nat → Nat, off 0 = x.pc.toNat ∧ off words.length = next ∧ ∀ n cw, words[n]? = some cw →
      GlyphAt (codeByte s c b (s.leafBase e.leaf)) b.header (fun i ix => s.cores[c].entry? b.part b i ix) (off n) cw
        (decide (n + 1 = words.length)) (off (n + 1)) := by
  obtain ⟨-, -, htlb⟩ := he
  have hbid : b.bid = x.bid := by simpa using List.find?_some hb
  have hva : (at_ (b.codeBase + x.pc.toNat)).toNat = b.codeBase + x.pc.toNat := by
    rw [at_, BitVec.toNat_ofNat]
    omega
  rw [hva, ← hbid] at htlb
  have hload := load_sectorRange_le s.clusters[clusterOf c] (s.leafBase e.leaf + (b.codeBase + x.pc.toNat) % 2 ^ 19) (24 * 88)
  have hserves : ServesCode c b e (s.leafBase e.leaf) x.pc.toNat (x.pc.toNat + 24 * 88)
      (sectorRange (s.leafBase e.leaf + (b.codeBase + x.pc.toNat) % 2 ^ 19) (24 * 88)) s :=
    { calm := hcalm, entry := htlb, exec := hx, frame := rfl, low := hlow
      room := by
        rw [Config.l2Lines]
        omega
      page := by omega
      sectors := fun q h1 h2 => Finset.mem_Icc.2 ⟨h1, by omega⟩ }
  have hglyphs := (fetchStroke_ok hf).1
  rw [Warp.fetchAt, hempty] at hglyphs
  obtain ⟨off, new, rfl, h0, hlast, hnew⟩ := glyphs_served hwidth hserves hok le_rfl (by simp) hglyphs
  exact ⟨off, h0, hlast, hnew⟩

end

/-- Settles O45: the bundles that the decoder lets pass are sound, and of a served page they are read from its code, since reads through
the slice keep what the partition sees. -/
theorem strokesAreFetchedAndFiltered : Obligations.StrokesAreFetchedAndFiltered := by
  unfold Obligations.StrokesAreFetchedAndFiltered
  intro s u c w x b hw hb ha hh hs sound hx
  refine ⟨fun words next hf => ?_, ?_, fun slot index k v bs hf hr hp hi hn => ?_⟩
  · obtain ⟨h1, h24⟩ := fetchStroke_length hf
    exact ⟨strokeFetch_frame hw hb ha hh hs hf, h1, h24, fun n cw hn => fetchStroke_form hf hx hn⟩
  · intro words next e hf hempty hcalm hroom base from_ hlow hpage he hexec hwidth hok
    exact fetchStroke_glyphs hb hf hempty hcalm hroom hlow hpage he hexec (fun i hi => hdWidth_eq b.header i ▸ hwidth i hi) hok
  · exact quillRefill_held hw hb ha hh hs hf hr hp hi

end Sys2Proof.Machine

/-! PROOFS. The S slot: what each scalar operation writes, and what CMP, PLOG, SEL, LEA, the bit fields, the counts and the moves
compute (spec/06_control_scalar_instructions.md R183 to R189). -/

namespace Sys2Proof.Machine

open Sys2Proof.Claims

/-! ### Answers of the S slot (R183) -/

theorem srcB_eq (c : Ctx) (f : R3) : c.srcB f = secondSource c f := by
  rw [Ctx.srcB, secondSource, ← BitVec.ofNat_toNat]

section
variable {s : State} {c : Ctx} {f : R3} {i : Instr} (hc : s.ctx? = some c)
include hc

/-- An operation that makes one scalar write under its condition. -/
theorem scalar_gives {g : Ctx → SlotResult} {v v' : Word} (hi : exec i s = runSlot s g)
    (hg : g c = oneWrite ((writeS f.d.toNat v).when (c.holds f.pred))) (hv : v = v') :
    exec i s = .next (c.give (scalarOut c f v')) :=
  hv ▸ hi.trans (runSlot_done hc hg)

theorem scalar2_gives {op : Word → Word → Word} {v : Word} (hi : exec i s = runSlot s (scalar2 f op))
    (hv : op (c.w.sreg f.a.toNat) (secondSource c f) = v) : exec i s = .next (c.give (scalarOut c f v)) :=
  scalar_gives hc hi rfl (by rw [srcB_eq, hv])

theorem scalarAB_gives {op : Word → Word → Word} {v : Word} (hi : exec i s = runSlot s (scalarAB f op))
    (hv : op (c.w.sreg f.a.toNat) (c.w.sreg f.b.toNat) = v) : exec i s = .next (c.give (scalarOut c f v)) :=
  scalar_gives hc hi rfl hv

end

/-! ### Sums, products and logic (R184) -/

theorem add_eq_ofNat (a b : Word) : a + b = BitVec.ofNat 64 (a.toNat + b.toNat) := by
  rw [BitVec.ofNat_add, BitVec.ofNat_toNat, BitVec.ofNat_toNat, BitVec.setWidth_eq, BitVec.setWidth_eq]

theorem mul_eq_ofNat (a b : Word) : a * b = BitVec.ofNat 64 (a.toNat * b.toNat) := by
  rw [BitVec.ofNat_mul, BitVec.ofNat_toNat, BitVec.ofNat_toNat, BitVec.setWidth_eq, BitVec.setWidth_eq]

theorem sub_eq_ofInt (a b : Word) : a - b = BitVec.ofInt 64 ((a.toNat : Int) - b.toNat) := by
  rw [sub_eq_add_neg (a.toNat : Int), BitVec.ofInt_add, BitVec.ofInt_neg, BitVec.ofInt_natCast, BitVec.ofInt_natCast, BitVec.ofNat_toNat,
    BitVec.ofNat_toNat, BitVec.setWidth_eq, BitVec.setWidth_eq, ← BitVec.sub_eq_add_neg]

/-- Settles O6: each operation writes its result once, and words add, subtract and multiply as whole numbers modulo 2^64. -/
theorem scalarSumsProductsAndLogic : Obligations.ScalarSumsProductsAndLogic := by
  unfold Obligations.ScalarSumsProductsAndLogic
  intro s c f hc a b
  exact ⟨scalar2_gives hc (exec_sAdd f s) (add_eq_ofNat a b), scalar2_gives hc (exec_sSub f s) (sub_eq_ofInt a b),
    scalar2_gives hc (exec_sMul f s) (mul_eq_ofNat a b), scalar2_gives hc (exec_mulh f s) rfl, scalar2_gives hc (exec_sAnd f s) rfl,
    scalar2_gives hc (exec_sOr f s) rfl, scalar2_gives hc (exec_sXor f s) rfl, scalar2_gives hc (exec_andn f s) rfl⟩

/-! ### Compares, predicate logic, select and address sums (R185 to R187) -/

theorem sLt_iff (u : Bool) (a b : Word) :
    sLt u a b = true ↔ (if u then (a.toNat : Int) else a.toInt) < (if u then (b.toNat : Int) else b.toInt) := by
  cases u <;> simp [sLt, BitVec.ult_eq_decide, BitVec.slt_eq_decide]

/-- The condition of CMP on the numbers that the words are read as (R185). -/
theorem cmpCond_iff (n : Nat) (u : Bool) (a b : Word) :
    let num (x : Word) : Int := if u then x.toNat else x.toInt
    cmpCond n u a b = true ↔ match n with
      | 0 => a = b
      | 1 => a ≠ b
      | 2 => num a < num b
      | _ => num a ≤ num b := by
  intro num
  match n with
  | 0 => exact beq_iff_eq
  | 1 => exact bne_iff_ne
  | 2 => exact sLt_iff u a b
  | n + 3 =>
    have h : (!sLt u b a) = true ↔ num a ≤ num b := by rw [Bool.not_eq_true', Bool.eq_false_iff, ne_eq, sLt_iff, not_lt]
    exact h

theorem lea_eq (a b : Word) (n : Nat) : a + b <<< n = BitVec.ofNat 64 (a.toNat + b.toNat * 2 ^ n) := by
  rw [add_eq_ofNat, BitVec.ofNat_add, BitVec.ofNat_add, BitVec.toNat_shiftLeft, Nat.shiftLeft_eq]
  congr 1
  exact BitVec.eq_of_toNat_eq (by simp)

/-- Settles O8: CMP by the order of the numbers read, PLOG by its truth table, SEL by its predicate and LEA modulo 2^64. -/
theorem comparesSelectsAndAddresses : Obligations.ComparesSelectsAndAddresses := by
  unfold Obligations.ComparesSelectsAndAddresses
  intro s c f hc a b b2 num cond
  have hcmp : execCmp f s = .next (c.give (predOut c f (cmpCond (bitsN f.variant 3 2) (uBit f) a (c.srcB f)))) := runSlot_done hc rfl
  rw [srcB_eq] at hcmp
  exact ⟨⟨_, hcmp, cmpCond_iff ..⟩, (exec_plog f s).trans (runSlot_done hc rfl), scalar_gives hc (exec_sSel f s) rfl rfl,
    scalarAB_gives hc (exec_lea f s) (lea_eq a b f.c.toNat)⟩

/-! ### Bit fields and counts (R187) -/

/-- A number of w bits read as signed (R198). -/
theorem sx_eq_toInt {w x : Nat} (hx : x < 2 ^ w) : sx w x = (BitVec.ofNat w x).toInt := by
  rw [sx, BitVec.toInt_eq_toNat_cond, BitVec.toNat_ofNat, Nat.mod_eq_of_lt hx]
  simp only [← not_le, ite_not, Nat.cast_pow, Nat.cast_ofNat]

/-- BFX extends the bits that it extracts. -/
theorem bfxVal_eq (u : Bool) (a : Word) (pos w : Nat) : bfxVal u a pos w =
    if u then (a.extractLsb' pos (fieldWidth pos w)).setWidth 64 else (a.extractLsb' pos (fieldWidth pos w)).signExtend 64 := by
  have hx : a.toNat / 2 ^ pos % 2 ^ fieldWidth pos w = (a.extractLsb' pos (fieldWidth pos w)).toNat := by
    rw [BitVec.extractLsb'_toNat, Nat.shiftRight_eq_div_pow]
  unfold bfxVal
  dsimp only
  rw [hx, BitVec.ofNat_toNat, sx_eq_toInt (BitVec.isLt _), BitVec.ofNat_toNat, BitVec.setWidth_eq]
  rfl

theorem getLsbD_bfxVal (u : Bool) (a : Word) {pos w i : Nat} (hpos : pos < 64) (hw : 1 ≤ w) (hi : i < 64) :
    (bfxVal u a pos w).getLsbD i =
      if i < min w (64 - pos) then a.getLsbD (pos + i) else !u && a.getLsbD (pos + min w (64 - pos) - 1) := by
  have hn : 1 ≤ min w (64 - pos) := by omega
  rw [bfxVal_eq, fieldWidth]
  generalize min w (64 - pos) = n at hn
  cases u with
  | true => by_cases h : i < n <;> simp [hi, h]
  | false =>
    rw [if_neg (by decide), BitVec.getLsbD_signExtend, BitVec.msb_eq_getLsbD_last, BitVec.getLsbD_extractLsb', BitVec.getLsbD_extractLsb']
    by_cases h : i < n
    · simp [hi, h]
    · simp [hi, h, show 0 < n by omega, Nat.add_sub_assoc hn]

theorem getLsbD_bfiVal (d a : Word) (pos w : Nat) {i : Nat} (hi : i < 64) : (bfiVal d a pos w).getLsbD i =
    if pos ≤ i ∧ i < pos + min w (64 - pos) then a.getLsbD (i - pos) else d.getLsbD i := by
  unfold bfiVal fieldWidth
  dsimp only
  generalize min w (64 - pos) = n
  have hm : (BitVec.ofNat 64 ((2 ^ n - 1) * 2 ^ pos)).getLsbD i = decide (pos ≤ i ∧ i < pos + n) := by
    rw [BitVec.getLsbD_ofNat, mul_comm, Nat.testBit_two_pow_mul, Nat.testBit_two_pow_sub_one]
    simp only [hi, decide_true, Bool.true_and, ← Bool.decide_and]
    exact decide_eq_decide.2 (by omega)
  simp only [BitVec.getLsbD_or, BitVec.getLsbD_and, BitVec.getLsbD_not, hm, BitVec.getLsbD_shiftLeft, hi, decide_true, Bool.true_and]
  by_cases h : pos ≤ i ∧ i < pos + n
  · simp [h, show ¬i < pos by omega]
  · simp [h]

theorem toNat_clzVal (a : Word) : (clzVal a).toNat = if a = 0 then 64 else 63 - a.toNat.log2 := by
  rw [clzVal, BitVec.toNat_ofNat]
  split_ifs <;> omega

/-- CLZ counts the bits above the highest 1. -/
theorem clzVal_spec (a : Word) : (clzVal a).toNat ≤ 64 ∧ (∀ i, 64 - (clzVal a).toNat ≤ i → i < 64 → a.getLsbD i = false) ∧
    ((clzVal a).toNat < 64 → a.getLsbD (63 - (clzVal a).toNat) = true) := by
  rw [toNat_clzVal]
  by_cases ha : a = 0
  · simp [ha]
  · have hn : a.toNat ≠ 0 := fun h => ha (BitVec.eq_of_toNat_eq h)
    have hlog : a.toNat.log2 < 64 := (Nat.log2_lt hn).2 a.isLt
    rw [if_neg ha]
    refine ⟨by omega, fun i h _ => ?_, fun _ => ?_⟩
    · rw [← BitVec.testBit_toNat]
      exact Nat.testBit_lt_two_pow (Nat.lt_log2_self.trans_le (Nat.pow_le_pow_right (by decide) (by omega)))
    · rw [← BitVec.testBit_toNat, show 63 - (63 - a.toNat.log2) = a.toNat.log2 by omega]
      exact Nat.testBit_log2 hn

theorem toNat_popcVal (a : Word) : (popcVal a).toNat = ((List.range 64).filter fun i => a.getLsbD i).length := by
  have h : ((List.range 64).filter fun i => a.getLsbD i).length ≤ 64 := (List.length_filter_le _ _).trans List.length_range.le
  rw [popcVal, BitVec.toNat_ofNat, popCount, Nat.mod_eq_of_lt (by omega)]

/-- Settles O9: each result bit by bit. -/
theorem bitFieldsAndCounts : Obligations.BitFieldsAndCounts := by
  unfold Obligations.BitFieldsAndCounts
  intro s c f hc a d pos n
  have hpos : pos < 64 := Nat.mod_lt _ (by decide)
  exact ⟨fun hw => ⟨_, scalarAB_gives hc (exec_bfx f s) rfl, fun i hi => getLsbD_bfxVal (uBit f) a hpos hw hi⟩,
    fun _ => ⟨_, scalar_gives hc (exec_bfi f s) rfl rfl, fun i hi => getLsbD_bfiVal d a pos f.c.toNat hi⟩,
    ⟨_, scalarAB_gives hc (exec_clz f s) rfl, clzVal_spec a⟩, ⟨_, scalarAB_gives hc (exec_popc f s) rfl, toNat_popcVal a⟩⟩

/-! ### Moves and immediates (R187, R189) -/

theorem elem_setWidth (x : VReg) (l : Nat) : (elem 32 x l).setWidth 64 = BitVec.ofNat 64 (x.toNat / 2 ^ (32 * l) % 2 ^ 32) := by
  rw [elem, ← BitVec.ofNat_toNat, BitVec.extractLsb'_toNat, Nat.shiftRight_eq_div_pow]

/-- The lanes that MOVV sees of `fl` (R67, R187). -/
theorem toNat_flHalf_va (c : Ctx) : (c.flHalf .va).toNat = if c.b.usesM then c.k.fl.toNat % 2 ^ 2048 else 0 := by
  cases h : c.b.usesM <;> simp [Ctx.flHalf, h]

theorem liHi_eq (x : BitVec 32) (d : Word) : x ++ d.extractLsb' 0 32 = BitVec.ofNat 64 (2 ^ 32 * x.toNat + d.toNat % 2 ^ 32) := by
  apply BitVec.eq_of_toNat_eq
  rw [BitVec.toNat_append, BitVec.extractLsb'_toNat, Nat.shiftRight_zero, ← Nat.shiftLeft_add_eq_or_of_lt (Nat.mod_lt _ (by decide)),
    Nat.shiftLeft_eq, BitVec.toNat_ofNat]
  omega

/-- Settles O10: MOVV by its source, MOVQ by its destination, and the three immediates. -/
theorem scalarMovesAndImmediates : Obligations.ScalarMovesAndImmediates := by
  unfold Obligations.ScalarMovesAndImmediates
  refine ⟨fun s c f hc => ?moves, fun s c f hc => ?immediates⟩
  case moves =>
    have movv {v : Word} (hv : c.movv f.a f.c.toNat = v) : exec (.movv f) s = .next (c.give (scalarOut c f v)) :=
      scalar_gives hc (exec_movv f s) rfl hv
    have fl (ha : f.a = 0xC0) : c.movv f.a f.c.toNat = BitVec.ofNat 64 ((c.flHalf .va).toNat / 2 ^ (32 * f.c.toNat) % 2 ^ 32) := by
      rw [← elem_setWidth, ha]
      rfl
    refine ⟨fun ha => movv ?_, fun ha hm => movv ?_, fun ha hm => movv ?_, fun ha => movv ?_, fun hd => ?_, fun hd => ?_⟩
    · rw [Ctx.movv, if_pos ha, elem_setWidth]
    · rw [fl ha, toNat_flHalf_va, if_pos hm]
    · rw [fl ha, toNat_flHalf_va, hm]
      simp
    · rw [ha]
      rfl
    · rw [isS, decide_eq_true_iff] at hd
      exact scalar_gives hc (exec_movq f s) (by simp only [if_pos hd]) rfl
    · have h40 : ¬f.d.toNat < 0x40 := by simp only [isQ, Bool.and_eq_true, decide_eq_true_eq] at hd; omega
      exact (exec_movq f s).trans (runSlot_done hc (by simp only [if_neg h40]; rfl))
  case immediates =>
    have li {i : Instr} {g : Ctx → SlotResult} {v v' : Word} (hi : exec i s = runSlot s g) (hg : g c = oneWrite (writeS f.d.toNat v))
        (hv : v = v') : exec i s = .next (c.give
          { writes := [{ left := 1, live := true, flags := 0, val := .scalar (fin 64 f.d.toNat) v' }] }) :=
      hv ▸ hi.trans (runSlot_done hc hg)
    exact ⟨li (exec_li f s) rfl (BitVec.ofNat_toNat ..).symm, li (exec_liS f s) rfl rfl, li (exec_liHi f s) rfl (liHi_eq ..)⟩

end Sys2Proof.Machine

/-! PROOFS. The transfers of control (spec/06_control_scalar_instructions.md R155 to R158). -/

namespace Sys2Proof.Machine

open Sys2Proof.Claims

/-- A transfer of control gives the end of its bundle its target, or nothing (R155). -/
theorem branchIf_gives {s : State} {c : Ctx} (hc : s.ctx? = some c) {i : Instr} {g : Ctx → SlotResult} {b : Bool} {t : BitVec 32}
    (hi : exec i s = runSlot s g) (hg : g c = branchIf b t) :
    exec i s = .next (c.give (if b then { ends := [.setPc t] } else {})) := by
  cases b <;> exact hi.trans (runSlot_done hc hg)

theorem active_ne_zero {act : Mask} {l : Nat} (h : act.getLsbD l = true) : act ≠ 0 := by
  rintro rfl
  simp at h

theorem mask_ne_zero_iff (m : Mask) : (m != 0) = true ↔ ∃ l, l < 64 ∧ m.getLsbD l = true :=
  bne_iff_ne.trans ⟨exists_active, fun ⟨_, _, hl⟩ => active_ne_zero hl⟩

/-- BRD.any: some live lane is in its mask (R157). -/
theorem brd_any_iff (c : Ctx) (f : KB) : (c.brd f != 0) = true ↔
    ∃ l, l < 64 ∧ c.w.live.getLsbD l = true ∧ (c.w.qreg f.cond.toNat).getLsbD l = true := by
  rw [mask_ne_zero_iff]
  simp only [Ctx.brd, BitVec.getLsbD_and, Bool.and_eq_true, and_comm (a := (c.w.qreg f.cond.toNat).getLsbD _ = true)]

/-- BRD.all: every live lane is in its mask (R157). -/
theorem brd_all_iff (c : Ctx) (f : KB) : (c.brd f == c.w.live) = true ↔
    ∀ l, l < 64 → c.w.live.getLsbD l = true → (c.w.qreg f.cond.toNat).getLsbD l = true := by
  rw [beq_iff_eq]
  refine ⟨fun h l _ hl => ?_, fun h => BitVec.eq_of_getLsbD_eq fun l hl => ?_⟩
  · rw [← h, Ctx.brd, BitVec.getLsbD_and, Bool.and_eq_true] at hl
    exact hl.1
  · rw [Ctx.brd, BitVec.getLsbD_and, Bool.and_eq_right_iff_imp]
    exact h l hl

/-- Settles O23: each transfer by its condition; BRD's is asked of the live lanes alone. -/
theorem branchesCallsAndReturns : Obligations.BranchesCallsAndReturns := by
  unfold Obligations.BranchesCallsAndReturns
  intro s c hc
  refine ⟨fun f => ?_, fun f => ?_⟩
  · intro go live inMask p
    have hany (any : Bool) (h : any = true ↔ ∃ l, l < 64 ∧ live.getLsbD l = true ∧ inMask l = true) : (c.brd f != 0) = any :=
      Bool.eq_iff_iff.2 ((brd_any_iff c f).trans h.symm)
    have hall (all : Bool) (h : all = true ↔ ∀ l, l < 64 → live.getLsbD l = true → inMask l = true) : (c.brd f == c.w.live) = all :=
      Bool.eq_iff_iff.2 ((brd_all_iff c f).trans h.symm)
    have not_taken (b : Bool) : (if b then ({} : Effects) else go) = if !b then go else {} := by cases b <;> rfl
    rw [not_taken]
    refine ⟨branchIf_gives hc (exec_bra f s) rfl, branchIf_gives hc (exec_brc f s) rfl, branchIf_gives hc (exec_brcN f s) rfl,
      fun any h => ⟨?_, ?_⟩, fun all h => ?_, (exec_call f s).trans (runSlot_done hc ?_), (exec_loop f s).trans (runSlot_done hc rfl)⟩
    · rw [← hany any h]
      exact branchIf_gives hc (exec_brdAny f s) rfl
    · rw [not_taken, ← hany any h]
      exact branchIf_gives hc (exec_brdNone f s) (by rw [bne, Bool.not_not])
    · rw [← hall all h]
      exact branchIf_gives hc (exec_brdAll f s) rfl
    · rw [BitVec.ofNat_toNat]
      rfl
  · exact branchIf_gives hc (exec_ret f s) (congrArg (branchIf true) (BitVec.eq_of_toNat_eq (by simp)))

end Sys2Proof.Machine

/-! PROOFS. Integer, logic and shift elements, moves, selections and counts (spec/07_vector_instructions.md R198, R200). -/

namespace Sys2Proof.Machine

open Sys2Proof.Claims

/-! ### Elements as numbers (R192, R198) -/

theorem source_lt (c : Ctx) (sl : VSlot) {w : Nat} (hw : w = 32 ∨ w = 16 ∨ w = 8) (code : BitVec 8) {e : Nat} (he : e < 2048 / w) :
    source c sl w code e < 2 ^ w := by
  rw [← el_vop sl hw code he]
  exact BitVec.isLt _

theorem sx_eq_signedOf_of_pos {w : Nat} (hw : 0 < w) (x : Nat) : sx w x = signedOf w x := by
  obtain ⟨n, rfl⟩ : ∃ n, w = n + 1 := ⟨w - 1, by omega⟩
  have h : 2 ^ (n + 1) ≤ 2 * x ↔ ¬x < 2 ^ n := by rw [pow_succ]; omega
  rw [sx, signedOf, Nat.add_sub_cancel, if_congr h rfl rfl, ite_not]

theorem readInt_eq_numOf {w : Nat} (hw : 0 < w) (u : Bool) (x : Nat) : readInt u w x = numOf u w x := by
  rw [readInt, numOf, sx_eq_signedOf_of_pos hw]

theorem intOut_eq_narrow (sat u : Bool) (w : Nat) (x : Int) : intOut sat u w x = narrow sat u w x := by
  cases sat <;> cases u <;> rfl

/-- An element read as a number and reduced again is itself. -/
theorem narrow_numOf (u : Bool) {w x : Nat} (hx : x < 2 ^ w) : narrow false u w (numOf u w x) = x := by
  have hx' : ((x : Int) % 2 ^ w).toNat = x := by
    rw [Int.emod_eq_of_lt (by positivity) (by exact_mod_cast hx), Int.toNat_natCast]
  unfold narrow numOf signedOf
  simp only [Bool.not_false, if_true]
  split_ifs
  · exact hx'
  · exact hx'
  · rwa [Int.sub_emod_right]

/-- The sign-extended immediate, cut to the element (R198). -/
theorem immS_eq {w : Nat} (hw : w ≤ 64) (imm : BitVec 16) : immS w imm = (imm.toInt % 2 ^ w).toNat := by
  have hdvd : (2 : Int) ^ w ∣ 2 ^ 64 := pow_dvd_pow 2 hw
  have h : ((imm.signExtend 64).toNat : Int) = imm.toInt % 2 ^ 64 := by
    rw [BitVec.signExtend, BitVec.toNat_ofInt, Int.toNat_of_nonneg (Int.emod_nonneg _ (by decide))]
    rfl
  rw [immS, ← Int.emod_emod_of_dvd _ hdvd, ← h]
  rfl

/-! ### The element results of R198 -/

section
variable {w : Nat} (hw : 0 < w) (v : BitVec 4) (x y : Nat)
include hw

theorem elAdd_eq : elAdd v w x y = narrow (v.getLsbD 0) false w (numOf false w x + numOf false w y) := by
  rw [elAdd, intOut_eq_narrow, sx_eq_signedOf_of_pos hw, sx_eq_signedOf_of_pos hw]
  rfl

theorem elSub_eq : elSub v w x y = narrow (v.getLsbD 0) false w (numOf false w x - numOf false w y) := by
  rw [elSub, intOut_eq_narrow, sx_eq_signedOf_of_pos hw, sx_eq_signedOf_of_pos hw]
  rfl

theorem elMul_eq : elMul v w x y =
    narrow (v.getLsbD 0) (v.getLsbD 1) w (numOf (v.getLsbD 1) w x * numOf (v.getLsbD 1) w y) := by
  rw [elMul, intOut_eq_narrow, readInt_eq_numOf hw, readInt_eq_numOf hw]
  rfl

theorem elAbs_eq : elAbs v w x = narrow (v.getLsbD 0) false w |numOf false w x| := by
  rw [elAbs, intOut_eq_narrow, sx_eq_signedOf_of_pos hw, Int.natCast_natAbs]
  rfl

variable {x y} (hx : x < 2 ^ w) (hy : y < 2 ^ w)
include hx hy

theorem elMin_eq : elMin v w x y = narrow false (v.getLsbD 1) w (min (numOf (v.getLsbD 1) w x) (numOf (v.getLsbD 1) w y)) := by
  rw [elMin, readInt_eq_numOf hw, readInt_eq_numOf hw, uOf]
  split_ifs with h
  · rw [min_eq_right h.le, narrow_numOf _ hy]
  · rw [min_eq_left (not_lt.1 h), narrow_numOf _ hx]

theorem elMax_eq : elMax v w x y = narrow false (v.getLsbD 1) w (max (numOf (v.getLsbD 1) w x) (numOf (v.getLsbD 1) w y)) := by
  rw [elMax, readInt_eq_numOf hw, readInt_eq_numOf hw, uOf]
  split_ifs with h
  · rw [max_eq_right h.le, narrow_numOf _ hy]
  · rw [max_eq_left (not_lt.1 h), narrow_numOf _ hx]

end

/-! ### Bits of a shifted element (R198) -/

theorem testBit_elShl {w j : Nat} (hj : j < w) (x y : Nat) :
    (elShl w x y % 2 ^ w).testBit j = (decide (y ≤ j) && x.testBit (j - y)) := by
  unfold elShl
  split_ifs with h
  · simp [show ¬y ≤ j by omega]
  · rw [Nat.mod_mod, Nat.testBit_mod_two_pow, mul_comm, Nat.testBit_two_pow_mul, decide_eq_true hj, Bool.true_and]

theorem testBit_elShr {w j : Nat} (hj : j < w) {x : Nat} (hx : x < 2 ^ w) (y : Nat) :
    (elShr w x y % 2 ^ w).testBit j = (decide (j + y < w) && x.testBit (j + y)) := by
  have hbeyond : ¬j + y < w → x.testBit (j + y) = false := fun h =>
    Nat.testBit_lt_two_pow (hx.trans_le (Nat.pow_le_pow_right (by decide) (not_lt.1 h)))
  unfold elShr
  split_ifs with h
  · simp [show ¬j + y < w by omega]
  · rw [Nat.testBit_mod_two_pow, Nat.testBit_div_two_pow, decide_eq_true hj, Bool.true_and]
    by_cases hb : j + y < w
    · simp [hb]
    · simp [hb, hbeyond hb]

/-- SAR is the arithmetic shift of the element. -/
theorem elSar_eq {w x : Nat} (hx : x < 2 ^ w) (y : Nat) : elSar w x y = ((BitVec.ofNat w x).sshiftRight (min y w)).toNat := by
  rw [elSar, wrapTo, sx_eq_toInt hx, BitVec.sshiftRight, BitVec.toNat_ofInt, Int.shiftRight_eq_div_pow]
  push_cast
  rfl

theorem testBit_elSar {w j : Nat} (hj : j < w) {x : Nat} (hx : x < 2 ^ w) (y : Nat) :
    (elSar w x y % 2 ^ w).testBit j = x.testBit (min (j + y) (w - 1)) := by
  rw [elSar_eq hx, Nat.mod_eq_of_lt (BitVec.isLt _), BitVec.testBit_toNat, BitVec.getLsbD_sshiftRight, BitVec.msb_eq_getLsbD_last,
    BitVec.getLsbD_ofNat, BitVec.getLsbD_ofNat]
  by_cases h : j + y < w
  · simp [show ¬w ≤ j by omega, show min y w + j < w by omega, show min (j + y) (w - 1) = min y w + j by omega]
  · simp [show ¬w ≤ j by omega, show ¬min y w + j < w by omega, show min (j + y) (w - 1) = w - 1 by omega, show 0 < w by omega]

theorem testBit_mod_width {w j : Nat} (hj : j < w) (x : Nat) : (x % 2 ^ w).testBit j = x.testBit j := by
  rw [Nat.testBit_mod_two_pow, decide_eq_true hj, Bool.true_and]

/-! ### Operations on elements (R191, R194) -/

theorem ebits_pos (w : Warp) : 0 < w.ebits ∧ w.ebits ≤ 64 := by
  rcases ebits_cases w with h | h | h <;> rw [h] <;> decide

section
variable {s : State} {c : Ctx} {sl : VSlot} {i : Instr} (hc : s.ctx? = some c)
include hc

/-- An operation of class VR on the elements of its two sources. -/
theorem intVR_result {f : R3} {op : Nat → Nat → Nat → Nat} {val : Nat → Nat} (hi : exec i s = runSlot s (intVR sl f op))
    (hv : ∀ e, e < 2048 / c.w.ebits → op c.w.ebits (source c sl c.w.ebits f.a e) (source c sl c.w.ebits f.b e) = val e) :
    VectorResult s c i f.pred 0 2 f.d.toNat c.w.ebits val noFlag := by
  refine vectorResult_of_mapLanes hc hi rfl (ebits_cases _) fun e he => ?_
  rw [el_vop sl (ebits_cases _) f.a he, el_vop sl (ebits_cases _) f.b he]
  exact congrArg (·, 0) (hv e he)

/-- The same of class VI, on a source and an immediate. -/
theorem intVI_result {f : VI} {imm : Nat → BitVec 16 → Nat} {op : Nat → Nat → Nat → Nat} {val : Nat → Nat}
    (hi : exec i s = runSlot s (intVI sl f imm op)) {b : Nat} (hb : imm c.w.ebits f.imm = b) (hlt : b < 2 ^ c.w.ebits)
    (hv : ∀ e, e < 2048 / c.w.ebits → op c.w.ebits (source c sl c.w.ebits f.a e) b = val e) :
    VectorResult s c i f.pred 0 2 f.d.toNat c.w.ebits val noFlag := by
  refine vectorResult_of_mapLanes hc hi rfl (ebits_cases _) fun e he => ?_
  rw [el_vop sl (ebits_cases _) f.a he, el_splat (ebits_cases _) _ he, hb, Nat.mod_eq_of_lt hlt]
  exact congrArg (·, 0) (hv e he)

theorem execImad_result (f : R3) :
    let w := c.w.ebits
    let u := f.variant.getLsbD 1
    VectorResult s c (.imad sl f) f.pred 0 2 f.d.toNat w (fun e => narrow (f.variant.getLsbD 0) u w
      (numOf u w (source c sl w f.a e) * numOf u w (source c sl w f.b e) + numOf u w (element c w f.c.toNat e))) noFlag := by
  refine vectorResult_of_mapLanes hc (exec_imad sl f s) rfl (ebits_cases _) fun e he => ?_
  rw [el_vop sl (ebits_cases _) f.a he, el_vop sl (ebits_cases _) f.b he, intOut_eq_narrow]
  simp only [readInt_eq_numOf (ebits_pos c.w).1]
  rfl

end

/-- Settles O12: each operation computes the whole number that R198 gives of its elements, reduced or clamped. -/
theorem integerElementArithmetic : Obligations.IntegerElementArithmetic := by
  unfold Obligations.IntegerElementArithmetic
  intro s c sl hc w
  obtain ⟨hw, hw64⟩ := ebits_pos c.w
  have src (code : BitVec 8) {e : Nat} (he : e < 2048 / c.w.ebits) := source_lt c sl (ebits_cases c.w) code he
  refine ⟨fun f => ?_, fun f => ?_⟩
  · exact ⟨intVR_result hc (exec_iadd sl f s) fun e _ => elAdd_eq hw ..,
      intVR_result hc (exec_isub sl f s) fun e _ => elSub_eq hw ..,
      intVR_result hc (exec_imul sl f s) fun e _ => elMul_eq hw .., execImad_result hc f,
      intVR_result hc (exec_imin sl f s) fun e he => elMin_eq hw _ (src f.a he) (src f.b he),
      intVR_result hc (exec_imax sl f s) fun e he => elMax_eq hw _ (src f.a he) (src f.b he),
      intVR_result hc (exec_iabs sl f s) fun e _ => elAbs_eq hw ..⟩
  · have hb := immS_eq hw64 f.imm
    have hlt : (f.imm.toInt % 2 ^ c.w.ebits).toNat < 2 ^ c.w.ebits := hb ▸ Nat.mod_lt _ (by positivity)
    exact ⟨intVI_result hc (exec_iaddImm sl f s) hb hlt fun e _ => elAdd_eq hw ..,
      intVI_result hc (exec_isubImm sl f s) hb hlt fun e _ => elSub_eq hw ..,
      intVI_result hc (exec_imulImm sl f s) hb hlt fun e _ => elMul_eq hw ..⟩

/-- Settles O13: each operation bit by bit, a count at or above the width among the counts of the shifts. -/
theorem logicAndShiftElements : Obligations.LogicAndShiftElements := by
  unfold Obligations.LogicAndShiftElements
  intro s c sl hc w good
  have src (code : BitVec 8) {e : Nat} (he : e < 2048 / w) := source_lt c sl (ebits_cases c.w) code he
  have and_bits {j : Nat} (hj : j < w) (x y : Nat) : (elAnd w x y % 2 ^ w).testBit j = (x.testBit j && y.testBit j) :=
    (testBit_mod_width hj _).trans (Nat.testBit_and ..)
  have or_bits {j : Nat} (hj : j < w) (x y : Nat) : (elOr w x y % 2 ^ w).testBit j = (x.testBit j || y.testBit j) :=
    (testBit_mod_width hj _).trans (Nat.testBit_or ..)
  have xor_bits {j : Nat} (hj : j < w) (x y : Nat) : (elXor w x y % 2 ^ w).testBit j = (x.testBit j ^^ y.testBit j) :=
    (testBit_mod_width hj _).trans (Nat.testBit_xor ..)
  refine ⟨fun f => ?_, fun f => ?_⟩
  · intro a b result
    have vr {i : Instr} {op : Nat → Nat → Nat → Nat} {bit : Nat → Nat → Bool} (hi : exec i s = runSlot s (intVR sl f op))
        (hbit : ∀ e j, e < 2048 / w → j < w → (op w (a e) (b e) % 2 ^ w).testBit j = bit e j) : result i bit :=
      ⟨_, intVR_result hc hi fun _ _ => rfl, hbit⟩
    exact ⟨vr (exec_vAnd sl f s) fun _ _ _ hj => and_bits hj .., vr (exec_vOr sl f s) fun _ _ _ hj => or_bits hj ..,
      vr (exec_vXor sl f s) fun _ _ _ hj => xor_bits hj .., vr (exec_vShl sl f s) fun _ _ _ hj => testBit_elShl hj ..,
      vr (exec_vShr sl f s) fun _ _ he hj => testBit_elShr hj (src f.a he) _,
      vr (exec_vSar sl f s) fun _ _ he hj => testBit_elSar hj (src f.a he) _⟩
  · intro a b result
    have vi {i : Instr} {op : Nat → Nat → Nat → Nat} {bit : Nat → Nat → Bool} (hi : exec i s = runSlot s (intVI sl f immZ op))
        (hbit : ∀ e j, e < 2048 / w → j < w → (op w (a e) b % 2 ^ w).testBit j = bit e j) : result i bit :=
      ⟨_, intVI_result hc hi rfl (Nat.mod_lt _ (by positivity)) fun _ _ => rfl, hbit⟩
    exact ⟨vi (exec_vAndImm sl f s) fun _ _ _ hj => and_bits hj .., vi (exec_vOrImm sl f s) fun _ _ _ hj => or_bits hj ..,
      vi (exec_vXorImm sl f s) fun _ _ _ hj => xor_bits hj .., vi (exec_vShlImm sl f s) fun _ _ _ hj => testBit_elShl hj ..,
      vi (exec_vShrImm sl f s) fun _ _ he hj => testBit_elShr hj (src f.a he) _,
      vi (exec_vSarImm sl f s) fun _ _ he hj => testBit_elSar hj (src f.a he) _⟩

/-! ### Moves, selections and counts (R200) -/

/-- The 1 bits of a mask below a lane. -/
theorem popCount_below (q : Mask) {n : Nat} (hn : n ≤ 64) :
    popCount (q &&& BitVec.ofNat 64 (2 ^ n - 1)) = ((List.range n).filter fun i => q.getLsbD i).length := by
  obtain ⟨k, hk⟩ := Nat.exists_eq_add_of_le hn
  have hbit (l : Nat) : (q &&& BitVec.ofNat 64 (2 ^ n - 1)).getLsbD l = (q.getLsbD l && decide (l < n)) := by
    rw [BitVec.getLsbD_and, BitVec.getLsbD_ofNat, Nat.testBit_two_pow_sub_one, ← Bool.decide_and]
    congr 1
    exact decide_eq_decide.2 (by omega)
  have habove : ((List.range k).map (n + ·)).filter (fun l => q.getLsbD l && decide (l < n)) = [] := by
    simp [List.filter_eq_nil_iff]
  simp only [popCount, hbit]
  have hsplit : List.range 64 = List.range n ++ (List.range k).map (n + ·) := hk ▸ List.range_add
  rw [hsplit, List.filter_append, habove, List.append_nil]
  exact congrArg List.length (List.filter_congr fun l hl => by rw [decide_eq_true (List.mem_range.1 hl), Bool.and_true])

section
variable {s : State} {c : Ctx} {i : Instr} (hc : s.ctx? = some c)
include hc

/-- An operation on whole lanes. -/
theorem laneMove_result {g : Ctx → SlotResult} {d : Nat} {pred : BitVec 5} {val : Nat → Nat} (hi : exec i s = runSlot s g)
    (hg : g c = laneMove d pred val c) : VectorResult s c i pred 0 2 d 32 val noFlag :=
  vectorResult_of_mapLanes hc hi hg (.inl rfl) fun _ _ => rfl

theorem execQpop_result (sl : VSlot) (f : R3) : VectorResult s c (.qpop sl f) f.pred 0 2 f.d.toNat c.w.ebits
    (fun e => ((List.range (e * c.w.ebits / 32)).filter fun i => (c.w.qreg f.c.toNat).getLsbD i).length) noFlag := by
  refine vectorResult_of_mapLanes hc (exec_qpop sl f s) rfl (ebits_cases _) fun e he => ?_
  have hlane : laneOf c.w.ebits e ≤ 64 := by
    rw [laneOf]
    rcases ebits_cases c.w with h | h | h <;> rw [h] at he ⊢ <;> omega
  rw [popCount_below _ hlane]
  rfl

end

/-- Settles O16: SEL, MOV, BCAST and MOV of an immediate move whole lanes; QPOP counts the mask's bits below each lane. -/
theorem movesSelectionsAndCounts : Obligations.MovesSelectionsAndCounts := by
  unfold Obligations.MovesSelectionsAndCounts
  intro s c sl hc w
  refine ⟨fun f => ⟨laneMove_result hc (exec_vSel sl f s) rfl, laneMove_result hc (exec_mov sl f s) rfl,
    laneMove_result hc (exec_bcast sl f s) rfl, execQpop_result hc sl f⟩, fun code e he => el_vop sl (ebits_cases c.w) code he,
    fun f => ⟨splat w (immS w f.imm), laneMove_result hc (exec_movImm sl f s) rfl, fun e he => ?_⟩⟩
  refine (el_splat (ebits_cases c.w) _ he).trans ?_
  rw [← immS_eq (ebits_pos c.w).2]
  exact Nat.mod_mod ..

end Sys2Proof.Machine

/-! PROOFS. Row reductions and running sums of rows (spec/07_vector_instructions.md R210, R215, spec/03_numbers.md R82, R98, R100). -/

namespace Sys2Proof.Machine

open Sys2Proof.Claims

/-! ### Exact sums (R82, R98) -/

/-- A value that is exactly x, a zero being +0 but toward -infinity (R82). -/
def SumOf (m : Mode) (v : FVal) (x : ℚ) : Prop := Finite v (if x = 0 then decide (m = .down) else decide (x < 0)) x

theorem sumOf_add {m : Mode} {neg n : Bool} {k l : Nat} {e g : Int} :
    SumOf m (FVal.add m (.fin neg k e) (.fin n l g)).1 (worth (.fin neg k e) + worth (.fin n l g)) := by
  rw [add_fin]
  exact addFin_finite m neg n k l e g

/-- The running sum of numbers is exactly their sum. -/
theorem sumOf_foldl {m : Mode} : ∀ {vs : List FVal} {acc : FVal} {x : ℚ},
    (∀ v ∈ vs, v.isNan = false ∧ v.isInf = false) → SumOf m acc x →
    SumOf m (vs.foldl (fun acc v => (acc.add m v).1) acc) (x + (vs.map worth).sum)
  | [], acc, x, _, hacc => by simpa using hacc
  | v :: vs, acc, x, hvs, hacc => by
    obtain ⟨hv, hrest⟩ := List.forall_mem_cons.1 hvs
    obtain ⟨neg, k, e, rfl, rfl⟩ : ∃ neg k e, acc = .fin neg k e ∧ worth acc = x := ⟨_, hacc⟩
    cases v with
    | nan s => cases hv.1
    | inf u => cases hv.2
    | fin n l g =>
      rw [List.map_cons, List.sum_cons, ← add_assoc, List.foldl_cons]
      exact sumOf_foldl hrest sumOf_add

section
variable (m : Mode) {vs : List FVal}

theorem exactSum_of_nan (h : vs.any (·.isNan) = true) :
    exactSum m vs = (.nan false, if vs.any (·.isSnan) then flNv else 0) := if_pos h

theorem exactSum_of_infs (h : vs.any (·.isNan) = false) (hp : .inf false ∈ vs) (hn : .inf true ∈ vs) :
    exactSum m vs = (.nan false, flNv) :=
  (if_neg (by simp [h])).trans (if_pos (by simp [hp, hn]))

theorem exactSum_of_find (h : vs.any (·.isNan) = false) (hinf : ¬(.inf false ∈ vs ∧ .inf true ∈ vs)) {v : FVal}
    (hf : vs.find? (·.isInf) = some v) : exactSum m vs = (v, 0) := by
  unfold exactSum
  rw [if_neg (by simp [h]), if_neg (by simpa using hinf), hf]

theorem exactSum_of_inf (h : vs.any (·.isNan) = false) {neg : Bool} (hin : .inf neg ∈ vs) (hout : .inf (!neg) ∉ vs) :
    exactSum m vs = (.inf neg, 0) := by
  have hinf : ¬(.inf false ∈ vs ∧ .inf true ∈ vs) := by
    cases neg with
    | false => exact fun hi => hout hi.2
    | true => exact fun hi => hout hi.1
  cases hf : vs.find? (·.isInf) with
  | none => exact absurd (List.find?_eq_none.1 hf _ hin) (by simp [FVal.isInf])
  | some v =>
    have hv : v = .inf neg := by
      have hmem := List.mem_of_find?_eq_some hf
      have hi := List.find?_some hf
      cases v with
      | inf u =>
        by_contra hne
        obtain rfl : u = !neg := Bool.eq_not_iff.2 fun hu => hne (hu ▸ rfl)
        exact hout hmem
      | _ => cases hi
    rw [exactSum_of_find m h hinf hf, hv]

theorem exactSum_of_no_inf (h : vs.any (·.isNan) = false) (hinf : vs.any (·.isInf) = false) {v : FVal} {rest : List FVal}
    (hvs : vs = v :: rest) :
    exactSum m vs = (rest.foldl (fun acc x => (acc.add m x).1) ((FVal.fin false 0 0).add m v).1, 0) := by
  have hno : ∀ v ∈ vs, v.isInf = false := fun v hv => by simpa using List.any_eq_false.1 hinf v hv
  have hone : ¬(.inf false ∈ vs ∧ .inf true ∈ vs) := fun hi => by cases hno _ hi.1
  have hnone : vs.find? (·.isInf) = none := List.find?_eq_none.2 fun v hv => by simp [hno v hv]
  subst hvs
  unfold exactSum
  rw [if_neg (by simp [h]), if_neg (by simpa using hone), hnone]

/-- The sum of numbers is exactly their sum (R82). -/
theorem exactSum_of_finite (h : vs.any (·.isNan) = false) (hinf : vs.any (·.isInf) = false) (hne : vs ≠ []) :
    (exactSum m vs).2 = 0 ∧ SumOf m (exactSum m vs).1 (vs.map worth).sum := by
  have hfin : ∀ v ∈ vs, v.isNan = false ∧ v.isInf = false := fun v hv =>
    ⟨by simpa using List.any_eq_false.1 h v hv, by simpa using List.any_eq_false.1 hinf v hv⟩
  cases vs with
  | nil => exact absurd rfl hne
  | cons v vs =>
    rw [exactSum_of_no_inf m h hinf rfl]
    refine ⟨rfl, ?_⟩
    obtain ⟨hv, hvs⟩ := List.forall_mem_cons.1 hfin
    cases v with
    | nan s => cases hv.1
    | inf u => cases hv.2
    | fin n l g =>
      have h0 : worth (.fin false 0 0) = 0 := (worth_eq_zero_iff ..).2 rfl
      have hfirst := sumOf_add (m := m) (neg := false) (k := 0) (e := 0) (n := n) (l := l) (g := g)
      rw [h0, zero_add] at hfirst
      exact sumOf_foldl hvs hfirst

end

/-! ### The greatest value (R210) -/

/-- The order of values that are not NaN: the infinities outside the numbers, and -0 below +0. -/
def FVal.rank : FVal → ℤ ×ₗ ℚ ×ₗ ℤ
  | .inf neg => toLex (if neg then -1 else 1, toLex (0, 0))
  | .fin neg m e => toLex (0, toLex (worth (.fin neg m e), if m = 0 ∧ neg = true then -1 else 0))
  | .nan _ => toLex (0, toLex (0, 0))

theorem below_iff_rank {x y : FVal} (hx : x.isNan = false) (hy : y.isNan = false) :
    (x.lt y = true ∨ (x.isZero = true ∧ y.isZero = true ∧ x.isNeg = true ∧ y.isNeg = false)) ↔ x.rank < y.rank := by
  cases x with
  | nan s => cases hx
  | inf u =>
    cases y with
    | nan s => cases hy
    | inf n => cases u <;> cases n <;> simp [FVal.rank, FVal.lt, FVal.isZero, Prod.Lex.toLex_lt_toLex]
    | fin n l g =>
      cases u <;> cases n <;> by_cases hl : l = 0 <;> simp [FVal.rank, FVal.lt, FVal.isZero, Prod.Lex.toLex_lt_toLex, hl]
  | fin u k e =>
    cases y with
    | nan s => cases hy
    | inf n => cases u <;> cases n <;> by_cases hk : k = 0 <;> simp [FVal.rank, FVal.lt, FVal.isZero, Prod.Lex.toLex_lt_toLex, hk]
    | fin n l g =>
      have hk := worth_eq_zero_iff u k e
      have hl := worth_eq_zero_iff n l g
      rw [lt_fin_iff, FVal.rank, FVal.rank, Prod.Lex.toLex_lt_toLex, Prod.Lex.toLex_lt_toLex]
      simp only [FVal.isZero, FVal.isNeg, beq_iff_eq, lt_irrefl, true_and, false_or]
      refine or_congr_right ⟨?_, ?_⟩
      · rintro ⟨rfl, rfl, rfl, rfl⟩
        exact ⟨(hk.2 rfl).trans (hl.2 rfl).symm, by simp⟩
      · rintro ⟨hw, hlt⟩
        have hkl : k = 0 ↔ l = 0 := by rw [← hk, ← hl, hw]
        by_cases hk0 : k = 0
        · cases u <;> cases n <;> simp_all
        · simp [hk0, hkl.not.1 hk0] at hlt

theorem fminmax_max {x y : FVal} (hx : x.isNan = false) (hy : y.isNan = false) :
    (fminmax true x y).1 = if x.rank < y.rank then y else x := by
  have h := fminmax_eq true x y
  dsimp only at h
  rw [h, hx, hy]
  simp only [Bool.and_self, Bool.false_eq_true, if_false, if_true]
  refine if_congr ?_ rfl rfl
  rw [← below_iff_rank hx hy]
  simp [and_assoc]

/-- The fold that finds the greatest: one of the values seen, and none of them above it. -/
theorem foldl_max : ∀ {vs : List FVal} {acc : FVal}, acc.isNan = false → (∀ v ∈ vs, v.isNan = false) →
    let r := vs.foldl (fun acc v => (fminmax true acc v).1) acc
    r ∈ acc :: vs ∧ ∀ v ∈ acc :: vs, v.rank ≤ r.rank
  | [], acc, _, _ => by simp
  | v :: vs, acc, ha, hvs => by
    intro r
    obtain ⟨hv, hvs⟩ := List.forall_mem_cons.1 hvs
    obtain ⟨y, hy⟩ : ∃ y, y = (fminmax true acc v).1 := ⟨_, rfl⟩
    have hchoice := hy.trans (fminmax_max ha hv)
    have hnan : y.isNan = false := by rw [hchoice]; split_ifs <;> assumption
    have hle : acc.rank ≤ y.rank ∧ v.rank ≤ y.rank := by
      rw [hchoice]
      split_ifs with h
      · exact ⟨h.le, le_rfl⟩
      · exact ⟨le_rfl, not_lt.1 h⟩
    have hmem : y = acc ∨ y = v := by
      rw [hchoice]
      split_ifs
      · exact .inr rfl
      · exact .inl rfl
    have hr : r = vs.foldl (fun acc v => (fminmax true acc v).1) y := by rw [hy]; rfl
    obtain ⟨hin, hmax⟩ := foldl_max hnan hvs
    obtain ⟨hyr, hmax⟩ := List.forall_mem_cons.1 hmax
    rw [← hr] at hin hyr hmax
    refine ⟨?_, List.forall_mem_cons.2 ⟨hle.1.trans hyr, List.forall_mem_cons.2 ⟨hle.2.trans hyr, hmax⟩⟩⟩
    rcases List.mem_cons.1 hin with h | h
    · rcases hmem with hy | hy <;> simp [h, hy]
    · simp [h]

theorem eq_of_rank_le_minus_inf {v : FVal} (hv : v.isNan = false) (h : v.rank ≤ FVal.rank (.inf true)) : v = .inf true := by
  cases v with
  | nan s => cases hv
  | inf u => cases u with
    | true => rfl
    | false => simp [FVal.rank, Prod.Lex.toLex_le_toLex] at h
  | fin n k e => simp [FVal.rank, Prod.Lex.toLex_le_toLex] at h

theorem maxVal_of_nan {vs : List FVal} (h : vs.any (·.isNan) = true) :
    maxVal vs = (.nan false, if vs.any (·.isSnan) then flNv else 0) := if_pos h

/-- With no NaN among them, the greatest value is one of the values and none is above it. -/
theorem maxVal_of_values {vs : List FVal} (h : vs.any (·.isNan) = false) (hne : vs ≠ []) :
    (maxVal vs).1 ∈ vs ∧ (maxVal vs).2 = 0 ∧ ∀ v ∈ vs, ¬(maxVal vs).1.rank < v.rank := by
  have hnan : ∀ v ∈ vs, v.isNan = false := fun v hv => by simpa using List.any_eq_false.1 h v hv
  have hmax : maxVal vs = (vs.foldl (fun acc v => (fminmax true acc v).1) (.inf true), 0) := if_neg (by simp [h])
  obtain ⟨hin, hle⟩ := foldl_max (acc := .inf true) rfl hnan
  obtain ⟨-, hle⟩ := List.forall_mem_cons.1 hle
  rw [hmax]
  refine ⟨?_, rfl, fun v hv => not_lt.2 (hle v hv)⟩
  rcases List.mem_cons.1 hin with hstart | hmem
  · obtain ⟨v, hv⟩ := List.exists_mem_of_ne_nil vs hne
    have hvle := hle v hv
    rw [hstart] at hvle ⊢
    exact eq_of_rank_le_minus_inf (hnan v hv) hvle ▸ hv
  · exact hmem

/-! ### Rows of the view (R56, R210, R215) -/

/-- As `vectorResult_of_mapLanes`, where only the elements of active lanes are known. -/
theorem vectorResult_of_active {s : State} {c : Ctx} (hc : s.ctx? = some c) {i : Instr} {g : Ctx → SlotResult} {pred : BitVec 5}
    {lat d w : Nat} {F : Nat → Nat × Flags} {val : Nat → Nat} {flags : Nat → Flags} (hi : exec i s = runSlot s g)
    (hg : g c = oneWrite (c.writeV lat d (c.active pred) (mapLanes w (c.active pred) F).1 (mapLanes w (c.active pred) F).2))
    (hw : w = 32 ∨ w = 16 ∨ w = 8)
    (hF : ∀ e, e < 2048 / w → (c.active pred).getLsbD (e * w / 32) = true → F e = (val e, flags e)) :
    VectorResult s c i pred 0 lat d w val flags := by
  refine ⟨_, _, hi.trans (runSlot_done hc hg), fun e he ha => ?_, fun b => ?_⟩
  · have h := el_mapLanes hw (c.active pred) F he ha
    rwa [hF e he ha] at h
  · rw [flags_mapLanes]
    exact exists_congr fun e => and_congr_right fun he => and_congr_right fun ha => by rw [hF e he ha]

theorem fmtOf_bits (v : BitVec 4) : 8 * (fmtOf v).bytes = 32 ∨ 8 * (fmtOf v).bytes = 16 := by
  unfold fmtOf
  split_ifs <;> simp [Fmt.bytes]

/-- The rows of a view that R55 allows, of elements of 32 or 16 bits, are as long as one another. -/
theorem cols_mul_rows {x : Warp} (hview : bitsN x.shape 5 2 ≤ 6 + bitsN x.shape 1 0) (hw : x.ebits = 32 ∨ x.ebits = 16) :
    2048 / x.ebits / x.rows * x.rows = 2048 / x.ebits := by
  refine Nat.div_mul_cancel ?_
  unfold Warp.ebits esizeBits at hw ⊢
  unfold Warp.rows
  split_ifs at hw ⊢ with h0 h1
  · exact Nat.pow_dvd_pow 2 (n := 6) (by omega)
  · exact Nat.pow_dvd_pow 2 (n := 7) (by omega)
  · omega

/-- An element's row is one of the view's, and lies within the register. -/
theorem row_bounds {n rows cols e : Nat} (h : cols * rows = n) (he : e < n) :
    0 < cols ∧ e / cols < rows ∧ (e / cols + 1) * cols ≤ n := by
  have hc : 0 < cols := Nat.pos_of_ne_zero (by rintro rfl; omega)
  have hi : e / cols < rows := (Nat.div_lt_iff_lt_mul hc).2 (by rw [Nat.mul_comm, h]; exact he)
  refine ⟨hc, hi, ?_⟩
  rw [← h, Nat.mul_comm cols]
  exact Nat.mul_le_mul_right cols hi

/-- The model's list of a row's active elements. -/
theorem rowOf_eq_filter {act : Mask} {w cols e : Nat} (hc : 0 < cols) (he : (e / cols + 1) * cols ≤ 2048 / w) :
    ((List.range cols).map (e / cols * cols + ·)).filter (fun i => act.getLsbD (laneOf w i)) = rowOf act w cols e := by
  rw [← filter_range_row hc he, List.filter_filter, rowOf]
  exact List.filter_congr fun i _ => Bool.and_comm ..

theorem getD_map_range {α : Type} (g : Nat → α) (d : α) {n i : Nat} (h : i < n) : ((List.range n).map g).getD i d = g i := by
  rw [List.getD_eq_getElem _ _ (by simpa using h), List.getElem_map, List.getElem_range]

section
variable {s : State} {c : Ctx} (hc : s.ctx? = some c) (sl : VSlot) (f : R3)
include hc

/-- VRED gives each active element what its row's active elements reduce to (R210). -/
theorem vred_result {i : Instr} {g : Ctx → SlotResult} {red : List FVal → FVal × Flags} (hi : exec i s = runSlot s g)
    (hg : g c = vredRun sl f red c)
    (hview : bitsN c.w.shape 5 2 ≤ 6 + bitsN c.w.shape 1 0) (hw : c.active f.pred = 0 ∨ 8 * (fmtOf f.variant).bytes = c.w.ebits) :
    let k := fmtOf f.variant
    let w := 8 * k.bytes
    let vals (e : Nat) : List FVal :=
      (rowOf (c.active f.pred) w (2048 / w / c.w.rows) e).map fun i => valueOf c k (source c sl w f.a i)
    VectorResult s c i f.pred 0 4 f.d.toNat w (fun e => (formed c k (red (vals e))).1) fun e => (formed c k (red (vals e))).2 := by
  intro k w vals
  refine vectorResult_of_active hc hi (hg.trans (if_neg ?_)) (fmt_bits k) fun e he ha => ?_
  · exact fun h => hw.elim h.1 h.2
  · have hwe : w = c.w.ebits := hw.resolve_left (active_ne_zero ha)
    have hbits := fmtOf_bits f.variant
    have hcols : 2048 / w / c.w.rows * c.w.rows = 2048 / w := by
      rw [hwe]
      exact cols_mul_rows hview (by rwa [← hwe])
    obtain ⟨hpos, hrow, hend⟩ := row_bounds hcols he
    rw [getD_map_range _ _ hrow, rowOf_eq_filter hpos hend]
    refine congrArg (fun vs => formed c k (red vs)) (List.map_congr_left fun j hj => ?_)
    rw [el_vop sl (fmt_bits k) f.a (List.mem_range.1 (List.mem_filter.1 hj).1)]
    rfl

theorem vred_faults {i : Instr} {g : Ctx → SlotResult} {red : List FVal → FVal × Flags} (hi : exec i s = runSlot s g)
    (hg : g c = vredRun sl f red c)
    (ha : c.active f.pred ≠ 0) (hw : 8 * (fmtOf f.variant).bytes ≠ c.w.ebits) : exec i s = faultOut s c 0x0C10 c.w.shape :=
  hi.trans (runSlot_fault hc (hg.trans (if_pos ⟨ha, hw⟩)))

/-- KSCAN gives each active element the sum of its row up to it (R100, R215). -/
theorem execKscan_result (hview : bitsN c.w.shape 5 2 ≤ 6 + bitsN c.w.shape 1 0) (hw : c.active f.pred = 0 ∨ c.w.ebits = 32) :
    let act := c.active f.pred
    let cols := 64 / c.w.rows
    let upTo (e : Nat) : List FVal := (List.range (e % cols + 1)).map fun j =>
      let i := e / cols * cols + j
      if act.getLsbD i then valueOf c .b32 (source c sl 32 f.a i) else real false 0 0
    VectorResult s c (.kscan sl f) f.pred 0 6 f.d.toNat 32 (fun e => (formed c .b32 (exactSum c.w.mode.plain (upTo e))).1)
      fun e => (formed c .b32 (exactSum c.w.mode.plain (upTo e))).2 := by
  intro act cols upTo
  refine vectorResult_of_active hc (exec_kscan sl f s) (if_neg ?_) (.inl rfl) fun e he ha => ?_
  · exact fun h => hw.elim h.1 h.2
  · have h32 : c.w.ebits = 32 := hw.resolve_left (active_ne_zero ha)
    have hcols : cols * c.w.rows = 64 := by
      have h := cols_mul_rows hview (.inl h32)
      rwa [h32] at h
    obtain ⟨hpos, hrow, hend⟩ := row_bounds hcols he
    have hcol : e % cols < cols := Nat.mod_lt _ hpos
    rw [getD_map_range _ _ hrow, prefixSums, getD_map_range _ _ (by simpa using hcol), ← List.map_take, List.take_range,
      min_eq_left (Nat.succ_le_of_lt hcol)]
    refine congrArg (fun vs => formed c .b32 (exactSum c.w.mode.plain vs)) (List.map_congr_left fun j hj => ?_)
    have hj : j < cols := (List.mem_range.1 hj).trans_le hcol
    have hi : e / cols * cols + j < 2048 / 32 := by
      rw [Nat.add_mul, Nat.one_mul] at hend
      omega
    exact if_congr Iff.rfl (congrArg (Fmt.b32.decode c.w.ftz) (el_vop sl (.inl rfl) f.a hi)) rfl

theorem execKscan_faults (ha : c.active f.pred ≠ 0) (hw : c.w.ebits ≠ 32) : exec (.kscan sl f) s = faultOut s c 0x0C10 c.w.shape :=
  (exec_kscan sl f s).trans (runSlot_fault hc (if_pos ⟨ha, hw⟩))

end

/-- Settles O19: VRED and KSCAN by the rows of the view, and what their sums and greatest values are. -/
theorem rowReductionsAndPrefixSums : Obligations.RowReductionsAndPrefixSums := by
  unfold Obligations.RowReductionsAndPrefixSums
  refine ⟨fun s c sl f hc hview => ?_, fun m vs => ?_⟩
  · have hadd := exec_vredAdd sl f s
    have hmax := exec_vredMax sl f s
    exact ⟨fun hw => ⟨vred_result hc sl f hadd rfl hview hw, vred_result hc sl f hmax rfl hview hw⟩,
      fun ha hw => ⟨vred_faults hc sl f hadd rfl ha hw, vred_faults hc sl f hmax rfl ha hw⟩,
      execKscan_result hc sl f hview, execKscan_faults hc sl f⟩
  · intro sum total signals below
    refine ⟨fun h => ⟨exactSum_of_nan m h, maxVal_of_nan h⟩, fun h => ⟨exactSum_of_infs m h, fun neg => exactSum_of_inf m h,
      exactSum_of_finite m h, fun hne => ?_⟩⟩
    have hnan : ∀ v ∈ vs, v.isNan = false := fun v hv => by simpa using List.any_eq_false.1 h v hv
    obtain ⟨hin, hfl, hle⟩ := maxVal_of_values h hne
    exact ⟨hin, hfl, fun v hv hb => hle v hv ((below_iff_rank (hnan _ hin) (hnan v hv)).1 hb)⟩

end Sys2Proof.Machine

/-! PROOFS. Rounding in every mode, stochastic rounding among them, into the wide and the P3109 formats and into integers
(spec/03_numbers.md R81 to R90). -/

namespace Sys2Proof.Machine

open Sys2Proof.Claims

/-! ### Stochastic rounding to whole numbers (R84) -/

/-- The floor that stochastic rounding starts from, and the random numbers for which it goes up. -/
theorem roundInt_floor_stochastic (r : Nat) (neg : Bool) (n : Nat) {d : Nat} (hd : d ≠ 0) (s : Int) (odd : Nat → Bool) :
    let x : ℚ := n / d * 2 ^ s
    let o := roundInt .stochastic r neg n d s odd
    ∃ f : Nat, (f : ℚ) ≤ x ∧ x < f + 1 ∧ (o.2 = true ↔ x ≠ f) ∧ o.1 = if (r : Int) < ⌊(x - f) * 2 ^ 16⌋ then f + 1 else f := by
  intro x o
  obtain ⟨num, hnum⟩ : ∃ num, num = n * 2 ^ s.toNat := ⟨_, rfl⟩
  obtain ⟨den, hden⟩ : ∃ den, den = d * 2 ^ (-s).toNat := ⟨_, rfl⟩
  have hpos : 0 < den := by rw [hden]; positivity
  have hdq : (0 : ℚ) < den := by exact_mod_cast hpos
  have ho : o = if num % den = 0 then (num / den, false)
      else (if decide (r < num % den * 2 ^ 16 / den) then num / den + 1 else num / den, true) := by
    simp only [o, roundInt_eq, ← hnum, ← hden, remainderUp]
  have hx : x = (num / den : Nat) + (num % den : Nat) / den := by
    have hdm : ((den * (num / den) + num % den : Nat) : ℚ) = num := by rw [Nat.div_add_mod]
    have hnd : x = num / den := by
      simp only [x, hnum, hden, ← two_pow_toNat_div (K := ℚ) s]
      push_cast
      ring
    rw [hnd, ← hdm]
    push_cast
    field_simp
  have hlt : ((num % den : Nat) : ℚ) / den < 1 := by
    rw [div_lt_one hdq]
    exact_mod_cast Nat.mod_lt _ hpos
  have hz : x ≠ (num / den : Nat) ↔ num % den ≠ 0 := by simp [hx, hdq.ne']
  have hfloor : ⌊(x - (num / den : Nat)) * 2 ^ 16⌋ = ((num % den * 2 ^ 16 / den : Nat) : Int) := by
    have h : (x - (num / den : Nat)) * 2 ^ 16 = (num % den * 2 ^ 16 : Nat) / (den : Nat) := by
      rw [hx, add_sub_cancel_left, div_mul_eq_mul_div, Nat.cast_mul, Nat.cast_pow, Nat.cast_ofNat]
    rw [h, Rat.floor_natCast_div_natCast, ← Int.natCast_div]
  refine ⟨num / den, by rw [hx]; simp; positivity, by rw [hx]; linarith, ?_⟩
  rw [hz, hfloor, ho, if_congr Nat.cast_lt rfl rfl]
  by_cases h0 : num % den = 0 <;> simp [h0]

/-- Stochastic rounding at the spacing of the grid chooses between the numbers of the grid beside x (R84). -/
theorem roundedTo_stochastic {p : Nat} {lo : Option Int} (hp : 1 ≤ p) {r f M : Nat} {q : Int} {x : ℚ} (neg : Bool)
    (hq : ∀ l, lo = some l → l + 1 - p ≤ q) (hf : f < 2 ^ p) (hmin : lo = some (q + p - 1) ∨ 2 ^ (p - 1) ≤ f)
    (h1 : (f : ℚ) ≤ x) (h2 : x < f + 1) (hM : M = if (r : Int) < ⌊(x - f) * 2 ^ 16⌋ then f + 1 else f) :
    RoundedTo p lo .stochastic r (signed neg * (x * 2 ^ q)) (signed neg * (M * 2 ^ q)) := by
  have hpos : (0 : ℚ) < 2 ^ q := by positivity
  have gap (z : ℚ) (hz : OnGrid p lo z) : z ≤ f * 2 ^ q ∨ ((f : ℚ) + 1) * 2 ^ q ≤ z :=
    (onGrid_gap hp hmin hz).imp (div_le_iff₀ hpos).1 (le_div_iff₀ hpos).1
  have hx0 : 0 ≤ x := le_trans (by positivity) h1
  have sign_on {z : ℚ} : OnGrid p lo (signed neg * z) ↔ OnGrid p lo z := by cases neg <;> simp [onGrid_neg_iff]
  have sign_abs {z : ℚ} (hz : 0 ≤ z) : |signed neg * z| = z := by rw [abs_mul, abs_signed, one_mul, abs_of_nonneg hz]
  have hMle : M ≤ f + 1 := by rw [hM]; split_ifs <;> omega
  refine ⟨sign_on.2 (onGrid_mul hq (by omega)), fun hx => ?_, ?_, f * 2 ^ q, ((f + 1 : Nat) : ℚ) * 2 ^ q, by positivity, ?_, ?_,
    onGrid_mul hq hf.le, onGrid_mul hq hf, fun z hz => ?_, fun _ => ?_⟩
  · have hxf : x = f := by
      refine le_antisymm (le_of_mul_le_mul_right ((gap _ (sign_on.1 hx)).resolve_right fun h => ?_) hpos) h1
      exact h2.not_ge (le_of_mul_le_mul_right h hpos)
    rw [hM, hxf]
    simp
  · have hs : signed neg * signed neg = 1 := by cases neg <;> simp
    calc (0 : ℚ) ≤ x * 2 ^ q * (M * 2 ^ q) := by positivity
      _ = signed neg * (x * 2 ^ q) * (signed neg * (M * 2 ^ q)) := by linear_combination (-(x * 2 ^ q * (M * 2 ^ q))) * hs
  · rw [sign_abs (by positivity)]
    exact mul_le_mul_of_nonneg_right h1 hpos.le
  · rw [sign_abs (by positivity)]
    push_cast
    exact mul_le_mul_of_nonneg_right h2.le hpos.le
  · push_cast
    exact gap z hz
  · have hquot : (|signed neg * (x * 2 ^ q)| - f * 2 ^ q) / (((f + 1 : Nat) : ℚ) * 2 ^ q - f * 2 ^ q) = x - f := by
      rw [sign_abs (by positivity)]
      push_cast
      field_simp
      ring
    rw [hquot, sign_abs (by positivity), hM]
    split_ifs <;> rfl

section
variable (m : Mode) (r : Nat) (neg : Bool) (n : Nat) {d : Nat} (hd : d ≠ 0) {odd : Nat → Bool} (hodd : ∀ k, odd k = (k % 2 == 1))
include hd hodd

/-- As `roundInt_le`, in every mode. -/
theorem roundInt_le_any (s : Int) {b : Nat} (h : (n : ℚ) / d * 2 ^ s ≤ b) : (roundInt m r neg n d s odd).1 ≤ b := by
  by_cases hm : m = .stochastic
  · subst hm
    obtain ⟨f, h1, -, -, ho⟩ := roundInt_floor_stochastic r neg n hd s odd
    have hfb : f ≤ b := by exact_mod_cast h1.trans h
    rw [ho]
    split_ifs with hg
    · have hpos : 0 < ⌊((n : ℚ) / d * 2 ^ s - f) * 2 ^ 16⌋ := by omega
      have hlt : (f : ℚ) < b := by linarith [Int.floor_pos.1 hpos]
      exact_mod_cast hlt
    · exact hfb
  · exact roundInt_le hm r neg n hd hodd s h

theorem le_roundInt_any (s : Int) {b : Nat} (h : (b : ℚ) ≤ n / d * 2 ^ s) : b ≤ (roundInt m r neg n d s odd).1 := by
  by_cases hm : m = .stochastic
  · subst hm
    obtain ⟨f, -, h2, -, ho⟩ := roundInt_floor_stochastic r neg n hd s odd
    have hb : b < f + 1 := by exact_mod_cast h.trans_lt h2
    rw [ho]
    split_ifs <;> omega
  · exact le_roundInt hm r neg n hd hodd s h

/-- As `roundInt_roundedTo`, in every mode. -/
theorem roundInt_roundedTo_any {p : Nat} {lo : Option Int} (hp : 1 ≤ p) {e q : Int} (hq : ∀ l, lo = some l → l + 1 - p ≤ q)
    (hlt : (n : ℚ) / d * 2 ^ e < 2 ^ p * 2 ^ q) (hmin : lo = some (q + p - 1) ∨ 2 ^ (p - 1) * 2 ^ q ≤ (n : ℚ) / d * 2 ^ e) :
    let o := roundInt m r neg n d (e - q) odd
    let x := signed neg * (n / d * 2 ^ e)
    let y := signed neg * (o.1 * 2 ^ q)
    RoundedTo p lo m r x y ∧ (o.2 = true ↔ y ≠ x) := by
  by_cases hm : m = .stochastic
  · subst hm
    have hpos : (0 : ℚ) < 2 ^ q := by positivity
    have hx : (n : ℚ) / d * 2 ^ e = n / d * 2 ^ (e - q) * 2 ^ q := by rw [mul_assoc, ← zpow_add₀ two_ne_zero, sub_add_cancel]
    rw [hx] at hlt hmin ⊢
    obtain ⟨f, h1, h2, ho2, ho1⟩ := roundInt_floor_stochastic r neg n hd (e - q) odd
    have hf : f < 2 ^ p := by exact_mod_cast h1.trans_lt (lt_of_mul_lt_mul_right hlt hpos.le)
    have hmin' : lo = some (q + p - 1) ∨ 2 ^ (p - 1) ≤ f := hmin.imp_right fun h => by
      have hb : 2 ^ (p - 1) < f + 1 := by exact_mod_cast (le_of_mul_le_mul_right h hpos).trans_lt h2
      omega
    refine ⟨roundedTo_stochastic hp neg hq hf hmin' h1 h2 ho1, ?_⟩
    have hs : signed neg ≠ 0 := by cases neg <;> simp
    rw [ho2, ne_eq, ne_eq, mul_right_inj' hs, mul_left_inj' hpos.ne', not_iff_not, ho1]
    split_ifs with hg
    · push_cast
      refine ⟨fun h => absurd hg ?_, fun h => absurd h2 (by linarith)⟩
      rw [h]
      simp
    · exact eq_comm
  · exact roundInt_roundedTo hm r neg n hd hodd hp hq hlt hmin

end

/-! ### Rounding into a format, in every mode (R82, R84, R89) -/

/-- Rounding takes the spacing of the format at once but where a wide one rounds a small number stochastically (log 19). -/
theorem round_eq_any (k : Fmt) (m : Mode) (r : Nat) (neg : Bool) {n : Nat} (hn : n ≠ 0) (e : Int)
    (hs : m = .stochastic → k.wide = true → (2 : ℚ) ^ k.emin ≤ n * 2 ^ e) : k.round m r neg n 1 e =
    let top := (n.log2 : Int) + e
    let u := k.roundAt m r neg n e (top - k.frac)
    let q := max top k.emin - k.frac
    let v := k.roundAt m r neg n e q
    { m := v.1, q := q, inexact := v.2, tiny := ltPow u.1 (top - k.frac) 1 k.emin,
      large := ltPow (k.plain k.maxCode).1 (k.plain k.maxCode).2 u.1 (top - k.frac) } := by
  have htop : ¬(m = .stochastic ∧ k.wide = true ∧ (n.log2 : Int) + e < k.emin) := by
    rintro ⟨hm, hw, hlt⟩
    have h := (hs hm hw).trans_lt (binade_of_log2 hn e).2
    have := (zpow_lt_zpow_iff_right₀ (one_lt_two : (1 : ℚ) < 2)).1 h
    omega
  simp only [Fmt.round, log2Q_one hn, Fmt.roundAt, if_neg htop]

section
variable {k : Fmt} (hk : k.frac ≠ 0) (m : Mode) (r : Nat) (neg : Bool) (n : Nat) (e : Int)
include hk

/-- A format with fraction bits sends a tie to the even one. -/
theorem tie_parity (q : Int) (j : Nat) : (if k.frac = 0 ∧ j ≠ 0 then (q + k.bias) % 2 != 0 else j % 2 == 1) = (j % 2 == 1) := by
  simp [hk]

theorem roundAt_le_any {q : Int} {b : Nat} (h : (n : ℚ) * 2 ^ e ≤ b * 2 ^ q) : (k.roundAt m r neg n e q).1 ≤ b := by
  refine roundInt_le_any m r neg n one_ne_zero (tie_parity hk q) _ ?_
  rwa [Nat.cast_one, div_one, zpow_sub₀ two_ne_zero, ← mul_div_assoc, div_le_iff₀ (by positivity)]

theorem le_roundAt_any {q : Int} {b : Nat} (h : (b : ℚ) * 2 ^ q ≤ n * 2 ^ e) : b ≤ (k.roundAt m r neg n e q).1 := by
  refine le_roundInt_any m r neg n one_ne_zero (tie_parity hk q) _ ?_
  rwa [Nat.cast_one, div_one, zpow_sub₀ two_ne_zero, ← mul_div_assoc, le_div_iff₀ (by positivity)]

theorem roundAt_roundedTo_any {lo : Option Int} {q : Int} (hq : ∀ l, lo = some l → l - k.frac ≤ q)
    (hlt : (n : ℚ) * 2 ^ e < 2 ^ (k.frac + 1) * 2 ^ q) (hmin : lo = some (q + k.frac) ∨ 2 ^ k.frac * 2 ^ q ≤ (n : ℚ) * 2 ^ e) :
    let o := k.roundAt m r neg n e q
    let y := worth (.fin neg o.1 q)
    RoundedTo (k.frac + 1) lo m r (worth (.fin neg n e)) y ∧ (o.2 = true ↔ y ≠ worth (.fin neg n e)) := by
  have h := roundInt_roundedTo_any m r neg n one_ne_zero (tie_parity hk q) (p := k.frac + 1) (lo := lo) (by omega) (e := e) (q := q)
    (fun l hl => by have := hq l hl; push_cast; omega) (by simpa using hlt)
    (hmin.imp (fun h => by rw [h]; push_cast; congr 1; ring) (fun h => by simpa using h))
  simp only [Nat.cast_one, div_one, ← mul_assoc] at h
  exact h

variable {n} (hn : n ≠ 0) (hs : m = .stochastic → k.wide = true → (2 : ℚ) ^ k.emin ≤ n * 2 ^ e)
include hn hs

/-- As `round_spec`, in every mode and for every format with fraction bits. -/
theorem round_spec_any :
    let o := k.round m r neg n 1 e
    let x := worth (.fin neg n e)
    let y := worth (.fin neg o.m o.q)
    let lo := k.emin
    ∃ z, RoundedTo (k.frac + 1) none m r x z ∧ RoundedTo (k.frac + 1) (some lo) m r x y ∧ (o.inexact = true ↔ y ≠ x) ∧
      (o.tiny = true ↔ |z| < 2 ^ lo) ∧ (o.large = true ↔ k.maxMag < |z|) ∧ o.m ≤ 2 ^ (k.frac + 1) ∧ lo - k.frac ≤ o.q ∧
      ((z = y ∧ 2 ^ k.frac ≤ o.m ∧ (2 : ℚ) ^ lo ≤ n * 2 ^ e) ∨
        (o.q = lo - k.frac ∧ o.m ≤ 2 ^ k.frac ∧ |z| ≤ 2 ^ lo ∧ (n : ℚ) * 2 ^ e < 2 ^ lo)) := by
  obtain ⟨h1, h2⟩ := binade_of_log2 hn e
  rw [round_eq_any k m r neg hn e hs]
  generalize (n.log2 : Int) + e = top at h1 h2 ⊢
  have spacing (q : Int) (a : Nat) : (2 : ℚ) ^ a * 2 ^ q = 2 ^ (q + a) := by rw [← zpow_natCast, ← zpow_add₀ two_ne_zero, add_comm]
  have hlt {q : Int} (h : top ≤ q + k.frac) : (n : ℚ) * 2 ^ e < 2 ^ (k.frac + 1) * 2 ^ q := by
    rw [spacing]
    exact h2.trans_le (zpow_le_zpow_right₀ one_le_two (by push_cast; omega))
  have hge : (2 : ℚ) ^ k.frac * 2 ^ (top - k.frac) ≤ n * 2 ^ e := by rwa [spacing, sub_add_cancel]
  have hle {q : Int} (h : top ≤ q + k.frac) : (k.roundAt m r neg n e q).1 ≤ 2 ^ (k.frac + 1) :=
    roundAt_le_any hk m r neg n e (by push_cast; exact (hlt h).le)
  obtain ⟨hz, -⟩ := roundAt_roundedTo_any hk m r neg n e (lo := none) (q := top - k.frac) (by simp) (hlt (by omega)) (.inr hge)
  have tiny_iff (u : Nat) : ltPow u (top - k.frac) 1 k.emin = true ↔ |worth (.fin neg u (top - k.frac))| < 2 ^ k.emin := by
    rw [ltPow_iff, abs_worth_fin, Nat.cast_one, one_mul]
  have large_iff (u : Nat) : ltPow (k.plain k.maxCode).1 (k.plain k.maxCode).2 u (top - k.frac) = true ↔
      k.maxMag < |worth (.fin neg u (top - k.frac))| := by
    rw [ltPow_iff, abs_worth_fin, Fmt.maxMag]
  refine ⟨_, hz, ?_⟩
  dsimp only
  rw [tiny_iff, large_iff]
  rcases le_or_gt k.emin top with hc | hc
  · rw [max_eq_left hc]
    obtain ⟨hy, hinexact⟩ := roundAt_roundedTo_any hk m r neg n e (lo := some k.emin) (q := top - k.frac)
      (fun l hl => by cases hl; omega) (hlt (by omega)) (.inr hge)
    exact ⟨hy, hinexact, Iff.rfl, Iff.rfl, hle (by omega), by omega,
      .inl ⟨rfl, le_roundAt_any hk m r neg n e (by push_cast; exact hge), (zpow_le_zpow_right₀ one_le_two hc).trans h1⟩⟩
  · rw [max_eq_right hc.le]
    have hx : (n : ℚ) * 2 ^ e < 2 ^ k.emin := h2.trans_le (zpow_le_zpow_right₀ one_le_two (by omega))
    obtain ⟨hy, hinexact⟩ := roundAt_roundedTo_any hk m r neg n e (lo := some k.emin) (q := k.emin - k.frac)
      (fun l hl => by cases hl; omega) (hlt (by omega)) (.inl (by simp))
    refine ⟨hy, hinexact, Iff.rfl, Iff.rfl, hle (by omega), by omega, .inr ⟨rfl, ?_, ?_, hx⟩⟩
    · refine roundAt_le_any hk m r neg n e ?_
      push_cast
      rw [spacing, sub_add_cancel]
      exact hx.le
    · rw [abs_worth_fin]
      calc ((k.roundAt m r neg n e (top - k.frac)).1 : ℚ) * 2 ^ (top - k.frac) ≤ 2 ^ (k.frac + 1) * 2 ^ (top - k.frac) :=
            mul_le_mul_of_nonneg_right (by exact_mod_cast hle (by omega)) (by positivity)
        _ = 2 ^ (top + 1) := by rw [spacing]; congr 1; push_cast; ring
        _ ≤ 2 ^ k.emin := zpow_le_zpow_right₀ one_le_two (by omega)

end

end Sys2Proof.Machine

/-! PROOFS. Conversions of values into each format (spec/03_numbers.md R81 to R90). -/

namespace Sys2Proof.Machine

open Sys2Proof.Claims

/-! ### Magnitudes of codes (R79, R86) -/

/-- The magnitude of a finite code. -/
def Fmt.mag (k : Fmt) (c : Nat) : ℚ := (k.plain c).1 * 2 ^ (k.plain c).2

/-- A magnitude by exponent field and fraction; the fields 0 and 1 have one spacing. -/
theorem mag_fields (k : Fmt) (ex : Nat) {t : Nat} (ht : t < 2 ^ k.frac) :
    k.mag (ex * 2 ^ k.frac + t) = (if ex = 0 then (t : ℚ) else 2 ^ k.frac + t) * 2 ^ ((max ex 1 : Nat) - (k.bias : Int) - k.frac) := by
  have hmod : (ex * 2 ^ k.frac + t) % 2 ^ k.frac = t := by rw [mul_comm, Nat.mul_add_mod, Nat.mod_eq_of_lt ht]
  have hdiv : (ex * 2 ^ k.frac + t) / 2 ^ k.frac = ex := by
    rw [mul_comm, Nat.mul_add_div (by positivity), Nat.div_eq_of_lt ht, add_zero]
  simp only [Fmt.mag, Fmt.plain, hmod, hdiv]
  by_cases h0 : ex = 0
  · simp [h0, Fmt.emin]
  · simp [h0, max_eq_left (Nat.one_le_iff_ne_zero.2 h0)]

/-- A greater code has a greater magnitude. -/
theorem mag_strictMono (k : Fmt) : StrictMono k.mag := by
  refine strictMono_nat_of_lt_succ fun c => ?_
  have hc : c = c / 2 ^ k.frac * 2 ^ k.frac + c % 2 ^ k.frac := by rw [mul_comm, Nat.div_add_mod]
  have ht : c % 2 ^ k.frac < 2 ^ k.frac := Nat.mod_lt _ (by positivity)
  generalize c / 2 ^ k.frac = ex at hc
  generalize c % 2 ^ k.frac = t at hc ht
  subst hc
  rw [mag_fields k ex ht]
  by_cases hlast : t + 1 < 2 ^ k.frac
  · rw [Nat.add_assoc, mag_fields k ex hlast]
    refine mul_lt_mul_of_pos_right ?_ (by positivity)
    split_ifs <;> push_cast <;> linarith
  · have hcarry : ex * 2 ^ k.frac + t + 1 = (ex + 1) * 2 ^ k.frac + 0 := by rw [add_mul, one_mul]; omega
    have htq : (t : ℚ) < 2 ^ k.frac := by exact_mod_cast ht
    rw [hcarry, mag_fields k (ex + 1) (by positivity), if_neg (Nat.succ_ne_zero ex), Nat.cast_zero, add_zero]
    by_cases h0 : ex = 0
    · rw [if_pos h0, h0]
      exact mul_lt_mul_of_pos_right htq (by positivity)
    · rw [if_neg h0, max_eq_left (by omega), max_eq_left (by omega),
        show ((ex + 1 : Nat) : Int) - k.bias - k.frac = 1 + (ex - k.bias - k.frac) by push_cast; ring, zpow_add₀ two_ne_zero,
        zpow_one, ← mul_assoc]
      exact mul_lt_mul_of_pos_right (by linarith) (by positivity)

/-- A number that a format holds, packed, has its own magnitude. -/
theorem mag_pack {k : Fmt} {m : Nat} {q : Int} (hm : m ≤ 2 ^ (k.frac + 1)) (hq : k.emin - k.frac ≤ q)
    (hn : 2 ^ k.frac ≤ m ∨ q = k.emin - k.frac) : k.mag (k.pack m q) = m * 2 ^ q := by
  rcases pack_cases hm hq hn with ⟨hc, hlt, rfl⟩ | ⟨ex, sig, hc, he, h1, h2, hv⟩
  · rw [hc, Fmt.mag, plain_subnormal hlt]
  · rw [hc, Fmt.mag, plain_normal he h1 h2, hv]

/-! ### Wide formats (R81 to R84) -/

/-- The flags of rounding a number (R81, R82). -/
theorem rounded_flags {inexact tiny : Bool} {x y : ℚ} {p : Prop} [Decidable p] (hi : inexact = true ↔ y ≠ x) (ht : tiny = true ↔ p) :
    (flIf inexact flNx ||| flIf (inexact && tiny) flUf : Flags) = if y = x then 0 else if p then flNx ||| flUf else flNx := by
  by_cases h : inexact = true
  · rw [if_neg (hi.1 h)]
    simp only [← ht]
    by_cases h' : tiny = true <;> simp [h, h', flIf]
  · rw [if_pos (not_not.1 (mt hi.2 h))]
    simp [h, flIf]

theorem convert_wide {k : Fmt} (hk : k.wide = true) (m : Mode) (r : Nat) (ftz sat : Bool) (v : FVal) :
    k.convert m r ftz sat v = k.ofVal m r ftz v := by
  cases k with
  | i8 | u8 | p8 => cases hk
  | _ => rfl

/-- A number no smaller than the least normal takes a wide format's word in every mode. -/
theorem wideResult_of_normal {k : Fmt} (hk : k.wide = true) (m : Mode) (r : Nat) (ftz neg : Bool) {n : Nat} (hn : n ≠ 0) {e : Int}
    (hx : (2 : ℚ) ^ k.emin ≤ n * 2 ^ e) : WideResult k m r ftz (worth (.fin neg n e)) (k.ofVal m r ftz (.fin neg n e)) := by
  obtain ⟨hp, hlo, hfrac, hmax⟩ := wideShape_eq hk
  obtain ⟨-, hinf, hmaxc⟩ := infCode_eq hk
  obtain ⟨z, hz, hy, hinexact, htiny, hlarge, hle, hq, hcase⟩ := round_spec_any hfrac m r neg e hn fun _ _ => hx
  obtain ⟨rfl, hm, -⟩ := hcase.resolve_right fun h => h.2.2.2.not_ge hx
  obtain ⟨⟨p, lo, hi⟩, hs⟩ : ∃ s, s = wideShape k := ⟨_, rfl⟩
  rw [← hs] at hp hlo hmax
  obtain rfl : p = k.frac + 1 := hp
  obtain rfl : lo = k.emin := hlo
  have hneg : decide (worth (.fin neg n e) < 0) = neg := by rw [Bool.eq_iff_iff, decide_eq_true_iff, worth_neg_iff neg e hn]
  have hover : infOver m neg = overInf m neg := by cases m <;> rfl
  unfold WideResult
  rw [← hs]
  dsimp only at hmax ⊢
  rw [hneg, Nat.add_sub_cancel, show (2 ^ (8 * k.bytes - 1) : Nat) = k.signBit from rfl]
  refine ⟨_, _, hy, hz, ?_⟩
  push_cast at hmax ⊢
  rw [hmax, ← Fmt.maxMag, Fmt.ofVal, Fmt.encodeWide, if_neg hn]
  generalize k.round m r neg n 1 e = o at hinexact htiny hlarge hle hq hm ⊢
  have hnormal : ¬|worth (.fin neg o.m o.q)| < 2 ^ k.emin := by
    rw [abs_worth_fin, not_lt]
    calc (2 : ℚ) ^ k.emin = 2 ^ k.frac * 2 ^ (k.emin - k.frac) := by rw [← zpow_natCast, ← zpow_add₀ two_ne_zero, add_sub_cancel]
      _ ≤ o.m * 2 ^ o.q := mul_le_mul (by exact_mod_cast hm) (zpow_le_zpow_right₀ one_le_two hq) (by positivity) (by positivity)
  by_cases hl : o.large = true
  · rw [if_pos hl, if_pos (hlarge.1 hl), hover]
    have hpos := infCode_pos hk
    congr 1
    split_ifs <;> omega
  · rw [if_neg hl, if_neg (mt hlarge.2 hl), if_neg fun h => hnormal h.2, if_neg fun h => hnormal (htiny.1 h.2)]
    have hmax' : (o.m : ℚ) * 2 ^ o.q ≤ k.maxMag := by rw [← abs_worth_fin neg]; exact not_lt.1 (mt hlarge.2 hl)
    obtain ⟨hc, hw, -⟩ := plain_pack hk hle hq (.inl hm) hmax'
    refine ⟨?_, rounded_flags hinexact htiny⟩
    have h := decode_sign_add hk neg hc
    rwa [hw, ← mul_assoc, ← worth_fin] at h

/-! ### P3109 formats (R86 to R89) -/

section
variable {sg fn : Bool} {p : Nat}

theorem maxCode_p8 : (Fmt.p8 sg fn p).maxCode =
    (if sg then 0x7F else 0xFF) - (if sg && fn then 0 else if sg || fn then 1 else 2) := by
  cases sg <;> cases fn <;> rfl

/-- The value of a sign, of a format that has one, and a fn code; only +0 is a zero (R86, R87). -/
theorem decode_p8 {neg : Bool} (hneg : neg = true → sg = true) {c : Nat} (hc : c ≤ (Fmt.p8 sg fn p).maxCode)
    (h0 : neg = true → c ≠ 0) : (Fmt.p8 sg fn p).decode false ((if neg then 0x80 else 0) + c) =
      .fin neg ((Fmt.p8 sg fn p).plain c).1 ((Fmt.p8 sg fn p).plain c).2 := by
  rw [maxCode_p8] at hc
  cases sg with
  | false =>
    obtain rfl : neg = false := Bool.eq_false_iff.2 fun h => Bool.false_ne_true (hneg h)
    have h1 : c ≠ 0xFF := by cases fn <;> simp at hc <;> omega
    have h2 : fn = false → c ≠ 0xFE := by rintro rfl; simp at hc; omega
    cases fn <;> simp [Fmt.decode, h1, h2]
  | true =>
    have hc' : c ≤ 0x7F := by cases fn <;> simp at hc <;> omega
    have h2 : fn = false → c ≠ 0x7F := by rintro rfl; simp at hc; omega
    cases neg with
    | false => cases fn <;> simp [Fmt.decode, h2, show c ≠ 0x80 by omega, Nat.mod_eq_of_lt (show c < 128 by omega), show c < 128 by omega]
    | true => cases fn <;> simp [Fmt.decode, h2, h0, Nat.mod_eq_of_lt (show c < 128 by omega)]

/-- The code of an infinity follows that of the largest value (R87). -/
theorem infinity_p8 {neg : Bool} (hneg : neg = true → sg = true) (hfn : fn = false) :
    (if neg then 0xFF else if sg then 0x7F else 0xFE) = (if neg then 0x80 else 0) + (Fmt.p8 sg fn p).maxCode + 1 := by
  subst hfn
  cases neg with
  | true => rw [hneg rfl]; rfl
  | false => cases sg <;> rfl

variable (hp2 : 2 ≤ p) (hp7 : p ≤ 7)
include hp2 hp7

/-- The least normal of a format is not above its largest value. -/
theorem emin_le_maxMag : (2 : ℚ) ^ (Fmt.p8 sg fn p).emin ≤ (Fmt.p8 sg fn p).maxMag := by
  have hleast : (Fmt.p8 sg fn p).mag (1 * 2 ^ (Fmt.p8 sg fn p).frac + 0) = 2 ^ (Fmt.p8 sg fn p).emin := by
    rw [mag_fields _ _ (by positivity), if_neg one_ne_zero, Nat.cast_zero, add_zero, ← zpow_natCast, ← zpow_add₀ two_ne_zero, Fmt.emin]
    congr 1
    simp
  rw [← hleast]
  refine (mag_strictMono _).monotone ?_
  rw [maxCode_p8, one_mul, add_zero]
  calc 2 ^ (p - 1) ≤ 2 ^ 6 := Nat.pow_le_pow_right (by decide) (by omega)
    _ ≤ _ := by cases sg <;> cases fn <;> decide

/-- What rounding a number that is not 0 to a P3109 format gives, and the code of a result in range. -/
theorem round_p8_spec (m : Mode) (r : Nat) (neg : Bool) {n : Nat} (hn : n ≠ 0) (e : Int) :
    let k := Fmt.p8 sg fn p
    let o := k.round m r neg n 1 e
    let x := worth (.fin neg n e)
    let y := worth (.fin neg o.m o.q)
    ∃ z, RoundedTo p (some k.emin) m r x y ∧ RoundedTo p none m r x z ∧ (o.inexact = true ↔ y ≠ x) ∧
      (o.tiny = true ↔ |z| < 2 ^ k.emin) ∧ (o.large = true ↔ k.maxMag < |y|) ∧
      (o.m ≠ 0 → ¬o.large = true → k.pack o.m o.q ≤ k.maxCode ∧ k.pack o.m o.q ≠ 0 ∧ k.mag (k.pack o.m o.q) = o.m * 2 ^ o.q) := by
  intro k o x y
  have hfrac : k.frac + 1 = p := by simp only [k, Fmt.frac]; omega
  obtain ⟨z, hz, hy, hinexact, htiny, hlarge, hle, hq, hcase⟩ :=
    round_spec_any (k := k) (by omega) m r neg e hn fun _ h => by cases h
  rw [hfrac] at hz hy
  have hlarge' : o.large = true ↔ k.maxMag < |y| := by
    rw [hlarge]
    rcases hcase with ⟨rfl, -, -⟩ | ⟨hq', hm', hz', -⟩
    · rfl
    · have hmaxlo : (2 : ℚ) ^ k.emin ≤ k.maxMag := emin_le_maxMag hp2 hp7
      have hy' : |y| ≤ 2 ^ k.emin := by
        rw [abs_worth_fin, hq', zpow_sub₀ two_ne_zero, zpow_natCast, mul_div_assoc', div_le_iff₀ (by positivity), mul_comm]
        exact mul_le_mul_of_nonneg_left (by exact_mod_cast hm') (by positivity)
      exact ⟨fun h => by linarith, fun h => by linarith⟩
  refine ⟨z, hy, hz, hinexact, htiny, hlarge', fun h0 hl => ?_⟩
  have hmag := mag_pack hle hq (hcase.elim (fun h => .inl h.2.1) fun h => .inr h.1)
  refine ⟨?_, fun h => ?_, hmag⟩
  · rw [← (mag_strictMono k).le_iff_le, hmag, ← abs_worth_fin neg]
    exact not_lt.1 (mt hlarge'.2 hl)
  · rw [h, Fmt.mag, plain_subnormal (by positivity), Nat.cast_zero, zero_mul] at hmag
    exact mul_ne_zero (Nat.cast_ne_zero.2 h0) (zpow_ne_zero _ two_ne_zero) hmag.symm

/-- A number takes a P3109 format's code by R89. -/
theorem smallResult_ofValP8 (m : Mode) (r : Nat) (sat neg : Bool) {n : Nat} (hn : n ≠ 0) (e : Int) :
    SmallResult sg fn p m r sat (worth (.fin neg n e)) ((Fmt.p8 sg fn p).ofValP8 m r sat (.fin neg n e)) := by
  obtain ⟨z, hy, hz, hinexact, htiny, hlarge, hheld⟩ := round_p8_spec (sg := sg) (fn := fn) hp2 hp7 m r neg hn e
  have hlo : 1 - 2 ^ ((if sg then 7 else 8) - p) = (Fmt.p8 sg fn p).emin := by cases sg <;> simp [Fmt.emin, Fmt.bias]
  have hneg : decide (worth (.fin neg n e) < 0) = neg := by rw [Bool.eq_iff_iff, decide_eq_true_iff, worth_neg_iff neg e hn]
  have hover : infOver m neg = overInf m neg := by cases m <;> rfl
  have hnan : (Fmt.p8 sg fn p).nanCode = if sg then 0x80 else 0xFF := by cases sg <;> rfl
  have htop : worth ((Fmt.p8 sg fn p).decode false (Fmt.p8 sg fn p).maxCode) = (Fmt.p8 sg fn p).maxMag := by
    have h := decode_p8 (sg := sg) (fn := fn) (p := p) (neg := false) (fun h => by cases h) le_rfl (fun h => by cases h)
    rw [if_neg Bool.false_ne_true, zero_add] at h
    rw [h, worth_fin, signed_false, one_mul, Fmt.maxMag]
  unfold SmallResult
  dsimp only
  rw [hneg, ← maxCode_p8 (p := p), hlo]
  refine ⟨_, z, hy, hz, ?_⟩
  rw [← rounded_flags hinexact htiny]
  simp only [Fmt.ofValP8, if_neg hn, worth_eq_zero_iff, htop, ← hlarge, hover, hnan, Bool.not_eq_true', Bool.or_eq_true]
  generalize (Fmt.p8 sg fn p).round m r neg n 1 e = o at hheld ⊢
  generalize (flIf o.inexact flNx ||| flIf (o.inexact && o.tiny) flUf) = base
  by_cases h0 : o.m = 0
  · rw [if_pos h0, if_pos h0]
  rw [if_neg h0, if_neg h0]
  by_cases hs : neg = true ∧ sg = false
  · rw [if_pos hs, if_pos hs]
  have hs' : neg = true → sg = true := fun h => by simpa using fun h' => hs ⟨h, h'⟩
  rw [if_neg hs, if_neg hs]
  by_cases hl : o.large = true
  · rw [if_pos hl, if_pos hl, if_congr (P := sg = true ∧ neg = true) (Q := neg = true) ⟨And.right, fun h => ⟨hs' h, h⟩⟩ rfl rfl]
    by_cases h1 : sat = true ∨ overInf m neg = false
    · rw [if_pos h1, if_pos h1]
    rw [if_neg h1, if_neg h1]
    by_cases h2 : fn = true
    · rw [if_pos h2, if_pos h2]
    · rw [if_neg h2, if_neg h2, infinity_p8 hs' (Bool.eq_false_iff.2 h2)]
  rw [if_neg hl, if_neg hl]
  obtain ⟨hc, hc0, hmag⟩ := hheld h0 hl
  refine ⟨⟨_, _, decode_p8 hs' hc fun _ => hc0, ?_⟩, rfl⟩
  rw [decode_p8 hs' hc fun _ => hc0, worth_fin, worth_fin, mul_assoc, mul_assoc]
  exact congrArg _ hmag

end

end Sys2Proof.Machine

/-! PROOFS. Conversions into integers, of zeros, infinities and NaNs, and CVT and PCVTn (spec/03_numbers.md R80, R85 to R90,
spec/07_vector_instructions.md R206 to R209). -/

namespace Sys2Proof.Machine

open Sys2Proof.Claims

/-! ### Integers (R85) -/

/-- The formats of R85, as signed or not. -/
def intFmt (signed : Bool) : Fmt := if signed then .i8 else .u8

/-- A number below 2^63 takes an integer's code by R85. -/
theorem integerResult_convert (sg : Bool) (m : Mode) (r : Nat) (ftz sat neg : Bool) (n : Nat) (e : Int)
    (hx : |worth (.fin neg n e)| < 2 ^ (63 : Nat)) :
    IntegerResult sg m r (worth (.fin neg n e)) ((intFmt sg).convert m r ftz sat (.fin neg n e)) := by
  obtain ⟨o, ho⟩ : ∃ o, o = roundInt m r neg n 1 e fun k => k % 2 == 1 := ⟨_, rfl⟩
  obtain ⟨y, hy⟩ : ∃ y : Int, y = if neg then -(o.1 : Int) else o.1 := ⟨_, rfl⟩
  have hround := roundInt_roundedTo_any m r neg n one_ne_zero (odd := fun k => k % 2 == 1) (fun _ => rfl) (p := 64) (lo := some 63)
    (e := e) (q := 0) (by decide) (fun l hl => by cases hl; decide)
    (by rw [Nat.cast_one, div_one, ← abs_worth_fin neg]; exact hx.trans (by norm_num)) (.inl rfl)
  have hyq : signed neg * (o.1 * 2 ^ (0 : Int)) = (y : ℚ) := by rw [hy]; cases neg <;> simp
  simp only [sub_zero, Nat.cast_one, div_one, ← ho, hyq, ← mul_assoc, ← worth_fin] at hround
  obtain ⟨hrounded, hinexact⟩ := hround
  refine ⟨y, hrounded, ?_⟩
  have hconv (lo hi : Int) (hlo : lo = if sg then -128 else 0) (hhi : hi = if sg then 127 else 255) :
      (intFmt sg).convert m r ftz sat (.fin neg n e) =
        ((max lo (min hi y) % 256).toNat, flIf o.2 flNx ||| flIf (max lo (min hi y) != y) flNv) := by
    subst hlo hhi hy ho
    cases sg <;> rfl
  have hz : (if sg then max (-128) (min 127 y) else max 0 (min 255 y)) =
      max (if sg then (-128 : Int) else 0) (min (if sg then 127 else 255) y) := by cases sg <;> rfl
  rw [hconv _ _ rfl rfl, hz]
  generalize max (if sg then (-128 : Int) else 0) (min (if sg then 127 else 255) y) = z
  have hnx : flIf o.2 flNx = if (y : ℚ) = worth (.fin neg n e) then 0 else flNx := by
    rw [flIf_eq, if_congr hinexact rfl rfl, ite_not]
  have hnv : flIf (z != y) flNv = if z = y then 0 else flNv := by rw [flIf_eq, if_congr bne_iff_ne rfl rfl, ite_not]
  rw [hnx, hnv]

/-! ### Zeros, infinities and NaNs (R80, R85, R87, R89) -/

section
variable (m : Mode) (r : Nat) (ftz sat neg : Bool) (e : Int)

theorem wide_specials {k : Fmt} (hk : k.wide = true) :
    let half := 2 ^ (8 * k.bytes - 1)
    let sign := if neg then half else 0
    k.convert m r ftz sat (.fin neg 0 e) = (sign, 0) ∧
    k.convert m r ftz sat (.inf neg) = (sign + (half - 2 ^ ((wideShape k).1 - 1)), 0) ∧
    k.convert m r ftz sat (.nan neg) = (half - 2 ^ ((wideShape k).1 - 2), if neg then flNv else 0) := by
  intro half sign
  rw [convert_wide hk, convert_wide hk, convert_wide hk]
  have hcodes : k.infCode = half - 2 ^ ((wideShape k).1 - 1) ∧ k.nanCode = half - 2 ^ ((wideShape k).1 - 2) := by
    cases k with
    | i8 | u8 | p8 => cases hk
    | _ => decide
  refine ⟨(ofVal_zero hk m r ftz neg e).1, ?_, ?_⟩
  · rw [← hcodes.1]
    rfl
  · rw [← hcodes.2]
    rfl

theorem p8_specials (sg fn : Bool) (p : Nat) :
    let k := Fmt.p8 sg fn p
    let nan := if sg then 0x80 else 0xFF
    k.convert m r ftz sat (.fin neg 0 e) = (0, 0) ∧ k.convert m r ftz sat (.nan neg) = (nan, if neg then flNv else 0) ∧
    k.convert m r ftz sat (.inf neg) =
      if fn = true ∧ sat = false then (nan, flNv)
      else if sg then ((if neg then 0xFF else 0x7F), 0) else if neg then (0, flNv) else (0xFE, 0) := by
  intro k nan
  have hnan : k.nanCode = nan := by cases sg <;> rfl
  refine ⟨rfl, by rw [← hnan]; rfl, ?_⟩
  rw [← hnan]
  cases fn with
  | false => cases sg <;> cases neg <;> rfl
  | true => cases sat <;> cases sg <;> cases neg <;> rfl

theorem int_specials (sg : Bool) :
    (intFmt sg).convert m r ftz sat (.nan neg) = (0, flNv) ∧
    (intFmt sg).convert m r ftz sat (.inf neg) =
      (if sg then (if neg then 0x80 else 0x7F) else if neg then 0 else 0xFF, flNv) ∧
    (intFmt sg).convert m r ftz sat (.fin neg 0 e) = (0, 0) := by
  have hzero : roundInt m r neg 0 1 e (fun k => k % 2 == 1) = (0, false) := by rw [roundInt_eq]; simp
  refine ⟨by cases sg <;> rfl, by cases sg <;> cases neg <;> rfl, ?_⟩
  have h : (intFmt sg).convert m r ftz sat (.fin neg 0 e) = (intFmt sg).ofValInt m r (.fin neg 0 e) := by cases sg <;> rfl
  rw [h]
  simp only [Fmt.ofValInt, hzero]
  cases sg <;> cases neg <;> rfl

end

/-! ### CVT and PCVTn (R206 to R209) -/

/-- As `vectorResult_of_mapLanes`, for an operation that writes several registers. -/
theorem groupResult_of_mapLanes {s : State} {c : Ctx} (hc : s.ctx? = some c) {i : Instr} {g : Ctx → SlotResult} {pred : BitVec 5}
    {draws lat d w regs : Nat} {F : Nat → Nat → Nat × Flags} {val : Nat → Nat → Nat} {flags : Nat → Nat → Flags}
    (hi : exec i s = runSlot s g)
    (hg : g c = .done
      { draws := draws
        writes := (List.range regs).map fun n =>
          c.writeV lat (d + n) (c.active pred) (mapLanes w (c.active pred) (F n)).1 (mapLanes w (c.active pred) (F n)).2 })
    (hw : w = 32 ∨ w = 16 ∨ w = 8) (hF : ∀ n e, F n e = (val n e, flags n e)) :
    GroupResult s c i pred draws lat d w regs val flags := by
  refine ⟨_, _, hi.trans (runSlot_done hc hg), fun n _ => ⟨fun e he ha => ?_, fun b => ?_⟩⟩
  · have h := el_mapLanes hw (c.active pred) (F n) he ha
    rwa [hF n e] at h
  · rw [flags_mapLanes]
    exact exists_congr fun e => by rw [hF n e]

theorem drawsOf_eq (m : Mode) : drawsOf m = if decide (m = .stochastic) then 1 else 0 := by
  simp only [drawsOf, decide_eq_true_eq]

/-- The random bits that an element of a conversion takes, under stochastic rounding alone (R102, R197). -/
theorem conversion_rand (c : Ctx) (l j : Nat) :
    (if c.w.mode = .stochastic then c.rand l j else 0) = if decide (c.w.mode = .stochastic) then randomBits c l j else 0 := by
  simp only [decide_eq_true_eq]
  rfl

/-- Elements of a format in a lane. -/
theorem perLane_eq (k : Fmt) : 32 / (8 * k.bytes) = 4 / k.bytes := (Nat.div_div_eq_div_mul 32 8 k.bytes).symm

section
variable {s : State} {c : Ctx} (hc : s.ctx? = some c) (f : VC) {src tgt : Fmt}
  (hsrc : Fmt.ofSel f.src.toNat (f.fin == 1) = some src) (htgt : Fmt.ofSel f.tgt.toNat (f.fin == 1) = some tgt)
include hc hsrc htgt

theorem cvt_result {i : Instr} (hi : exec i s = runSlot s (cvtRun f)) :
    let ws := src.bytes
    let wt := tgt.bytes
    let stochastic : Bool := decide (c.w.mode = .stochastic)
    let rnd (l j : Nat) : Nat := if stochastic then randomBits c l j else 0
    let cvt (j : Nat) : Nat × Flags :=
      if j < 256 / max ws wt then
        tgt.convert c.w.mode (rnd (j * (8 * wt) / 32) (j % (4 / wt))) c.w.ftz (f.sat == 1)
          (valueOf c src (element c (8 * ws) f.a.toNat j))
      else (0, 0)
    VectorResult s c i f.pred (if stochastic then 1 else 0) 4 f.d.toNat (8 * wt) (fun j => (cvt j).1) fun j => (cvt j).2 := by
  intro ws wt stochastic rnd cvt
  refine vectorResult_of_mapLanes hc hi (by unfold cvtRun; rw [hsrc, htgt, ← drawsOf_eq]) (fmt_bits tgt) fun j _ => ?_
  rw [conversion_rand, perLane_eq, if_congr Nat.not_lt.symm rfl rfl, ite_not]
  rfl

theorem pcvt_result {i : Instr} {n : Nat} (hi : exec i s = runSlot s (pcvtRun n f)) :
    let ws := src.bytes
    let wt := tgt.bytes
    let stochastic : Bool := decide (c.w.mode = .stochastic)
    let rnd (l j : Nat) : Nat := if stochastic then randomBits c l j else 0
    let wide := if tgt.isP8 then ws else wt
    let regs := n * (256 / wide) / (256 / wt)
    let one (g i : Nat) : Nat × Flags :=
      let j := g * (256 / wt) + i
      let scale := element c 8 f.sc.toNat (j / (8 * 2 ^ f.blk.toNat))
      let x := valueOf c src (element c (8 * ws) (f.a.toNat + j / (256 / ws)) (j % (256 / ws)))
      if scale = 0xFF then (tgt.nanCode, 0)
      else tgt.convert c.w.mode (rnd (i * (8 * wt) / 32) (g * (4 / wt) + i % (4 / wt))) c.w.ftz (f.sat == 1)
        (x.scale (if tgt.isP8 then 127 - scale else scale - 127))
    GroupResult s c i f.pred (if stochastic then 1 else 0) 4 f.d.toNat (8 * wt) regs (fun g i => (one g i).1) fun g i => (one g i).2 := by
  intro ws wt stochastic rnd wide regs one
  have hregs : regs = n * (256 / (if tgt.isP8 then src else tgt).bytes) / (256 / wt) :=
    congrArg (fun b => n * (256 / b) / (256 / wt)) (apply_ite Fmt.bytes ..).symm
  rw [hregs]
  refine groupResult_of_mapLanes hc hi (by unfold pcvtRun; rw [hsrc, htgt, ← drawsOf_eq]) (fmt_bits tgt) fun g i => ?_
  have hscale (x : Int) : (if tgt.isP8 then -(x - 127) else x - 127) = if tgt.isP8 then 127 - x else x - 127 := by rw [neg_sub]
  rw [conversion_rand, perLane_eq, pcvtEl]
  dsimp only
  rw [hscale]
  rfl

end

/-- Settles O18: CVT and PCVTn convert each element alone, and a value converts by the rules of its target's kind. -/
theorem conversionsOfElements : Obligations.ConversionsOfElements := by
  unfold Obligations.ConversionsOfElements
  refine ⟨fun s c sl f src tgt hc hsrc htgt => ⟨cvt_result hc f hsrc htgt (exec_cvt sl f s), ?_⟩, fun m r ftz sat neg n e hn _ => ?_⟩
  · rintro n i (⟨rfl, rfl⟩ | ⟨rfl, rfl⟩ | ⟨rfl, rfl⟩) - - -
    · exact pcvt_result hc f hsrc htgt (exec_pcvt2 sl f s)
    · exact pcvt_result hc f hsrc htgt (exec_pcvt4 sl f s)
    · exact pcvt_result hc f hsrc htgt (exec_pcvt8 sl f s)
  · intro v x
    refine ⟨fun k hk hm => ?_, fun sg fn p hp2 hp7 => smallResult_ofValP8 hp2 hp7 m r sat neg hn e,
      fun hx => ⟨integerResult_convert true m r ftz sat neg n e hx, integerResult_convert false m r ftz sat neg n e hx⟩,
      fun k hk => wide_specials m r ftz sat neg e (wide_of_fmt hk), fun sg fn p _ _ => p8_specials m r ftz sat neg e sg fn p,
      fun k v' hk => ?_⟩
    · have hk' := wide_of_fmt hk
      rw [convert_wide hk']
      rcases hm with hm | hm
      · exact wideResult_ofVal hk' hm r ftz neg hn e
      · rw [(wideShape_eq hk').2.1, abs_worth_fin] at hm
        exact wideResult_of_normal hk' m r ftz neg hn hm
    · obtain ⟨sg, rfl⟩ : ∃ sg, k = intFmt sg := hk.elim (fun h => ⟨true, h⟩) fun h => ⟨false, h⟩
      obtain ⟨hnan, hinf, hzero⟩ := int_specials m r ftz sat neg e sg
      refine ⟨fun h => ⟨flNv, by rw [h, hnan], by decide⟩, fun h => ⟨flNv, by decide, ?_⟩, fun h => by rw [h, hzero]⟩
      rw [h, hinf]
      cases sg <;> rfl

end Sys2Proof.Machine
